-- ==== Sys2Proof/Word.lean ====
section
/-! DEFINITION. The word types of the Nolop instruction set (R6, R9, R165) and their plainest arithmetic. -/

namespace Sys2Proof

/-- A 64-bit general register or CSR value (R9). -/
abbrev Word := BitVec 64

/-- One 16-bit instruction word (R165). -/
abbrev IWord := BitVec 16

/-- One byte of memory. -/
abbrev Byte := BitVec 8

/-- A 1,024-bit vector register (R9); lane 0 is the least significant. -/
abbrev Vec := BitVec 1024

/-- The number of a `g` or `f` register: 5 bits (R167). -/
abbrev Reg := BitVec 5

/-- The number of a `v` register: 0 .. 15 (R167). -/
abbrev VReg := BitVec 4

/-- The number of a tile register: 0 .. 7 (R167). -/
abbrev TReg := BitVec 3

/-- The number of a macro bank: 0 .. 1 (R167). -/
abbrev MReg := BitVec 1

/-- The c field as a `g` or `f` register: register c for 0 .. 7, register c + 8 for 8 .. 15 (R167). -/
def cReg (c : BitVec 4) : Reg :=
  if c.toNat < 8 then c.setWidth 5 else c.setWidth 5 + 8#5

/-- Bits [hi:lo] of a word as a natural number, the spec's field notation (R6). -/
def bits {n : Nat} (w : BitVec n) (hi lo : Nat) : Nat :=
  (w.toNat >>> lo) % 2 ^ (hi - lo + 1)

/-- Bit `i` of a word. -/
def bitAt {n : Nat} (w : BitVec n) (i : Nat) : Bool := w.getLsbD i

/-- One bit as a 64-bit word: 1 for true, 0 for false. -/
def ofBool64 (b : Bool) : Word := if b then 1#64 else 0#64

end Sys2Proof
end

