-- ==== Sys2Proof/Syntax.lean ====
section
/-! DEFINITION. The abstract syntax: one constructor of `Instr` for each row of spec/opcode_table.json. The first 214 rows
are instructions of the Nolop set (R181 .. R194), with operands as the instruction chapters give them; the last 97 are the
indivisible events of the machine and of its surroundings (95_what_each_step_holds.md), with the arguments that say which
one of several like events takes place. -/

namespace Sys2Proof

/-! ## Operand forms of the instructions

`l` is the lookahead of XP (R69), `sem` its sem field (R132), `xs` the register number of XS (R171).
Immediates are held sign-extended to 64 bits and unscaled (R168). -/

/-- Page 0 RR with three registers. -/
structure RRR where
  d : Reg
  a : Reg
  b : Reg
  deriving DecidableEq, Repr

/-- `sel`: three registers and the condition register named by the c field (R196). -/
structure SelOps where
  d : Reg
  a : Reg
  b : Reg
  c : BitVec 4
  deriving DecidableEq, Repr

/-- Page 0 RR with a destination and one source. -/
structure RRU where
  d : Reg
  a : Reg
  deriving DecidableEq, Repr

/-- `sext` and `zext`: the b field is a width code (R198). -/
structure ExtOps where
  d : Reg
  a : Reg
  w : BitVec 3
  deriving DecidableEq, Repr

/-- Page 0 RI (R199). -/
structure RIOps where
  d   : Reg
  a   : Reg
  imm : Word
  deriving DecidableEq, Repr

/-- Page 0 RI shifts: an unsigned 6-bit count (R168). -/
structure ShOps where
  d : Reg
  a : Reg
  n : BitVec 6
  deriving DecidableEq, Repr

/-- `li` (R200). -/
structure LIOps where
  d   : Reg
  imm : Word
  deriving DecidableEq, Repr

/-- `bz` and `bnz`: tested register and halfword offset (R201). -/
structure BROps where
  s   : Reg
  off : Word
  deriving DecidableEq, Repr

/-- `jmp` and `call`: halfword offset (R202). -/
structure JOps where
  off : Word
  deriving DecidableEq, Repr

/-- `jr`: the target register (R183). -/
structure JrOps where
  a : Reg
  deriving DecidableEq, Repr

/-- `brk`: its 9-bit code (R205). -/
structure BrkOps where
  k : BitVec 9
  deriving DecidableEq, Repr

/-- Long-latency RR with destination and two sources. -/
structure L3 where
  l : BitVec 4
  d : Reg
  a : Reg
  b : Reg
  deriving DecidableEq, Repr

/-- Long-latency RR with three sources, the third by the c field. -/
structure L4 where
  l : BitVec 4
  d : Reg
  a : Reg
  b : Reg
  c : BitVec 4
  deriving DecidableEq, Repr

/-- Long-latency with destination and one source. -/
structure L2 where
  l : BitVec 4
  d : Reg
  a : Reg
  deriving DecidableEq, Repr

/-- Long-latency with two sources and no destination. -/
structure LAB where
  l : BitVec 4
  a : Reg
  b : Reg
  deriving DecidableEq, Repr

/-- Long-latency with a destination only. -/
structure LD where
  l : BitVec 4
  d : Reg
  deriving DecidableEq, Repr

/-- Long-latency with one source only. -/
structure LA where
  l : BitVec 4
  a : Reg
  deriving DecidableEq, Repr

/-- Long-latency with no operand. -/
structure L0 where
  l : BitVec 4
  deriving DecidableEq, Repr

/-- `fcmp`: condition in XS mod[1:0] (R229). -/
structure FcmpOps where
  l    : BitVec 4
  cond : BitVec 2
  d    : Reg
  a    : Reg
  b    : Reg
  deriving DecidableEq, Repr

/-- `fcvt`: conversion code in b, rounding mode in XS mod[2:0] (R232). -/
structure FcvtOps where
  l    : BitVec 4
  mode : BitVec 3
  d    : Reg
  a    : Reg
  k    : BitVec 3
  deriving DecidableEq, Repr

/-- `fmov`: code in b (R233). -/
structure FmovOps where
  l : BitVec 4
  d : Reg
  a : Reg
  k : BitVec 3
  deriving DecidableEq, Repr

/-- `fli`: the number k of XI words and the unsigned immediate (R234). -/
structure FliOps where
  l   : BitVec 4
  d   : Reg
  k   : BitVec 2
  imm : BitVec 36
  deriving DecidableEq, Repr

/-- `lea` (R208). -/
structure LeaOps where
  l   : BitVec 4
  d   : Reg
  a   : Reg
  b   : Reg
  imm : Word
  deriving DecidableEq, Repr

/-- `csrrd` and `csrwr` (R215). -/
structure CsrOps where
  l : BitVec 4
  d : Reg
  n : BitVec 12
  deriving DecidableEq, Repr

/-- Page 3 MI: register d, base a, offset in units of the access size (R186). -/
structure MemOps where
  l   : BitVec 4
  sem : BitVec 2
  xs  : Reg
  d   : Reg
  a   : Reg
  imm : Word
  deriving DecidableEq, Repr

/-- `tagclr`: page 3 MI with no register d (R274). -/
structure MemAOps where
  l   : BitVec 4
  sem : BitVec 2
  xs  : Reg
  a   : Reg
  imm : Word
  deriving DecidableEq, Repr

/-- `cinv` and `cwb`: base, length and scope (R276). -/
structure LineOps where
  l  : BitVec 4
  xs : Reg
  a  : Reg
  b  : Reg
  deriving DecidableEq, Repr

/-- `amo` and `swap`: width in XS mod[0] (R187). -/
structure AmoOps where
  l   : BitVec 4
  sem : BitVec 2
  xs  : Reg
  w32 : Bool
  d   : Reg
  a   : Reg
  b   : Reg
  deriving DecidableEq, Repr

/-- `cas`: the new value by the c field (R281). -/
structure CasOps where
  l   : BitVec 4
  sem : BitVec 2
  xs  : Reg
  w32 : Bool
  d   : Reg
  a   : Reg
  b   : Reg
  c   : BitVec 4
  deriving DecidableEq, Repr

/-- `famo.add` and `nbctl`: page 4 with no modifier bits. -/
structure FamoOps where
  l   : BitVec 4
  sem : BitVec 2
  xs  : Reg
  d   : Reg
  a   : Reg
  b   : Reg
  deriving DecidableEq, Repr

/-- `red`: operation in XS mod[3:1] (R283). -/
structure RedOps where
  l   : BitVec 4
  sem : BitVec 2
  xs  : Reg
  w32 : Bool
  op  : BitVec 3
  a   : Reg
  b   : Reg
  deriving DecidableEq, Repr

/-- `fred.add` (R282). -/
structure FredOps where
  l   : BitVec 4
  sem : BitVec 2
  xs  : Reg
  a   : Reg
  b   : Reg
  deriving DecidableEq, Repr

/-- `post`: a vector destination and the value by the c field (R286). -/
structure PostOps where
  l   : BitVec 4
  sem : BitVec 2
  xs  : Reg
  d   : VReg
  a   : Reg
  b   : Reg
  c   : BitVec 4
  deriving DecidableEq, Repr

/-- `fence` (R288). -/
structure FenceOps where
  l   : BitVec 4
  sem : BitVec 2
  xs  : Reg
  deriving DecidableEq, Repr

/-- Page 5 with two vector sources: element type and saturate bit (R188). -/
structure VIOps where
  l   : BitVec 4
  ty  : BitVec 3
  sat : Bool
  d   : VReg
  a   : VReg
  b   : VReg
  deriving DecidableEq, Repr

/-- `vcmp`: condition code in the c field (R236). -/
structure VCmpOps where
  l    : BitVec 4
  ty   : BitVec 3
  cond : BitVec 4
  d    : VReg
  a    : VReg
  b    : VReg
  deriving DecidableEq, Repr

/-- `vsel`: the mask by the c field (R235). -/
structure VSelOps where
  l  : BitVec 4
  ty : BitVec 3
  d  : VReg
  a  : VReg
  b  : VReg
  c  : VReg
  deriving DecidableEq, Repr

/-- `vabs`. -/
structure VI2Ops where
  l   : BitVec 4
  ty  : BitVec 3
  sat : Bool
  d   : VReg
  a   : VReg
  deriving DecidableEq, Repr

/-- `vsplat`: a general source (R235). -/
structure VSplatOps where
  l  : BitVec 4
  ty : BitVec 3
  d  : VReg
  a  : Reg
  deriving DecidableEq, Repr

/-- A typed operation with two vector sources: page 6 arithmetic and `vperm`. -/
structure VTOps where
  l  : BitVec 4
  ty : BitVec 3
  d  : VReg
  a  : VReg
  b  : VReg
  deriving DecidableEq, Repr

/-- `vffma`: the addend by the c field (R237). -/
structure VT4Ops where
  l  : BitVec 4
  ty : BitVec 3
  d  : VReg
  a  : VReg
  b  : VReg
  c  : VReg
  deriving DecidableEq, Repr

/-- `vfcmp`: condition in XS mod[4:3] (R237). -/
structure VFcmpOps where
  l    : BitVec 4
  ty   : BitVec 3
  cond : BitVec 2
  d    : VReg
  a    : VReg
  b    : VReg
  deriving DecidableEq, Repr

/-- `vfcvt`: conversion code in b and XR [5:4], rounding mode in c, part in mod[4:3] (R238). -/
structure VFcvtOps where
  l    : BitVec 4
  code : BitVec 5
  mode : BitVec 4
  part : BitVec 2
  d    : VReg
  a    : VReg
  deriving DecidableEq, Repr

/-- `vqmx` and `vdqmx`: fp type and MX format in mod[4:3] (R240, R241). -/
structure VMxOps where
  l   : BitVec 4
  ty  : BitVec 3
  fmt : BitVec 2
  d   : VReg
  a   : VReg
  deriving DecidableEq, Repr

/-- `vcode` and `vdecode`: part in mod[4:3] (R242). -/
structure VCodeOps where
  l    : BitVec 4
  ty   : BitVec 3
  part : BitVec 2
  d    : VReg
  a    : VReg
  b    : VReg
  deriving DecidableEq, Repr

/-- `vexp2`, `vrcp`, `vrsq` (R243). -/
structure V2Ops where
  l : BitVec 4
  d : VReg
  a : VReg
  deriving DecidableEq, Repr

/-- `vld` and `vst` (R245). -/
structure VMemOps where
  l   : BitVec 4
  sem : BitVec 2
  xs  : Reg
  d   : VReg
  a   : Reg
  imm : Word
  deriving DecidableEq, Repr

/-- `vldb`: typed (R245). -/
structure VMemTOps where
  l   : BitVec 4
  sem : BitVec 2
  xs  : Reg
  ty  : BitVec 3
  d   : VReg
  a   : Reg
  imm : Word
  deriving DecidableEq, Repr

/-- `vldx`, `vstx` and `vstm`: typed, with an index or mask vector (R245, R246). -/
structure VMemXOps where
  l   : BitVec 4
  sem : BitVec 2
  xs  : Reg
  ty  : BitVec 3
  d   : VReg
  a   : Reg
  imm : Word
  c   : VReg
  deriving DecidableEq, Repr

/-- `vspst` and `vspld`: the first element index by the c field (R247). -/
structure VSpOps where
  l   : BitVec 4
  sem : BitVec 2
  xs  : Reg
  d   : VReg
  a   : Reg
  imm : Word
  c   : BitVec 4
  deriving DecidableEq, Repr

/-- `vred`: op in the b field; d is a `g` or an `f` register by the type (R248). -/
structure VRedOps where
  l  : BitVec 4
  ty : BitVec 3
  op : BitVec 3
  d  : Reg
  a  : VReg
  deriving DecidableEq, Repr

/-- `vins` (R249). -/
structure VInsOps where
  l  : BitVec 4
  ty : BitVec 3
  d  : VReg
  a  : Reg
  b  : Reg
  deriving DecidableEq, Repr

/-- `vext` (R249). -/
structure VExtOps where
  l  : BitVec 4
  ty : BitVec 3
  d  : Reg
  a  : VReg
  b  : Reg
  deriving DecidableEq, Repr

/-- `vscma`: column form in mod[0], saturation in mod[1] (R250). -/
structure VScmaOps where
  l   : BitVec 4
  i8  : Bool
  sat : Bool
  d   : VReg
  a   : Reg
  b   : Reg
  c   : VReg
  deriving DecidableEq, Repr

/-- `sdenc` (R251). -/
structure SdencOps where
  l   : BitVec 4
  sat : Bool
  d   : VReg
  a   : Reg
  b   : Reg
  c   : BitVec 4
  deriving DecidableEq, Repr

/-- `tld` and `tst`: tile, address, row run (R255). -/
structure TMemOps where
  l : BitVec 4
  d : TReg
  a : Reg
  b : Reg
  deriving DecidableEq, Repr

/-- `tget`: slice selector in mod[2:0] (R256). -/
structure TGetOps where
  l   : BitVec 4
  col : Bool
  esz : BitVec 2
  d   : VReg
  a   : TReg
  b   : Reg
  deriving DecidableEq, Repr

/-- `tset` (R256). -/
structure TSetOps where
  l   : BitVec 4
  col : Bool
  esz : BitVec 2
  d   : TReg
  a   : VReg
  b   : Reg
  deriving DecidableEq, Repr

/-- `tzero.t`: tile and run (R257). -/
structure TZeroTOps where
  l : BitVec 4
  d : TReg
  b : Reg
  deriving DecidableEq, Repr

/-- `tzero.acc`: run and accumulator mode (R257). -/
structure TZeroAccOps where
  l   : BitVec 4
  red : Bool
  b   : Reg
  deriving DecidableEq, Repr

/-- `mcld`: kind in mod[1:0] (R258). -/
structure McldOps where
  l    : BitVec 4
  kind : BitVec 2
  d    : MReg
  a    : Reg
  deriving DecidableEq, Repr

/-- `mctab` (R259). -/
structure MctabOps where
  l : BitVec 4
  d : MReg
  a : VReg
  deriving DecidableEq, Repr

/-- `mdrain`: target format and half (R262). -/
structure MdrainOps where
  l   : BitVec 4
  fmt : BitVec 2
  hi  : Bool
  d   : TReg
  deriving DecidableEq, Repr

/-- `mma.*`: mask register xs, accumulate, redundant, A tile, bank, A scales (R190, R260). -/
structure MmaOps where
  l   : BitVec 4
  xs  : Reg
  acc : Bool
  red : Bool
  a   : TReg
  b   : MReg
  c   : VReg
  deriving DecidableEq, Repr

/-- `xadd`: destination, source, run by the c field, subtract (R264). -/
structure XaddOps where
  l   : BitVec 4
  sub : Bool
  a   : Reg
  b   : Reg
  c   : BitVec 4
  deriving DecidableEq, Repr

/-- `xrnd` (R265). -/
structure XrndOps where
  l   : BitVec 4
  fmt : BitVec 2
  hi  : Bool
  d   : TReg
  a   : Reg
  b   : Reg
  deriving DecidableEq, Repr

/-- `cpt` from a tile register (R305). -/
structure CptOps where
  l : BitVec 4
  a : Reg
  b : TReg
  c : BitVec 4
  deriving DecidableEq, Repr

/-- `cpt.in` and `cpt.out` (R305). -/
structure CptGOps where
  l : BitVec 4
  a : Reg
  b : Reg
  c : BitVec 4
  deriving DecidableEq, Repr

/-- `cpm`: mask register d, offset a, tile b, transfer word c (R306). -/
structure CpmOps where
  l : BitVec 4
  d : Reg
  a : Reg
  b : TReg
  c : BitVec 4
  deriving DecidableEq, Repr

/-- `waitb`: the unsigned count N (R309). -/
structure WaitbOps where
  l : BitVec 4
  n : BitVec 10
  deriving DecidableEq, Repr

/-- `xbarr` and `xbwait` (R312, R313). -/
structure XbOps where
  l   : BitVec 4
  sem : BitVec 2
  xs  : Reg
  a   : Reg
  b   : Reg
  deriving DecidableEq, Repr

/-- `xbtry` (R313). -/
structure XbtryOps where
  l   : BitVec 4
  sem : BitVec 2
  xs  : Reg
  d   : Reg
  a   : Reg
  b   : Reg
  deriving DecidableEq, Repr

/-- An atomic request as it waits: entry n of the post queue of context k of core c, or a request of its own in the fabric. -/
inductive Pick where
  | entry (c k n : Nat)
  | req (i : Nat)
  deriving DecidableEq, Repr

/-! ## The instructions and events -/

/-- An Ethernet frame of scale-out traffic (R415, R417): the sending port's Ethernet address, the VLAN tag if it has one, IPv6 or
IPv4 with the two addresses (an IPv4 address in bytes 0 .. 3), the UDP ports, and the UDP payload. -/
structure Frame where
  mac     : BitVec 48
  vlan    : Option (BitVec 16)
  ip6     : Bool
  src     : BitVec 128
  dst     : BitVec 128
  sport   : BitVec 16
  dport   : BitVec 16
  payload : List Byte
  deriving DecidableEq, Repr

/-- A frame that arrives at a scale-out port. -/
structure InFrame where
  port  : Nat
  frame : Frame
  deriving DecidableEq, Repr

/-- One constructor per row of spec/opcode_table.json, in the table's order. Event arguments: `c` a core handle, `k` a context
number, `i` the serial number of an item in flight, `d` a die; others as each docstring says. -/
inductive Instr where
  /-- Writes ga + gb to gd (R196). -/
  | add (o : RRR)
  /-- Writes ga - gb to gd (R196). -/
  | sub (o : RRR)
  /-- Writes the bitwise AND of ga and gb to gd (R196). -/
  | and (o : RRR)
  /-- Writes the bitwise OR of ga and gb to gd (R196). -/
  | or (o : RRR)
  /-- Writes the bitwise XOR of ga and gb to gd (R196). -/
  | xor (o : RRR)
  /-- Writes ga AND NOT gb to gd (R196). -/
  | andn (o : RRR)
  /-- Shifts ga left by gb[5:0] (R196). -/
  | sll (o : RRR)
  /-- Shifts ga right by gb[5:0], shifting in zeros (R196). -/
  | srl (o : RRR)
  /-- Shifts ga right arithmetically by gb[5:0] (R196). -/
  | sra (o : RRR)
  /-- Rotates ga left by gb[5:0] (R196). -/
  | rol (o : RRR)
  /-- Writes the signed minimum of ga and gb (R196). -/
  | min (o : RRR)
  /-- Writes the signed maximum of ga and gb (R196). -/
  | max (o : RRR)
  /-- Writes the unsigned minimum of ga and gb (R196). -/
  | minn (o : RRR)
  /-- Writes the unsigned maximum of ga and gb (R196). -/
  | maxn (o : RRR)
  /-- Writes the low 64 bits of ga times gb (R196). -/
  | mul (o : RRR)
  /-- Writes ga when the XR c register is non-zero, and gb otherwise (R196). -/
  | sel (o : SelOps)
  /-- Writes 1 when ga equals gb, and 0 otherwise (R197). -/
  | cmpEq (o : RRR)
  /-- Writes 1 when ga differs from gb, and 0 otherwise (R197). -/
  | cmpNe (o : RRR)
  /-- Writes 1 when ga < gb as signed values (R197). -/
  | cmpLt (o : RRR)
  /-- Writes 1 when ga >= gb as signed values (R197). -/
  | cmpGe (o : RRR)
  /-- Writes 1 when ga < gb as unsigned values (R197). -/
  | cmpLtn (o : RRR)
  /-- Writes 1 when ga >= gb as unsigned values (R197). -/
  | cmpGen (o : RRR)
  /-- Writes 1 when ga AND gb is non-zero (bit test) (R197). -/
  | tst (o : RRR)
  /-- Copies ga to gd (R197). -/
  | mov (o : RRU)
  /-- Counts the leading zero bits of ga (R198). -/
  | clz (o : RRU)
  /-- Counts the trailing zero bits of ga (R198). -/
  | ctz (o : RRU)
  /-- Counts the one bits of ga (R198). -/
  | popc (o : RRU)
  /-- Sign-extends the low W bits of ga (R198). -/
  | sext (o : ExtOps)
  /-- Zero-extends the low W bits of ga (R198). -/
  | zext (o : ExtOps)
  /-- Reverses the bits of ga (R198). -/
  | brev (o : RRU)
  /-- Reverses the bytes of ga (R198). -/
  | bswap (o : RRU)
  /-- Writes 0 - ga (R198). -/
  | neg (o : RRU)
  /-- Adds a sign-extended immediate to ga (R199). -/
  | addi (o : RIOps)
  /-- ANDs ga with a sign-extended immediate (R199). -/
  | andi (o : RIOps)
  /-- ORs ga with a sign-extended immediate (R199). -/
  | ori (o : RIOps)
  /-- XORs ga with a sign-extended immediate (R199). -/
  | xori (o : RIOps)
  /-- Shifts ga left by a 6-bit count (R199). -/
  | slli (o : ShOps)
  /-- Shifts ga right logically by a 6-bit count (R199). -/
  | srli (o : ShOps)
  /-- Shifts ga right arithmetically by a 6-bit count (R199). -/
  | srai (o : ShOps)
  /-- Loads a sign-extended immediate into gd (R200). -/
  | li (o : LIOps)
  /-- Branches by a halfword offset when gs is zero (R201). -/
  | bz (o : BROps)
  /-- Branches by a halfword offset when gs is non-zero (R201). -/
  | bnz (o : BROps)
  /-- Jumps by a halfword offset (R202). -/
  | jmp (o : JOps)
  /-- Writes the link to g1 and jumps by a halfword offset (R202). -/
  | call (o : JOps)
  /-- Jumps to the address in ga; an odd target raises MISALIGN (R202). -/
  | jr (o : JrOps)
  /-- Jumps to the address in g1 (R202). -/
  | ret
  /-- Does nothing (R202). -/
  | nop
  /-- Ends the context's task or launch part, after waiting for its outstanding instructions (R203). -/
  | done
  /-- Leaves issue slots to the other READY contexts (R204). -/
  | yield
  /-- Raises the BRK trap with a 9-bit code (R205). -/
  | brk (o : BrkOps)
  /-- Writes the high 64 bits of the signed product (R206). -/
  | mulh (o : L3)
  /-- Writes the high 64 bits of the unsigned product (R206). -/
  | mulhn (o : L3)
  /-- Divides signed, truncating toward zero, without trapping (R206). -/
  | div (o : L3)
  /-- Divides unsigned, without trapping (R206). -/
  | divn (o : L3)
  /-- Writes the signed remainder (R206). -/
  | rem (o : L3)
  /-- Writes the unsigned remainder (R206). -/
  | remn (o : L3)
  /-- Adds two FP32 values with one rounding (R227). -/
  | fadd (o : L3)
  /-- Subtracts two FP32 values with one rounding (R227). -/
  | fsub (o : L3)
  /-- Multiplies two FP32 values with one rounding (R227). -/
  | fmul (o : L3)
  /-- Divides two FP32 values with one rounding (R227). -/
  | fdiv (o : L3)
  /-- Writes the smaller FP32 operand by the rules of R228 (R227). -/
  | fmin (o : L3)
  /-- Writes the larger FP32 operand by the rules of R228 (R227). -/
  | fmax (o : L3)
  /-- Writes the correctly rounded FP32 square root (R227). -/
  | fsqrt (o : L2)
  /-- Computes fa times fb plus fc with one rounding (R227). -/
  | ffma (o : L4)
  /-- Compares two FP32 values by the condition in the XS modifier and writes 1 or 0 (R229). -/
  | fcmp (o : FcmpOps)
  /-- Writes a one-hot class mask of fa (R230). -/
  | fclass (o : L2)
  /-- Writes fa with its sign XORed with the sign of fb (R231). -/
  | fsgn (o : L3)
  /-- Converts between FP32 and integers, or rounds to BF16, FP16 or integral precision, by a conversion code (R232). -/
  | fcvt (o : FcvtOps)
  /-- Moves or re-encodes values between f and g registers by a code (R233). -/
  | fmov (o : FmovOps)
  /-- Loads an FP32 constant from its immediate bits (R234). -/
  | fli (o : FliOps)
  /-- Computes ga + gb + imm modulo 2^52 without accessing memory (R208). -/
  | lea (o : LeaOps)
  /-- Returns the die, cluster, peer, chorus position and liveness of a core coordinate (R209). -/
  | coord (o : L2)
  /-- Builds a kind 0 scope from two corners and checks it (R210). -/
  | rect (o : L3)
  /-- Writes 1 when a coordinate is an issuer contained in a scope (R211). -/
  | inrect (o : L3)
  /-- Returns the context's instance index and instance count at a launch level (R212). -/
  | myid (o : L2)
  /-- Reports where a virtual address is homed, without accessing it (R213). -/
  | hashq (o : L2)
  /-- Reads the core's cycle counter (R214). -/
  | rdcyc (o : LD)
  /-- Reads a CSR after the context's earlier updates to it have performed (R215). -/
  | csrrd (o : CsrOps)
  /-- Writes the RW fields of a CSR, with privilege checks (R215). -/
  | csrwr (o : CsrOps)
  /-- Starts the lowest IDLE eft at an entry with two arguments, or returns 0 (R221). -/
  | start (o : L4)
  /-- Waits for an eft to be IDLE and returns its result word (R222). -/
  | join (o : L2)
  /-- Returns a snapshot of a context's state (R223). -/
  | ctxq (o : L2)
  /-- Raises the SYS trap (R224). -/
  | sys (o : L0)
  /-- Loads one byte, zero-extended (R271). -/
  | ldB (o : MemOps)
  /-- Loads two bytes, zero-extended (R271). -/
  | ldH (o : MemOps)
  /-- Loads four bytes, zero-extended (R271). -/
  | ldW (o : MemOps)
  /-- Loads eight bytes (R271). -/
  | ldD (o : MemOps)
  /-- Loads one byte, sign-extended (R271). -/
  | ldBs (o : MemOps)
  /-- Loads two bytes, sign-extended (R271). -/
  | ldHs (o : MemOps)
  /-- Loads four bytes, sign-extended (R271). -/
  | ldWs (o : MemOps)
  /-- Stores one byte (R271). -/
  | stB (o : MemOps)
  /-- Stores two bytes (R271). -/
  | stH (o : MemOps)
  /-- Stores four bytes (R271). -/
  | stW (o : MemOps)
  /-- Stores eight bytes (R271). -/
  | stD (o : MemOps)
  /-- Waits for a full tag, then reads the word and leaves the tag full (R274). -/
  | ldf (o : MemOps)
  /-- Waits for a full tag, then reads the word and empties the tag (R274). -/
  | ldfTake (o : MemOps)
  /-- Waits for an empty tag, then writes the word and fills the tag (R274). -/
  | ste (o : MemOps)
  /-- Writes the word and fills its tag without waiting (R274). -/
  | stf (o : MemOps)
  /-- Empties a word's tag without waiting (R274). -/
  | tagclr (o : MemAOps)
  /-- Returns a word's tag as 0 or 1 (R274). -/
  | tagrd (o : MemOps)
  /-- Loads four bytes into an f register unchanged (R271). -/
  | fld (o : MemOps)
  /-- Stores an f register's four bytes unchanged (R271). -/
  | fst (o : MemOps)
  /-- Asks for a global line to be filled into the L1; it never traps (R277). -/
  | pf (o : LA)
  /-- Drops L1 copies, and device copies of mode-10 lines at wide scopes, over a range (R278). -/
  | cinv (o : LineOps)
  /-- Writes device copies of mode-10 lines back to their owner over a range (R278). -/
  | cwb (o : LineOps)
  /-- Atomically adds gb and returns the old value (R280). -/
  | amoAdd (o : AmoOps)
  /-- Atomically ANDs gb and returns the old value (R280). -/
  | amoAnd (o : AmoOps)
  /-- Atomically ORs gb and returns the old value (R280). -/
  | amoOr (o : AmoOps)
  /-- Atomically XORs gb and returns the old value (R280). -/
  | amoXor (o : AmoOps)
  /-- Atomic signed minimum; returns the old value (R280). -/
  | amoMin (o : AmoOps)
  /-- Atomic signed maximum; returns the old value (R280). -/
  | amoMax (o : AmoOps)
  /-- Atomic unsigned minimum; returns the old value (R280). -/
  | amoMinn (o : AmoOps)
  /-- Atomic unsigned maximum; returns the old value (R280). -/
  | amoMaxn (o : AmoOps)
  /-- Atomically writes gb and returns the old value (R281). -/
  | swap (o : AmoOps)
  /-- Atomically writes gc when the old value equals gb, and returns the old value (R281). -/
  | cas (o : CasOps)
  /-- Atomically adds an FP32 value with rounding and returns the old value (R282). -/
  | famoAdd (o : FamoOps)
  /-- Performs an atomic operation with no reply (R283). -/
  | red (o : RedOps)
  /-- Performs an atomic FP32 add with no reply (R282). -/
  | fredAdd (o : FredOps)
  /-- Posts a value to a notice board slot and returns the view (R286). -/
  | post (o : PostOps)
  /-- Initialises, advances or reads a notice board header by an operation word (R287). -/
  | nbctl (o : FamoOps)
  /-- Orders earlier and later accesses by acquire, release or acq_rel at a scope (R288). -/
  | fence (o : FenceOps)
  /-- Adds integer lanes, wrapping or saturating (R235). -/
  | vadd (o : VIOps)
  /-- Subtracts integer lanes (R235). -/
  | vsub (o : VIOps)
  /-- Multiplies integer lanes (R235). -/
  | vmul (o : VIOps)
  /-- Writes the signed minimum of each lane pair (R235). -/
  | vmin (o : VIOps)
  /-- Writes the signed maximum of each lane pair (R235). -/
  | vmax (o : VIOps)
  /-- Bitwise AND of the lanes (R235). -/
  | vand (o : VIOps)
  /-- Bitwise OR of the lanes (R235). -/
  | vor (o : VIOps)
  /-- Bitwise XOR of the lanes (R235). -/
  | vxor (o : VIOps)
  /-- Shifts the lanes left (R235). -/
  | vshl (o : VIOps)
  /-- Shifts the lanes right logically (R235). -/
  | vshr (o : VIOps)
  /-- Shifts the lanes right arithmetically (R235). -/
  | vsha (o : VIOps)
  /-- Writes lane masks by an integer condition code (R236). -/
  | vcmp (o : VCmpOps)
  /-- Selects lanes of va or vb by a mask (R235). -/
  | vsel (o : VSelOps)
  /-- Writes the absolute value of each lane (R235). -/
  | vabs (o : VI2Ops)
  /-- Multiply-accumulates the lanes into vd (R235). -/
  | vmac (o : VIOps)
  /-- Broadcasts ga into every lane (R235). -/
  | vsplat (o : VSplatOps)
  /-- Adds FP lanes with one rounding (R237). -/
  | vfadd (o : VTOps)
  /-- Subtracts FP lanes (R237). -/
  | vfsub (o : VTOps)
  /-- Multiplies FP lanes (R237). -/
  | vfmul (o : VTOps)
  /-- Fused multiply-add of FP lanes (R237). -/
  | vffma (o : VT4Ops)
  /-- FP lane minimum by the rules of R228 (R237). -/
  | vfmin (o : VTOps)
  /-- FP lane maximum by the rules of R228 (R237). -/
  | vfmax (o : VTOps)
  /-- Writes FP lane-comparison masks (R237). -/
  | vfcmp (o : VFcmpOps)
  /-- Converts lanes between formats by a conversion code, rounding mode and part (R238). -/
  | vfcvt (o : VFcvtOps)
  /-- Quantises blocks into an MX image with E9 scales (R240). -/
  | vqmx (o : VMxOps)
  /-- Decodes an MX image to FP32 or BF16 (R241). -/
  | vdqmx (o : VMxOps)
  /-- Encodes lanes to the nearest codes of a table (R242). -/
  | vcode (o : VCodeOps)
  /-- Decodes codes through a table (R242). -/
  | vdecode (o : VCodeOps)
  /-- Writes the correctly rounded 2^A of each lane (R243). -/
  | vexp2 (o : V2Ops)
  /-- Writes the correctly rounded reciprocal of each lane (R243). -/
  | vrcp (o : V2Ops)
  /-- Writes the correctly rounded reciprocal square root of each lane (R243). -/
  | vrsq (o : V2Ops)
  /-- Loads 128 bytes into a vector register (R245). -/
  | vld (o : VMemOps)
  /-- Stores a vector register's 128 bytes (R245). -/
  | vst (o : VMemOps)
  /-- Gathers lanes from indexed addresses (R246). -/
  | vldx (o : VMemXOps)
  /-- Scatters lanes to indexed addresses (R246). -/
  | vstx (o : VMemXOps)
  /-- Loads one element into every lane (R245). -/
  | vldb (o : VMemTOps)
  /-- Stores the lanes that a mask selects (R245). -/
  | vstm (o : VMemXOps)
  /-- Appends the non-zero lanes to a compressed vector block (R247). -/
  | vspst (o : VSpOps)
  /-- Expands lanes from a compressed vector block (R247). -/
  | vspld (o : VSpOps)
  /-- Reduces all lanes by an op code (R248). -/
  | vred (o : VRedOps)
  /-- Permutes lanes by indices (R249). -/
  | vperm (o : VTOps)
  /-- Inserts ga into one lane (R249). -/
  | vins (o : VInsOps)
  /-- Extracts one lane into gd (R249). -/
  | vext (o : VExtOps)
  /-- Applies one sparse column, scaled by q, to 32 INT32 state lanes (R250). -/
  | vscma (o : VScmaOps)
  /-- Runs the sigma-delta encoder and queues the resulting events (R251). -/
  | sdenc (o : SdencOps)
  /-- Loads a run of rows from local memory into a tile register (R255). -/
  | tld (o : TMemOps)
  /-- Stores a run of rows from a tile register to local memory (R255). -/
  | tstTile (o : TMemOps)
  /-- Moves a tile row or column into a vector register (R256). -/
  | tget (o : TGetOps)
  /-- Moves a vector register into a tile row or column (R256). -/
  | tset (o : TSetOps)
  /-- Clears rows of a tile register (R257). -/
  | tzeroT (o : TZeroTOps)
  /-- Clears accumulator rows and sets the accumulator mode (R257). -/
  | tzeroAcc (o : TZeroAccOps)
  /-- Clears rows of a long array (R257). -/
  | tzeroX (o : LAB)
  /-- Loads a B image into a macro bank (R258). -/
  | mcld (o : McldOps)
  /-- Loads a bank's code table from a vector register (R259). -/
  | mctab (o : MctabOps)
  /-- Rounds all 512 accumulators into a tile register (R262). -/
  | mdrain (o : MdrainOps)
  /-- Joins a gang for an INT8 by code matrix multiply-accumulate (R260). -/
  | mmaI8c (o : MmaOps)
  /-- Joins a gang for an INT4 by code matrix multiply-accumulate (R260). -/
  | mmaI4c (o : MmaOps)
  /-- Joins a gang for a BF16 by code matrix multiply-accumulate (R260). -/
  | mmaBfc (o : MmaOps)
  /-- Joins a gang for an E2M1 by MX matrix multiply-accumulate (R260). -/
  | mmaE2x (o : MmaOps)
  /-- Joins a gang for an E4M3 by MX matrix multiply-accumulate (R260). -/
  | mmaE4x (o : MmaOps)
  /-- Joins a gang for an E5M2 by MX matrix multiply-accumulate (R260). -/
  | mmaE5x (o : MmaOps)
  /-- Joins a gang for an INT8 by INT8 matrix multiply-accumulate in two passes (R260). -/
  | mmaI8i8 (o : MmaOps)
  /-- Adds the accumulators exactly into a long array (R263). -/
  | xacc (o : LA)
  /-- Adds a source long array exactly into a destination long array (R264). -/
  | xadd (o : XaddOps)
  /-- Rounds rows of a long array into a tile register (R265). -/
  | xrnd (o : XrndOps)
  /-- Declares, redeclares or undeclares a buffer (R292). -/
  | bdecl (o : LAB)
  /-- Acquires a buffer, or waits for it (R293). -/
  | bacq (o : LA)
  /-- Releases an owned buffer: EMPTY to FULL, or DRAINING to EMPTY (R294). -/
  | brel (o : LA)
  /-- Returns a buffer descriptor (R295). -/
  | bstat (o : L2)
  /-- Pushes a task record onto the deque (R296). -/
  | spawn (o : L2)
  /-- Removes and returns the next event or the step end for the handler's layer (R298). -/
  | evpop (o : LD)
  /-- Writes an event vector table entry and resets the layer's step (R297). -/
  | evtab (o : LAB)
  /-- Queues one pennant per destination of a fan-out group and advances its step (R300). -/
  | pennant (o : LA)
  /-- Appends a launch packet to a launch queue from the device (R301). -/
  | launch (o : L3)
  /-- Waits for step end and advances the handler's layer (R299). -/
  | evadv (o : L0)
  /-- Builds a shape record from a descriptor (R302). -/
  | shape (o : LAB)
  /-- Copies a tile register to a global or local destination (R305). -/
  | cpt (o : CptOps)
  /-- Copies a 2 KiB tile from global memory into own local memory (R305). -/
  | cptIn (o : CptGOps)
  /-- Copies a 2 KiB tile from own local memory to global memory (R305). -/
  | cptOut (o : CptGOps)
  /-- Multicasts a tile to cluster peers (R306). -/
  | cpm (o : CpmOps)
  /-- Appends a copy packet to a copy queue (R307). -/
  | qput (o : L3)
  /-- Closes the open batch and opens an empty one (R308). -/
  | batch (o : L0)
  /-- Waits until at most N closed batches are outstanding (R309). -/
  | waitb (o : WaitbOps)
  /-- Removes the oldest completion message, waiting if there is none (R310). -/
  | inbox (o : LD)
  /-- Returns the number of queued completion messages (R310). -/
  | inboxq (o : LD)
  /-- Initialises a transaction barrier (R311). -/
  | xbinit (o : LAB)
  /-- Arrives at a transaction barrier with an expected byte count (R312). -/
  | xbarr (o : XbOps)
  /-- Waits until a barrier's phase differs from the given phase (R313). -/
  | xbwait (o : XbOps)
  /-- Tests a barrier's phase without waiting (R313). -/
  | xbtry (o : XbtryOps)
  /-- Returns from a trap to a target, restoring the mode (R314). -/
  | sret (o : LA)
  /-- Makes every context parked on a die READY to retry (R315). -/
  | replay (o : LA)
  /-- Drops translations from every TLB of the partition device (R316). -/
  | tlbinv (o : LAB)
  /-- Invalidates a range in every instruction cache of the partition device (R317). -/
  | icinv (o : LAB)
  /-- An outstanding long-latency instruction has written its destinations and its unit has accepted its memory effects, freeing its window (R69). -/
  | evInstructionComplete (c : Nat) (k : Nat) (i : Nat)
  /-- Once no long-latency instruction of the context is outstanding, enters the handler at tvec with the trap CSRs set (R219). -/
  | evTrapEntry (c : Nat) (k : Nat)
  /-- The dispatcher starts a stolen, handler or ripe deque task on the lowest IDLE eft (R74). -/
  | evTaskStart (c : Nat)
  /-- An idle core sends a steal request to the next victim on its die (R77). -/
  | evStealRequest (c : Nat)
  /-- A victim that receives a steal request answers with its topmost ripe unpinned task, or refuses (R77). -/
  | evStealVictimAnswer (c : Nat)
  /-- The thief receives an answer and starts the task, holds it in its steal slot, or takes a refusal (R77). -/
  | evStealAnswerArrival (c : Nat)
  /-- The 1,024-cycle wait after a round of refusals ends and a new round begins (R77). -/
  | evStealRoundWaitExpiry (c : Nat)
  /-- The control context's done ends the core's part once every eft is IDLE, discarding unripe tasks and pending events (R78). -/
  | evLaunchPartEnd (c : Nat)
  /-- After its outstanding instructions complete, an eft releases its buffers, records its result word and becomes IDLE (R203). -/
  | evEftDone (c : Nat) (k : Nat)
  /-- An event or pennant reaches a core and is accepted into the inbox or spill, merged, counted, or NACKed (R83). -/
  | evEventArrival (c : Nat) (x : Nat)
  /-- Every 64 cycles the head of a held channel is sent again (R84). -/
  | evNackResendTimer (c : Nat) (x : Nat)
  /-- Events move from spill to the inbox, oldest first, as entries free (R83). -/
  | evSpillRefill (c : Nat)
  /-- A pending spillbase write takes effect once the spill area has emptied (R86). -/
  | evSpillbaseSwitch (c : Nat)
  /-- The core makes a handler task for a layer that has a full batch or has reached step end (R88). -/
  | evHandlerTaskCreate (c : Nat) (l : Nat)
  /-- When every position in a gang's mask has joined, the gang runs after its local checks pass, or every member takes GANG (R100). -/
  | evGangComplete (g : Nat)
  /-- A complete gang takes the row bus and the leader begins broadcasting planes (R103). -/
  | evMmaPlanesStart (g : Nat)
  /-- A redundant mdrain meets its partner's mdrain and compares all 512 accumulators (R108). -/
  | evRedundantDrainCompare (c : Nat) (k : Nat) (k2 : Nat)
  /-- The first byte of a cpm branch or engine delivery arrives and its destination buffers are checked and moved to FILLING, or the delivery is refused (R59). -/
  | evCopyDeliveryCheck (i : Nat)
  /-- Bytes of a delivery have been written and credit the named barrier's sectors (R122). -/
  | evDeliverySectorCredit (i : Nat) (n : Nat) (rd : Bool)
  /-- An xbarr arrival reaches the holding core and adjusts sectors and arrivals (R122). -/
  | evBarrierArrival (i : Nat)
  /-- The longest-waiting bacq takes a buffer that has become FULL, or EMPTY with owner none (R58). -/
  | evBacqGrant (c : Nat) (i : Nat)
  /-- A waiting xbwait observes a phase change and acquires (R313). -/
  | evXbwaitWake (c : Nat) (k : Nat)
  /-- After a tag change, the head of a word's waiting list performs when it can (R64). -/
  | evTagWaiterPerform (h : Nat) (off : Nat)
  /-- A near-window access from a cluster peer arrives and performs at the holding core's ALU, or is held while that core is pre-empted (R21). -/
  | evClusterPeerRequest (c : Nat) (k : Nat) (n : Nat)
  /-- A waiting join sees its eft IDLE at the end of a cycle and returns the result word (R222). -/
  | evJoinWake (c : Nat) (k : Nat)
  /-- A waiting evadv sees step end and advances the layer's step (R299). -/
  | evEvadvStepEnd (c : Nat) (k : Nat)
  /-- A waiting inbox receives a newly arrived completion message (R310). -/
  | evInboxMessageTaken (c : Nat)
  /-- A waiting waitb finds at most N closed batches outstanding and acquires (R309). -/
  | evWaitbSatisfied (c : Nat) (k : Nat)
  /-- A batch waiting on eight closed batches proceeds once one retires (R308). -/
  | evBatchSlotFree (c : Nat) (k : Nat)
  /-- A qput waiting on a full ring finds room and writes its slot (R307). -/
  | evQputRingRoom (c : Nat) (k : Nat)
  /-- A copy engine finds a valid slot of the right phase, acquires it, reads the packet and increments read (R112). -/
  | evEngineSlotFetch (n : Nat) (e : Nat)
  /-- A copy engine performs one piece of a packet, which may fault (R115). -/
  | evEnginePiece (i : Nat) (first : List Nat)
  /-- A packet ends with one status and writes its status and sequence words and its message (R117). -/
  | evPacketCompletion (i : Nat)
  /-- A completion message enters the core's completion queue, held until an entry is free (R119). -/
  | evCompletionMessageDeliver (i : Nat)
  /-- A cpt, cpm or qput operation ends (R124). -/
  | evCopyOperationEnd (i : Nat)
  /-- A write leaves its post queue into the core path once its ordering conditions hold (R134). -/
  | evWriteLeavePostQueue (c : Nat) (k : Nat) (n : Nat)
  /-- A write performs at its point of coherence and updates the own L1 copy (R134). -/
  | evWritePerform (c : Nat) (n : Nat)
  /-- A load is satisfied from the post queue, core path, L1 or point of coherence (R135). -/
  | evLoadSatisfy (c : Nat) (k : Nat) (n : Nat) (src : Nat)
  /-- The L1 drops a line (R135). -/
  | evL1LineDrop (c : Nat) (line : Nat)
  /-- A line that pf asked for is filled into the L1 as a snapshot (R277). -/
  | evPrefetchFill (c : Nat) (n : Nat)
  /-- An atomic request is performed in one step at its place (R141). -/
  | evAtomicPerform (w : Pick) (lag : Bool)
  /-- A die sync engine drops a sync copy (R142). -/
  | evSyncCopyDrop (d : Nat) (line : Nat)
  /-- Home state is evicted to the overflow area, or every sync copy of the line is dropped (R392). -/
  | evSyncHomeEvict (d : Nat) (line : Nat)
  /-- A combinable request merges with an earlier request in a switch output queue (R384). -/
  | evCombineMerge (sw : Nat) (a : Pick) (b : Pick)
  /-- A reply reaches a decombining record and is split between the merged requesters (R385). -/
  | evDecombineReply (m : Nat) (lost : Bool)
  /-- After atomwd cycles without a reply, the core retires the request with all-ones and LOST (R389). -/
  | evAtomicWatchdogRetire (c : Nat) (k : Nat) (n : Nat)
  /-- A walker finishes a walk with a leaf, a MISS or a FATAL result (R341). -/
  | evPageWalk (c : Nat) (k : Nat)
  /-- A fault or notice reaches the die's fault buffer and merges, takes a slot, or is dropped (R347). -/
  | evFaultRecord (d : Nat)
  /-- A write to fbclr frees slots, marks slots fatal and clears flags (R348). -/
  | evFbclrWrite (link : Nat) (d : Nat) (w : Word)
  /-- A host write to the die's replay register performs replay for that die (R349). -/
  | evCsReplayWrite (link : Nat) (d : Nat) (w : Word)
  /-- A host write to the operation register performs tlbinv (R349). -/
  | evCsTlbinvWrite (link : Nat) (d : Nat) (w : Word)
  /-- A host write to qwrite publishes packets, or is ignored and sets err (R359). -/
  | evQueueDoorbell (link : Nat) (dev : Nat) (q : Nat) (w : Word)
  /-- A write of 1 to a free device-context record's state makes the context live (R360). -/
  | evDctxStateWrite (link : Nat) (dev : Nat) (c : Nat) (w : Word)
  /-- In each dispatcher cycle the dispatcher picks the smallest-keyed queue head and handles it (R366). -/
  | evDispatcherSelect (dev : Nat)
  /-- A write to pecmd pre-empts a chorus at once (R370). -/
  | evPecmdWrite (link : Nat) (dev : Nat) (w : Word)
  /-- A chorus stops issuing, withdraws or finishes its work, writes its image and is freed (R371). -/
  | evChorusPreempt (c : Nat)
  /-- Once its choruses are free, a pre-empted launch's image is loaded back onto them (R372). -/
  | evChorusRestore (dev : Nat)
  /-- When every core has ended its part and its writes have performed, the completion record is written and the choruses are freed (R368). -/
  | evLaunchCompletion (n : Nat)
  /-- A write to tdcmd begins the teardown of a device context (R369). -/
  | evTdcmdWrite (link : Nat) (dev : Nat) (w : Word)
  /-- When nothing of the context runs, the teardown record is written, the context is freed and MSI-X is raised (R369). -/
  | evTeardownComplete (dev : Nat) (c : Nat)
  /-- A Stolrus write packet is received and checked (R381). -/
  | evStolrusWrite (l : Nat) (hdr : BitVec 128) (payload : List Byte) (tag : BitVec 64) (early : Bool)
  /-- A Stolrus read request is received and served or refused (R380). -/
  | evStolrusReadRequest (l : Nat) (hdr : BitVec 128) (payload : List Byte) (tag : BitVec 64)
  /-- A Stolrus read reply is received and acted on once its tag passes (R381). -/
  | evStolrusReadReply (l : Nat) (hdr : BitVec 128) (payload : List Byte) (tag : BitVec 64)
  /-- A Stolrus atomic request is received and performed or refused (R381). -/
  | evStolrusAtomicRequest (l : Nat) (hdr : BitVec 128) (payload : List Byte) (tag : BitVec 64)
  /-- A Stolrus atomic reply is received (R381). -/
  | evStolrusAtomicReply (l : Nat) (hdr : BitVec 128) (payload : List Byte) (tag : BitVec 64)
  /-- A write acknowledgement is received and lets waiting releases proceed (R381). -/
  | evStolrusWriteAcknowledgement (l : Nat) (hdr : BitVec 128) (payload : List Byte) (tag : BitVec 64)
  /-- A refusal is received and ends its request with MCHK, discard and REFUSED (R378). -/
  | evStolrusRefusal (l : Nat) (hdr : BitVec 128) (payload : List Byte) (tag : BitVec 64)
  /-- After a failed tag, the sender resends its unacknowledged packets in order (R382). -/
  | evStolrusRetransmit (l : Nat) (n : Nat)
  /-- A Stolrus link loses a lane and halves its width, or goes down (R383). -/
  | evLinkLaneLoss (l : Nat)
  /-- A write to peerid takes effect only while no device context is live (R379). -/
  | evPeeridWrite (link : Nat) (w : Word)
  /-- A write to sovbase or sovsize while a context runs drops all home state (R393). -/
  | evSyncOverflowWrite (link : Nat) (d : Nat) (size : Bool) (w : Word)
  /-- A write to pmode changes the partition mode, or is refused and sets err (R406). -/
  | evPmodeWrite (link : Nat) (w : Word) (lost : List Nat)
  /-- A write to nscarve changes the die's near-store size and drops its LLC (R411). -/
  | evNscarveWrite (link : Nat) (d : Nat) (w : Word) (lost : List Nat)
  /-- A write to a scale-out channel record clears its state and fail bit (R415). -/
  | evChannelRecordWrite (link : Nat) (n : Nat) (c : Nat) (off : Nat) (w : Word)
  /-- A DATA datagram is received and performed in psn order, or discarded with a NAK (R418). -/
  | evDatagramData (f : InFrame) (udpOk : Bool)
  /-- An ACK is received and frees the sender's acknowledged datagrams (R418). -/
  | evDatagramAck (f : InFrame) (udpOk : Bool)
  /-- A NAK is received and triggers a resend, a fault or a channel failure (R418). -/
  | evDatagramNak (f : InFrame) (udpOk : Bool)
  /-- After 10,000 ticks with an unacknowledged performed datagram, the receiver sends an ACK (R418). -/
  | evScaleoutAckTimer (n : Nat) (c : Nat)
  /-- After 100,000 ticks without an ACK, the sender resends every unacknowledged datagram (R418). -/
  | evScaleoutResendTimer (n : Nat) (c : Nat)
  /-- A host CXL.mem access is performed at the line's home slice (R413). -/
  | evCxlMemHostAccess (a : Nat) (b : List Byte)
  /-- Power-on begins a cold start (R420). -/
  | evPowerOn
  /-- A startcmd of 1 runs a cold start (R420). -/
  | evColdStart (link : Nat)
  /-- A startcmd of 2 writes the LLC back, frees every context and runs a warm start (R420). -/
  | evWarmStart (link : Nat)
  /-- A start ends ready or failed and updates startst (R421). -/
  | evStartFinish (fail : Nat) (dead : BitVec 64) (masks : List Word) (lanes : List Nat) (ports : List Nat)
  /-- A valid claim makes its link owner while there is none (R423). -/
  | evOwnclaim (links : List Nat) (w : Word)
  /-- The owner hands ownership to a target link (R423). -/
  | evOwnxfer (link : Nat) (w : Word)
  /-- The owner's link goes down and v becomes 0 (R423). -/
  | evOwnerLinkDown
  /-- A write of 1 to resync captures a consistent summary (R424). -/
  | evResync (link : Nat) (w : Word)
  /-- A write of attn's last word requests an attestation report over the nonce (R427). -/
  | evAttestationRequest (nonce : List Word)
  /-- A built report replaces attrep whole (R427). -/
  | evAttestationReportReady
  /-- A correctable error is corrected in place, counted and logged (R425). -/
  | evCorrectableError (source : Nat) (a : Word)
  /-- An uncorrectable error found by scrub or eviction is logged (R425). -/
  | evUncorrectableNotConsumed (source : Nat) (loc : Nat)
  /-- A die fails at run time and every affected launch completes TORNDOWN (R425). -/
  | evDieFailure (x : Nat)
  /-- A write to a control-space register with no row of its own stores its value, or is discarded and logged (R436). -/
  | evControlSpaceWrite (link : Nat) (a : Nat) (w : Word)
  /-- A context reaches a word sequence that names no slot, such as a reserved major or func, page 13 to 15, XP page 0, a fifth or repeated prefix, or a non-zero unused field, and takes ILLEGAL with finfo by R177 (R176). -/
  | evEncodingNotAnInstruction (w : IWord) (index : Nat) (reason : Nat)
  /-- An instruction word at or above NW, or on a page without X or user permission, is refused at fetch and raises PERM with faddr at the word (R175). -/
  | evFetchRefused (va : Nat)
  /-- A Stolrus packet arrives whose type is not 0x01 to 0x07, and it is discarded and logged (R380). -/
  | evStolrusUnknownType (l : Nat) (hdr : BitVec 128) (payload : List Byte) (tag : BitVec 64)
  deriving DecidableEq, Repr

end Sys2Proof
end

