-- ==== Sys2Proof/WellFormed.lean ====
section
/-! DEFINITION. The well-formed instructions: the operand values that an encoding of R165 .. R194 can carry. -/

namespace Sys2Proof

/-- The value fits in `n` signed bits. -/
def fitsSigned (n : Nat) (w : Word) : Bool := (w.setWidth n).signExtend 64 == w

/-- The fewest XI words that extend a signed immediate of `low` base bits to the value, at most four (R168). -/
def xiCount (low : Nat) (w : Word) : Nat :=
  if low ≠ 0 ∧ fitsSigned low w then 0
  else if low = 0 ∧ w = 0 then 0
  else if fitsSigned (low + 10) w then 1
  else if fitsSigned (low + 20) w then 2
  else if fitsSigned (low + 30) w then 3
  else 4

/-- The value fits the XI words that `used` other prefixes leave room for: four prefixes at most (R172). -/
def immFits (low used : Nat) (w : Word) : Bool :=
  xiCount low w + used ≤ 4 && fitsSigned (low + 10 * xiCount low w) w || (low == 0 && w == 0)

/-- 1 when the register number needs XR (R167). -/
def needsXr (rs : List Reg) (c : BitVec 4) : Nat := if rs.all (fun r => r.toNat < 8) && c == 0 then 0 else 1

/-- 1 when an XS word is emitted. -/
def needsXs (xs mod dflt : BitVec 5) : Nat := if xs = 0 ∧ mod = dflt then 0 else 1

/-- The CSR numbers that the CSR tables assign (R185, R217, R348 and the chapters R217 names). -/
def csrNumbers : List Nat :=
  [0x000, 0x001, 0x002, 0x008, 0x010, 0x011, 0x012, 0x013, 0x014, 0x015, 0x016, 0x017, 0x020, 0x021, 0x022, 0x030, 0x031,
   0x032, 0x033, 0x040, 0x041, 0x050, 0x051, 0x058, 0x060, 0x070, 0x100, 0x101, 0x110, 0x111, 0x112, 0x113, 0x114, 0x115,
   0x118, 0x119, 0x11A, 0x11B, 0x11C, 0x11D, 0x11E, 0x11F]

/-- The number is assigned. -/
def isCsr (n : BitVec 12) : Bool := csrNumbers.contains n.toNat

/-- Sem values by class (R132): loads. -/
def semLoad (s : BitVec 2) : Bool := s == 0 || s == 1
/-- Sem values of stores and of `xbarr`. -/
def semStore (s : BitVec 2) : Bool := s == 0 || s == 2

/-- Integer element types i32, i8, i16, i64 (R171). -/
def tyInt (t : BitVec 3) : Bool := t.toNat < 4
/-- fp32, bf16, fp16. -/
def tyFp (t : BitVec 3) : Bool := t == 4 || t == 5 || t == 6
/-- fp32, bf16. -/
def tyFpWide (t : BitVec 3) : Bool := t == 4 || t == 5
/-- Any assigned type. -/
def tyAny (t : BitVec 3) : Bool := t != 7

/-- The MI immediate fits: XP always, XS and XR when needed (R168). -/
def miFits (xs mod : BitVec 5) (rs : List Reg) (c : BitVec 4) (imm : Word) : Bool :=
  immFits 3 (1 + needsXs xs mod 0 + needsXr rs c) imm

/-- The operand values an encoding can carry; an event is not encoded, so it is well-formed as it stands. -/
def Instr.wellFormed : Instr → Bool
  | .sext o | .zext o => o.w.toNat < 3
  | .addi o | .andi o | .ori o | .xori o => immFits 6 (needsXr [o.d, o.a] 0) o.imm
  | .li o => immFits 9 (needsXr [o.d] 0) o.imm
  | .bz o | .bnz o => immFits 9 (needsXr [o.s] 0) o.off
  | .jmp o | .call o => immFits 9 0 o.off
  | .fcmp o => o.cond.toNat < 4
  | .fcvt o => o.mode.toNat < 5
  | .fmov o => o.k != 7
  | .fli o => o.imm.toNat < 2 ^ (6 + 10 * o.k.toNat) && decide (o.k.toNat + 1 + needsXr [o.d] 0 ≤ 4)
  | .lea o => immFits 0 (1 + needsXr [o.d, o.a, o.b] 0) o.imm
  | .csrrd o | .csrwr o => isCsr o.n
  | .ldB o | .ldH o | .ldW o | .ldD o | .ldBs o | .ldHs o | .ldWs o | .fld o =>
    semLoad o.sem && miFits o.xs 0 [o.d, o.a] 0 o.imm
  | .stB o | .stH o | .stW o | .stD o | .fst o => semStore o.sem && miFits o.xs 0 [o.d, o.a] 0 o.imm
  | .ldf o | .ldfTake o | .ste o | .stf o | .tagrd o => miFits o.xs 0 [o.d, o.a] 0 o.imm
  | .tagclr o => miFits o.xs 0 [o.a] 0 o.imm
  | .fence o => o.sem != 0
  | .vadd o | .vsub o | .vmul o | .vshl o | .vmac o => tyInt o.ty
  | .vmin o | .vmax o | .vand o | .vor o | .vxor o | .vshr o | .vsha o => tyInt o.ty && !o.sat
  | .vabs o => tyInt o.ty
  | .vcmp o => tyInt o.ty && decide (o.cond.toNat ≤ 5)
  | .vsel o => tyInt o.ty
  | .vsplat o => tyInt o.ty
  | .vfadd o | .vfsub o | .vfmul o | .vfmin o | .vfmax o => tyFp o.ty
  | .vffma o => tyFp o.ty
  | .vfcmp o => tyFp o.ty
  | .vfcvt o =>
    decide (o.code.toNat < 16) && decide (o.mode.toNat ≤ 4) &&
      decide (o.part.toNat < (if o.code.toNat ≤ 3 then 2 else if o.code.toNat ≤ 5 then 1 else if o.code.toNat ≤ 9 then 4
        else if o.code.toNat ≤ 13 then 2 else 1))
  | .vqmx o | .vdqmx o => tyFpWide o.ty && o.fmt != 3
  | .vcode o | .vdecode o => tyFpWide o.ty && (o.ty != 5 || o.part.toNat < 2)
  | .vld o => semLoad o.sem && miFits o.xs 0 [o.d.setWidth 5, o.a] 0 o.imm
  | .vst o => semStore o.sem && miFits o.xs 0 [o.d.setWidth 5, o.a] 0 o.imm
  | .vldb o => semLoad o.sem && tyAny o.ty && miFits o.xs (o.ty.setWidth 5) [o.d.setWidth 5, o.a] 0 o.imm
  | .vldx o =>
    semLoad o.sem && (o.ty == 0 || o.ty == 3 || o.ty == 4) &&
      miFits o.xs (o.ty.setWidth 5) [o.d.setWidth 5, o.a] o.c o.imm
  | .vstx o =>
    semStore o.sem && (o.ty == 0 || o.ty == 3 || o.ty == 4) &&
      miFits o.xs (o.ty.setWidth 5) [o.d.setWidth 5, o.a] o.c o.imm
  | .vstm o => semStore o.sem && tyAny o.ty && miFits o.xs (o.ty.setWidth 5) [o.d.setWidth 5, o.a] o.c o.imm
  | .vspst o => semStore o.sem && miFits o.xs 0 [o.d.setWidth 5, o.a] o.c o.imm
  | .vspld o => semLoad o.sem && miFits o.xs 0 [o.d.setWidth 5, o.a] o.c o.imm
  | .vred o => tyAny o.ty && (!tyFp o.ty || o.op.toNat < 3)
  | .vperm o => tyAny o.ty
  | .vins o => tyAny o.ty
  | .vext o => tyAny o.ty
  | .vscma o => !o.i8 || o.c == 0
  | .tget o => o.col || o.esz == 0
  | .tset o => o.col || o.esz == 0
  | .mcld o => o.kind != 3
  | .mdrain o => o.fmt != 3 && !(o.fmt == 0 && o.hi)
  | .xrnd o => o.fmt != 3 && !(o.fmt == 0 && o.hi)
  | .mmaBfc o => !o.a.getLsbD 0
  | .mmaI8i8 o => o.b == 0
  | .xbarr o => semStore o.sem
  | .xbwait o => semLoad o.sem
  | .xbtry o => semLoad o.sem
  | _ => true

end Sys2Proof
end

