-- ==== Sys2Proof/Decode.lean ====
section
/-! DEFINITION. The decoder (R165 .. R194): instruction words to an `Instr` or to the fate R176 gives them; after it the
encoder, written from the same encoding tables, in the word order nolas emits (R172). -/

namespace Sys2Proof

/-! ## The words of an instruction -/

/-- The fields of a base word (R166). -/
structure Base where
  maj : BitVec 4
  d   : BitVec 3
  a   : BitVec 3
  b   : BitVec 3
  f   : BitVec 3
  deriving DecidableEq, Repr

/-- The fields of an XP prefix (R170). -/
structure XP where
  page : BitVec 4
  l    : BitVec 4
  sem  : BitVec 2
  deriving DecidableEq, Repr

/-- The fields of an XS prefix (R171). -/
structure XS where
  reg : BitVec 5
  mod : BitVec 5
  deriving DecidableEq, Repr

/-- The fields of an XR prefix (R169). -/
structure XR where
  d : BitVec 2
  a : BitVec 2
  b : BitVec 2
  c : BitVec 4
  deriving DecidableEq, Repr

/-- An instruction's words taken apart: at most one XP, XS and XR, the XI fields in their order, and the base word (R172). -/
structure Raw where
  xp   : Option XP
  xs   : Option XS
  xr   : Option XR
  xis  : List (BitVec 10)
  base : Base
  deriving DecidableEq, Repr

/-- Why words are not an instruction: the reason code of R176, and the offending word with its position (R177). -/
structure DecodeErr where
  reason : Nat
  index  : Nat
  word   : IWord
  deriving DecidableEq, Repr

/-- The base word's fields (R166). -/
def Base.ofWord (w : IWord) : Base :=
  ⟨w.extractLsb' 12 4, w.extractLsb' 9 3, w.extractLsb' 6 3, w.extractLsb' 3 3, w.extractLsb' 0 3⟩

/-- The base word of these fields. -/
def Base.word (b : Base) : IWord := b.maj ++ (b.d ++ (b.a ++ (b.b ++ b.f)))

/-- XP: kind 10, page, L, sem. -/
def XP.word (x : XP) : IWord := 0xF#4 ++ (2#2 ++ (x.page ++ (x.l ++ x.sem)))
/-- XS: kind 11, register, modifier. -/
def XS.word (x : XS) : IWord := 0xF#4 ++ (3#2 ++ (x.reg ++ x.mod))
/-- XR: kind 01, high bits of d, a, b, and the field c. -/
def XR.word (x : XR) : IWord := 0xF#4 ++ (1#2 ++ (x.d ++ (x.a ++ (x.b ++ x.c))))
/-- XI: kind 00, ten immediate bits. -/
def xiWord (x : BitVec 10) : IWord := 0xF#4 ++ (0#2 ++ x)

/-- A word is a prefix when its bits [15:12] are 0xF (R165). -/
def isPrefix (w : IWord) : Bool := w.extractLsb' 12 4 == 0xF#4

/-- The kind of a prefix: 0 XI, 1 XR, 2 XP, 3 XS. -/
def prefixKind (w : IWord) : Nat := (w.extractLsb' 10 2).toNat

/-- The positions of the words by kind: XP, XS, XR, the first and the second XI, and the base word. -/
structure Places where
  xp   : Nat := 0
  xs   : Nat := 0
  xr   : Nat := 0
  xi   : Nat := 0
  xi2  : Nat := 0
  base : Nat := 0
  deriving DecidableEq, Repr

/-- What reading the words so far has come to: a base word is still to come, an error, or the whole instruction. -/
inductive Scan where
  | more
  | bad (e : DecodeErr)
  | done (r : Raw) (p : Places)
  deriving DecidableEq, Repr

/-- Reads words in order, with the checks that fall on each word as it is read: a fifth prefix (reason 1), a second XP, XS or
XR (reason 2), page 0 in XP (reason 5), pages 13 .. 15 (reason 6) (R170, R172, R175). `n` counts the words read. -/
def scanFrom (r : Raw) (p : Places) (n : Nat) : List IWord → Scan
  | [] => .more
  | w :: ws =>
    if isPrefix w then
      if n = 4 then .bad ⟨1, 4, w⟩
      else match prefixKind w with
        | 0 =>
          scanFrom { r with xis := r.xis ++ [w.extractLsb' 0 10] }
            (match r.xis.length with
              | 0 => { p with xi := n }
              | 1 => { p with xi2 := n }
              | _ => p) (n + 1) ws
        | 1 =>
          if r.xr.isSome then .bad ⟨2, n, w⟩
          else scanFrom { r with xr := some ⟨w.extractLsb' 8 2, w.extractLsb' 6 2, w.extractLsb' 4 2, w.extractLsb' 0 4⟩ }
            { p with xr := n } (n + 1) ws
        | 2 =>
          if r.xp.isSome then .bad ⟨2, n, w⟩
          else if w.extractLsb' 6 4 = 0#4 then .bad ⟨5, n, w⟩
          else if 13 ≤ (w.extractLsb' 6 4).toNat then .bad ⟨6, n, w⟩
          else scanFrom { r with xp := some ⟨w.extractLsb' 6 4, w.extractLsb' 2 4, w.extractLsb' 0 2⟩ }
            { p with xp := n } (n + 1) ws
        | _ =>
          if r.xs.isSome then .bad ⟨2, n, w⟩
          else scanFrom { r with xs := some ⟨w.extractLsb' 5 5, w.extractLsb' 0 5⟩ } { p with xs := n } (n + 1) ws
    else .done { r with base := Base.ofWord w } { p with base := n }

/-- Reads the words of one instruction from its first word (R172). -/
def scan (ws : List IWord) : Scan := scanFrom ⟨none, none, none, [], ⟨0, 0, 0, 0, 0⟩⟩ {} 0 ws

/-! ## Fields -/

/-- The page: XP's, or 0 (R170). -/
def Raw.page (r : Raw) : BitVec 4 := match r.xp with | some x => x.page | none => 0
/-- The lookahead L. -/
def Raw.l (r : Raw) : BitVec 4 := match r.xp with | some x => x.l | none => 0
/-- The sem field. -/
def Raw.sem (r : Raw) : BitVec 2 := match r.xp with | some x => x.sem | none => 0
/-- The XS register; with no XS, register field 0 (R171). -/
def Raw.xsReg (r : Raw) : Reg := match r.xs with | some x => x.reg | none => 0
/-- The modifier; with no XS, the page's default (R171). -/
def Raw.mod (r : Raw) (dflt : BitVec 5) : BitVec 5 := match r.xs with | some x => x.mod | none => dflt
/-- The XR field; with no XR, zeros (R167). -/
def Raw.xrv (r : Raw) : XR := match r.xr with | some x => x | none => ⟨0, 0, 0, 0⟩
/-- Register field d with its high bits. -/
def Raw.d (r : Raw) : BitVec 5 := r.xrv.d ++ r.base.d
/-- Register field a with its high bits. -/
def Raw.a (r : Raw) : BitVec 5 := r.xrv.a ++ r.base.a
/-- Register field b with its high bits. -/
def Raw.b (r : Raw) : BitVec 5 := r.xrv.b ++ r.base.b
/-- The high bits of b. -/
def Raw.bh (r : Raw) : BitVec 2 := r.xrv.b
/-- The field c. -/
def Raw.c (r : Raw) : BitVec 4 := r.xrv.c

/-- The XI fields, most significant first, above `n` low bits `low` (R168). -/
def xiValue (xis : List (BitVec 10)) (n low : Nat) : Nat :=
  xis.foldl (fun acc x => acc * 1024 + x.toNat) 0 * 2 ^ n + low

/-- The low `n` bits of `v` sign-extended to 64 bits. -/
def signExtend64 (n v : Nat) : Word := (BitVec.ofNat n v).signExtend 64

/-- The RI immediate (R168). -/
def Raw.immRI (r : Raw) : Word :=
  signExtend64 (6 + 10 * r.xis.length) (xiValue r.xis 6 (r.base.b ++ r.base.f).toNat)
/-- The LI and BR immediate. -/
def Raw.immLI (r : Raw) : Word :=
  signExtend64 (9 + 10 * r.xis.length) (xiValue r.xis 9 (r.base.a ++ (r.base.b ++ r.base.f)).toNat)
/-- The MI immediate, not yet scaled. -/
def Raw.immMI (r : Raw) : Word :=
  signExtend64 (3 + 10 * r.xis.length) (xiValue r.xis 3 r.base.f.toNat)
/-- The immediate of `lea`: the XI fields alone, zero without any. -/
def Raw.immRR (r : Raw) : Word := signExtend64 (10 * r.xis.length) (xiValue r.xis 0 0)
/-- The unsigned immediate of `fli`: the XI fields above the a and b fields (R234). -/
def Raw.fliImm (r : Raw) : BitVec 36 := BitVec.ofNat 36 (xiValue r.xis 6 (r.base.a ++ r.base.b).toNat)
/-- The unsigned count of `waitb` (R309). -/
def Raw.waitbImm (r : Raw) : BitVec 10 := BitVec.ofNat 10 (xiValue r.xis 0 0)
/-- The CSR number: csr9 and, with an XI, its bits [2:0] above it (R168). -/
def Raw.csrNum (r : Raw) : BitVec 12 :=
  (match r.xis with | x :: _ => x.extractLsb' 0 3 | [] => 0#3) ++ (r.base.a ++ (r.base.b ++ r.base.f))

/-! ## Checks against a slot -/

/-- The class of a register field (R167): unused, a register class, a code, a code that takes the XR bits as well
(`vfcvt`), or bits of an immediate or a selector. -/
inductive Cls where
  | none | g | f | v | t | m | code | code5 | imm
  deriving DecidableEq, Repr

/-- How an instruction uses XI: not at all, as an immediate, as the one word of `waitb`, or as the CSR number's high bits. -/
inductive XiUse where
  | none | imm | one | csr
  deriving DecidableEq, Repr

/-- How an instruction uses XS: not at all, modifier bits only, or a register and modifier bits. -/
inductive XsUse where
  | none | mods | reg
  deriving DecidableEq, Repr

/-- The sem class (R132, R170). -/
inductive SemUse where
  | relaxed | load | store | rmw | fence | xbarr | xbwait
  deriving DecidableEq, Repr

/-- A word of an instruction, by its kind. -/
inductive Src where
  | xp | xs | xr | xi | xi2 | base
  deriving DecidableEq, Repr

/-- What a slot allows: its field classes, its use of the prefixes, the check of its modifier bits (0, or a reason code), its
sem class, and its own checks. -/
structure Shape where
  d     : Cls := .none
  a     : Cls := .none
  b     : Cls := .none
  c     : Cls := .none
  xi    : XiUse := .none
  xs    : XsUse := .none
  mod   : BitVec 5 → Nat := fun _ => 0
  sem   : SemUse := .relaxed
  extra : List (Src × Nat) := []

/-- A slot of the opcode map: what it allows and the instruction it is. -/
structure Slot where
  shape : Shape
  instr : Instr

/-- Reason 4 when a modifier bit outside `allow` is set (R171). -/
def only (allow : Nat) (m : BitVec 5) : Nat := if m &&& ~~~(BitVec.ofNat 5 allow) = 0 then 0 else 4
/-- Reason 10, a reserved code, when the condition holds. -/
def tenIf (b : Bool) : Nat := if b then 10 else 0
/-- Reason 4, a reserved bit, when the condition holds. -/
def fourIf (b : Bool) : Nat := if b then 4 else 0
/-- The first reason that is not 0. -/
def first : List Nat → Nat
  | [] => 0
  | x :: xs => if x = 0 then first xs else x

/-- The CSR check of R185: reason 3 for a second XI, 4 for set bits [9:3] of the XI, 8 for a number that is not assigned. -/
def csrBad (r : Raw) : Src × Nat :=
  if isCsr r.csrNum then (.base, 0)
  else match r.xis with
    | _ :: _ => if 0x1FF < r.csrNum.toNat then (.xi, 8) else (.base, 8)
    | [] => (.base, 8)

/-- Does the class name a register? -/
def Cls.isReg : Cls → Bool
  | .g | .f | .v | .t | .m => true
  | _ => false

/-- The checks of one register field of the base word: `bv` its base bits, `hv` its XR bits (R167). -/
def Cls.check (k : Cls) (bv : BitVec 3) (hv : BitVec 2) : List (Src × Nat) :=
  match k with
  | .none => [(.base, if bv = 0 then 0 else 4), (.xr, if hv = 0 then 0 else 4)]
  | .code | .imm => [(.xr, if hv = 0 then 0 else 4)]
  | .v => [(.xr, if hv.toNat ≤ 1 then 0 else 9)]
  | .t => [(.xr, if hv = 0 then 0 else 9)]
  | .m => [(.xr, if hv = 0 then 0 else 9), (.base, if bv.toNat ≤ 1 then 0 else 9)]
  | .g | .f | .code5 => []

/-- The check of the field c (R167). -/
def Cls.checkC (k : Cls) (c : BitVec 4) : Nat :=
  match k with
  | .none => if c = 0 then 0 else 4
  | .t => if c.toNat ≤ 7 then 0 else 9
  | _ => 0

/-- The sem values a class accepts (R132, R170): 0 relaxed, 1 acquire, 2 release, 3 acq_rel. -/
def SemUse.ok (k : SemUse) (s : BitVec 2) : Bool :=
  match k with
  | .relaxed => s == 0
  | .load | .xbwait => s == 0 || s == 1
  | .store | .xbarr => s == 0 || s == 2
  | .rmw => true
  | .fence => s != 0

/-- Every check of R167 .. R172 that needs the slot, each with the word it falls on and its reason (0: passed). R169 does not say whether
an instruction whose only register operand is a `t` or `m` register, which the base field always holds, needs XR: the model lets it carry an
XR of zeros (DESIGN CHOICE, log entry 58). -/
def checks (r : Raw) (s : Shape) : List (Src × Nat) :=
  [(.xp, match r.xp with | some x => if s.sem.ok x.sem then 0 else 7 | none => 0),
   (.xs, match r.xs, s.xs with
     | none, _ => 0
     | some _, .none => 3
     | some x, .mods => if x.reg = 0 then s.mod x.mod else 4
     | some x, .reg => s.mod x.mod),
   (.xr, match r.xr with
     | some _ => if s.d.isReg || s.a.isReg || s.b.isReg || s.c.isReg then 0 else 3
     | none => 0),
   (.xi, match s.xi with
     | .none => if r.xis = [] then 0 else 3
     | .csr => match r.xis with
       | x :: _ => if x.extractLsb' 3 7 = 0 then 0 else 4
       | [] => 0
     | _ => 0),
   (.xi2, match s.xi with
     | .one | .csr => if r.xis.length ≤ 1 then 0 else 3
     | _ => 0),
   (.xr, s.c.checkC r.c)]
  ++ s.d.check r.base.d r.xrv.d ++ s.a.check r.base.a r.xrv.a ++ s.b.check r.base.b r.xrv.b ++ s.extra

/-- The position of a word. -/
def Places.at (p : Places) : Src → Nat
  | .xp => p.xp
  | .xs => p.xs
  | .xr => p.xr
  | .xi => p.xi
  | .xi2 => p.xi2
  | .base => p.base

/-- The first failing check: the earliest word, and for one word the lowest reason (R175, R177). -/
def worst (p : Places) : List (Src × Nat) → Option (Nat × Nat)
  | [] => none
  | (w, n) :: rest =>
    match worst p rest with
    | none => if n = 0 then none else some (p.at w, n)
    | some (i, m) =>
      if n = 0 then some (i, m)
      else if p.at w < i || (p.at w == i && n < m) then some (p.at w, n) else some (i, m)

/-- Codes 4, 5 and 6 are the floating-point types (R171). -/
def isFp (ty : BitVec 3) : Bool := ty == 4#3 || ty == 5#3 || ty == 6#3
/-- fp32 or bf16. -/
def isFpWide (ty : BitVec 3) : Bool := ty == 4#3 || ty == 5#3
/-- The types of `vldx` and `vstx`: i32, i64, fp32 (R246). -/
def isIdxTy (ty : BitVec 3) : Bool := ty == 0#3 || ty == 3#3 || ty == 4#3

/-- The ratio of the lane widths of a `vfcvt` conversion (R238). -/
def cvtRatio (code : Nat) : Nat :=
  if code ≤ 3 then 2 else if code ≤ 5 then 1 else if code ≤ 9 then 4 else if code ≤ 13 then 2 else 1

/-! ## The opcode map -/

/-- The slots of page 0 (R181). -/
def slots0 (r : Raw) : Option Slot :=
  match r.base.maj.toNat with
  | 0 =>
    match r.base.f.toNat with
    | 0 => some ⟨{ d := .g, a := .g, b := .g, c := .none }, .add ⟨r.d, r.a, r.b⟩⟩
    | 1 => some ⟨{ d := .g, a := .g, b := .g, c := .none }, .sub ⟨r.d, r.a, r.b⟩⟩
    | 2 => some ⟨{ d := .g, a := .g, b := .g, c := .none }, .and ⟨r.d, r.a, r.b⟩⟩
    | 3 => some ⟨{ d := .g, a := .g, b := .g, c := .none }, .or ⟨r.d, r.a, r.b⟩⟩
    | 4 => some ⟨{ d := .g, a := .g, b := .g, c := .none }, .xor ⟨r.d, r.a, r.b⟩⟩
    | 5 => some ⟨{ d := .g, a := .g, b := .g, c := .none }, .andn ⟨r.d, r.a, r.b⟩⟩
    | 6 => some ⟨{ d := .g, a := .g, b := .g, c := .none }, .sll ⟨r.d, r.a, r.b⟩⟩
    | 7 => some ⟨{ d := .g, a := .g, b := .g, c := .none }, .srl ⟨r.d, r.a, r.b⟩⟩
    | _ => none
  | 1 =>
    match r.base.f.toNat with
    | 0 => some ⟨{ d := .g, a := .g, b := .g, c := .none }, .sra ⟨r.d, r.a, r.b⟩⟩
    | 1 => some ⟨{ d := .g, a := .g, b := .g, c := .none }, .rol ⟨r.d, r.a, r.b⟩⟩
    | 2 => some ⟨{ d := .g, a := .g, b := .g, c := .none }, .min ⟨r.d, r.a, r.b⟩⟩
    | 3 => some ⟨{ d := .g, a := .g, b := .g, c := .none }, .max ⟨r.d, r.a, r.b⟩⟩
    | 4 => some ⟨{ d := .g, a := .g, b := .g, c := .none }, .minn ⟨r.d, r.a, r.b⟩⟩
    | 5 => some ⟨{ d := .g, a := .g, b := .g, c := .none }, .maxn ⟨r.d, r.a, r.b⟩⟩
    | 6 => some ⟨{ d := .g, a := .g, b := .g, c := .none }, .mul ⟨r.d, r.a, r.b⟩⟩
    | 7 => some ⟨{ d := .g, a := .g, b := .g, c := .g }, .sel ⟨r.d, r.a, r.b, r.c⟩⟩
    | _ => none
  | 2 =>
    match r.base.f.toNat with
    | 0 => some ⟨{ d := .g, a := .g, b := .g, c := .none }, .cmpEq ⟨r.d, r.a, r.b⟩⟩
    | 1 => some ⟨{ d := .g, a := .g, b := .g, c := .none }, .cmpNe ⟨r.d, r.a, r.b⟩⟩
    | 2 => some ⟨{ d := .g, a := .g, b := .g, c := .none }, .cmpLt ⟨r.d, r.a, r.b⟩⟩
    | 3 => some ⟨{ d := .g, a := .g, b := .g, c := .none }, .cmpGe ⟨r.d, r.a, r.b⟩⟩
    | 4 => some ⟨{ d := .g, a := .g, b := .g, c := .none }, .cmpLtn ⟨r.d, r.a, r.b⟩⟩
    | 5 => some ⟨{ d := .g, a := .g, b := .g, c := .none }, .cmpGen ⟨r.d, r.a, r.b⟩⟩
    | 6 => some ⟨{ d := .g, a := .g, b := .g, c := .none }, .tst ⟨r.d, r.a, r.b⟩⟩
    | 7 => some ⟨{ d := .g, a := .g, b := .none, c := .none }, .mov ⟨r.d, r.a⟩⟩
    | _ => none
  | 3 =>
    match r.base.f.toNat with
    | 0 => some ⟨{ d := .g, a := .g, b := .none, c := .none }, .clz ⟨r.d, r.a⟩⟩
    | 1 => some ⟨{ d := .g, a := .g, b := .none, c := .none }, .ctz ⟨r.d, r.a⟩⟩
    | 2 => some ⟨{ d := .g, a := .g, b := .none, c := .none }, .popc ⟨r.d, r.a⟩⟩
    | 3 => some ⟨{ d := .g, a := .g, b := .code, c := .none, extra := [(.base, if 2 < r.base.b.toNat then 10 else 0)] }, .sext ⟨r.d, r.a, r.base.b⟩⟩
    | 4 => some ⟨{ d := .g, a := .g, b := .code, c := .none, extra := [(.base, if 2 < r.base.b.toNat then 10 else 0)] }, .zext ⟨r.d, r.a, r.base.b⟩⟩
    | 5 => some ⟨{ d := .g, a := .g, b := .none, c := .none }, .brev ⟨r.d, r.a⟩⟩
    | 6 => some ⟨{ d := .g, a := .g, b := .none, c := .none }, .bswap ⟨r.d, r.a⟩⟩
    | 7 => some ⟨{ d := .g, a := .g, b := .none, c := .none }, .neg ⟨r.d, r.a⟩⟩
    | _ => none
  | 4 => some ⟨{ d := .g, a := .g, b := .imm, c := .none, xi := .imm }, .addi ⟨r.d, r.a, r.immRI⟩⟩
  | 5 => some ⟨{ d := .g, a := .g, b := .imm, c := .none, xi := .imm }, .andi ⟨r.d, r.a, r.immRI⟩⟩
  | 6 => some ⟨{ d := .g, a := .g, b := .imm, c := .none, xi := .imm }, .ori ⟨r.d, r.a, r.immRI⟩⟩
  | 7 => some ⟨{ d := .g, a := .g, b := .imm, c := .none, xi := .imm }, .xori ⟨r.d, r.a, r.immRI⟩⟩
  | 8 => some ⟨{ d := .g, a := .g, b := .imm, c := .none }, .slli ⟨r.d, r.a, r.base.b ++ r.base.f⟩⟩
  | 9 => some ⟨{ d := .g, a := .g, b := .imm, c := .none }, .srli ⟨r.d, r.a, r.base.b ++ r.base.f⟩⟩
  | 10 => some ⟨{ d := .g, a := .g, b := .imm, c := .none }, .srai ⟨r.d, r.a, r.base.b ++ r.base.f⟩⟩
  | 11 => some ⟨{ d := .g, a := .imm, b := .imm, c := .none, xi := .imm }, .li ⟨r.d, r.immLI⟩⟩
  | 12 => some ⟨{ d := .g, a := .imm, b := .imm, c := .none, xi := .imm }, .bz ⟨r.d, r.immLI⟩⟩
  | 13 => some ⟨{ d := .g, a := .imm, b := .imm, c := .none, xi := .imm }, .bnz ⟨r.d, r.immLI⟩⟩
  | 14 =>
    match r.base.d.toNat with
    | 0 => some ⟨{ d := .imm, a := .imm, b := .imm, c := .none, xi := .imm }, .jmp ⟨r.immLI⟩⟩
    | 1 => some ⟨{ d := .imm, a := .imm, b := .imm, c := .none, xi := .imm }, .call ⟨r.immLI⟩⟩
    | 2 => some ⟨{ d := .imm, a := .g, b := .none, c := .none, extra := [(.base, if r.base.f = 0 then 0 else 4)] }, .jr ⟨r.a⟩⟩
    | 3 => some ⟨{ d := .imm, a := .imm, b := .imm, c := .none, extra := [(.base, if r.base.a = 0 ∧ r.base.b = 0 ∧ r.base.f = 0 then 0 else 4)] }, .ret⟩
    | 4 => some ⟨{ d := .imm, a := .imm, b := .imm, c := .none, extra := [(.base, if r.base.a = 0 ∧ r.base.b = 0 ∧ r.base.f = 0 then 0 else 4)] }, .nop⟩
    | 5 => some ⟨{ d := .imm, a := .imm, b := .imm, c := .none, extra := [(.base, if r.base.a = 0 ∧ r.base.b = 0 ∧ r.base.f = 0 then 0 else 4)] }, .done⟩
    | 6 => some ⟨{ d := .imm, a := .imm, b := .imm, c := .none, extra := [(.base, if r.base.a = 0 ∧ r.base.b = 0 ∧ r.base.f = 0 then 0 else 4)] }, .yield⟩
    | 7 => some ⟨{ d := .imm, a := .imm, b := .imm, c := .none }, .brk ⟨r.base.a ++ (r.base.b ++ r.base.f)⟩⟩
    | _ => none
  | _ => none

/-- The slots of page 1 (R181). -/
def slots1 (r : Raw) : Option Slot :=
  match r.base.maj.toNat with
  | 0 =>
    match r.base.f.toNat with
    | 0 => some ⟨{ d := .g, a := .g, b := .g, c := .none }, .mulh ⟨r.l, r.d, r.a, r.b⟩⟩
    | 1 => some ⟨{ d := .g, a := .g, b := .g, c := .none }, .mulhn ⟨r.l, r.d, r.a, r.b⟩⟩
    | 2 => some ⟨{ d := .g, a := .g, b := .g, c := .none }, .div ⟨r.l, r.d, r.a, r.b⟩⟩
    | 3 => some ⟨{ d := .g, a := .g, b := .g, c := .none }, .divn ⟨r.l, r.d, r.a, r.b⟩⟩
    | 4 => some ⟨{ d := .g, a := .g, b := .g, c := .none }, .rem ⟨r.l, r.d, r.a, r.b⟩⟩
    | 5 => some ⟨{ d := .g, a := .g, b := .g, c := .none }, .remn ⟨r.l, r.d, r.a, r.b⟩⟩
    | _ => none
  | 1 =>
    match r.base.f.toNat with
    | 0 => some ⟨{ d := .g, a := .g, b := .g, c := .none }, .fadd ⟨r.l, r.d, r.a, r.b⟩⟩
    | 1 => some ⟨{ d := .g, a := .g, b := .g, c := .none }, .fsub ⟨r.l, r.d, r.a, r.b⟩⟩
    | 2 => some ⟨{ d := .g, a := .g, b := .g, c := .none }, .fmul ⟨r.l, r.d, r.a, r.b⟩⟩
    | 3 => some ⟨{ d := .g, a := .g, b := .g, c := .none }, .fdiv ⟨r.l, r.d, r.a, r.b⟩⟩
    | 4 => some ⟨{ d := .g, a := .g, b := .g, c := .none }, .fmin ⟨r.l, r.d, r.a, r.b⟩⟩
    | 5 => some ⟨{ d := .g, a := .g, b := .g, c := .none }, .fmax ⟨r.l, r.d, r.a, r.b⟩⟩
    | 6 => some ⟨{ d := .g, a := .g, b := .none, c := .none }, .fsqrt ⟨r.l, r.d, r.a⟩⟩
    | 7 => some ⟨{ d := .g, a := .g, b := .g, c := .g }, .ffma ⟨r.l, r.d, r.a, r.b, r.c⟩⟩
    | _ => none
  | 2 =>
    match r.base.f.toNat with
    | 0 => some ⟨{ d := .g, a := .g, b := .g, c := .none, xs := .mods, mod := fun m => only 3 m }, .fcmp ⟨r.l, (r.mod 0).setWidth 2, r.d, r.a, r.b⟩⟩
    | 1 => some ⟨{ d := .g, a := .g, b := .none, c := .none }, .fclass ⟨r.l, r.d, r.a⟩⟩
    | 2 => some ⟨{ d := .g, a := .g, b := .g, c := .none }, .fsgn ⟨r.l, r.d, r.a, r.b⟩⟩
    | 3 => some ⟨{ d := .g, a := .g, b := .code, c := .none, xs := .mods, mod := fun m => first [only 7 m, tenIf (4 < (m.setWidth 3).toNat)] }, .fcvt ⟨r.l, (r.mod 0).setWidth 3, r.d, r.a, r.base.b⟩⟩
    | 4 => some ⟨{ d := .g, a := .g, b := .code, c := .none, extra := [(.base, if r.base.b = 7 then 10 else 0)] }, .fmov ⟨r.l, r.d, r.a, r.base.b⟩⟩
    | 5 => some ⟨{ d := .g, a := .imm, b := .imm, c := .none, xi := .imm }, .fli ⟨r.l, r.d, BitVec.ofNat 2 r.xis.length, r.fliImm⟩⟩
    | _ => none
  | _ => none

/-- The slots of page 2 (R181). -/
def slots2 (r : Raw) : Option Slot :=
  match r.base.maj.toNat with
  | 0 =>
    match r.base.f.toNat with
    | 0 => some ⟨{ d := .g, a := .g, b := .g, c := .none, xi := .imm }, .lea ⟨r.l, r.d, r.a, r.b, r.immRR⟩⟩
    | 1 => some ⟨{ d := .g, a := .g, b := .none, c := .none }, .coord ⟨r.l, r.d, r.a⟩⟩
    | 2 => some ⟨{ d := .g, a := .g, b := .g, c := .none }, .rect ⟨r.l, r.d, r.a, r.b⟩⟩
    | 3 => some ⟨{ d := .g, a := .g, b := .g, c := .none }, .inrect ⟨r.l, r.d, r.a, r.b⟩⟩
    | 4 => some ⟨{ d := .g, a := .g, b := .none, c := .none }, .myid ⟨r.l, r.d, r.a⟩⟩
    | 5 => some ⟨{ d := .g, a := .g, b := .none, c := .none }, .hashq ⟨r.l, r.d, r.a⟩⟩
    | 6 => some ⟨{ d := .g, a := .none, b := .none, c := .none }, .rdcyc ⟨r.l, r.d⟩⟩
    | _ => none
  | 1 => some ⟨{ d := .g, a := .imm, b := .imm, c := .none, xi := .csr, extra := [csrBad r] }, .csrrd ⟨r.l, r.d, r.csrNum⟩⟩
  | 2 => some ⟨{ d := .g, a := .imm, b := .imm, c := .none, xi := .csr, extra := [csrBad r] }, .csrwr ⟨r.l, r.d, r.csrNum⟩⟩
  | 3 =>
    match r.base.f.toNat with
    | 0 => some ⟨{ d := .g, a := .g, b := .g, c := .g }, .start ⟨r.l, r.d, r.a, r.b, r.c⟩⟩
    | 1 => some ⟨{ d := .g, a := .g, b := .none, c := .none }, .join ⟨r.l, r.d, r.a⟩⟩
    | 2 => some ⟨{ d := .g, a := .g, b := .none, c := .none }, .ctxq ⟨r.l, r.d, r.a⟩⟩
    | 3 => some ⟨{ d := .none, a := .none, b := .none, c := .none }, .sys ⟨r.l⟩⟩
    | _ => none
  | _ => none

/-- The slots of page 3 (R181). -/
def slots3 (r : Raw) : Option Slot :=
  match r.base.maj.toNat with
  | 0 =>
    match r.base.b.toNat with
    | 0 => some ⟨{ d := .g, a := .g, b := .imm, c := .none, xi := .imm, xs := .reg, mod := fun m => only 0 m, sem := .load }, .ldB ⟨r.l, r.sem, r.xsReg, r.d, r.a, r.immMI⟩⟩
    | 1 => some ⟨{ d := .g, a := .g, b := .imm, c := .none, xi := .imm, xs := .reg, mod := fun m => only 0 m, sem := .load }, .ldH ⟨r.l, r.sem, r.xsReg, r.d, r.a, r.immMI⟩⟩
    | 2 => some ⟨{ d := .g, a := .g, b := .imm, c := .none, xi := .imm, xs := .reg, mod := fun m => only 0 m, sem := .load }, .ldW ⟨r.l, r.sem, r.xsReg, r.d, r.a, r.immMI⟩⟩
    | 3 => some ⟨{ d := .g, a := .g, b := .imm, c := .none, xi := .imm, xs := .reg, mod := fun m => only 0 m, sem := .load }, .ldD ⟨r.l, r.sem, r.xsReg, r.d, r.a, r.immMI⟩⟩
    | 4 => some ⟨{ d := .g, a := .g, b := .imm, c := .none, xi := .imm, xs := .reg, mod := fun m => only 0 m, sem := .load }, .ldBs ⟨r.l, r.sem, r.xsReg, r.d, r.a, r.immMI⟩⟩
    | 5 => some ⟨{ d := .g, a := .g, b := .imm, c := .none, xi := .imm, xs := .reg, mod := fun m => only 0 m, sem := .load }, .ldHs ⟨r.l, r.sem, r.xsReg, r.d, r.a, r.immMI⟩⟩
    | 6 => some ⟨{ d := .g, a := .g, b := .imm, c := .none, xi := .imm, xs := .reg, mod := fun m => only 0 m, sem := .load }, .ldWs ⟨r.l, r.sem, r.xsReg, r.d, r.a, r.immMI⟩⟩
    | _ => none
  | 1 =>
    match r.base.b.toNat with
    | 0 => some ⟨{ d := .g, a := .g, b := .imm, c := .none, xi := .imm, xs := .reg, mod := fun m => only 0 m, sem := .store }, .stB ⟨r.l, r.sem, r.xsReg, r.d, r.a, r.immMI⟩⟩
    | 1 => some ⟨{ d := .g, a := .g, b := .imm, c := .none, xi := .imm, xs := .reg, mod := fun m => only 0 m, sem := .store }, .stH ⟨r.l, r.sem, r.xsReg, r.d, r.a, r.immMI⟩⟩
    | 2 => some ⟨{ d := .g, a := .g, b := .imm, c := .none, xi := .imm, xs := .reg, mod := fun m => only 0 m, sem := .store }, .stW ⟨r.l, r.sem, r.xsReg, r.d, r.a, r.immMI⟩⟩
    | 3 => some ⟨{ d := .g, a := .g, b := .imm, c := .none, xi := .imm, xs := .reg, mod := fun m => only 0 m, sem := .store }, .stD ⟨r.l, r.sem, r.xsReg, r.d, r.a, r.immMI⟩⟩
    | _ => none
  | 2 =>
    match r.base.b.toNat with
    | 0 => some ⟨{ d := .g, a := .g, b := .imm, c := .none, xi := .imm, xs := .reg, mod := fun m => only 0 m, sem := .rmw }, .ldf ⟨r.l, r.sem, r.xsReg, r.d, r.a, r.immMI⟩⟩
    | 1 => some ⟨{ d := .g, a := .g, b := .imm, c := .none, xi := .imm, xs := .reg, mod := fun m => only 0 m, sem := .rmw }, .ldfTake ⟨r.l, r.sem, r.xsReg, r.d, r.a, r.immMI⟩⟩
    | 2 => some ⟨{ d := .g, a := .g, b := .imm, c := .none, xi := .imm, xs := .reg, mod := fun m => only 0 m, sem := .rmw }, .ste ⟨r.l, r.sem, r.xsReg, r.d, r.a, r.immMI⟩⟩
    | 3 => some ⟨{ d := .g, a := .g, b := .imm, c := .none, xi := .imm, xs := .reg, mod := fun m => only 0 m, sem := .rmw }, .stf ⟨r.l, r.sem, r.xsReg, r.d, r.a, r.immMI⟩⟩
    | 4 => some ⟨{ d := .none, a := .g, b := .imm, c := .none, xi := .imm, xs := .reg, mod := fun m => only 0 m, sem := .rmw }, .tagclr ⟨r.l, r.sem, r.xsReg, r.a, r.immMI⟩⟩
    | 5 => some ⟨{ d := .g, a := .g, b := .imm, c := .none, xi := .imm, xs := .reg, mod := fun m => only 0 m, sem := .rmw }, .tagrd ⟨r.l, r.sem, r.xsReg, r.d, r.a, r.immMI⟩⟩
    | _ => none
  | 3 =>
    match r.base.b.toNat with
    | 0 => some ⟨{ d := .g, a := .g, b := .imm, c := .none, xi := .imm, xs := .reg, mod := fun m => only 0 m, sem := .load }, .fld ⟨r.l, r.sem, r.xsReg, r.d, r.a, r.immMI⟩⟩
    | 1 => some ⟨{ d := .g, a := .g, b := .imm, c := .none, xi := .imm, xs := .reg, mod := fun m => only 0 m, sem := .store }, .fst ⟨r.l, r.sem, r.xsReg, r.d, r.a, r.immMI⟩⟩
    | _ => none
  | 4 =>
    match r.base.f.toNat with
    | 0 => some ⟨{ d := .none, a := .g, b := .none, c := .none }, .pf ⟨r.l, r.a⟩⟩
    | 1 => some ⟨{ d := .none, a := .g, b := .g, c := .none, xs := .reg, mod := fun m => only 0 m }, .cinv ⟨r.l, r.xsReg, r.a, r.b⟩⟩
    | 2 => some ⟨{ d := .none, a := .g, b := .g, c := .none, xs := .reg, mod := fun m => only 0 m }, .cwb ⟨r.l, r.xsReg, r.a, r.b⟩⟩
    | _ => none
  | _ => none

/-- The slots of page 4 (R181). -/
def slots4 (r : Raw) : Option Slot :=
  match r.base.maj.toNat with
  | 0 =>
    match r.base.f.toNat with
    | 0 => some ⟨{ d := .g, a := .g, b := .g, c := .none, xs := .reg, mod := fun m => only 1 m, sem := .rmw }, .amoAdd ⟨r.l, r.sem, r.xsReg, (r.mod 0).getLsbD 0, r.d, r.a, r.b⟩⟩
    | 1 => some ⟨{ d := .g, a := .g, b := .g, c := .none, xs := .reg, mod := fun m => only 1 m, sem := .rmw }, .amoAnd ⟨r.l, r.sem, r.xsReg, (r.mod 0).getLsbD 0, r.d, r.a, r.b⟩⟩
    | 2 => some ⟨{ d := .g, a := .g, b := .g, c := .none, xs := .reg, mod := fun m => only 1 m, sem := .rmw }, .amoOr ⟨r.l, r.sem, r.xsReg, (r.mod 0).getLsbD 0, r.d, r.a, r.b⟩⟩
    | 3 => some ⟨{ d := .g, a := .g, b := .g, c := .none, xs := .reg, mod := fun m => only 1 m, sem := .rmw }, .amoXor ⟨r.l, r.sem, r.xsReg, (r.mod 0).getLsbD 0, r.d, r.a, r.b⟩⟩
    | 4 => some ⟨{ d := .g, a := .g, b := .g, c := .none, xs := .reg, mod := fun m => only 1 m, sem := .rmw }, .amoMin ⟨r.l, r.sem, r.xsReg, (r.mod 0).getLsbD 0, r.d, r.a, r.b⟩⟩
    | 5 => some ⟨{ d := .g, a := .g, b := .g, c := .none, xs := .reg, mod := fun m => only 1 m, sem := .rmw }, .amoMax ⟨r.l, r.sem, r.xsReg, (r.mod 0).getLsbD 0, r.d, r.a, r.b⟩⟩
    | 6 => some ⟨{ d := .g, a := .g, b := .g, c := .none, xs := .reg, mod := fun m => only 1 m, sem := .rmw }, .amoMinn ⟨r.l, r.sem, r.xsReg, (r.mod 0).getLsbD 0, r.d, r.a, r.b⟩⟩
    | 7 => some ⟨{ d := .g, a := .g, b := .g, c := .none, xs := .reg, mod := fun m => only 1 m, sem := .rmw }, .amoMaxn ⟨r.l, r.sem, r.xsReg, (r.mod 0).getLsbD 0, r.d, r.a, r.b⟩⟩
    | _ => none
  | 1 =>
    match r.base.f.toNat with
    | 0 => some ⟨{ d := .g, a := .g, b := .g, c := .none, xs := .reg, mod := fun m => only 1 m, sem := .rmw }, .swap ⟨r.l, r.sem, r.xsReg, (r.mod 0).getLsbD 0, r.d, r.a, r.b⟩⟩
    | 1 => some ⟨{ d := .g, a := .g, b := .g, c := .g, xs := .reg, mod := fun m => only 1 m, sem := .rmw }, .cas ⟨r.l, r.sem, r.xsReg, (r.mod 0).getLsbD 0, r.d, r.a, r.b, r.c⟩⟩
    | 2 => some ⟨{ d := .g, a := .g, b := .g, c := .none, xs := .reg, mod := fun m => only 0 m, sem := .rmw }, .famoAdd ⟨r.l, r.sem, r.xsReg, r.d, r.a, r.b⟩⟩
    | 3 => some ⟨{ d := .none, a := .g, b := .g, c := .none, xs := .reg, mod := fun m => only 15 m, sem := .rmw }, .red ⟨r.l, r.sem, r.xsReg, (r.mod 0).getLsbD 0, (r.mod 0).extractLsb' 1 3, r.a, r.b⟩⟩
    | 4 => some ⟨{ d := .none, a := .g, b := .g, c := .none, xs := .reg, mod := fun m => only 0 m, sem := .rmw }, .fredAdd ⟨r.l, r.sem, r.xsReg, r.a, r.b⟩⟩
    | 5 => some ⟨{ d := .v, a := .g, b := .g, c := .g, xs := .reg, mod := fun m => only 0 m, sem := .rmw }, .post ⟨r.l, r.sem, r.xsReg, (r.d.setWidth 4), r.a, r.b, r.c⟩⟩
    | 6 => some ⟨{ d := .g, a := .g, b := .g, c := .none, xs := .reg, mod := fun m => only 0 m, sem := .rmw }, .nbctl ⟨r.l, r.sem, r.xsReg, r.d, r.a, r.b⟩⟩
    | _ => none
  | 2 =>
    match r.base.f.toNat with
    | 0 => some ⟨{ d := .none, a := .none, b := .none, c := .none, xs := .reg, mod := fun m => only 0 m, sem := .fence }, .fence ⟨r.l, r.sem, r.xsReg⟩⟩
    | _ => none
  | _ => none

/-- The slots of page 5 (R181). -/
def slots5 (r : Raw) : Option Slot :=
  match r.base.maj.toNat with
  | 0 =>
    match r.base.f.toNat with
    | 0 => some ⟨{ d := .v, a := .v, b := .v, c := .none, xs := .mods, mod := fun m => first [only 15 m, tenIf (3 < (m.setWidth 3).toNat)] }, .vadd ⟨r.l, (r.mod 0).setWidth 3, (r.mod 0).getLsbD 3, (r.d.setWidth 4), (r.a.setWidth 4), (r.b.setWidth 4)⟩⟩
    | 1 => some ⟨{ d := .v, a := .v, b := .v, c := .none, xs := .mods, mod := fun m => first [only 15 m, tenIf (3 < (m.setWidth 3).toNat)] }, .vsub ⟨r.l, (r.mod 0).setWidth 3, (r.mod 0).getLsbD 3, (r.d.setWidth 4), (r.a.setWidth 4), (r.b.setWidth 4)⟩⟩
    | 2 => some ⟨{ d := .v, a := .v, b := .v, c := .none, xs := .mods, mod := fun m => first [only 15 m, tenIf (3 < (m.setWidth 3).toNat)] }, .vmul ⟨r.l, (r.mod 0).setWidth 3, (r.mod 0).getLsbD 3, (r.d.setWidth 4), (r.a.setWidth 4), (r.b.setWidth 4)⟩⟩
    | 3 => some ⟨{ d := .v, a := .v, b := .v, c := .none, xs := .mods, mod := fun m => first [only 7 m, tenIf (3 < (m.setWidth 3).toNat)] }, .vmin ⟨r.l, (r.mod 0).setWidth 3, (r.mod 0).getLsbD 3, (r.d.setWidth 4), (r.a.setWidth 4), (r.b.setWidth 4)⟩⟩
    | 4 => some ⟨{ d := .v, a := .v, b := .v, c := .none, xs := .mods, mod := fun m => first [only 7 m, tenIf (3 < (m.setWidth 3).toNat)] }, .vmax ⟨r.l, (r.mod 0).setWidth 3, (r.mod 0).getLsbD 3, (r.d.setWidth 4), (r.a.setWidth 4), (r.b.setWidth 4)⟩⟩
    | 5 => some ⟨{ d := .v, a := .v, b := .v, c := .none, xs := .mods, mod := fun m => first [only 7 m, tenIf (3 < (m.setWidth 3).toNat)] }, .vand ⟨r.l, (r.mod 0).setWidth 3, (r.mod 0).getLsbD 3, (r.d.setWidth 4), (r.a.setWidth 4), (r.b.setWidth 4)⟩⟩
    | 6 => some ⟨{ d := .v, a := .v, b := .v, c := .none, xs := .mods, mod := fun m => first [only 7 m, tenIf (3 < (m.setWidth 3).toNat)] }, .vor ⟨r.l, (r.mod 0).setWidth 3, (r.mod 0).getLsbD 3, (r.d.setWidth 4), (r.a.setWidth 4), (r.b.setWidth 4)⟩⟩
    | 7 => some ⟨{ d := .v, a := .v, b := .v, c := .none, xs := .mods, mod := fun m => first [only 7 m, tenIf (3 < (m.setWidth 3).toNat)] }, .vxor ⟨r.l, (r.mod 0).setWidth 3, (r.mod 0).getLsbD 3, (r.d.setWidth 4), (r.a.setWidth 4), (r.b.setWidth 4)⟩⟩
    | _ => none
  | 1 =>
    match r.base.f.toNat with
    | 0 => some ⟨{ d := .v, a := .v, b := .v, c := .none, xs := .mods, mod := fun m => first [only 15 m, tenIf (3 < (m.setWidth 3).toNat)] }, .vshl ⟨r.l, (r.mod 0).setWidth 3, (r.mod 0).getLsbD 3, (r.d.setWidth 4), (r.a.setWidth 4), (r.b.setWidth 4)⟩⟩
    | 1 => some ⟨{ d := .v, a := .v, b := .v, c := .none, xs := .mods, mod := fun m => first [only 7 m, tenIf (3 < (m.setWidth 3).toNat)] }, .vshr ⟨r.l, (r.mod 0).setWidth 3, (r.mod 0).getLsbD 3, (r.d.setWidth 4), (r.a.setWidth 4), (r.b.setWidth 4)⟩⟩
    | 2 => some ⟨{ d := .v, a := .v, b := .v, c := .none, xs := .mods, mod := fun m => first [only 7 m, tenIf (3 < (m.setWidth 3).toNat)] }, .vsha ⟨r.l, (r.mod 0).setWidth 3, (r.mod 0).getLsbD 3, (r.d.setWidth 4), (r.a.setWidth 4), (r.b.setWidth 4)⟩⟩
    | 3 => some ⟨{ d := .v, a := .v, b := .v, c := .code, xs := .mods, mod := fun m => first [only 7 m, tenIf (3 < (m.setWidth 3).toNat)], extra := [(.xr, if 5 < r.c.toNat then 10 else 0)] }, .vcmp ⟨r.l, (r.mod 0).setWidth 3, r.c, (r.d.setWidth 4), (r.a.setWidth 4), (r.b.setWidth 4)⟩⟩
    | 4 => some ⟨{ d := .v, a := .v, b := .v, c := .v, xs := .mods, mod := fun m => first [only 7 m, tenIf (3 < (m.setWidth 3).toNat)] }, .vsel ⟨r.l, (r.mod 0).setWidth 3, (r.d.setWidth 4), (r.a.setWidth 4), (r.b.setWidth 4), r.c⟩⟩
    | 5 => some ⟨{ d := .v, a := .v, b := .none, c := .none, xs := .mods, mod := fun m => first [only 15 m, tenIf (3 < (m.setWidth 3).toNat)] }, .vabs ⟨r.l, (r.mod 0).setWidth 3, (r.mod 0).getLsbD 3, (r.d.setWidth 4), (r.a.setWidth 4)⟩⟩
    | 6 => some ⟨{ d := .v, a := .v, b := .v, c := .none, xs := .mods, mod := fun m => first [only 15 m, tenIf (3 < (m.setWidth 3).toNat)] }, .vmac ⟨r.l, (r.mod 0).setWidth 3, (r.mod 0).getLsbD 3, (r.d.setWidth 4), (r.a.setWidth 4), (r.b.setWidth 4)⟩⟩
    | 7 => some ⟨{ d := .v, a := .g, b := .none, c := .none, xs := .mods, mod := fun m => first [only 7 m, tenIf (3 < (m.setWidth 3).toNat)] }, .vsplat ⟨r.l, (r.mod 0).setWidth 3, (r.d.setWidth 4), r.a⟩⟩
    | _ => none
  | _ => none

/-- The slots of page 6 (R181). -/
def slots6 (r : Raw) : Option Slot :=
  match r.base.maj.toNat with
  | 0 =>
    match r.base.f.toNat with
    | 0 => some ⟨{ d := .v, a := .v, b := .v, c := .none, xs := .mods, mod := fun m => first [only 7 m, tenIf (!isFp (m.setWidth 3))] }, .vfadd ⟨r.l, (r.mod 4).setWidth 3, (r.d.setWidth 4), (r.a.setWidth 4), (r.b.setWidth 4)⟩⟩
    | 1 => some ⟨{ d := .v, a := .v, b := .v, c := .none, xs := .mods, mod := fun m => first [only 7 m, tenIf (!isFp (m.setWidth 3))] }, .vfsub ⟨r.l, (r.mod 4).setWidth 3, (r.d.setWidth 4), (r.a.setWidth 4), (r.b.setWidth 4)⟩⟩
    | 2 => some ⟨{ d := .v, a := .v, b := .v, c := .none, xs := .mods, mod := fun m => first [only 7 m, tenIf (!isFp (m.setWidth 3))] }, .vfmul ⟨r.l, (r.mod 4).setWidth 3, (r.d.setWidth 4), (r.a.setWidth 4), (r.b.setWidth 4)⟩⟩
    | 3 => some ⟨{ d := .v, a := .v, b := .v, c := .v, xs := .mods, mod := fun m => first [only 7 m, tenIf (!isFp (m.setWidth 3))] }, .vffma ⟨r.l, (r.mod 4).setWidth 3, (r.d.setWidth 4), (r.a.setWidth 4), (r.b.setWidth 4), r.c⟩⟩
    | 4 => some ⟨{ d := .v, a := .v, b := .v, c := .none, xs := .mods, mod := fun m => first [only 7 m, tenIf (!isFp (m.setWidth 3))] }, .vfmin ⟨r.l, (r.mod 4).setWidth 3, (r.d.setWidth 4), (r.a.setWidth 4), (r.b.setWidth 4)⟩⟩
    | 5 => some ⟨{ d := .v, a := .v, b := .v, c := .none, xs := .mods, mod := fun m => first [only 7 m, tenIf (!isFp (m.setWidth 3))] }, .vfmax ⟨r.l, (r.mod 4).setWidth 3, (r.d.setWidth 4), (r.a.setWidth 4), (r.b.setWidth 4)⟩⟩
    | 6 => some ⟨{ d := .v, a := .v, b := .v, c := .none, xs := .mods, mod := fun m => tenIf (!isFp (m.setWidth 3)) }, .vfcmp ⟨r.l, (r.mod 4).setWidth 3, (r.mod 4).extractLsb' 3 2, (r.d.setWidth 4), (r.a.setWidth 4), (r.b.setWidth 4)⟩⟩
    | 7 => some ⟨{ d := .v, a := .v, b := .code5, c := .code, xs := .mods, mod := fun m => first [tenIf ((m.setWidth 3) != 4#3), tenIf (r.b.toNat < 16 && decide (cvtRatio r.b.toNat ≤ (m.extractLsb' 3 2).toNat))], extra := [(if 1 < r.bh.toNat then .xr else .base, if 15 < r.b.toNat then 10 else 0), (.xr, if 4 < r.c.toNat then 10 else 0)] }, .vfcvt ⟨r.l, r.b, r.c, (r.mod 4).extractLsb' 3 2, (r.d.setWidth 4), (r.a.setWidth 4)⟩⟩
    | _ => none
  | 1 =>
    match r.base.f.toNat with
    | 0 => some ⟨{ d := .v, a := .v, b := .none, c := .none, xs := .mods, mod := fun m => tenIf (!isFpWide (m.setWidth 3) || (m.extractLsb' 3 2) == 3#2) }, .vqmx ⟨r.l, (r.mod 4).setWidth 3, (r.mod 4).extractLsb' 3 2, (r.d.setWidth 4), (r.a.setWidth 4)⟩⟩
    | 1 => some ⟨{ d := .v, a := .v, b := .none, c := .none, xs := .mods, mod := fun m => tenIf (!isFpWide (m.setWidth 3) || (m.extractLsb' 3 2) == 3#2) }, .vdqmx ⟨r.l, (r.mod 4).setWidth 3, (r.mod 4).extractLsb' 3 2, (r.d.setWidth 4), (r.a.setWidth 4)⟩⟩
    | 2 => some ⟨{ d := .v, a := .v, b := .v, c := .none, xs := .mods, mod := fun m => first [fourIf ((m.setWidth 3) == 5#3 && m.getLsbD 4), tenIf (!isFpWide (m.setWidth 3))] }, .vcode ⟨r.l, (r.mod 4).setWidth 3, (r.mod 4).extractLsb' 3 2, (r.d.setWidth 4), (r.a.setWidth 4), (r.b.setWidth 4)⟩⟩
    | 3 => some ⟨{ d := .v, a := .v, b := .v, c := .none, xs := .mods, mod := fun m => first [fourIf ((m.setWidth 3) == 5#3 && m.getLsbD 4), tenIf (!isFpWide (m.setWidth 3))] }, .vdecode ⟨r.l, (r.mod 4).setWidth 3, (r.mod 4).extractLsb' 3 2, (r.d.setWidth 4), (r.a.setWidth 4), (r.b.setWidth 4)⟩⟩
    | 4 => some ⟨{ d := .v, a := .v, b := .none, c := .none, xs := .mods, mod := fun m => first [only 7 m, tenIf ((m.setWidth 3) != 4#3)] }, .vexp2 ⟨r.l, (r.d.setWidth 4), (r.a.setWidth 4)⟩⟩
    | 5 => some ⟨{ d := .v, a := .v, b := .none, c := .none, xs := .mods, mod := fun m => first [only 7 m, tenIf ((m.setWidth 3) != 4#3)] }, .vrcp ⟨r.l, (r.d.setWidth 4), (r.a.setWidth 4)⟩⟩
    | 6 => some ⟨{ d := .v, a := .v, b := .none, c := .none, xs := .mods, mod := fun m => first [only 7 m, tenIf ((m.setWidth 3) != 4#3)] }, .vrsq ⟨r.l, (r.d.setWidth 4), (r.a.setWidth 4)⟩⟩
    | _ => none
  | _ => none

/-- The slots of page 7 (R181). -/
def slots7 (r : Raw) : Option Slot :=
  match r.base.maj.toNat with
  | 0 =>
    match r.base.b.toNat with
    | 0 => some ⟨{ d := .v, a := .g, b := .imm, c := .none, xi := .imm, xs := .reg, mod := fun m => only 0 m, sem := .load }, .vld ⟨r.l, r.sem, r.xsReg, (r.d.setWidth 4), r.a, r.immMI⟩⟩
    | 1 => some ⟨{ d := .v, a := .g, b := .imm, c := .none, xi := .imm, xs := .reg, mod := fun m => only 0 m, sem := .store }, .vst ⟨r.l, r.sem, r.xsReg, (r.d.setWidth 4), r.a, r.immMI⟩⟩
    | 2 => some ⟨{ d := .v, a := .g, b := .imm, c := .v, xi := .imm, xs := .reg, mod := fun m => first [only 7 m, tenIf (!isIdxTy (m.setWidth 3))], sem := .load }, .vldx ⟨r.l, r.sem, r.xsReg, (r.mod 0).setWidth 3, (r.d.setWidth 4), r.a, r.immMI, r.c⟩⟩
    | 3 => some ⟨{ d := .v, a := .g, b := .imm, c := .v, xi := .imm, xs := .reg, mod := fun m => first [only 7 m, tenIf (!isIdxTy (m.setWidth 3))], sem := .store }, .vstx ⟨r.l, r.sem, r.xsReg, (r.mod 0).setWidth 3, (r.d.setWidth 4), r.a, r.immMI, r.c⟩⟩
    | 4 => some ⟨{ d := .v, a := .g, b := .imm, c := .none, xi := .imm, xs := .reg, mod := fun m => first [only 7 m, tenIf ((m.setWidth 3) == 7#3)], sem := .load }, .vldb ⟨r.l, r.sem, r.xsReg, (r.mod 0).setWidth 3, (r.d.setWidth 4), r.a, r.immMI⟩⟩
    | 5 => some ⟨{ d := .v, a := .g, b := .imm, c := .v, xi := .imm, xs := .reg, mod := fun m => first [only 7 m, tenIf ((m.setWidth 3) == 7#3)], sem := .store }, .vstm ⟨r.l, r.sem, r.xsReg, (r.mod 0).setWidth 3, (r.d.setWidth 4), r.a, r.immMI, r.c⟩⟩
    | 6 => some ⟨{ d := .v, a := .g, b := .imm, c := .g, xi := .imm, xs := .reg, mod := fun m => only 0 m, sem := .store }, .vspst ⟨r.l, r.sem, r.xsReg, (r.d.setWidth 4), r.a, r.immMI, r.c⟩⟩
    | 7 => some ⟨{ d := .v, a := .g, b := .imm, c := .g, xi := .imm, xs := .reg, mod := fun m => only 0 m, sem := .load }, .vspld ⟨r.l, r.sem, r.xsReg, (r.d.setWidth 4), r.a, r.immMI, r.c⟩⟩
    | _ => none
  | _ => none

/-- The slots of page 8 (R181). -/
def slots8 (r : Raw) : Option Slot :=
  match r.base.maj.toNat with
  | 0 =>
    match r.base.f.toNat with
    | 0 => some ⟨{ d := .g, a := .v, b := .code, c := .none, xs := .mods, mod := fun m => first [only 7 m, tenIf ((m.setWidth 3) == 7#3)], extra := [(.base, if isFp ((r.mod 0).setWidth 3) && decide (2 < r.base.b.toNat) then 10 else 0)] }, .vred ⟨r.l, (r.mod 0).setWidth 3, r.base.b, r.d, (r.a.setWidth 4)⟩⟩
    | 1 => some ⟨{ d := .v, a := .v, b := .v, c := .none, xs := .mods, mod := fun m => first [only 7 m, tenIf ((m.setWidth 3) == 7#3)] }, .vperm ⟨r.l, (r.mod 0).setWidth 3, (r.d.setWidth 4), (r.a.setWidth 4), (r.b.setWidth 4)⟩⟩
    | 2 => some ⟨{ d := .v, a := .g, b := .g, c := .none, xs := .mods, mod := fun m => first [only 7 m, tenIf ((m.setWidth 3) == 7#3)] }, .vins ⟨r.l, (r.mod 0).setWidth 3, (r.d.setWidth 4), r.a, r.b⟩⟩
    | 3 => some ⟨{ d := .g, a := .v, b := .g, c := .none, xs := .mods, mod := fun m => first [only 7 m, tenIf ((m.setWidth 3) == 7#3)] }, .vext ⟨r.l, (r.mod 0).setWidth 3, r.d, (r.a.setWidth 4), r.b⟩⟩
    | 4 => some ⟨{ d := .v, a := .g, b := .g, c := (if (r.mod 0).getLsbD 0 then .none else .v), xs := .mods, mod := fun m => only 3 m }, .vscma ⟨r.l, (r.mod 0).getLsbD 0, (r.mod 0).getLsbD 1, (r.d.setWidth 4), r.a, r.b, r.c⟩⟩
    | 5 => some ⟨{ d := .v, a := .g, b := .g, c := .g, xs := .mods, mod := fun m => only 1 m }, .sdenc ⟨r.l, (r.mod 0).getLsbD 0, (r.d.setWidth 4), r.a, r.b, r.c⟩⟩
    | _ => none
  | _ => none

/-- The slots of page 9 (R181). -/
def slots9 (r : Raw) : Option Slot :=
  match r.base.maj.toNat with
  | 0 =>
    match r.base.f.toNat with
    | 0 => some ⟨{ d := .t, a := .g, b := .g, c := .none, xs := .mods, mod := fun m => only 0 m }, .tld ⟨r.l, (r.d.setWidth 3), r.a, r.b⟩⟩
    | 1 => some ⟨{ d := .t, a := .g, b := .g, c := .none, xs := .mods, mod := fun m => only 0 m }, .tstTile ⟨r.l, (r.d.setWidth 3), r.a, r.b⟩⟩
    | 2 => some ⟨{ d := .v, a := .t, b := .g, c := .none, xs := .mods, mod := fun m => first [only 7 m, fourIf (!m.getLsbD 0 && (m.extractLsb' 1 2) != 0#2)] }, .tget ⟨r.l, (r.mod 0).getLsbD 0, (r.mod 0).extractLsb' 1 2, (r.d.setWidth 4), (r.a.setWidth 3), r.b⟩⟩
    | 3 => some ⟨{ d := .t, a := .v, b := .g, c := .none, xs := .mods, mod := fun m => first [only 7 m, fourIf (!m.getLsbD 0 && (m.extractLsb' 1 2) != 0#2)] }, .tset ⟨r.l, (r.mod 0).getLsbD 0, (r.mod 0).extractLsb' 1 2, (r.d.setWidth 3), (r.a.setWidth 4), r.b⟩⟩
    | 4 =>
      if (r.mod 0).setWidth 2 = 1#2 then some ⟨{ d := .none, a := .none, b := .g, c := .none, xs := .mods, mod := fun m => first [only 7 m, fourIf (m.getLsbD 2 && !m.getLsbD 0), tenIf ((m.setWidth 2) == 3#2)] }, .tzeroAcc ⟨r.l, (r.mod 0).getLsbD 2, r.b⟩⟩
      else if (r.mod 0).setWidth 2 = 2#2 then some ⟨{ d := .none, a := .g, b := .g, c := .none, xs := .mods, mod := fun m => first [only 7 m, fourIf (m.getLsbD 2 && !m.getLsbD 0), tenIf ((m.setWidth 2) == 3#2)] }, .tzeroX ⟨r.l, r.a, r.b⟩⟩
      else some ⟨{ d := .t, a := .none, b := .g, c := .none, xs := .mods, mod := fun m => first [only 7 m, fourIf (m.getLsbD 2 && !m.getLsbD 0), tenIf ((m.setWidth 2) == 3#2)] }, .tzeroT ⟨r.l, (r.d.setWidth 3), r.b⟩⟩
    | 5 => some ⟨{ d := .m, a := .g, b := .none, c := .none, xs := .mods, mod := fun m => first [only 3 m, tenIf ((m.setWidth 2) == 3#2)] }, .mcld ⟨r.l, (r.mod 0).setWidth 2, (r.d.setWidth 1), r.a⟩⟩
    | 6 => some ⟨{ d := .m, a := .v, b := .none, c := .none }, .mctab ⟨r.l, (r.d.setWidth 1), (r.a.setWidth 4)⟩⟩
    | 7 => some ⟨{ d := .t, a := .none, b := .none, c := .none, xs := .mods, mod := fun m => first [only 7 m, tenIf ((m.setWidth 2) == 3#2 || ((m.setWidth 2) == 0#2 && m.getLsbD 2))] }, .mdrain ⟨r.l, (r.mod 0).setWidth 2, (r.mod 0).getLsbD 2, (r.d.setWidth 3)⟩⟩
    | _ => none
  | 1 =>
    match r.base.f.toNat with
    | 0 => some ⟨{ d := .none, a := .t, b := .m, c := .v, xs := .reg, mod := fun m => only 3 m }, .mmaI8c ⟨r.l, r.xsReg, (r.mod 0).getLsbD 0, (r.mod 0).getLsbD 1, (r.a.setWidth 3), (r.b.setWidth 1), r.c⟩⟩
    | 1 => some ⟨{ d := .none, a := .t, b := .m, c := .v, xs := .reg, mod := fun m => only 3 m }, .mmaI4c ⟨r.l, r.xsReg, (r.mod 0).getLsbD 0, (r.mod 0).getLsbD 1, (r.a.setWidth 3), (r.b.setWidth 1), r.c⟩⟩
    | 2 => some ⟨{ d := .none, a := .t, b := .m, c := .v, xs := .reg, mod := fun m => only 3 m, extra := [(.base, if r.base.a.getLsbD 0 then 9 else 0)] }, .mmaBfc ⟨r.l, r.xsReg, (r.mod 0).getLsbD 0, (r.mod 0).getLsbD 1, (r.a.setWidth 3), (r.b.setWidth 1), r.c⟩⟩
    | 3 => some ⟨{ d := .none, a := .t, b := .m, c := .v, xs := .reg, mod := fun m => only 3 m }, .mmaE2x ⟨r.l, r.xsReg, (r.mod 0).getLsbD 0, (r.mod 0).getLsbD 1, (r.a.setWidth 3), (r.b.setWidth 1), r.c⟩⟩
    | 4 => some ⟨{ d := .none, a := .t, b := .m, c := .v, xs := .reg, mod := fun m => only 3 m }, .mmaE4x ⟨r.l, r.xsReg, (r.mod 0).getLsbD 0, (r.mod 0).getLsbD 1, (r.a.setWidth 3), (r.b.setWidth 1), r.c⟩⟩
    | 5 => some ⟨{ d := .none, a := .t, b := .m, c := .v, xs := .reg, mod := fun m => only 3 m }, .mmaE5x ⟨r.l, r.xsReg, (r.mod 0).getLsbD 0, (r.mod 0).getLsbD 1, (r.a.setWidth 3), (r.b.setWidth 1), r.c⟩⟩
    | 6 => some ⟨{ d := .none, a := .t, b := .m, c := .v, xs := .reg, mod := fun m => only 3 m, extra := [(.base, if r.base.b.getLsbD 0 then 9 else 0)] }, .mmaI8i8 ⟨r.l, r.xsReg, (r.mod 0).getLsbD 0, (r.mod 0).getLsbD 1, (r.a.setWidth 3), (r.b.setWidth 1), r.c⟩⟩
    | _ => none
  | 2 =>
    match r.base.f.toNat with
    | 0 => some ⟨{ d := .none, a := .g, b := .none, c := .none }, .xacc ⟨r.l, r.a⟩⟩
    | 1 => some ⟨{ d := .none, a := .g, b := .g, c := .g, xs := .mods, mod := fun m => only 1 m }, .xadd ⟨r.l, (r.mod 0).getLsbD 0, r.a, r.b, r.c⟩⟩
    | 2 => some ⟨{ d := .t, a := .g, b := .g, c := .none, xs := .mods, mod := fun m => first [only 7 m, tenIf ((m.setWidth 2) == 3#2 || ((m.setWidth 2) == 0#2 && m.getLsbD 2))] }, .xrnd ⟨r.l, (r.mod 0).setWidth 2, (r.mod 0).getLsbD 2, (r.d.setWidth 3), r.a, r.b⟩⟩
    | _ => none
  | _ => none

/-- The slots of page 10 (R181). -/
def slots10 (r : Raw) : Option Slot :=
  match r.base.maj.toNat with
  | 0 =>
    match r.base.f.toNat with
    | 0 => some ⟨{ d := .none, a := .g, b := .g, c := .none }, .bdecl ⟨r.l, r.a, r.b⟩⟩
    | 1 => some ⟨{ d := .none, a := .g, b := .none, c := .none }, .bacq ⟨r.l, r.a⟩⟩
    | 2 => some ⟨{ d := .none, a := .g, b := .none, c := .none }, .brel ⟨r.l, r.a⟩⟩
    | 3 => some ⟨{ d := .g, a := .g, b := .none, c := .none }, .bstat ⟨r.l, r.d, r.a⟩⟩
    | 4 => some ⟨{ d := .g, a := .g, b := .none, c := .none }, .spawn ⟨r.l, r.d, r.a⟩⟩
    | 5 => some ⟨{ d := .g, a := .none, b := .none, c := .none }, .evpop ⟨r.l, r.d⟩⟩
    | 6 => some ⟨{ d := .none, a := .g, b := .g, c := .none }, .evtab ⟨r.l, r.a, r.b⟩⟩
    | 7 => some ⟨{ d := .none, a := .g, b := .none, c := .none }, .pennant ⟨r.l, r.a⟩⟩
    | _ => none
  | 1 =>
    match r.base.f.toNat with
    | 0 => some ⟨{ d := .g, a := .g, b := .g, c := .none }, .launch ⟨r.l, r.d, r.a, r.b⟩⟩
    | 1 => some ⟨{ d := .none, a := .none, b := .none, c := .none }, .evadv ⟨r.l⟩⟩
    | _ => none
  | _ => none

/-- The slots of page 11 (R181). -/
def slots11 (r : Raw) : Option Slot :=
  match r.base.maj.toNat with
  | 0 =>
    match r.base.f.toNat with
    | 0 => some ⟨{ d := .none, a := .g, b := .g, c := .none }, .shape ⟨r.l, r.a, r.b⟩⟩
    | 1 =>
      if (r.mod 0).setWidth 2 = 1#2 then some ⟨{ d := .none, a := .g, b := .g, c := .g, xs := .mods, mod := fun m => first [only 3 m, tenIf ((m.setWidth 2) == 3#2)] }, .cptIn ⟨r.l, r.a, r.b, r.c⟩⟩
      else if (r.mod 0).setWidth 2 = 0#2 then some ⟨{ d := .none, a := .g, b := .t, c := .g, xs := .mods, mod := fun m => first [only 3 m, tenIf ((m.setWidth 2) == 3#2)] }, .cpt ⟨r.l, r.a, (r.b.setWidth 3), r.c⟩⟩
      else some ⟨{ d := .none, a := .g, b := .g, c := .g, xs := .mods, mod := fun m => first [only 3 m, tenIf ((m.setWidth 2) == 3#2)] }, .cptOut ⟨r.l, r.a, r.b, r.c⟩⟩
    | 2 => some ⟨{ d := .g, a := .g, b := .t, c := .g, xs := .mods, mod := fun m => only 0 m }, .cpm ⟨r.l, r.d, r.a, (r.b.setWidth 3), r.c⟩⟩
    | 3 => some ⟨{ d := .g, a := .g, b := .g, c := .none }, .qput ⟨r.l, r.d, r.a, r.b⟩⟩
    | 4 => some ⟨{ d := .none, a := .none, b := .none, c := .none }, .batch ⟨r.l⟩⟩
    | 5 => some ⟨{ d := .none, a := .none, b := .none, c := .none, xi := .one }, .waitb ⟨r.l, r.waitbImm⟩⟩
    | 6 => some ⟨{ d := .g, a := .none, b := .none, c := .none }, .inbox ⟨r.l, r.d⟩⟩
    | 7 => some ⟨{ d := .g, a := .none, b := .none, c := .none }, .inboxq ⟨r.l, r.d⟩⟩
    | _ => none
  | 1 =>
    match r.base.f.toNat with
    | 0 => some ⟨{ d := .none, a := .g, b := .g, c := .none }, .xbinit ⟨r.l, r.a, r.b⟩⟩
    | 1 => some ⟨{ d := .none, a := .g, b := .g, c := .none, xs := .reg, mod := fun m => only 0 m, sem := .xbarr }, .xbarr ⟨r.l, r.sem, r.xsReg, r.a, r.b⟩⟩
    | 2 => some ⟨{ d := .none, a := .g, b := .g, c := .none, xs := .reg, mod := fun m => only 0 m, sem := .xbwait }, .xbwait ⟨r.l, r.sem, r.xsReg, r.a, r.b⟩⟩
    | 3 => some ⟨{ d := .g, a := .g, b := .g, c := .none, xs := .reg, mod := fun m => only 0 m, sem := .xbwait }, .xbtry ⟨r.l, r.sem, r.xsReg, r.d, r.a, r.b⟩⟩
    | _ => none
  | _ => none

/-- The slots of page 12 (R181). -/
def slots12 (r : Raw) : Option Slot :=
  match r.base.maj.toNat with
  | 0 =>
    match r.base.f.toNat with
    | 0 => some ⟨{ d := .none, a := .g, b := .none, c := .none }, .sret ⟨r.l, r.a⟩⟩
    | 1 => some ⟨{ d := .none, a := .g, b := .none, c := .none }, .replay ⟨r.l, r.a⟩⟩
    | 2 => some ⟨{ d := .none, a := .g, b := .g, c := .none }, .tlbinv ⟨r.l, r.a, r.b⟩⟩
    | 3 => some ⟨{ d := .none, a := .g, b := .g, c := .none }, .icinv ⟨r.l, r.a, r.b⟩⟩
    | _ => none
  | _ => none
/-- The slot of a page, major and selector (R181); `none` is a reserved slot. -/
def slotOf (r : Raw) : Option Slot :=
  match r.page.toNat with
  | 0 => slots0 r
  | 1 => slots1 r
  | 2 => slots2 r
  | 3 => slots3 r
  | 4 => slots4 r
  | 5 => slots5 r
  | 6 => slots6 r
  | 7 => slots7 r
  | 8 => slots8 r
  | 9 => slots9 r
  | 10 => slots10 r
  | 11 => slots11 r
  | 12 => slots12 r
  | _ => none

/-- The instruction of the words taken apart, or the reason and position of the first failing check. -/
def decodeRaw (r : Raw) (p : Places) : Except (Nat × Nat) Instr :=
  match slotOf r with
  | none => .error (6, p.base)
  | some s =>
    match worst p (checks r s.shape) with
    | some (i, n) => .error (n, i)
    | none => .ok s.instr

/-- What the words from the pc decode to. -/
inductive Decoded where
  /-- The base word has not been reached. -/
  | more
  /-- ILLEGAL with this reason, position and word (R176, R177). -/
  | bad (e : DecodeErr)
  /-- An instruction of `n` words. -/
  | ok (i : Instr) (n : Nat)
  deriving DecidableEq, Repr

/-- The decoder: total on any words; words after the base word are not looked at. -/
def decode (ws : List IWord) : Decoded :=
  match scan ws with
  | .more => .more
  | .bad e => .bad e
  | .done r p =>
    match decodeRaw r p with
    | .ok i => .ok i (p.base + 1)
    | .error (n, i) => .bad ⟨n, i, ws.getD i 0⟩

/-! ## The encoder -/

/-- The low three bits of a register field. -/
def lo3 (x : BitVec 5) : BitVec 3 := x.extractLsb' 0 3
/-- The high two bits of a register field. -/
def hi2 (x : BitVec 5) : BitVec 2 := x.extractLsb' 3 2

/-- XR, when a field needs it. -/
def xrOf (d a b : BitVec 5) (c : BitVec 4) : Option XR :=
  if hi2 d = 0 ∧ hi2 a = 0 ∧ hi2 b = 0 ∧ c = 0 then none else some ⟨hi2 d, hi2 a, hi2 b, c⟩

/-- A page 0 instruction's words. -/
def base0 (maj : BitVec 4) (d a b : BitVec 5) (c : BitVec 4) (f : BitVec 3) (xis : List (BitVec 10)) : Option Raw :=
  some ⟨none, none, xrOf d a b c, xis, ⟨maj, lo3 d, lo3 a, lo3 b, f⟩⟩

/-- The words of an instruction on another page; `dflt` is the modifier that no XS means. -/
def based (page maj l : BitVec 4) (sem : BitVec 2) (xs mod dflt d a b : BitVec 5) (c : BitVec 4) (f : BitVec 3)
    (xis : List (BitVec 10)) : Option Raw :=
  some ⟨some ⟨page, l, sem⟩, if xs = 0 ∧ mod = dflt then none else some ⟨xs, mod⟩, xrOf d a b c, xis,
    ⟨maj, lo3 d, lo3 a, lo3 b, f⟩⟩

/-- `n` XI fields for the bits of `w` above the base's `low` bits, most significant first (R168). -/
def xisN (low : Nat) : Nat → Word → List (BitVec 10)
  | 0, _ => []
  | n + 1, w => w.extractLsb' (low + 10 * n) 10 :: xisN low n w

/-- The fewest XI fields that hold the signed value `w` above `low` base bits. -/
def xisOf (low : Nat) (w : Word) : List (BitVec 10) := xisN low (xiCount low w) w

/-- One bit of a modifier. -/
def bit5 (b : Bool) (i : Nat) : BitVec 5 := if b then 1#5 <<< i else 0#5

/-- The fields of each instruction, by the encoding tables of the instruction chapters; an event has no words. -/
def toRaw : Instr → Option Raw
  | .add o => base0 0 o.d o.a o.b 0 0#3 []
  | .sub o => base0 0 o.d o.a o.b 0 1#3 []
  | .and o => base0 0 o.d o.a o.b 0 2#3 []
  | .or o => base0 0 o.d o.a o.b 0 3#3 []
  | .xor o => base0 0 o.d o.a o.b 0 4#3 []
  | .andn o => base0 0 o.d o.a o.b 0 5#3 []
  | .sll o => base0 0 o.d o.a o.b 0 6#3 []
  | .srl o => base0 0 o.d o.a o.b 0 7#3 []
  | .sra o => base0 1 o.d o.a o.b 0 0#3 []
  | .rol o => base0 1 o.d o.a o.b 0 1#3 []
  | .min o => base0 1 o.d o.a o.b 0 2#3 []
  | .max o => base0 1 o.d o.a o.b 0 3#3 []
  | .minn o => base0 1 o.d o.a o.b 0 4#3 []
  | .maxn o => base0 1 o.d o.a o.b 0 5#3 []
  | .mul o => base0 1 o.d o.a o.b 0 6#3 []
  | .sel o => base0 1 o.d o.a o.b o.c 7#3 []
  | .cmpEq o => base0 2 o.d o.a o.b 0 0#3 []
  | .cmpNe o => base0 2 o.d o.a o.b 0 1#3 []
  | .cmpLt o => base0 2 o.d o.a o.b 0 2#3 []
  | .cmpGe o => base0 2 o.d o.a o.b 0 3#3 []
  | .cmpLtn o => base0 2 o.d o.a o.b 0 4#3 []
  | .cmpGen o => base0 2 o.d o.a o.b 0 5#3 []
  | .tst o => base0 2 o.d o.a o.b 0 6#3 []
  | .mov o => base0 2 o.d o.a 0 0 7#3 []
  | .clz o => base0 3 o.d o.a 0 0 0#3 []
  | .ctz o => base0 3 o.d o.a 0 0 1#3 []
  | .popc o => base0 3 o.d o.a 0 0 2#3 []
  | .sext o => base0 3 o.d o.a (o.w.setWidth 5) 0 3#3 []
  | .zext o => base0 3 o.d o.a (o.w.setWidth 5) 0 4#3 []
  | .brev o => base0 3 o.d o.a 0 0 5#3 []
  | .bswap o => base0 3 o.d o.a 0 0 6#3 []
  | .neg o => base0 3 o.d o.a 0 0 7#3 []
  | .addi o => base0 4 o.d o.a ((o.imm.extractLsb' 3 3).setWidth 5) 0 (o.imm.extractLsb' 0 3) (xisOf 6 o.imm)
  | .andi o => base0 5 o.d o.a ((o.imm.extractLsb' 3 3).setWidth 5) 0 (o.imm.extractLsb' 0 3) (xisOf 6 o.imm)
  | .ori o => base0 6 o.d o.a ((o.imm.extractLsb' 3 3).setWidth 5) 0 (o.imm.extractLsb' 0 3) (xisOf 6 o.imm)
  | .xori o => base0 7 o.d o.a ((o.imm.extractLsb' 3 3).setWidth 5) 0 (o.imm.extractLsb' 0 3) (xisOf 6 o.imm)
  | .slli o => base0 8 o.d o.a ((o.n.extractLsb' 3 3).setWidth 5) 0 (o.n.extractLsb' 0 3) []
  | .srli o => base0 9 o.d o.a ((o.n.extractLsb' 3 3).setWidth 5) 0 (o.n.extractLsb' 0 3) []
  | .srai o => base0 10 o.d o.a ((o.n.extractLsb' 3 3).setWidth 5) 0 (o.n.extractLsb' 0 3) []
  | .li o => base0 11 o.d ((o.imm.extractLsb' 6 3).setWidth 5) ((o.imm.extractLsb' 3 3).setWidth 5) 0 (o.imm.extractLsb' 0 3) (xisOf 9 o.imm)
  | .bz o => base0 12 o.s ((o.off.extractLsb' 6 3).setWidth 5) ((o.off.extractLsb' 3 3).setWidth 5) 0 (o.off.extractLsb' 0 3) (xisOf 9 o.off)
  | .bnz o => base0 13 o.s ((o.off.extractLsb' 6 3).setWidth 5) ((o.off.extractLsb' 3 3).setWidth 5) 0 (o.off.extractLsb' 0 3) (xisOf 9 o.off)
  | .jmp o => base0 14 0 ((o.off.extractLsb' 6 3).setWidth 5) ((o.off.extractLsb' 3 3).setWidth 5) 0 (o.off.extractLsb' 0 3) (xisOf 9 o.off)
  | .call o => base0 14 1 ((o.off.extractLsb' 6 3).setWidth 5) ((o.off.extractLsb' 3 3).setWidth 5) 0 (o.off.extractLsb' 0 3) (xisOf 9 o.off)
  | .jr o => base0 14 2 o.a 0 0 0 []
  | .ret => base0 14 3 0 0 0 0 []
  | .nop => base0 14 4 0 0 0 0 []
  | .done => base0 14 5 0 0 0 0 []
  | .yield => base0 14 6 0 0 0 0 []
  | .brk o => base0 14 7 ((o.k.extractLsb' 6 3).setWidth 5) ((o.k.extractLsb' 3 3).setWidth 5) 0 (o.k.extractLsb' 0 3) []
  | .mulh o => based 1 0 o.l 0 0 0 0 o.d o.a o.b 0 0#3 []
  | .mulhn o => based 1 0 o.l 0 0 0 0 o.d o.a o.b 0 1#3 []
  | .div o => based 1 0 o.l 0 0 0 0 o.d o.a o.b 0 2#3 []
  | .divn o => based 1 0 o.l 0 0 0 0 o.d o.a o.b 0 3#3 []
  | .rem o => based 1 0 o.l 0 0 0 0 o.d o.a o.b 0 4#3 []
  | .remn o => based 1 0 o.l 0 0 0 0 o.d o.a o.b 0 5#3 []
  | .fadd o => based 1 1 o.l 0 0 0 0 o.d o.a o.b 0 0#3 []
  | .fsub o => based 1 1 o.l 0 0 0 0 o.d o.a o.b 0 1#3 []
  | .fmul o => based 1 1 o.l 0 0 0 0 o.d o.a o.b 0 2#3 []
  | .fdiv o => based 1 1 o.l 0 0 0 0 o.d o.a o.b 0 3#3 []
  | .fmin o => based 1 1 o.l 0 0 0 0 o.d o.a o.b 0 4#3 []
  | .fmax o => based 1 1 o.l 0 0 0 0 o.d o.a o.b 0 5#3 []
  | .fsqrt o => based 1 1 o.l 0 0 0 0 o.d o.a 0 0 6#3 []
  | .ffma o => based 1 1 o.l 0 0 0 0 o.d o.a o.b o.c 7#3 []
  | .fcmp o => based 1 2 o.l 0 0 (o.cond.setWidth 5) 0 o.d o.a o.b 0 0#3 []
  | .fclass o => based 1 2 o.l 0 0 0 0 o.d o.a 0 0 1#3 []
  | .fsgn o => based 1 2 o.l 0 0 0 0 o.d o.a o.b 0 2#3 []
  | .fcvt o => based 1 2 o.l 0 0 (o.mode.setWidth 5) 0 o.d o.a (o.k.setWidth 5) 0 3#3 []
  | .fmov o => based 1 2 o.l 0 0 0 0 o.d o.a (o.k.setWidth 5) 0 4#3 []
  | .fli o => based 1 2 o.l 0 0 0 0 o.d ((o.imm.extractLsb' 3 3).setWidth 5) ((o.imm.extractLsb' 0 3).setWidth 5) 0 5#3 (xisN 6 o.k.toNat (o.imm.setWidth 64))
  | .lea o => based 2 0 o.l 0 0 0 0 o.d o.a o.b 0 0#3 (xisOf 0 o.imm)
  | .coord o => based 2 0 o.l 0 0 0 0 o.d o.a 0 0 1#3 []
  | .rect o => based 2 0 o.l 0 0 0 0 o.d o.a o.b 0 2#3 []
  | .inrect o => based 2 0 o.l 0 0 0 0 o.d o.a o.b 0 3#3 []
  | .myid o => based 2 0 o.l 0 0 0 0 o.d o.a 0 0 4#3 []
  | .hashq o => based 2 0 o.l 0 0 0 0 o.d o.a 0 0 5#3 []
  | .rdcyc o => based 2 0 o.l 0 0 0 0 o.d 0 0 0 6#3 []
  | .csrrd o => based 2 1 o.l 0 0 0 0 o.d ((o.n.extractLsb' 6 3).setWidth 5) ((o.n.extractLsb' 3 3).setWidth 5) 0 (o.n.extractLsb' 0 3) []
  | .csrwr o => based 2 2 o.l 0 0 0 0 o.d ((o.n.extractLsb' 6 3).setWidth 5) ((o.n.extractLsb' 3 3).setWidth 5) 0 (o.n.extractLsb' 0 3) []
  | .start o => based 2 3 o.l 0 0 0 0 o.d o.a o.b o.c 0#3 []
  | .join o => based 2 3 o.l 0 0 0 0 o.d o.a 0 0 1#3 []
  | .ctxq o => based 2 3 o.l 0 0 0 0 o.d o.a 0 0 2#3 []
  | .sys o => based 2 3 o.l 0 0 0 0 0 0 0 0 3#3 []
  | .ldB o => based 3 0 o.l o.sem o.xs 0 0 o.d o.a 0 0 (o.imm.extractLsb' 0 3) (xisOf 3 o.imm)
  | .ldH o => based 3 0 o.l o.sem o.xs 0 0 o.d o.a 1 0 (o.imm.extractLsb' 0 3) (xisOf 3 o.imm)
  | .ldW o => based 3 0 o.l o.sem o.xs 0 0 o.d o.a 2 0 (o.imm.extractLsb' 0 3) (xisOf 3 o.imm)
  | .ldD o => based 3 0 o.l o.sem o.xs 0 0 o.d o.a 3 0 (o.imm.extractLsb' 0 3) (xisOf 3 o.imm)
  | .ldBs o => based 3 0 o.l o.sem o.xs 0 0 o.d o.a 4 0 (o.imm.extractLsb' 0 3) (xisOf 3 o.imm)
  | .ldHs o => based 3 0 o.l o.sem o.xs 0 0 o.d o.a 5 0 (o.imm.extractLsb' 0 3) (xisOf 3 o.imm)
  | .ldWs o => based 3 0 o.l o.sem o.xs 0 0 o.d o.a 6 0 (o.imm.extractLsb' 0 3) (xisOf 3 o.imm)
  | .stB o => based 3 1 o.l o.sem o.xs 0 0 o.d o.a 0 0 (o.imm.extractLsb' 0 3) (xisOf 3 o.imm)
  | .stH o => based 3 1 o.l o.sem o.xs 0 0 o.d o.a 1 0 (o.imm.extractLsb' 0 3) (xisOf 3 o.imm)
  | .stW o => based 3 1 o.l o.sem o.xs 0 0 o.d o.a 2 0 (o.imm.extractLsb' 0 3) (xisOf 3 o.imm)
  | .stD o => based 3 1 o.l o.sem o.xs 0 0 o.d o.a 3 0 (o.imm.extractLsb' 0 3) (xisOf 3 o.imm)
  | .ldf o => based 3 2 o.l o.sem o.xs 0 0 o.d o.a 0 0 (o.imm.extractLsb' 0 3) (xisOf 3 o.imm)
  | .ldfTake o => based 3 2 o.l o.sem o.xs 0 0 o.d o.a 1 0 (o.imm.extractLsb' 0 3) (xisOf 3 o.imm)
  | .ste o => based 3 2 o.l o.sem o.xs 0 0 o.d o.a 2 0 (o.imm.extractLsb' 0 3) (xisOf 3 o.imm)
  | .stf o => based 3 2 o.l o.sem o.xs 0 0 o.d o.a 3 0 (o.imm.extractLsb' 0 3) (xisOf 3 o.imm)
  | .tagclr o => based 3 2 o.l o.sem o.xs 0 0 0 o.a 4 0 (o.imm.extractLsb' 0 3) (xisOf 3 o.imm)
  | .tagrd o => based 3 2 o.l o.sem o.xs 0 0 o.d o.a 5 0 (o.imm.extractLsb' 0 3) (xisOf 3 o.imm)
  | .fld o => based 3 3 o.l o.sem o.xs 0 0 o.d o.a 0 0 (o.imm.extractLsb' 0 3) (xisOf 3 o.imm)
  | .fst o => based 3 3 o.l o.sem o.xs 0 0 o.d o.a 1 0 (o.imm.extractLsb' 0 3) (xisOf 3 o.imm)
  | .pf o => based 3 4 o.l 0 0 0 0 0 o.a 0 0 0#3 []
  | .cinv o => based 3 4 o.l 0 o.xs 0 0 0 o.a o.b 0 1#3 []
  | .cwb o => based 3 4 o.l 0 o.xs 0 0 0 o.a o.b 0 2#3 []
  | .amoAdd o => based 4 0 o.l o.sem o.xs (bit5 o.w32 0) 0 o.d o.a o.b 0 0#3 []
  | .amoAnd o => based 4 0 o.l o.sem o.xs (bit5 o.w32 0) 0 o.d o.a o.b 0 1#3 []
  | .amoOr o => based 4 0 o.l o.sem o.xs (bit5 o.w32 0) 0 o.d o.a o.b 0 2#3 []
  | .amoXor o => based 4 0 o.l o.sem o.xs (bit5 o.w32 0) 0 o.d o.a o.b 0 3#3 []
  | .amoMin o => based 4 0 o.l o.sem o.xs (bit5 o.w32 0) 0 o.d o.a o.b 0 4#3 []
  | .amoMax o => based 4 0 o.l o.sem o.xs (bit5 o.w32 0) 0 o.d o.a o.b 0 5#3 []
  | .amoMinn o => based 4 0 o.l o.sem o.xs (bit5 o.w32 0) 0 o.d o.a o.b 0 6#3 []
  | .amoMaxn o => based 4 0 o.l o.sem o.xs (bit5 o.w32 0) 0 o.d o.a o.b 0 7#3 []
  | .swap o => based 4 1 o.l o.sem o.xs (bit5 o.w32 0) 0 o.d o.a o.b 0 0#3 []
  | .cas o => based 4 1 o.l o.sem o.xs (bit5 o.w32 0) 0 o.d o.a o.b o.c 1#3 []
  | .famoAdd o => based 4 1 o.l o.sem o.xs 0 0 o.d o.a o.b 0 2#3 []
  | .red o => based 4 1 o.l o.sem o.xs ((0#1 ++ (o.op ++ BitVec.ofBool o.w32))) 0 0 o.a o.b 0 3#3 []
  | .fredAdd o => based 4 1 o.l o.sem o.xs 0 0 0 o.a o.b 0 4#3 []
  | .post o => based 4 1 o.l o.sem o.xs 0 0 (o.d.setWidth 5) o.a o.b o.c 5#3 []
  | .nbctl o => based 4 1 o.l o.sem o.xs 0 0 o.d o.a o.b 0 6#3 []
  | .fence o => based 4 2 o.l o.sem o.xs 0 0 0 0 0 0 0#3 []
  | .vadd o => based 5 0 o.l 0 0 (0#1 ++ (BitVec.ofBool o.sat ++ o.ty)) 0 (o.d.setWidth 5) (o.a.setWidth 5) (o.b.setWidth 5) 0 0#3 []
  | .vsub o => based 5 0 o.l 0 0 (0#1 ++ (BitVec.ofBool o.sat ++ o.ty)) 0 (o.d.setWidth 5) (o.a.setWidth 5) (o.b.setWidth 5) 0 1#3 []
  | .vmul o => based 5 0 o.l 0 0 (0#1 ++ (BitVec.ofBool o.sat ++ o.ty)) 0 (o.d.setWidth 5) (o.a.setWidth 5) (o.b.setWidth 5) 0 2#3 []
  | .vmin o => based 5 0 o.l 0 0 (0#1 ++ (BitVec.ofBool o.sat ++ o.ty)) 0 (o.d.setWidth 5) (o.a.setWidth 5) (o.b.setWidth 5) 0 3#3 []
  | .vmax o => based 5 0 o.l 0 0 (0#1 ++ (BitVec.ofBool o.sat ++ o.ty)) 0 (o.d.setWidth 5) (o.a.setWidth 5) (o.b.setWidth 5) 0 4#3 []
  | .vand o => based 5 0 o.l 0 0 (0#1 ++ (BitVec.ofBool o.sat ++ o.ty)) 0 (o.d.setWidth 5) (o.a.setWidth 5) (o.b.setWidth 5) 0 5#3 []
  | .vor o => based 5 0 o.l 0 0 (0#1 ++ (BitVec.ofBool o.sat ++ o.ty)) 0 (o.d.setWidth 5) (o.a.setWidth 5) (o.b.setWidth 5) 0 6#3 []
  | .vxor o => based 5 0 o.l 0 0 (0#1 ++ (BitVec.ofBool o.sat ++ o.ty)) 0 (o.d.setWidth 5) (o.a.setWidth 5) (o.b.setWidth 5) 0 7#3 []
  | .vshl o => based 5 1 o.l 0 0 (0#1 ++ (BitVec.ofBool o.sat ++ o.ty)) 0 (o.d.setWidth 5) (o.a.setWidth 5) (o.b.setWidth 5) 0 0#3 []
  | .vshr o => based 5 1 o.l 0 0 (0#1 ++ (BitVec.ofBool o.sat ++ o.ty)) 0 (o.d.setWidth 5) (o.a.setWidth 5) (o.b.setWidth 5) 0 1#3 []
  | .vsha o => based 5 1 o.l 0 0 (0#1 ++ (BitVec.ofBool o.sat ++ o.ty)) 0 (o.d.setWidth 5) (o.a.setWidth 5) (o.b.setWidth 5) 0 2#3 []
  | .vcmp o => based 5 1 o.l 0 0 (o.ty.setWidth 5) 0 (o.d.setWidth 5) (o.a.setWidth 5) (o.b.setWidth 5) o.cond 3#3 []
  | .vsel o => based 5 1 o.l 0 0 (o.ty.setWidth 5) 0 (o.d.setWidth 5) (o.a.setWidth 5) (o.b.setWidth 5) o.c 4#3 []
  | .vabs o => based 5 1 o.l 0 0 (0#1 ++ (BitVec.ofBool o.sat ++ o.ty)) 0 (o.d.setWidth 5) (o.a.setWidth 5) 0 0 5#3 []
  | .vmac o => based 5 1 o.l 0 0 (0#1 ++ (BitVec.ofBool o.sat ++ o.ty)) 0 (o.d.setWidth 5) (o.a.setWidth 5) (o.b.setWidth 5) 0 6#3 []
  | .vsplat o => based 5 1 o.l 0 0 (o.ty.setWidth 5) 0 (o.d.setWidth 5) o.a 0 0 7#3 []
  | .vfadd o => based 6 0 o.l 0 0 (o.ty.setWidth 5) 4 (o.d.setWidth 5) (o.a.setWidth 5) (o.b.setWidth 5) 0 0#3 []
  | .vfsub o => based 6 0 o.l 0 0 (o.ty.setWidth 5) 4 (o.d.setWidth 5) (o.a.setWidth 5) (o.b.setWidth 5) 0 1#3 []
  | .vfmul o => based 6 0 o.l 0 0 (o.ty.setWidth 5) 4 (o.d.setWidth 5) (o.a.setWidth 5) (o.b.setWidth 5) 0 2#3 []
  | .vffma o => based 6 0 o.l 0 0 (o.ty.setWidth 5) 4 (o.d.setWidth 5) (o.a.setWidth 5) (o.b.setWidth 5) o.c 3#3 []
  | .vfmin o => based 6 0 o.l 0 0 (o.ty.setWidth 5) 4 (o.d.setWidth 5) (o.a.setWidth 5) (o.b.setWidth 5) 0 4#3 []
  | .vfmax o => based 6 0 o.l 0 0 (o.ty.setWidth 5) 4 (o.d.setWidth 5) (o.a.setWidth 5) (o.b.setWidth 5) 0 5#3 []
  | .vfcmp o => based 6 0 o.l 0 0 (o.cond ++ o.ty) 4 (o.d.setWidth 5) (o.a.setWidth 5) (o.b.setWidth 5) 0 6#3 []
  | .vfcvt o => based 6 0 o.l 0 0 (o.part ++ 4#3) 4 (o.d.setWidth 5) (o.a.setWidth 5) o.code o.mode 7#3 []
  | .vqmx o => based 6 1 o.l 0 0 (o.fmt ++ o.ty) 4 (o.d.setWidth 5) (o.a.setWidth 5) 0 0 0#3 []
  | .vdqmx o => based 6 1 o.l 0 0 (o.fmt ++ o.ty) 4 (o.d.setWidth 5) (o.a.setWidth 5) 0 0 1#3 []
  | .vcode o => based 6 1 o.l 0 0 (o.part ++ o.ty) 4 (o.d.setWidth 5) (o.a.setWidth 5) (o.b.setWidth 5) 0 2#3 []
  | .vdecode o => based 6 1 o.l 0 0 (o.part ++ o.ty) 4 (o.d.setWidth 5) (o.a.setWidth 5) (o.b.setWidth 5) 0 3#3 []
  | .vexp2 o => based 6 1 o.l 0 0 4 4 (o.d.setWidth 5) (o.a.setWidth 5) 0 0 4#3 []
  | .vrcp o => based 6 1 o.l 0 0 4 4 (o.d.setWidth 5) (o.a.setWidth 5) 0 0 5#3 []
  | .vrsq o => based 6 1 o.l 0 0 4 4 (o.d.setWidth 5) (o.a.setWidth 5) 0 0 6#3 []
  | .vld o => based 7 0 o.l o.sem o.xs 0 0 (o.d.setWidth 5) o.a 0 0 (o.imm.extractLsb' 0 3) (xisOf 3 o.imm)
  | .vst o => based 7 0 o.l o.sem o.xs 0 0 (o.d.setWidth 5) o.a 1 0 (o.imm.extractLsb' 0 3) (xisOf 3 o.imm)
  | .vldx o => based 7 0 o.l o.sem o.xs (o.ty.setWidth 5) 0 (o.d.setWidth 5) o.a 2 o.c (o.imm.extractLsb' 0 3) (xisOf 3 o.imm)
  | .vstx o => based 7 0 o.l o.sem o.xs (o.ty.setWidth 5) 0 (o.d.setWidth 5) o.a 3 o.c (o.imm.extractLsb' 0 3) (xisOf 3 o.imm)
  | .vldb o => based 7 0 o.l o.sem o.xs (o.ty.setWidth 5) 0 (o.d.setWidth 5) o.a 4 0 (o.imm.extractLsb' 0 3) (xisOf 3 o.imm)
  | .vstm o => based 7 0 o.l o.sem o.xs (o.ty.setWidth 5) 0 (o.d.setWidth 5) o.a 5 o.c (o.imm.extractLsb' 0 3) (xisOf 3 o.imm)
  | .vspst o => based 7 0 o.l o.sem o.xs 0 0 (o.d.setWidth 5) o.a 6 o.c (o.imm.extractLsb' 0 3) (xisOf 3 o.imm)
  | .vspld o => based 7 0 o.l o.sem o.xs 0 0 (o.d.setWidth 5) o.a 7 o.c (o.imm.extractLsb' 0 3) (xisOf 3 o.imm)
  | .vred o => based 8 0 o.l 0 0 (o.ty.setWidth 5) 0 o.d (o.a.setWidth 5) (o.op.setWidth 5) 0 0#3 []
  | .vperm o => based 8 0 o.l 0 0 (o.ty.setWidth 5) 0 (o.d.setWidth 5) (o.a.setWidth 5) (o.b.setWidth 5) 0 1#3 []
  | .vins o => based 8 0 o.l 0 0 (o.ty.setWidth 5) 0 (o.d.setWidth 5) o.a o.b 0 2#3 []
  | .vext o => based 8 0 o.l 0 0 (o.ty.setWidth 5) 0 o.d (o.a.setWidth 5) o.b 0 3#3 []
  | .vscma o => based 8 0 o.l 0 0 (0#3 ++ (BitVec.ofBool o.sat ++ BitVec.ofBool o.i8)) 0 (o.d.setWidth 5) o.a o.b o.c 4#3 []
  | .sdenc o => based 8 0 o.l 0 0 (bit5 o.sat 0) 0 (o.d.setWidth 5) o.a o.b o.c 5#3 []
  | .tld o => based 9 0 o.l 0 0 0 0 (o.d.setWidth 5) o.a o.b 0 0#3 []
  | .tstTile o => based 9 0 o.l 0 0 0 0 (o.d.setWidth 5) o.a o.b 0 1#3 []
  | .tget o => based 9 0 o.l 0 0 (0#2 ++ (o.esz ++ BitVec.ofBool o.col)) 0 (o.d.setWidth 5) (o.a.setWidth 5) o.b 0 2#3 []
  | .tset o => based 9 0 o.l 0 0 (0#2 ++ (o.esz ++ BitVec.ofBool o.col)) 0 (o.d.setWidth 5) (o.a.setWidth 5) o.b 0 3#3 []
  | .tzeroT o => based 9 0 o.l 0 0 0 0 (o.d.setWidth 5) 0 o.b 0 4#3 []
  | .tzeroAcc o => based 9 0 o.l 0 0 (0#2 ++ (BitVec.ofBool o.red ++ 1#2)) 0 0 0 o.b 0 4#3 []
  | .tzeroX o => based 9 0 o.l 0 0 2 0 0 o.a o.b 0 4#3 []
  | .mcld o => based 9 0 o.l 0 0 (o.kind.setWidth 5) 0 (o.d.setWidth 5) o.a 0 0 5#3 []
  | .mctab o => based 9 0 o.l 0 0 0 0 (o.d.setWidth 5) (o.a.setWidth 5) 0 0 6#3 []
  | .mdrain o => based 9 0 o.l 0 0 (0#2 ++ (BitVec.ofBool o.hi ++ o.fmt)) 0 (o.d.setWidth 5) 0 0 0 7#3 []
  | .mmaI8c o => based 9 1 o.l 0 o.xs (0#3 ++ (BitVec.ofBool o.red ++ BitVec.ofBool o.acc)) 0 0 (o.a.setWidth 5) (o.b.setWidth 5) o.c 0#3 []
  | .mmaI4c o => based 9 1 o.l 0 o.xs (0#3 ++ (BitVec.ofBool o.red ++ BitVec.ofBool o.acc)) 0 0 (o.a.setWidth 5) (o.b.setWidth 5) o.c 1#3 []
  | .mmaBfc o => based 9 1 o.l 0 o.xs (0#3 ++ (BitVec.ofBool o.red ++ BitVec.ofBool o.acc)) 0 0 (o.a.setWidth 5) (o.b.setWidth 5) o.c 2#3 []
  | .mmaE2x o => based 9 1 o.l 0 o.xs (0#3 ++ (BitVec.ofBool o.red ++ BitVec.ofBool o.acc)) 0 0 (o.a.setWidth 5) (o.b.setWidth 5) o.c 3#3 []
  | .mmaE4x o => based 9 1 o.l 0 o.xs (0#3 ++ (BitVec.ofBool o.red ++ BitVec.ofBool o.acc)) 0 0 (o.a.setWidth 5) (o.b.setWidth 5) o.c 4#3 []
  | .mmaE5x o => based 9 1 o.l 0 o.xs (0#3 ++ (BitVec.ofBool o.red ++ BitVec.ofBool o.acc)) 0 0 (o.a.setWidth 5) (o.b.setWidth 5) o.c 5#3 []
  | .mmaI8i8 o => based 9 1 o.l 0 o.xs (0#3 ++ (BitVec.ofBool o.red ++ BitVec.ofBool o.acc)) 0 0 (o.a.setWidth 5) (o.b.setWidth 5) o.c 6#3 []
  | .xacc o => based 9 2 o.l 0 0 0 0 0 o.a 0 0 0#3 []
  | .xadd o => based 9 2 o.l 0 0 (bit5 o.sub 0) 0 0 o.a o.b o.c 1#3 []
  | .xrnd o => based 9 2 o.l 0 0 (0#2 ++ (BitVec.ofBool o.hi ++ o.fmt)) 0 (o.d.setWidth 5) o.a o.b 0 2#3 []
  | .bdecl o => based 10 0 o.l 0 0 0 0 0 o.a o.b 0 0#3 []
  | .bacq o => based 10 0 o.l 0 0 0 0 0 o.a 0 0 1#3 []
  | .brel o => based 10 0 o.l 0 0 0 0 0 o.a 0 0 2#3 []
  | .bstat o => based 10 0 o.l 0 0 0 0 o.d o.a 0 0 3#3 []
  | .spawn o => based 10 0 o.l 0 0 0 0 o.d o.a 0 0 4#3 []
  | .evpop o => based 10 0 o.l 0 0 0 0 o.d 0 0 0 5#3 []
  | .evtab o => based 10 0 o.l 0 0 0 0 0 o.a o.b 0 6#3 []
  | .pennant o => based 10 0 o.l 0 0 0 0 0 o.a 0 0 7#3 []
  | .launch o => based 10 1 o.l 0 0 0 0 o.d o.a o.b 0 0#3 []
  | .evadv o => based 10 1 o.l 0 0 0 0 0 0 0 0 1#3 []
  | .shape o => based 11 0 o.l 0 0 0 0 0 o.a o.b 0 0#3 []
  | .cpt o => based 11 0 o.l 0 0 0 0 0 o.a (o.b.setWidth 5) o.c 1#3 []
  | .cptIn o => based 11 0 o.l 0 0 1 0 0 o.a o.b o.c 1#3 []
  | .cptOut o => based 11 0 o.l 0 0 2 0 0 o.a o.b o.c 1#3 []
  | .cpm o => based 11 0 o.l 0 0 0 0 o.d o.a (o.b.setWidth 5) o.c 2#3 []
  | .qput o => based 11 0 o.l 0 0 0 0 o.d o.a o.b 0 3#3 []
  | .batch o => based 11 0 o.l 0 0 0 0 0 0 0 0 4#3 []
  | .waitb o => based 11 0 o.l 0 0 0 0 0 0 0 0 5#3 (if o.n = 0 then [] else [o.n])
  | .inbox o => based 11 0 o.l 0 0 0 0 o.d 0 0 0 6#3 []
  | .inboxq o => based 11 0 o.l 0 0 0 0 o.d 0 0 0 7#3 []
  | .xbinit o => based 11 1 o.l 0 0 0 0 0 o.a o.b 0 0#3 []
  | .xbarr o => based 11 1 o.l o.sem o.xs 0 0 0 o.a o.b 0 1#3 []
  | .xbwait o => based 11 1 o.l o.sem o.xs 0 0 0 o.a o.b 0 2#3 []
  | .xbtry o => based 11 1 o.l o.sem o.xs 0 0 o.d o.a o.b 0 3#3 []
  | .sret o => based 12 0 o.l 0 0 0 0 0 o.a 0 0 0#3 []
  | .replay o => based 12 0 o.l 0 0 0 0 0 o.a 0 0 1#3 []
  | .tlbinv o => based 12 0 o.l 0 0 0 0 0 o.a o.b 0 2#3 []
  | .icinv o => based 12 0 o.l 0 0 0 0 0 o.a o.b 0 3#3 []
  | .evInstructionComplete _ _ _ | .evTrapEntry _ _ | .evTaskStart _ | .evStealRequest _ | .evStealVictimAnswer _
    | .evStealAnswerArrival _ | .evStealRoundWaitExpiry _ | .evLaunchPartEnd _ | .evEftDone _ _ | .evEventArrival _ _
    | .evNackResendTimer _ _ | .evSpillRefill _ | .evSpillbaseSwitch _ | .evHandlerTaskCreate _ _ | .evGangComplete _
    | .evMmaPlanesStart _ | .evRedundantDrainCompare _ _ _ | .evCopyDeliveryCheck _ | .evDeliverySectorCredit _ _ _
    | .evBarrierArrival _ | .evBacqGrant _ _ | .evXbwaitWake _ _ | .evTagWaiterPerform _ _ | .evClusterPeerRequest _ _ _
    | .evJoinWake _ _ | .evEvadvStepEnd _ _ | .evInboxMessageTaken _ | .evWaitbSatisfied _ _ | .evBatchSlotFree _ _
    | .evQputRingRoom _ _ | .evEngineSlotFetch _ _ | .evEnginePiece _ _ | .evPacketCompletion _ | .evCompletionMessageDeliver _
    | .evCopyOperationEnd _ | .evWriteLeavePostQueue _ _ _ | .evWritePerform _ _ | .evLoadSatisfy _ _ _ _ | .evL1LineDrop _ _
    | .evPrefetchFill _ _ | .evAtomicPerform _ _ | .evSyncCopyDrop _ _ | .evSyncHomeEvict _ _ | .evCombineMerge _ _ _
    | .evDecombineReply _ _ | .evAtomicWatchdogRetire _ _ _ | .evPageWalk _ _ | .evFaultRecord _ | .evFbclrWrite _ _ _
    | .evCsReplayWrite _ _ _ | .evCsTlbinvWrite _ _ _ | .evQueueDoorbell _ _ _ _ | .evDctxStateWrite _ _ _ _
    | .evDispatcherSelect _ | .evPecmdWrite _ _ _ | .evChorusPreempt _ | .evChorusRestore _ | .evLaunchCompletion _
    | .evTdcmdWrite _ _ _ | .evTeardownComplete _ _ | .evStolrusWrite _ _ _ _ _ | .evStolrusReadRequest _ _ _ _
    | .evStolrusReadReply _ _ _ _ | .evStolrusAtomicRequest _ _ _ _ | .evStolrusAtomicReply _ _ _ _
    | .evStolrusWriteAcknowledgement _ _ _ _ | .evStolrusRefusal _ _ _ _ | .evStolrusRetransmit _ _ | .evLinkLaneLoss _
    | .evPeeridWrite _ _ | .evSyncOverflowWrite _ _ _ _ | .evPmodeWrite _ _ _ | .evNscarveWrite _ _ _ _
    | .evChannelRecordWrite _ _ _ _ _ | .evDatagramData _ _ | .evDatagramAck _ _ | .evDatagramNak _ _ | .evScaleoutAckTimer _ _
    | .evScaleoutResendTimer _ _ | .evCxlMemHostAccess _ _ | .evPowerOn | .evColdStart _ | .evWarmStart _
    | .evStartFinish _ _ _ _ _ | .evOwnclaim _ _ | .evOwnxfer _ _ | .evOwnerLinkDown | .evResync _ _ | .evAttestationRequest _
    | .evAttestationReportReady | .evCorrectableError _ _ | .evUncorrectableNotConsumed _ _ | .evDieFailure _
    | .evControlSpaceWrite _ _ _ | .evEncodingNotAnInstruction _ _ _ | .evFetchRefused _ | .evStolrusUnknownType _ _ _ _ => none

/-- The words of an instruction in the order nolas emits: XP, XS, XR, the XIs, the base word (R172). -/
def Raw.words (r : Raw) : List IWord :=
  (match r.xp with | some x => [x.word] | none => []) ++ (match r.xs with | some x => [x.word] | none => [])
    ++ (match r.xr with | some x => [x.word] | none => []) ++ r.xis.map xiWord ++ [r.base.word]

/-- The words of a well-formed instruction; an event has none. -/
def encode (i : Instr) : List IWord :=
  match toRaw i with
  | some r => r.words
  | none => []

/-! ## The host's numbering of opcode-table words -/

/-- The words of a table word: 16 bits are one word; 32 bits are XP and a base word, the one whose bits [15:12] are 0xF
first. -/
def tableWords (nbits w : Nat) : List IWord :=
  if nbits ≤ 16 then [BitVec.ofNat 16 w]
  else if (w / 2 ^ 28) % 16 = 15 then [BitVec.ofNat 16 (w / 2 ^ 16), BitVec.ofNat 16 w]
  else [BitVec.ofNat 16 w, BitVec.ofNat 16 (w / 2 ^ 16)]

/-- The instruction the decoder reads from a table word. -/
def decodeTableWord (nbits w : Nat) : Option Instr :=
  match decode (tableWords nbits w ++ [0#16, 0#16, 0#16]) with
  | .ok i _ => some i
  | _ => none

end Sys2Proof
end

