-- ==== Sys2Proof/Config.lean ====
section
/-! DEFINITION. The values that the spec leaves open, as free values: constants without a body, so that no proof can see what
they are. Each is named in notes/assumptions. -/

namespace Sys2Proof.Config

/-- What a byte of near store or device memory holds after the n-th loss of its memory's contents: undefined (R411, R420; log
entry 5). -/
opaque freeByte : Nat → Nat → BitVec 8

/-- What a byte of a line holds whose LLC contents were discarded before they were written back, by the serial number of the
discarding write (R406, R411; log entry 5). -/
opaque lostByte : Nat → Nat → BitVec 8

/-- The header word that the dispatcher writes with the n-th thing that is numbered, a chorus image (R373; log entry 4). -/
opaque imageHeader : Nat → BitVec 64

/-- A byte of an image whose form is the implementation's choice, by the number of the save that wrote it and its offset (R373; log
entry 4). -/
opaque imageByte : Nat → Nat → BitVec 8

/-- The fused hash of firmware's public key and the fused minimum version (R420, R422; log entry 3). -/
opaque keyHash : BitVec 512
opaque minVersion : Nat

/-- Byte i of what is fixed in the part: identity and public key of an attestation report (R428; log entry 3). -/
opaque fused : Nat → BitVec 8

/-- Byte i of the panel's signature over the digest of a list of bytes (R427, R428; log entry 3): the key is the part's own. -/
opaque sign : List (BitVec 8) → Nat → BitVec 8

/-- The set of a die's sync engine that a line falls into: the spec gives neither the number of sets nor the choice (R434; log entry
60). -/
opaque syncSet : Nat → Nat

end Sys2Proof.Config
end

