-- ==== Sys2Proof/Machine/Maps.lean ====
section
/-! DEFINITION. Sparse data by key: sorted lists of key and value, with a default for keys that are not listed. Memory is one
of them, in canonical form: no entry equals what an unlisted address reads as. -/

namespace Sys2Proof.Machine

/-- A sparse map: keys strictly rising. -/
abbrev SMap (α : Type) := List (Nat × α)

/-- The value at a key, or the default. -/
def SMap.get {α : Type} (m : SMap α) (dflt : α) (k : Nat) : α :=
  match m with
  | [] => dflt
  | (j, v) :: rest => if j = k then v else SMap.get rest dflt k

/-- The map with the key's value replaced or inserted in order. -/
def SMap.put {α : Type} (m : SMap α) (k : Nat) (v : α) : SMap α :=
  match m with
  | [] => [(k, v)]
  | (j, w) :: rest =>
    if k < j then (k, v) :: (j, w) :: rest
    else if j = k then (k, v) :: rest
    else (j, w) :: SMap.put rest k v

/-- The map without the key. -/
def SMap.del {α : Type} (m : SMap α) (k : Nat) : SMap α :=
  match m with
  | [] => []
  | (j, w) :: rest => if j = k then SMap.del rest k else (j, w) :: SMap.del rest k

/-- Is the key listed? -/
def SMap.has {α : Type} (m : SMap α) (k : Nat) : Bool := m.any (fun p => p.1 == k)

/-- A value put before the first one of a list that it is not after. -/
def placed {α : Type} (le : α → α → Bool) (x : α) : List α → List α
  | [] => [x]
  | y :: ys => if le x y then x :: y :: ys else y :: placed le x ys

/-- A list in order; equals keep the order they have. -/
def inOrder {α : Type} (le : α → α → Bool) (xs : List α) : List α := xs.foldr (placed le) []

/-- Every key lies above the bound and keys rise strictly. -/
def SMap.above {α : Type} (b : Nat) : SMap α → Bool
  | [] => true
  | (j, _) :: rest => decide (b < j) && SMap.above j rest

/-- Keys rise strictly. -/
def SMap.sorted {α : Type} : SMap α → Bool
  | [] => true
  | (j, _) :: rest => SMap.above j rest

/-- Memory: address and byte pairs (Host.Cell). -/
abbrev Memory := List Host.Cell

/-- What a byte that nothing has written reads as: zero (R53 for local memory; DESIGN CHOICE for the rest, log entry 1). -/
def unwritten : Byte := 0#8

/-- The canonical form: addresses strictly rising, and no entry equal to what an unlisted address reads as. -/
def Memory.wf (m : Memory) : Bool := SMap.sorted m && m.all (fun p => p.2 != unwritten)

/-- One byte. -/
def Memory.byte (m : Memory) (a : Nat) : Byte := SMap.get m unwritten a

/-- One byte written: an entry, or no entry when the byte is what an unlisted address reads as. -/
def Memory.setByte (m : Memory) (a : Nat) (b : Byte) : Memory :=
  if b = unwritten then SMap.del m a else SMap.put m a b

/-- The `n` bytes at `a`, lowest address first. -/
def Memory.bytes (m : Memory) (a : Nat) : Nat → List Byte
  | 0 => []
  | n + 1 => m.byte a :: Memory.bytes m (a + 1) n

/-- Bytes written at `a`, lowest address first. -/
def Memory.setBytes (m : Memory) (a : Nat) : List Byte → Memory
  | [] => m
  | b :: bs => Memory.setBytes (m.setByte a b) (a + 1) bs

/-- The little-endian number of a list of bytes (R6). -/
def leNat : List Byte → Nat
  | [] => 0
  | b :: bs => b.toNat + 256 * leNat bs

/-- The `n` little-endian bytes of a number. -/
def leBytes : Nat → Nat → List Byte
  | 0, _ => []
  | n + 1, x => BitVec.ofNat 8 x :: leBytes n (x / 256)

end Sys2Proof.Machine
end

