-- ==== Sys2Proof/Machine/State.lean ====
section
/-! DEFINITION. The state of the panel as plain data: every piece of state the spec names, the fault and refusal reasons, and
the state after reset (power on, R420). Location keys of `State.mem`: device memory and near store at their physical
address (R22); host memory at 2^52 + host address; peer p's memory at 2^60 + p × 2^52 + address; local memory of the core
with handle h at 2^70 + h × 2^17 + offset. The handle of a core is y × 256 + x; the handle of the image of a pre-empted core
is (serial of its launch + 1) × 65,536 + y × 256 + x, so that an image is held in the same structures. -/

namespace Sys2Proof.Machine

/-! ## Reasons -/

/-- Why the machine stops. -/
inductive Fault where
  /-- A page-table walk reads, or a leaf maps, a physical address where the panel has neither device memory nor near store
  (R22). Raised by translation. Safe: the model stops where the spec lays out no memory. -/
  | noSuchPhysical (pa : Nat)
  deriving DecidableEq, Repr

/-- Why an instruction has no meaning. -/
inductive Refusal where
  /-- The arm of an instruction that has no meaning yet. Raised by `exec` only. Safe. -/
  | notModelled (mnemonic : String)
  deriving DecidableEq, Repr

/-! ## Contexts -/

/-- A claim of a copy queue slot (R307): the header's virtual address, the claim, the ring as the header gave it when it was claimed,
the packet image, and the operation. -/
structure Claim where
  va    : Nat
  i     : Nat
  lgn   : Nat
  slots : Nat
  img   : List Byte
  op    : Nat
  deriving DecidableEq, Repr

/-- What a WAITING context waits for; a wait that ends with the instruction's effect carries that effect's operands. -/
inductive Wait where
  /-- The instruction has not issued: a window, a resource, an ordering condition or room is lacking (R13, R14, R69, R84). -/
  | retry
  /-- The window of an outstanding instruction is full: the next instruction waits at issue (R69). -/
  | window
  /-- A page walk for an access to a virtual address (R341); access bits as in R351. -/
  | walk (va : Nat) (acc : Nat)
  /-- A trap is pending until outstanding instructions complete (R219). -/
  | trap
  /-- `done`, until the part ends (R12) or the eft's outstanding instructions complete (R78). -/
  | done
  /-- `join` of an eft into register d (R222). -/
  | join (d : Reg) (eft : Nat)
  /-- `xbwait` on the barrier at an offset of core h against a phase (R313). -/
  | xbwait (h off phase : Nat)
  /-- A member of a chorus gang (R100). -/
  | gang
  /-- `mdrain` in redundant mode into a tile, until its partner drains (R108); `len` is the instruction's length. -/
  | drain (d : TReg) (fmt : BitVec 2) (hi : Bool) (len : Word)
  /-- `evadv` (R299). -/
  | evadv
  /-- `inbox` into register d, waiting since the serial number (R310). -/
  | inbox (d : Reg) (since : Nat)
  /-- `waitb` until at most n closed batches are outstanding (R309). -/
  | waitb (n : Nat)
  /-- `batch` until fewer than eight closed batches are outstanding (R308). -/
  | batch
  /-- `qput` that has claimed a slot, with its lookahead, until the ring has room (R307). -/
  | qput (l : BitVec 4) (q : Claim)
  deriving DecidableEq, Repr

/-- The states of R12. -/
inductive CtxState where
  | idle | ready
  | waiting (w : Wait)
  | parked
  deriving DecidableEq, Repr

/-- Register classes: those that lookahead checks (R70), and tiles, macro banks and the accumulators, which R14 interlocks. -/
inductive RClass where
  | g | f | v | t | m | x
  deriving DecidableEq, Repr

/-- One register use of an instruction (R178). -/
structure RegUse where
  cls : RClass
  n   : Nat
  rd  : Bool
  wr  : Bool
  deriving DecidableEq, Repr

/-- A write that completes an instruction: a register, a row of a tile, a macro bank's image, or sticky flag bits ORed in
(R46 .. R48, R258, R284). -/
inductive RegWrite where
  | tile (t : TReg) (row : Nat) (x : BitVec 1024)
  | bank (m : MReg) (kind : Nat) (img : List Byte)
  | g (n : Reg) (x : Word)
  | f (n : Reg) (x : BitVec 32)
  | v (n : VReg) (x : Vec)
  | fflags (b : Word)
  | aflags (b : Word)
  | satflags (b : Word)
  | atomstat (b : Word)
  deriving DecidableEq, Repr

/-- A long accumulator (R38): its value and status bits. -/
structure Acc where
  v      : Int := 0
  nan    : Bool := false
  ovfn   : Bool := false
  ovfp   : Bool := false
  sticky : Bool := false
  deriving DecidableEq, Repr

/-- How the bytes a load or a tagged read returns become its destination's value. -/
inductive Dest where
  /-- A `g` register, zero- or sign-extended. -/
  | g (n : Reg) (sgn : Bool)
  /-- An `f` register, bits unchanged. -/
  | f (n : Reg)
  /-- A `v` register: the bytes in order. -/
  | v (n : VReg)
  /-- A `v` register with the value in every lane of w bits. -/
  | splat (n : VReg) (w : Nat)
  /-- Rows of a tile from `first` on: the bytes in row order (R255). -/
  | tile (t : TReg) (first : Nat)
  /-- A macro bank, by kind 0 `c`, 1 `x`, 2 `i8` (R258). -/
  | bank (m : MReg) (kind : Nat)
  /-- Rows of a tile, rounded from long-array elements (R265). -/
  | rounded (t : TReg) (fmt : Nat) (hi : Bool) (first : Nat) (old : List (BitVec 1024))
  /-- A sparse column applied to the INT32 lanes of a register (R250). -/
  | column (n : VReg) (i8 sat : Bool) (q : Int) (table : List Int) (lanes : List Int)
  /-- Elements of the long array at a location key: `xadd` adds or subtracts a source element that it loads too (no
  accumulators), `xacc` the accumulators (R263, R264). -/
  | elems (base : Nat) (sub : Bool) (accs : List Acc)
  /-- Nothing. -/
  | none
  deriving DecidableEq, Repr

/-- Read-modify-write operations (R280 .. R282). -/
inductive RmwOp where
  | add | and | or | xor | min | max | minn | maxn | swap
  | cas (new : Word)
  | fadd
  deriving DecidableEq, Repr

/-- What an atomic request does at its place (R279 .. R287). -/
inductive AtomicOp where
  /-- Operation on `width` bytes with operand `b`. -/
  | rmw (op : RmwOp) (width : Nat) (b : Word)
  /-- `post` of a value into slot p at round r (R286); `v0`, `v1` and `sl` are the locations of the two lines of the view and
  of the slot, which may lie on other pages than the header. -/
  | post (slot : Nat) (round : Nat) (val : Word) (v0 v1 sl : Nat)
  /-- `nbctl` with its operation word (R287), and the locations of the two lines of the view. -/
  | nbctl (w : Word) (v0 v1 : Nat)
  deriving DecidableEq, Repr

/-- The destination of an atomic's reply (R284). -/
inductive Reply where
  | none
  | g (n : Reg)
  | f (n : Reg)
  | v (n : VReg)
  deriving DecidableEq, Repr

/-- What comes back from the place of an atomic: the old value, its add's flags and STALE; or the views and STALE of the posts
of a request, in list order (R386). -/
inductive FReply where
  | val (x : Word) (fl : Word) (stale : Bool)
  | views (l : List (Vec × Bool))
  deriving DecidableEq, Repr

/-- Tagged operations (R63). -/
inductive TagOp where
  | ldf | take
  | ste (x : Word)
  | stf (x : Word)
  | clr | rd
  deriving DecidableEq, Repr

/-- How an access reaches memory, by its address (R17, R22): own or a peer's local memory, or the aperture and access mode of
its leaf entry; for host and peer memory also the partition device, which holds its own copies of mode-10 lines (R128). -/
inductive Space where
  | local_ (h : Nat)
  | device (mode : Nat)
  | near (mode : Nat)
  | host (mode dev : Nat)
  | peer (mode dev : Nat)
  deriving DecidableEq, Repr

/-- Where an access goes: its space and the location key of its first byte. -/
structure Loc where
  space : Space
  at_   : Nat
  deriving DecidableEq, Repr

/-- What an entry of a post queue is (R128, R133). -/
inductive PKind where
  /-- A load of n bytes; the bytes once it is satisfied (R135). -/
  | load (n : Nat) (val : Option (List Byte))
  /-- A write of bytes. -/
  | store (b : List Byte)
  /-- An atomic. -/
  | atomic (op : AtomicOp) (reply : Reply)
  /-- An atomic that has been merged in the fabric (R384). -/
  | sent (op : AtomicOp) (reply : Reply)
  /-- An atomic that has been performed, and the writes its reply makes when it arrives. -/
  | acked (op : AtomicOp) (ws : List RegWrite)
  /-- A tagged operation (R145). -/
  | tagged (op : TagOp)
  /-- A fence (R138). -/
  | fence
  /-- A write of n bytes that are not known yet (R263, R264). -/
  | later (n : Nat)
  /-- A `bacq` that waits: an acquire that is not satisfied (R126). -/
  | bacq
  /-- A `vspld`, or a `vspst` (`wr`), that has not read all it needs of its block: it may touch the n bytes from its header on and the
  further ranges that it named at issue (R21, R133, R247). -/
  | sparse (wr : Bool) (n : Nat) (more : List (Nat × Nat))
  deriving DecidableEq, Repr

/-- An entry of a post queue: the instruction it belongs to, its sem and scope, its location and kind, and for an atomic the
core cycle at which its watchdog fires (R389, R391). -/
structure PEntry where
  id    : Nat
  sem   : BitVec 2
  scope : Word
  loc   : Loc
  kind  : PKind
  due   : Nat := 0
  deriving DecidableEq, Repr

/-- What an outstanding instruction still lacks before it may complete (R69). -/
inductive Pend where
  /-- Nothing: its results are computed. -/
  | ready
  /-- Its loads, each a post-queue entry; their bytes in order build the destination. -/
  | loads (dest : Dest)
  /-- Its atomic's reply (R279). -/
  | reply
  /-- Its tagged operation's step (R275). -/
  | tag (dest : Dest)
  /-- A `bacq` of a buffer (R293). -/
  | bacq (id : Nat)
  /-- A `vspld`, or a `vspst` of a value, at its block and first element index, and the bytes that it has read of the block so far: its
  header, the mask bytes, the slots (R247). -/
  | sparse (o : VSpOps) (val : Option Vec) (at_ i0 : Nat) (got : List Byte)
  /-- Its writes have performed (R278). -/
  | writes
  /-- Acceptance of the last of its events by the destination (R84): its entries of the send queue bear its serial number. -/
  | events
  /-- A `pennant` whose markers enter the send queue once the release condition holds (R150, R300). -/
  | pennants (evs : List Word)
  /-- A fence's condition (R138). -/
  | fence
  /-- The planes of its gang (R103). -/
  | planes
  deriving DecidableEq, Repr

/-- An outstanding long-latency instruction (R69): its serial number, its pc, how many further instructions may issue in its
window, the registers it uses, the writes it makes at completion, and what it lacks. -/
structure Outst where
  id     : Nat
  pc     : Word
  left   : Nat
  uses   : List RegUse
  writes : List RegWrite
  pend   : Pend
  deriving DecidableEq, Repr

/-- A trap waiting for the context's outstanding instructions (R219). -/
structure PendTrap where
  /-- The serial number of the trapping instruction: of several, the earliest enters. -/
  id   : Nat
  code : Nat
  fpc  : Word
  rpc  : Word
  addr : Word
  info : Word
  deriving DecidableEq, Repr

/-- A copy batch (R124): operations that have not ended, and whether any wrote global memory. -/
structure Batch where
  ops    : List Nat
  global : Bool
  deriving DecidableEq, Repr

/-- One context (R9): register files, pc, state, the per-context CSRs, its outstanding instructions, its post queue, and the
bookkeeping of issue, tasks and batches. Registers not listed hold zero. -/
structure Ctx where
  g        : SMap Word := []
  f        : SMap (BitVec 32) := []
  v        : SMap Vec := []
  pc       : Word := 0
  state    : CtxState := .idle
  cause    : Word := 0
  fpc      : Word := 0
  faddr    : Word := 0
  finfo    : Word := 0
  rpc      : Word := 0
  tstat    : Word := 0
  tscratch : Word := 0
  fflags   : Word := 0
  aflags   : Word := 0
  satflags : Word := 0
  atomstat : Word := 0
  /-- When it last issued, as the core's issue number; 0: not since it became live (R68). -/
  last     : Nat := 0
  /-- Contexts that arbitration must serve first after a `yield` (R204). -/
  yields   : List Nat := []
  out      : List Outst := []
  post     : List PEntry := []
  trap     : Option PendTrap := none
  /-- The open batch and the closed batches, oldest first (R124). -/
  openB    : Batch := ⟨[], false⟩
  closed   : List Batch := []
  /-- A batch that wrote global memory has retired since the last `waitb` (R147). -/
  retGlob  : Bool := false
  /-- The eft's result word (R203). -/
  result   : Word := 0
  /-- Started by `start` (R223). -/
  byStart  : Bool := false
  /-- The layer of the running handler task, and the vector table entry that its step keeps until it ends (R88, R297). -/
  layer    : Option Nat := none
  hentry   : Word := 0
  /-- The fetch of the instruction at the pc has been counted (R352). -/
  fetched  : Bool := false
  /-- The length in bytes of the instruction that the context waits in. -/
  wlen     : Word := 0
  /-- The registers that instruction uses. -/
  wuses    : List RegUse := []
  /-- Claims of copy queue slots that a `qput` at a pc has made and not yet filled (R307). -/
  claims   : SMap Claim := []
  deriving DecidableEq, Repr

/-! ## Cores -/

/-- A macro bank (R95 .. R97): 128 rows of 32 codes, block scales by 4 × column + block (0x100 each at launch), code table, and
kind: 0 none, 1 `c`, 2 `x`, 3 `i8`. -/
structure Bank where
  codes  : SMap (BitVec 128) := []
  scales : SMap (BitVec 16) := []
  table  : BitVec 256 := 0
  kind   : Nat := 0
  deriving DecidableEq, Repr

/-- A core that has joined a gang (R100): its context, the lookahead and length of its `mma`, the registers it uses, and its
A tile, bank and A scales. -/
structure GMember where
  h    : Nat
  k    : Nat
  l    : BitVec 4
  len  : Word
  uses : List RegUse
  a    : TReg
  b    : MReg
  c    : VReg
  id   : Nat
  deriving DecidableEq, Repr

/-- A chorus gang (R99 .. R103): the chorus, the mask, the format pair (the selector of R261), the modifiers, its members, and
its turn on the row bus once it is complete. -/
structure Gang where
  id      : Nat
  chorus  : Nat
  mask    : BitVec 32
  pair    : Nat
  acc     : Bool
  red     : Bool
  members : List GMember
  turn    : Option Nat
  deriving DecidableEq, Repr

/-- A declared buffer (R53, R57). -/
structure Buf where
  /-- 0 UNDECLARED, 1 EMPTY, 2 FILLING, 3 FULL, 4 DRAINING. -/
  state   : Nat := 0
  /-- 0 .. 10 a context, 0x10 engines, 0x1F none. -/
  owner   : Nat := 0x1F
  base    : Nat := 0
  size    : Nat := 0
  esize   : Nat := 0
  skew    : Bool := false
  bv      : Bool := false
  barrier : Nat := 0
  /-- It last became FULL by a phase completion, not by `brel` (R126). -/
  byPhase : Bool := false
  deriving DecidableEq, Repr

/-- A task record (R71), with the layer of a handler task. -/
structure Task where
  w0    : Word
  slots : BitVec 32
  arg0  : Word
  arg1  : Word
  layer : Option Nat := none
  deriving DecidableEq, Repr

/-- One layer of the event unit (R83, R87, R88): its vector table entry, current step, the pennant counts of steps s, s + 1 and
s + 2, and a handler task that is pending. -/
structure Layer where
  entry   : Word := 0
  step    : BitVec 32 := 0
  p0      : Nat := 0
  p1      : Nat := 0
  p2      : Nat := 0
  pending : Option Task := none
  deriving DecidableEq, Repr

/-- An inbox entry (R83). -/
structure InEntry where
  layer : Nat
  step  : Nat
  index : Nat
  delta : Int
  deriving DecidableEq, Repr

/-- A tagged operation waiting for its word (R64): the requesting core, context and instruction. -/
structure TagWaiter where
  off : Nat
  h   : Nat
  k   : Nat
  id  : Nat
  deriving DecidableEq, Repr

/-- A write in the core path (R128): who issued it, where it goes, its bytes. -/
structure CWrite where
  id   : Nat
  k    : Nat
  loc  : Loc
  b    : List Byte
  deriving DecidableEq, Repr

/-- A value that a load has read from a write of another context that is still in the core path (R137): the reading context and
instruction, and the write. -/
structure Seen where
  k  : Nat
  id : Nat
  w  : CWrite
  deriving DecidableEq, Repr

/-- A change of a barrier that its core's barrier step has not applied yet (R122): an arrival that expects n bytes, or credits of n
sectors, at the barrier's offset. -/
structure BarChange where
  off     : Nat
  arrival : Bool
  n       : Nat
  deriving DecidableEq, Repr

/-- A queued event (R84): the serial number of its instruction, its context, and its 64 bits. -/
structure QEvent where
  id : Nat
  k  : Nat
  w  : Word
  deriving DecidableEq, Repr

/-- The steal machinery of a core (R77): idle, waiting for the answer of a victim, or in the wait after a round. -/
inductive Steal where
  /-- The next victim to ask, by its place in the visiting order. -/
  | next (i : Nat)
  /-- A request is at victim i. -/
  | asked (i : Nat)
  /-- An answer of victim i is on its way: the task, or a refusal. -/
  | answer (i : Nat) (t : Option Task)
  /-- After a full round of refusals, until the core's cycle reaches the number. -/
  | round (until_ : Nat)
  deriving DecidableEq, Repr

/-- A TLB entry (R343): device context, the first page of the leaf, its level, and the entry; `count` is the access counter of
R352, kept in the die's TLB. -/
structure TlbEntry where
  dctx  : Nat
  vpn   : Nat
  level : Nat
  pte   : Word
  count : Nat := 0
  deriving DecidableEq, Repr

/-- One core (R8). -/
structure Core where
  /-- The serial number of the launch it runs, if any. -/
  launch   : Option Nat := none
  /-- Its part in the launch has ended (R12, R78). -/
  ended    : Bool := false
  /-- Events and tasks discarded at and after the end (R78). -/
  lostTasks  : Nat := 0
  lostEvents : Nat := 0
  /-- Tile rows, keyed tile × 16 + row. -/
  tiles    : SMap (BitVec 1024) := []
  bank0    : Bank := {}
  bank1    : Bank := {}
  acc      : SMap Acc := []
  /-- The accumulator mode: redundant (R107). -/
  accMode  : Bool := false
  /-- L1 lines, keyed by location / 64. -/
  l1       : SMap (BitVec 512) := []
  /-- Lines that `pf` has asked for (R277). -/
  pf       : List Loc := []
  /-- Halfwords in the instruction cache, keyed by location / 2, each with the device context × 2^52 + the virtual address that it
  was fetched at (R24, R317). -/
  icache   : SMap (IWord × Nat) := []
  tlb      : List TlbEntry := []
  /-- Words whose tag is full, by word index (R62). -/
  tags     : SMap Bool := []
  tagWait  : List TagWaiter := []
  bufs     : SMap Buf := []
  /-- The task deque, bottom first (R71 .. R75). -/
  deque    : List Task := []
  stolen   : Nat := 0
  lost     : Nat := 0
  steal    : Steal := .next 0
  slot     : Option Task := none
  inbox    : List InEntry := []
  layers   : SMap Layer := []
  /-- Events in the spill area: the ring position of the oldest, and their number (R85). -/
  spillAt  : Nat := 0
  spillN   : Nat := 0
  nacks    : Nat := 0
  spf      : Bool := false
  sendq    : List QEvent := []
  /-- Held channels: destination core, and the cycle at which the head is sent again (R84). -/
  holds    : SMap Nat := []
  /-- The completion queue, oldest first, with whether the operation wrote global memory (R119, R147). -/
  compq    : List (Word × Bool) := []
  path     : List CWrite := []
  /-- Writes of other contexts in the path that a context has read (R137). -/
  seen     : List Seen := []
  /-- Bytes, by context and location, that a context has read newer than the L1's copy of their line (R133). -/
  newer    : List (Nat × Nat) := []
  /-- The barrier step of this core cycle is done (R58, R122). -/
  stepped  : Bool := false
  /-- The `bacq` and dispatcher steps of this core cycle are done (R58). -/
  acted    : Bool := false
  /-- Credits and arrivals that no barrier step has applied yet (R122). -/
  barq     : List BarChange := []
  /-- Barriers in use, by offset: each barrier step tests them (R122). -/
  due      : List Nat := []
  /-- Barriers that arrived beyond zero: they complete no phase until they are initialised (R122). -/
  stuck    : List Nat := []
  /-- Barriers whose arrivals and sectors became zero while the core was out: their phases complete on restore (R61). -/
  fills    : List Nat := []
  /-- An image of this launch holds the core, or has been restored; and the units changed since then, by number (R374). -/
  saved    : Bool := false
  dirty    : List Nat := []
  /-- Issue numbers handed out so far (R68). -/
  issues   : Nat := 0
  cycle    : Word := 0
  launchid : Word := 0
  dscope   : Word := 0x3_0000_0000
  tvec     : Word := 0
  evbase   : Word := 0
  fobase   : Word := 0
  spillbase : Word := 0
  spillnext : Option Word := none
  evcnt    : Word := 0
  stackbase : Word := 0x1_4000
  stacksize : Word := 0x1000
  atomwd   : Word := 0x0100_0000
  tileid   : Word := 0
  deriving DecidableEq, Repr

/-- A core's part of an image slot as the dispatcher last wrote it (R373, R374): the core, its contexts, its local memory by offset,
and by unit the number of the save that wrote it. -/
structure CoreImage where
  core  : Core := {}
  ctxs  : SMap Ctx := []
  cells : SMap Byte := []
  vers  : SMap Nat := []
  deriving DecidableEq, Repr

/-! ## Dies -/

/-- A slot of the fault buffer (R347, R348). -/
structure FSlot where
  valid  : Bool := false
  fatal  : Bool := false
  notice : Bool := false
  dctx   : Nat := 0
  vpn    : Nat := 0
  count  : Nat := 0
  /-- bit 0 read, bit 1 write, bit 2 fetch. -/
  access : Nat := 0
  x      : Nat := 0
  y      : Nat := 0
  k      : Nat := 0
  deriving DecidableEq, Repr

/-- A fault or notice on its way to the fault buffer (R347). -/
structure FaultMsg where
  notice : Bool
  dctx   : Nat
  vpn    : Nat
  access : Nat
  x      : Nat
  y      : Nat
  k      : Nat
  deriving DecidableEq, Repr

/-- One die: its fault buffer, supervisor CSRs, TLB, and the sync copies of its sync engine (R142, R343, R347, R348). -/
structure Die where
  dead    : Bool := false
  slots   : SMap FSlot := []
  dropped : Bool := false
  ndrop   : Bool := false
  fbsel   : Nat := 0
  fbsvc   : Word := 0
  mthr    : SMap Word := []
  ptroot  : Word := 0
  dctx    : Word := 0
  faultIn : List FaultMsg := []
  tlb     : List TlbEntry := []
  /-- Translations that have left the TLBs of the die and its cores; an access may still be on its way through them (R344). -/
  old     : List TlbEntry := []
  /-- Sync copies by location / 64. -/
  sync    : SMap (BitVec 512) := []
  /-- Home state that the sync engine holds, by location / 64: a mask of the dies that may hold sync copies of the line (R392). -/
  homes   : SMap (BitVec 64) := []
  /-- Lines whose home state lies in the die's overflow area, in the order of its entries (R392). -/
  ovf     : List Nat := []
  /-- Lines of the sync engine in the order of their last use, the least recent first (R434). -/
  recent  : List Nat := []
  deriving DecidableEq, Repr

/-! ## What happens next -/

/-- A firmware image as a start finds it (R422): its header's version and digest, the SHA3-512 of its bytes and of its public key, and
whether its signature over the digest verifies. -/
structure Firmware where
  version : Nat := 0
  digest  : BitVec 512 := 0
  sha     : BitVec 512 := 0
  keySha  : BitVec 512 := 0
  signed  : Bool := false
  deriving DecidableEq, Repr

/-- A choice that the spec leaves to time or to the outside world, as plain data (R127): each entry is one thing that happens. -/
inductive Turn where
  /-- A core cycle in which the core issues (R68); `defer` leaves the instruction's later steps to events of their own. -/
  | issue (h : Nat) (defer : Bool)
  /-- An event of the machine. -/
  | event (i : Instr)
  /-- Core cycles pass without issue. -/
  | tick (h n : Nat)
  /-- Ticks of a device's dispatcher clock pass (R365). -/
  | dtick (dev n : Nat)
  /-- Another agent (the host, a peer) writes bytes at a location. -/
  | extWrite (loc : Nat) (b : List Byte)
  /-- The host of a device sends an AtomicOp on panel memory: operation, width in bytes, operand, address (R412). -/
  | extAtomic (dev : Nat) (op : RmwOp) (w : Nat) (b : Word) (a : Nat)
  /-- The start that runs goes on to its next step: what step 2's tests find dead, and the hash masks that step 6 writes (R420). -/
  | startStep (dead : BitVec 64) (masks : List Word)
  /-- The firmware image, or the image of the management controller, that the next start finds is replaced (R422). -/
  | flash (mgmt : Bool) (f : Firmware)
  /-- An atomic request enters the output queue of a switch die on its path (R384, R387). -/
  | enqueue (sw : Nat) (w : Pick)
  /-- A core's instruction cache takes the halfword at a virtual address, or drops halfword `half` (R24). -/
  | icFill (h va : Nat)
  | icDrop (h half : Nat)
  /-- A core's or a die's TLB drops an entry (R343). -/
  | tlbDrop (h i : Nat)
  | dieTlbDrop (d i : Nat)
  deriving DecidableEq, Repr

/-- The instruction being executed: its core and context, whether its later steps are left to events, its words, the
registers it uses, and its serial number. -/
structure Now where
  h     : Nat := 0
  k     : Nat := 0
  defer : Bool := false
  words : List IWord := []
  uses  : List RegUse := []
  deriving DecidableEq, Repr

/-! ## The panel -/

/-- A launch (R364): its serial number, partition device, context and queue, packet words, choruses, and progress. -/
structure Launch where
  serial  : Nat
  dev     : Nat
  dctx    : Nat
  queue   : Nat
  /-- The sixteen words of the packet (R361). -/
  packet  : List Word
  /-- Its choruses, ascending (R364). -/
  chor    : List Nat
  /-- Choruses that have been asked to stop for pre-emption and whose image is not taken yet (R370, R371). -/
  stops   : List Nat := []
  /-- Choruses that are pre-empted: their images are in the structures keyed by image handles (R371). -/
  outs    : List Nat := []
  /-- `dclk` at dispatch. -/
  start   : Nat := 0
  status  : Nat := 0
  late    : Nat := 0
  torn    : Bool := false
  deriving DecidableEq, Repr

/-- Who sent an atomic request: a core, a peer with its packet's link and header (R381), or the host of a device (R412). -/
inductive Requester where
  | core
  | peer (link : Nat) (hdr : BitVec 128)
  | host (dev : Nat)
  deriving DecidableEq, Repr

/-- One requester of an atomic request in the fabric: its core, context, instruction, operation, scope and who it is. -/
structure Part where
  h     : Nat
  k     : Nat
  id    : Nat
  op    : AtomicOp
  scope : Word
  from_ : Requester := .core
  deriving DecidableEq, Repr

/-- An atomic request that is on its own in the fabric (R377, R384): its serial number, the place in its path (R376) of the switch die
whose output queue it is in, its location, its operand, its constituents in list order, and whether it holds an entry of that switch
die's combining table, as a candidate (R387), and the serial number under which it came there. -/
structure Req where
  id    : Nat
  stage : Nat
  loc   : Loc
  opnd  : Word
  parts : List Part
  cand  : Bool := false
  came  : Nat := 0
  deriving DecidableEq, Repr

/-- A decombining record (R385): the serial number of the merged request M, the switch die that holds it, the serial numbers
and constituents of A and B, A's operand, and the reply of M once it has arrived. -/
structure CombRec where
  m      : Nat
  sw     : Nat
  a      : Nat
  aparts : List Part
  b      : Nat
  bparts : List Part
  opnd   : Word
  line   : Nat
  reply  : Option FReply
  deriving DecidableEq, Repr

/-- A granule of a copy on its way, or a part of one (R139, R146): where its bytes are read if they have not been read yet, the bytes
once they are known, and their location at the destination. -/
structure Granule where
  src   : Option (Loc × Nat)
  bytes : List Byte
  dst   : Loc
  deriving DecidableEq, Repr

/-- The granules of 32 bytes of a delivery that have not landed. -/
abbrev Sector := List Granule

/-- A delivery of the tile port (R59, R122, R305, R306): its operation, the launch, the destination core (none for global
memory) and offset, whether its first byte has been checked, the barrier it credits, and what has not landed. -/
structure Delivery where
  id      : Nat
  op      : Nat
  launch  : Nat
  h       : Option Nat
  off     : Nat
  checked : Bool
  bv      : Bool
  xb      : Nat
  todo    : List Sector
  deriving DecidableEq, Repr

/-- The slot that a `qput` claimed (R307): its queue's header as a device context's virtual address and as a location, and the claim. -/
structure QSlot where
  dev   : Nat
  dctx  : Nat
  va    : Nat
  at_   : Nat
  claim : Nat
  deriving DecidableEq, Repr

/-- A copy operation that a core issued (R124): its launch, core and context, whether it sends a message and with which tag,
whether it writes global memory, how many deliveries have not ended, whether one was refused, and for a `qput` its slot. -/
structure CopyOp where
  id      : Nat
  launch  : Nat
  h       : Nat
  k       : Nat
  nt      : Bool
  tag     : Nat
  global  : Bool
  left    : Nat
  refused : Bool
  slot    : Option QSlot
  deriving DecidableEq, Repr

/-- A barrier arrival on its way (R122, R312): the launch, the holding core, the barrier's offset and the expected bytes. -/
structure Arrival where
  id     : Nat
  launch : Nat
  h      : Nat
  off    : Nat
  bytes  : Nat
  deriving DecidableEq, Repr

/-- A completion message that is not in its core's completion queue yet (R119): the launch, the core, where it comes from (none
for the tile port, else the queue), its 64 bits, and whether the operation wrote global memory. -/
structure Msg where
  launch : Nat
  h      : Nat
  src    : Option Nat
  w      : Word
  global : Bool
  deriving DecidableEq, Repr

/-- A shape record or descriptor (R114, R302): dimensions, element size code, generation, extents and strides. -/
structure Shape where
  ndim : Nat
  esz  : Nat
  gen  : Nat
  ext  : List Nat
  sst  : List Int
  dst  : List Int
  deriving DecidableEq, Repr

/-- An entry of an engine's parameter-block cache (R116): the device and context, address and generation, and the record. -/
structure ShapeEnt where
  dev  : Nat
  dctx : Nat
  at_  : Nat
  gen  : Nat
  rec_ : List Byte
  deriving DecidableEq, Repr

/-- A copy packet that an engine is processing (R112 .. R118): engine and binding entry, partition device and context, its eight
words, its queue's header and claim, the shape, the piece it is at, the granules of that piece that have not been written while it
is being performed, whether its local destination has been checked, bytes whose sectors are not credited yet, its status and piece
once it has ended, and the operation of the `qput` that appended it. -/
structure Job where
  id      : Nat
  engine  : Nat
  entry   : Nat
  dev     : Nat
  dctx    : Nat
  words   : List Word
  hdr     : Loc
  claim   : Nat
  shape   : Shape
  piece   : Nat
  open_   : List (List Granule)
  checked : Bool
  credit  : Nat
  status  : Option (Nat × Nat)
  op      : Option Nat
  /-- Its device context is torn down: it stops at the end of its piece (R375). -/
  halt    : Bool := false
  /-- Its queue's header as a virtual address of the device context. -/
  qva     : Nat := 0
  deriving DecidableEq, Repr

/-- A DATA datagram that its receiver has not acknowledged (R418): sequence number, packet, piece, its bytes, how often it has been
resent, and when it was last sent. -/
structure SentDg where
  psn   : Nat
  job   : Nat
  piece : Nat
  data  : List Byte
  tries : Nat
  time  : Nat
  deriving DecidableEq, Repr

/-- A DATA datagram that has not been sent, since 1,024 are unacknowledged (R418): packet, piece, flags and segments. -/
structure WaitDg where
  job   : Nat
  piece : Nat
  flags : Nat
  segs  : List (Nat × List Byte)
  deriving DecidableEq, Repr

/-- A scale-out channel beyond its record (R415, R418): unacknowledged datagrams, and those that wait to be sent; as a receiver, performed ones not acknowledged
and since when, whether a gap has been reported, whether the rest of a failed SEND is being dropped, and the granules of the datagram
being performed that have not landed (R146). -/
structure Chan where
  unacked : List SentDg := []
  waiting : List WaitDg := []
  owed    : Nat := 0
  since   : Nat := 0
  gap     : Bool := false
  drop    : Bool := false
  landing : List Granule := []
  deriving DecidableEq, Repr

/-- A Stolrus link (R380 .. R383): lanes (0: down), the next sequence number, packets sent and not acknowledged, packets that wait
until fewer than 256 are; and as a receiver the sequence number expected next, and whether packets are discarded until it comes. -/
structure Link where
  lanes   : Nat := 0
  seq     : Nat := 0
  unacked : List (List Byte) := []
  held    : List (List Byte) := []
  expect  : Nat := 0
  bad     : Bool := false
  deriving DecidableEq, Repr

/-- A write of a peer that performs granule by granule (R139, R381): its link and packet header, whether it is acknowledged at its end
(a packet whose tag has failed is not), and the granules that have not performed. -/
structure InWrite where
  id    : Nat
  link  : Nat
  hdr   : BitVec 128
  whole : Bool
  todo  : List Granule
  deriving DecidableEq, Repr

/-- What the panel sends to the outside world. -/
inductive Output where
  /-- An MSI-X vector: a die's fault doorbell (the die), or a device's (64 + device) (R350, R369). -/
  | msix (v : Nat)
  /-- A frame on a scale-out port (R417). -/
  | datagram (port : Nat) (f : Frame)
  /-- A Stolrus packet on a link (R380). -/
  | packet (link : Nat) (b : List Byte)
  /-- The completion of an AtomicOp of a device's host: the old value, or its failure (R412). -/
  | completion (dev : Nat) (x : Option Word)
  deriving DecidableEq, Repr

/-- A teardown under way (R369): packets discarded, appends discarded, launches stopped. -/
structure Tear where
  dev  : Nat
  dctx : Nat
  q    : Nat
  a    : Nat
  n    : Nat
  deriving DecidableEq, Repr

/-- A record of the event log (R426): its four words, lowest first. -/
structure LogRec where
  w0 : Word
  w1 : Word
  w2 : Word
  w3 : Word
  deriving DecidableEq, Repr

/-- The whole machine. -/
structure State where
  ctxs     : SMap Ctx
  cores    : SMap Core
  dies     : SMap Die
  mem      : Memory
  /-- Granules of 8 bytes that hold an uncorrectable error, by location / 8 (R425). -/
  poison   : SMap Bool
  /-- How often the near store of a die, or device memory (64), has lost its contents, which are then undefined (R411, R420). -/
  nsEra    : SMap Nat
  /-- Lines of access mode 10 that a partition device holds for host and peer memory, by device × 2^64 + location / 64 (R128). -/
  devLines : SMap (BitVec 512)
  /-- Control-space registers with no field of their own, by control-space address; one not listed holds its reset value. -/
  ctl      : SMap Word
  launches : List Launch
  /-- Gangs that are forming or waiting for the row bus. -/
  gangs    : List Gang
  /-- The event log: the last 1,024 records by number modulo 1,024, and how many were ever written (R426). -/
  log      : SMap LogRec
  logw     : Nat
  /-- Atomic requests on their own in the fabric, and decombining records (R384, R385). -/
  reqs     : List Req
  recs     : List CombRec
  /-- Copies, barrier arrivals and completion messages on their way. -/
  ops      : List CopyOp
  dels     : List Delivery
  arrivals : List Arrival
  msgs     : List Msg
  /-- Copy packets in progress, and the engines' caches of shape records. -/
  jobs     : List Job
  scache   : SMap (List ShapeEnt)
  /-- The binding entry that each engine served last, plus one (R375). -/
  served   : SMap Nat
  /-- Scale-out channels, by engine × 256 + channel, and Stolrus links. -/
  chans    : SMap Chan
  links    : SMap Link
  /-- Writes of peers that are being performed (R381). -/
  inwrites : List InWrite
  /-- Widths of the PCI Express ports, in lanes. -/
  ports    : SMap Nat
  tears    : List Tear
  /-- Header words that the dispatcher last wrote to image slots, by slot address (R374). -/
  heads    : SMap Word
  /-- What the dispatcher has written to image slots, by the address of the core's part; `mem` holds what differs from it (R373). -/
  images   : SMap CoreImage
  /-- Queues whose head packet has passed its check, by device × 64 + queue: `qread` then, plus one (R363). -/
  checked  : SMap Nat
  /-- The latest input that each device's dispatcher has taken in its present cycle: 1 a teardown, 2 an append, 3 + q a doorbell
  (R369). -/
  arbiter  : SMap Nat
  /-- Devices whose dispatcher has handled an entry in its present cycle (R366). -/
  handled  : SMap Bool
  /-- Dies, and switch dies by their source number (R426), that have failed at run time (R425). -/
  failed   : List Nat
  /-- Correctable and uncorrectable errors counted, and captures of the resync summary (R424, R425). -/
  errC     : Nat
  errU     : Nat
  captures : Nat
  /-- Attestation: nonces that await their report, oldest first, and the report (R427, R428). -/
  attq     : List (List Word)
  attrep   : List Byte
  /-- The firmware and management controller images that a start finds, and those that the last start accepted (R422, R428). -/
  flash    : Firmware
  flashMc  : Firmware
  booted   : Firmware
  bootedMc : Firmware
  /-- Bandwidth-change events that the dispatchers have recorded (R383). -/
  bwevents : List Word
  /-- What has been sent outside, oldest first. -/
  outputs  : List Output
  /-- What peers refuse: bit 0 every request, bit 1 atomics (R378); a peer's own choice, no state of this panel. -/
  peerDeny : SMap Nat
  /-- The dispatcher clock (R365) of each partition device. -/
  dclk     : SMap Word
  now      : Now
  agenda   : List Turn
  /-- Serial numbers handed out so far. -/
  serial   : Nat
  deriving DecidableEq, Repr

/-- A core's handle from its coordinates (R3). -/
def handleOf (x y : Nat) : Nat := y * 256 + x

/-- The machine at power on (R420): nothing runs, nothing is listed, every register at the value its rule or the log names. -/
def State.reset : State where
  ctxs := []
  cores := []
  dies := []
  mem := []
  poison := []
  nsEra := []
  devLines := []
  ctl := []
  launches := []
  gangs := []
  log := []
  logw := 0
  reqs := []
  recs := []
  ops := []
  dels := []
  arrivals := []
  msgs := []
  jobs := []
  scache := []
  served := []
  chans := []
  links := []
  inwrites := []
  ports := []
  tears := []
  heads := []
  images := []
  checked := []
  arbiter := []
  handled := []
  failed := []
  errC := 0
  errU := 0
  captures := 0
  attq := []
  attrep := []
  flash := {}
  flashMc := {}
  booted := {}
  bootedMc := {}
  bwevents := []
  outputs := []
  peerDeny := []
  dclk := []
  now := {}
  agenda := []
  serial := 0

end Sys2Proof.Machine
end

