-- ==== Sys2Proof/Machine/Ops.lean ====
section
/-! DEFINITION. The named operations over contexts and registers, how an instruction ends (completion, a trap, parking, a
wait), taking an exception and returning from one. -/

namespace Sys2Proof.Machine

/-- The outcome of a step of this machine. -/
abbrev Out := Host.Outcome State Fault Refusal

/-! ## Contexts and cores -/

/-- The key of a context. -/
def ctxKey (h k : Nat) : Nat := h * 16 + k

/-- Context k of core h. -/
def State.ctx (s : State) (h k : Nat) : Ctx := SMap.get s.ctxs {} (ctxKey h k)
/-- The context replaced. -/
def State.setCtx (s : State) (h k : Nat) (c : Ctx) : State := { s with ctxs := SMap.put s.ctxs (ctxKey h k) c }
/-- The context changed. -/
def State.modCtx (s : State) (h k : Nat) (f : Ctx → Ctx) : State := s.setCtx h k (f (s.ctx h k))
/-- Core h. -/
def State.core (s : State) (h : Nat) : Core := SMap.get s.cores {} h
/-- The core replaced. -/
def State.setCore (s : State) (h : Nat) (c : Core) : State := { s with cores := SMap.put s.cores h c }
/-- The core changed. -/
def State.modCore (s : State) (h : Nat) (f : Core → Core) : State := s.setCore h (f (s.core h))
/-- Die d. -/
def State.die (s : State) (d : Nat) : Die := SMap.get s.dies {} d
/-- The die changed. -/
def State.modDie (s : State) (d : Nat) (f : Die → Die) : State := { s with dies := SMap.put s.dies d (f (s.die d)) }
/-- The context that executes. -/
def State.cur (s : State) : Ctx := s.ctx s.now.h s.now.k
/-- The executing context changed. -/
def State.modCur (s : State) (f : Ctx → Ctx) : State := s.modCtx s.now.h s.now.k f
/-- The core that executes. -/
def State.me (s : State) : Core := s.core s.now.h
/-- The executing core changed. -/
def State.modMe (s : State) (f : Core → Core) : State := s.modCore s.now.h f

/-- A core's x, y and die from its handle (R3); the handle of an image names the same core. -/
def hx (h : Nat) : Nat := h % 65536 % 256
def hy (h : Nat) : Nat := h % 65536 / 256
def dieAt (x y : Nat) : Nat := y / 32 * 8 + x / 32
def hdie (h : Nat) : Nat := dieAt (hx h) (hy h)
/-- The cluster peer number (R3). -/
def peerNo (h : Nat) : Nat := hy h % 4 * 4 + hx h % 4
/-- The physical handle of cluster peer p of core h. -/
def peerHandle (h p : Nat) : Nat := handleOf (hx h - hx h % 4 + p % 4) (hy h - hy h % 4 + p / 4)
/-- The chorus number (R364): die × 32 + (y mod 32). -/
def chorusOf (h : Nat) : Nat := hdie h * 32 + hy h % 32
/-- The handle of the core at a position of a chorus. -/
def chorusCore (c pos : Nat) : Nat := handleOf (c / 32 % 8 * 32 + pos) (c / 32 / 8 * 32 + c % 32)

/-! ## Registers -/

/-- A `g` register: `g0` reads zero (R9). -/
def Ctx.gr (c : Ctx) (r : Reg) : Word := if r = 0#5 then 0#64 else SMap.get c.g 0#64 r.toNat
/-- An `f` register. -/
def Ctx.fr (c : Ctx) (r : Reg) : BitVec 32 := SMap.get c.f 0#32 r.toNat
/-- A `v` register. -/
def Ctx.vr (c : Ctx) (r : VReg) : Vec := SMap.get c.v 0#1024 r.toNat
/-- A `g` register written; a write to `g0` is ignored (R9). -/
def Ctx.setG (c : Ctx) (r : Reg) (x : Word) : Ctx := if r = 0#5 then c else { c with g := SMap.put c.g r.toNat x }
/-- An `f` register written. -/
def Ctx.setF (c : Ctx) (r : Reg) (x : BitVec 32) : Ctx := { c with f := SMap.put c.f r.toNat x }
/-- A `v` register written. -/
def Ctx.setV (c : Ctx) (r : VReg) (x : Vec) : Ctx := { c with v := SMap.put c.v r.toNat x }

/-- A `g` register of the executing context. -/
def State.g (s : State) (r : Reg) : Word := s.cur.gr r
/-- An `f` register of the executing context. -/
def State.f (s : State) (r : Reg) : BitVec 32 := s.cur.fr r
/-- A `v` register of the executing context. -/
def State.v (s : State) (r : VReg) : Vec := s.cur.vr r

/-- One completing write. -/
def Ctx.write (c : Ctx) : RegWrite → Ctx
  | .g n x => c.setG n x
  | .f n x => c.setF n x
  | .v n x => c.setV n x
  | .fflags b => { c with fflags := c.fflags ||| b }
  | .aflags b => { c with aflags := c.aflags ||| b }
  | .satflags b => { c with satflags := c.satflags ||| b }
  | .atomstat b => { c with atomstat := c.atomstat ||| b }
  | .tile _ _ _ | .bank _ _ _ => c

/-- Completing writes in order. -/
def Ctx.writes (c : Ctx) (ws : List RegWrite) : Ctx := ws.foldl Ctx.write c

/-! ## Core-wide registers that instructions complete into -/

/-- A row of a tile register. -/
def Core.tileRow (c : Core) (t : TReg) (row : Nat) : BitVec 1024 := SMap.get c.tiles 0#1024 (t.toNat * 16 + row)
/-- A row of a tile register written. -/
def Core.setTileRow (c : Core) (t : TReg) (row : Nat) (x : BitVec 1024) : Core :=
  { c with tiles := SMap.put c.tiles (t.toNat * 16 + row) x }

/-- A macro bank. -/
def Core.bankOf (c : Core) (m : MReg) : Bank := if m = 0#1 then c.bank0 else c.bank1
/-- A macro bank replaced. -/
def Core.setBank (c : Core) (m : MReg) (b : Bank) : Core := if m = 0#1 then { c with bank0 := b } else { c with bank1 := b }

/-- 128 rows of 32 codes from an image of 16 bytes a row (R96). -/
def imageRows (bs : List Byte) : SMap (BitVec 128) :=
  (List.range 128).map (fun i => (i, BitVec.ofNat 128 (leNat ((bs.drop (16 * i)).take 16))))
/-- 128 rows of the low or high nibbles of an INT8 image of 32 bytes a row (R96). -/
def nibbleRows (hi : Bool) (bs : List Byte) : SMap (BitVec 128) :=
  (List.range 128).map (fun i => (i, BitVec.ofNat 128
    (((bs.drop (32 * i)).take 32).foldr (fun b a => (if hi then b.toNat / 16 else b.toNat % 16) + 16 * a) 0)))
/-- 128 scales from 16-bit containers, whose bits [15:9] are ignored (R30). -/
def imageScales (bs : List Byte) : SMap (BitVec 16) :=
  (List.range 128).map (fun i => (i, BitVec.ofNat 16 (leNat ((bs.drop (2 * i)).take 2) % 512)))

/-- `mcld` sets a bank from its image (R96, R258): kind 0 `c`, 1 `x`, 2 `i8`. Kind `c` or `x` ends a pair of kind `i8`. -/
def Core.loadBank (c : Core) (m : MReg) (kind : Nat) (img : List Byte) : Core :=
  let other := if (c.bankOf (~~~m)).kind = 3 then c.setBank (~~~m) { c.bankOf (~~~m) with kind := 0 } else c
  match kind with
  | 0 => other.setBank m { other.bankOf m with codes := imageRows img, kind := 1 }
  | 1 => other.setBank m { other.bankOf m with codes := imageRows img, scales := imageScales (img.drop 2048), kind := 2 }
  | _ =>
    let sc := imageScales (img.drop 4096)
    { c with
      bank0 := { c.bank0 with codes := nibbleRows false img, scales := sc, kind := 3 }
      bank1 := { c.bank1 with codes := nibbleRows true img, scales := sc, kind := 3 } }

/-- One completing write to a core-wide register. -/
def Core.write (c : Core) : RegWrite → Core
  | .tile t row x => c.setTileRow t row x
  | .bank m kind img => c.loadBank m kind img
  | _ => c

/-- The write is to a core-wide register. -/
def RegWrite.coreWide : RegWrite → Bool
  | .tile _ _ _ | .bank _ _ _ => true
  | _ => false

/-- Completing writes of context k of core h, in order. -/
def State.complete (s : State) (h k : Nat) (ws : List RegWrite) : State :=
  let s1 := s.modCtx h k (fun c => c.writes ws)
  if ws.any RegWrite.coreWide then s1.modCore h (fun c => ws.foldl Core.write c) else s1

/-! ## How an instruction ends -/

/-- The length in bytes of the executing instruction (R202). -/
def State.len (s : State) : Word := BitVec.ofNat 64 (2 * s.now.words.length)

/-- The next instruction in sequence (R165). -/
def Ctx.advance (c : Ctx) (len : Word) : Ctx := { c with pc := c.pc + len }

/-- A page 0 instruction ends: its writes are made and the pc moves on (R180). -/
def State.endBase (s : State) (ws : List RegWrite) : State := s.modCur (fun c => (c.writes ws).advance s.len)

/-- An outstanding instruction more. -/
def Ctx.push (c : Ctx) (o : Outst) : Ctx := { c with out := c.out ++ [o] }

/-- A long-latency instruction stays outstanding, lacking `p`; its serial number is the state's (R69). -/
def State.stay (s : State) (l : BitVec 4) (ws : List RegWrite) (p : Pend) : State :=
  { s.modCur (fun c => (c.push ⟨s.serial, c.pc, l.toNat, s.now.uses, ws, p⟩).advance s.len) with serial := s.serial + 1 }

/-- A long-latency instruction whose results are computed, and the next instruction follows (R69): with no window (R180) its
writes are made now, unless the turn defers them; with a window they are made at its completion event, and until then it is
outstanding. -/
def State.endLong (s : State) (l : BitVec 4) (ws : List RegWrite) : State :=
  if s.now.defer || l != 0#4 then s.stay l ws .ready else (s.complete s.now.h s.now.k ws).modCur (fun c => c.advance s.len)

/-- Trap codes of R220. -/
inductive Cause where
  | illegal | lookahead | priv | misalign | pageFatal | perm | rap | bufstate | spovf | gang | redundant | shape | mchk | sys
  | brk | scope | window
  deriving DecidableEq, Repr

/-- The number of a cause (R220). -/
def Cause.code : Cause → Nat
  | .illegal => 1
  | .lookahead => 2
  | .priv => 3
  | .misalign => 4
  | .pageFatal => 5
  | .perm => 6
  | .rap => 7
  | .bufstate => 8
  | .spovf => 9
  | .gang => 10
  | .redundant => 11
  | .shape => 12
  | .mchk => 13
  | .sys => 14
  | .brk => 15
  | .scope => 16
  | .window => 17

/-- Why an instruction does not take its own effect: a trap (R219), parking on a missing page (R345), a wait, or a stop. -/
inductive Stop where
  | trap (c : Cause) (addr info : Word)
  | park (addr info : Word) (va acc : Nat)
  | wait (w : Wait)
  | fault (f : Fault)
  deriving DecidableEq, Repr

/-- Supervisor mode (R218). -/
def Ctx.supervisor (c : Ctx) : Bool := c.tstat.getLsbD 0

/-- TrapEntry (R219): the trap CSRs are set, the mode becomes supervisor with the old mode in pmode, and the pc becomes
`tvec`; no register is saved. -/
def Ctx.enter (c : Ctx) (code : Nat) (fpc rpc addr info tvec : Word) : Ctx :=
  { c with
    cause := BitVec.ofNat 64 code, fpc := fpc, rpc := rpc, faddr := addr, finfo := info
    tstat := (if c.supervisor then 3#64 else 1#64) ||| (c.tstat &&& ~~~3#64)
    pc := tvec, state := .ready, trap := none, fetched := false }

/-- A trap becomes pending, unless an earlier instruction's trap is (R219). -/
def Ctx.pend (c : Ctx) (t : PendTrap) : Ctx :=
  match c.trap with
  | some u => if u.id < t.id then { c with state := .waiting .trap } else { c with trap := some t, state := .waiting .trap }
  | none => { c with trap := some t, state := .waiting .trap }

/-- The pending trap is entered once no long-latency instruction of the context is outstanding (R219). -/
def Ctx.enterPending (c : Ctx) (tvec : Word) : Ctx :=
  match c.out, c.trap with
  | [], some t => c.enter t.code t.fpc t.rpc t.addr t.info tvec
  | _, _ => c

/-- A trap on context k of core h by the instruction with the serial number `id`: entered at once when no long-latency
instruction of the context is outstanding, and pending until then otherwise; of several, the earliest instruction's (R219). -/
def State.raiseAt (s : State) (h k id code : Nat) (fpc rpc addr info : Word) : State :=
  s.modCtx h k (fun c => (c.pend ⟨id, code, fpc, rpc, addr, info⟩).enterPending (s.core h).tvec)

/-- A trap on the executing instruction, whose context has no other: `fpc` and `rpc` are its pc (R219). -/
def State.raise (s : State) (c : Cause) (addr info : Word) : State :=
  s.modCur (fun x =>
    if x.out = [] then x.enter c.code x.pc x.pc addr info s.me.tvec
    else x.pend ⟨s.serial, c.code, x.pc, x.pc, addr, info⟩)

/-- SRET (R314): the mode becomes pmode, pmode becomes 0, and the pc the target. -/
def Ctx.leave (c : Ctx) (t : Word) : Ctx :=
  { c with tstat := (if c.tstat.getLsbD 1 then 1#64 else 0#64) ||| (c.tstat &&& ~~~3#64), pc := t }

/-- The device context whose tables translate for a core: that of its launch (R360), else the die's running one (R348). -/
def State.dctxOf (s : State) (h : Nat) : Nat :=
  match (s.core h).launch.bind (fun n => s.launches.find? (fun l => l.serial == n)) with
  | some l => l.dctx
  | none => (s.die (hdie h)).dctx.toNat

/-- The windows of the outstanding instructions are over: the next instruction waits until they complete (R179). -/
def Ctx.shut (c : Ctx) : Ctx := { c with out := c.out.map (fun o => { o with left := 0 }) }

/-- Parking on a missing page (R345): the trap CSRs are written, no handler is entered, and the fault goes to the die's fault
buffer. -/
def State.park (s : State) (addr info : Word) (va acc : Nat) : State :=
  let h := s.now.h
  let s1 := s.modCur (fun c => { c.shut with
    state := .parked, cause := 5#64, fpc := c.pc, faddr := addr, finfo := info })
  s1.modDie (hdie h) (fun d => { d with
    faultIn := d.faultIn ++ [⟨false, s.dctxOf h, va / 65536, acc, hx h, hy h, s.now.k⟩] })

/-- A stop takes its effect on the executing context. -/
def State.stop (s : State) : Stop → Host.Outcome State Fault Refusal
  | .trap c a i => .next (s.raise c a i)
  | .park a i va acc => .next (s.park a i va acc)
  | .wait w => .next (s.modCur (fun c => { c with state := .waiting w, wlen := s.len, wuses := s.now.uses }))
  | .fault f => .fault f

/-- An instruction's outcome: its own effect, or the stop that came first. -/
def State.run (s : State) (r : Except Stop State) : Host.Outcome State Fault Refusal :=
  match r with
  | .ok t => .next t
  | .error e => s.stop e

/-- Trap unless the condition holds. -/
def must (b : Bool) (e : Stop) : Except Stop Unit := if b then .ok () else .error e

/-! ## Details of R177, R220 -/

/-- ILLEGAL, reason 11, for a checked register value (`faddr` zero), or for a memory operand at `addr` (R177). -/
def illegal11 (addr : Word) : Stop := .trap .illegal addr 11#64

/-- MISALIGN `finfo`: access 0 read, 1 write, 2 both, 3 target; log2 of the alignment (R220). -/
def misalign (addr : Word) (acc lg : Nat) : Stop := .trap .misalign addr (BitVec.ofNat 64 (acc * 256 + lg))

/-- WINDOW without a dead peer (R220). -/
def windowAt (addr : Word) : Stop := .trap .window addr 0#64

/-- WINDOW for peer p that is not a live core of the launch. -/
def windowDead (addr : Word) (p : Nat) : Stop := .trap .window addr (BitVec.ofNat 64 (256 + p))

/-- SCOPE with the scope value as read. -/
def scopeTrap (v : Word) : Stop := .trap .scope 0#64 v

/-- NW, the base of the near window (R17). -/
def NW : Nat := 0xF_FFFF_FF00_0000

end Sys2Proof.Machine
end

