-- ==== Sys2Proof/Machine/Alu.lean ====
section
/-! DEFINITION. Page 0 arithmetic, logic, comparisons, bit operations and immediates (R196 .. R200), and multiply-high, divide
and remainder of page 1 (R206). -/

namespace Sys2Proof.Machine

/-! ## Operations on 64-bit values -/

/-- A shift count: B[5:0] (R196). -/
def shamt (b : Word) : Nat := b.toNat % 64

/-- The smaller and larger, signed and unsigned (R196). -/
def minS (a b : Word) : Word := if a.slt b then a else b
def maxS (a b : Word) : Word := if a.slt b then b else a
def minU (a b : Word) : Word := if a.ult b then a else b
def maxU (a b : Word) : Word := if a.ult b then b else a

/-- The number of leading zero bits among the low n bits. -/
def leadingZeros (a : Word) : Nat → Nat
  | 0 => 0
  | n + 1 => if a.getLsbD n then 0 else 1 + leadingZeros a n
/-- The number of trailing zero bits from bit i, of n bits. -/
def trailingZeros (a : Word) (i : Nat) : Nat → Nat
  | 0 => 0
  | n + 1 => if a.getLsbD i then 0 else 1 + trailingZeros a (i + 1) n
/-- The number of one bits among the low n bits. -/
def onesBelow (a : Word) : Nat → Nat
  | 0 => 0
  | n + 1 => (if a.getLsbD n then 1 else 0) + onesBelow a n

/-- The width a code of `sext` and `zext` names (R198). -/
def extWidth (w : BitVec 3) : Nat := 8 * 2 ^ w.toNat
/-- Bit i of the result is bit 63 - i (R198). -/
def bitReverse (a : Word) : Word := a.reverse
/-- Byte i of the result is byte 7 - i (R198). -/
def byteReverse (a : Word) : Word :=
  a.extractLsb' 0 8 ++ (a.extractLsb' 8 8 ++ (a.extractLsb' 16 8 ++ (a.extractLsb' 24 8 ++ (a.extractLsb' 32 8 ++
    (a.extractLsb' 40 8 ++ (a.extractLsb' 48 8 ++ a.extractLsb' 56 8))))))

/-- Bits [127:64] of the signed product (R206). -/
def mulHighS (a b : Word) : Word := BitVec.ofInt 64 ((a.toInt * b.toInt) / 2 ^ 64)
/-- Bits [127:64] of the unsigned product. -/
def mulHighU (a b : Word) : Word := BitVec.ofNat 64 (a.toNat * b.toNat / 2 ^ 64)
/-- Signed quotient truncated toward zero; all-ones by zero (R206). -/
def divS (a b : Word) : Word := if b = 0#64 then ~~~0#64 else BitVec.ofInt 64 (a.toInt.tdiv b.toInt)
/-- Unsigned quotient; all-ones by zero. -/
def divU (a b : Word) : Word := if b = 0#64 then ~~~0#64 else BitVec.ofNat 64 (a.toNat / b.toNat)
/-- Signed remainder with the sign of A; A by zero. -/
def remS (a b : Word) : Word := if b = 0#64 then a else BitVec.ofInt 64 (a.toInt.tmod b.toInt)
/-- Unsigned remainder; A by zero. -/
def remU (a b : Word) : Word := if b = 0#64 then a else BitVec.ofNat 64 (a.toNat % b.toNat)

/-! ## The shared forms -/

/-- gd := op(ga, gb) (R196). -/
def State.binop (s : State) (op : Word → Word → Word) (o : RRR) : State := s.endBase [.g o.d (op (s.g o.a) (s.g o.b))]
/-- gd := op(ga) (R198). -/
def State.unop (s : State) (op : Word → Word) (o : RRU) : State := s.endBase [.g o.d (op (s.g o.a))]
/-- gd := op(ga, I) (R199). -/
def State.immop (s : State) (op : Word → Word → Word) (o : RIOps) : State := s.endBase [.g o.d (op (s.g o.a) o.imm)]
/-- gd := op(ga, n) (R199). -/
def State.shop (s : State) (op : Word → Nat → Word) (o : ShOps) : State := s.endBase [.g o.d (op (s.g o.a) o.n.toNat)]
/-- gd := op(ga, gb) on the scalar pipe, long-latency (R206). -/
def State.longop (s : State) (op : Word → Word → Word) (o : L3) : State := s.endLong o.l [.g o.d (op (s.g o.a) (s.g o.b))]

/-! ## Meanings -/


/-- gd := A + B (R196). -/
def execAdd (o : RRR) (s : State) : Out := .next (s.binop (fun a b => a + b) o)

/-- gd := A - B (R196). -/
def execSub (o : RRR) (s : State) : Out := .next (s.binop (fun a b => a - b) o)

/-- gd := A AND B (R196). -/
def execAnd (o : RRR) (s : State) : Out := .next (s.binop (fun a b => a &&& b) o)

/-- gd := A OR B (R196). -/
def execOr (o : RRR) (s : State) : Out := .next (s.binop (fun a b => a ||| b) o)

/-- gd := A XOR B (R196). -/
def execXor (o : RRR) (s : State) : Out := .next (s.binop (fun a b => a ^^^ b) o)

/-- gd := A AND NOT B (R196). -/
def execAndn (o : RRR) (s : State) : Out := .next (s.binop (fun a b => a &&& ~~~b) o)

/-- gd := A shifted left by B[5:0] (R196). -/
def execSll (o : RRR) (s : State) : Out := .next (s.binop (fun a b => a <<< shamt b) o)

/-- gd := A shifted right by B[5:0], zeros in (R196). -/
def execSrl (o : RRR) (s : State) : Out := .next (s.binop (fun a b => a >>> shamt b) o)

/-- gd := A shifted right by B[5:0], copies of bit 63 in (R196). -/
def execSra (o : RRR) (s : State) : Out := .next (s.binop (fun a b => a.sshiftRight (shamt b)) o)

/-- gd := A rotated left by B[5:0] (R196). -/
def execRol (o : RRR) (s : State) : Out := .next (s.binop (fun a b => a.rotateLeft (shamt b)) o)

/-- gd := the smaller, signed (R196). -/
def execMin (o : RRR) (s : State) : Out := .next (s.binop minS o)

/-- gd := the larger, signed (R196). -/
def execMax (o : RRR) (s : State) : Out := .next (s.binop maxS o)

/-- gd := the smaller, unsigned (R196). -/
def execMinn (o : RRR) (s : State) : Out := .next (s.binop minU o)

/-- gd := the larger, unsigned (R196). -/
def execMaxn (o : RRR) (s : State) : Out := .next (s.binop maxU o)

/-- gd := bits [63:0] of A × B (R196). -/
def execMul (o : RRR) (s : State) : Out := .next (s.binop (fun a b => a * b) o)

/-- gd := ga when gc is not zero, else gb (R196). -/
def execSel (o : SelOps) (s : State) : Out := 
  .next (s.endBase [.g o.d (if s.g (cReg o.c) = 0#64 then s.g o.b else s.g o.a)])

/-- gd := 1 when A = B, else 0 (R197). -/
def execCmpEq (o : RRR) (s : State) : Out := .next (s.binop (fun a b => ofBool64 (a == b)) o)

/-- gd := 1 when A ≠ B, else 0 (R197). -/
def execCmpNe (o : RRR) (s : State) : Out := .next (s.binop (fun a b => ofBool64 (a != b)) o)

/-- gd := 1 when A < B, signed, else 0 (R197). -/
def execCmpLt (o : RRR) (s : State) : Out := .next (s.binop (fun a b => ofBool64 (a.slt b)) o)

/-- gd := 1 when A ≥ B, signed, else 0 (R197). -/
def execCmpGe (o : RRR) (s : State) : Out := .next (s.binop (fun a b => ofBool64 (!a.slt b)) o)

/-- gd := 1 when A < B, unsigned, else 0 (R197). -/
def execCmpLtn (o : RRR) (s : State) : Out := .next (s.binop (fun a b => ofBool64 (a.ult b)) o)

/-- gd := 1 when A ≥ B, unsigned, else 0 (R197). -/
def execCmpGen (o : RRR) (s : State) : Out := .next (s.binop (fun a b => ofBool64 (!a.ult b)) o)

/-- gd := 1 when (A AND B) ≠ 0, else 0 (R197). -/
def execTst (o : RRR) (s : State) : Out := .next (s.binop (fun a b => ofBool64 ((a &&& b) != 0#64)) o)

/-- gd := ga (R197). -/
def execMov (o : RRU) (s : State) : Out := .next (s.unop (fun a => a) o)

/-- gd := number of leading zero bits of A (R198). -/
def execClz (o : RRU) (s : State) : Out := .next (s.unop (fun a => BitVec.ofNat 64 (leadingZeros a 64)) o)

/-- gd := number of trailing zero bits of A (R198). -/
def execCtz (o : RRU) (s : State) : Out := .next (s.unop (fun a => BitVec.ofNat 64 (trailingZeros a 0 64)) o)

/-- gd := number of one bits of A (R198). -/
def execPopc (o : RRU) (s : State) : Out := .next (s.unop (fun a => BitVec.ofNat 64 (onesBelow a 64)) o)

/-- gd := A[W-1:0] sign-extended (R198). -/
def execSext (o : ExtOps) (s : State) : Out := 
  .next (s.endBase [.g o.d (((s.g o.a).setWidth (extWidth o.w)).signExtend 64)])

/-- gd := A[W-1:0] zero-extended (R198). -/
def execZext (o : ExtOps) (s : State) : Out := 
  .next (s.endBase [.g o.d (((s.g o.a).setWidth (extWidth o.w)).setWidth 64)])

/-- gd := A with its bits in reverse (R198). -/
def execBrev (o : RRU) (s : State) : Out := .next (s.unop bitReverse o)

/-- gd := A with its bytes in reverse (R198). -/
def execBswap (o : RRU) (s : State) : Out := .next (s.unop byteReverse o)

/-- gd := 0 - A (R198). -/
def execNeg (o : RRU) (s : State) : Out := .next (s.unop (fun a => 0#64 - a) o)

/-- gd := A + I (R199). -/
def execAddi (o : RIOps) (s : State) : Out := .next (s.immop (fun a i => a + i) o)

/-- gd := A AND I (R199). -/
def execAndi (o : RIOps) (s : State) : Out := .next (s.immop (fun a i => a &&& i) o)

/-- gd := A OR I (R199). -/
def execOri (o : RIOps) (s : State) : Out := .next (s.immop (fun a i => a ||| i) o)

/-- gd := A XOR I (R199). -/
def execXori (o : RIOps) (s : State) : Out := .next (s.immop (fun a i => a ^^^ i) o)

/-- gd := A << n (R199). -/
def execSlli (o : ShOps) (s : State) : Out := .next (s.shop (fun a n => a <<< n) o)

/-- gd := A >> n, zeros in (R199). -/
def execSrli (o : ShOps) (s : State) : Out := .next (s.shop (fun a n => a >>> n) o)

/-- gd := A >> n, copies of bit 63 in (R199). -/
def execSrai (o : ShOps) (s : State) : Out := .next (s.shop (fun a n => a.sshiftRight n) o)

/-- gd := I (R200). -/
def execLi (o : LIOps) (s : State) : Out := .next (s.endBase [.g o.d o.imm])

/-- gd := bits [127:64] of A × B, signed (R206). -/
def execMulh (o : L3) (s : State) : Out := .next (s.longop mulHighS o)

/-- gd := bits [127:64] of A × B, unsigned (R206). -/
def execMulhn (o : L3) (s : State) : Out := .next (s.longop mulHighU o)

/-- gd := A ÷ B, signed (R206). -/
def execDiv (o : L3) (s : State) : Out := .next (s.longop divS o)

/-- gd := A ÷ B, unsigned (R206). -/
def execDivn (o : L3) (s : State) : Out := .next (s.longop divU o)

/-- gd := the signed remainder (R206). -/
def execRem (o : L3) (s : State) : Out := .next (s.longop remS o)

/-- gd := the unsigned remainder (R206). -/
def execRemn (o : L3) (s : State) : Out := .next (s.longop remU o)


end Sys2Proof.Machine
end

