-- ==== Sys2Proof/Machine/Flags.lean ====
section
/-! DEFINITION. The sticky flag CSRs (R46 .. R48, R390): their bits, and the writes that set them. -/

namespace Sys2Proof.Machine

/-- Floating-point exceptions of one or more operations (R46). -/
structure Flags where
  nv : Bool := false
  dz : Bool := false
  of_ : Bool := false
  uf : Bool := false
  nx : Bool := false
  deriving DecidableEq, Repr

/-- Flags of two operations together. -/
def Flags.or (a b : Flags) : Flags := ⟨a.nv || b.nv, a.dz || b.dz, a.of_ || b.of_, a.uf || b.uf, a.nx || b.nx⟩

/-- The bits of `fflags` (R46): NV 4, DZ 3, OF 2, UF 1, NX 0. -/
def Flags.word (f : Flags) : Word :=
  (if f.nv then 16#64 else 0#64) ||| (if f.dz then 8#64 else 0#64) ||| (if f.of_ then 4#64 else 0#64)
    ||| (if f.uf then 2#64 else 0#64) ||| (if f.nx then 1#64 else 0#64)

/-- Status of drained accumulators (R47): NAN 3, OVFN 2, OVFP 1, STICKY 0. -/
structure AFlags where
  nan    : Bool := false
  ovfn   : Bool := false
  ovfp   : Bool := false
  sticky : Bool := false
  deriving DecidableEq, Repr

/-- Status of two drains together. -/
def AFlags.or (a b : AFlags) : AFlags := ⟨a.nan || b.nan, a.ovfn || b.ovfn, a.ovfp || b.ovfp, a.sticky || b.sticky⟩

/-- The bits of `aflags` (R47). -/
def AFlags.word (f : AFlags) : Word :=
  (if f.nan then 8#64 else 0#64) ||| (if f.ovfn then 4#64 else 0#64) ||| (if f.ovfp then 2#64 else 0#64)
    ||| (if f.sticky then 1#64 else 0#64)

/-- `satflags`.VSAT (R48) when a lane clamped. -/
def vsat (b : Bool) : List RegWrite := if b then [.satflags 1#64] else []
/-- `satflags`.ESAT (R48) when a lane clamped. -/
def esat (b : Bool) : List RegWrite := if b then [.satflags 2#64] else []
/-- The `fflags` write of an operation. -/
def Flags.write (f : Flags) : List RegWrite := if f.word = 0#64 then [] else [.fflags f.word]

/-- `atomstat` bits (R390). -/
def atomLost : Word := 1#64
def atomStale : Word := 2#64
def atomRefused : Word := 4#64

end Sys2Proof.Machine
end

