-- ==== Sys2Proof/Machine/Number.lean ====
section
/-! DEFINITION. The floating-point formats (R27 .. R29), exact values, the one rounding function (R33, R43 .. R46), and the exact
operations that the scalar and vector instructions share (R227 .. R234, R243). -/

namespace Sys2Proof.Machine

/-! ## Formats (R27) -/

/-- How a format uses its top exponent. -/
inductive FKind where
  /-- Infinities and NaNs. -/
  | ieee
  /-- One NaN, no infinity (E4M3). -/
  | e4m3
  /-- Neither (E2M1). -/
  | e2m1
  deriving DecidableEq, Repr

/-- A format: fraction bits, exponent bits, bias, kind. -/
structure Fmt where
  m    : Nat
  ew   : Nat
  bias : Nat
  kind : FKind
  deriving DecidableEq, Repr

def Fmt.fp32 : Fmt := ⟨23, 8, 127, .ieee⟩
def Fmt.bf16 : Fmt := ⟨7, 8, 127, .ieee⟩
def Fmt.fp16 : Fmt := ⟨10, 5, 15, .ieee⟩
def Fmt.e5m2 : Fmt := ⟨2, 5, 15, .ieee⟩
def Fmt.e4m3 : Fmt := ⟨3, 4, 7, .e4m3⟩
def Fmt.e2m1 : Fmt := ⟨1, 2, 1, .e2m1⟩

/-- Width in bits. -/
def Fmt.width (f : Fmt) : Nat := 1 + f.ew + f.m
/-- The exponent of the smallest normal. -/
def Fmt.emin (f : Fmt) : Int := 1 - (f.bias : Int)
/-- The exponent of the smallest subnormal: the unit of the format's grid at its bottom. -/
def Fmt.ulp0 (f : Fmt) : Int := f.emin - (f.m : Int)
/-- The largest finite value is `qmax` × 2^`umax`. -/
def Fmt.qmax (f : Fmt) : Nat := match f.kind with | .ieee => 2 ^ (f.m + 1) - 1 | .e4m3 => 14 | .e2m1 => 3
def Fmt.umax (f : Fmt) : Int := match f.kind with | .ieee => (f.bias : Int) - f.m | .e4m3 => 5 | .e2m1 => 1
/-- The exponent field of all ones. -/
def Fmt.etop (f : Fmt) : Nat := 2 ^ f.ew - 1
/-- The canonical NaN (R29). -/
def Fmt.nan (f : Fmt) : Nat := match f.kind with | .ieee => f.etop * 2 ^ f.m + 2 ^ (f.m - 1) | .e4m3 => 0x7F | .e2m1 => 0
/-- The sign bit in place. -/
def Fmt.signed (f : Fmt) (s : Bool) (x : Nat) : Nat := (if s then 2 ^ (f.width - 1) else 0) + x
/-- Infinity; a format without one has its largest finite value in its place (R33). -/
def Fmt.inf (f : Fmt) (s : Bool) : Nat :=
  f.signed s (match f.kind with | .ieee => f.etop * 2 ^ f.m | .e4m3 => 0x7E | .e2m1 => 7)
/-- The largest finite value. -/
def Fmt.maxFin (f : Fmt) (s : Bool) : Nat :=
  f.signed s (match f.kind with | .ieee => f.etop * 2 ^ f.m - 1 | .e4m3 => 0x7E | .e2m1 => 7)

/-- A decoded value: NaN, an infinity, or (-1)^s × m × 2^e. -/
inductive FVal where
  | nan
  | inf (s : Bool)
  | fin (s : Bool) (m : Nat) (e : Int)
  deriving DecidableEq, Repr

/-- The value of an encoding (R27). -/
def Fmt.decode (f : Fmt) (x : Nat) : FVal :=
  let s := x / 2 ^ (f.width - 1) % 2 == 1
  let e := x / 2 ^ f.m % 2 ^ f.ew
  let t := x % 2 ^ f.m
  match f.kind with
  | .ieee =>
    if e = f.etop then (if t = 0 then .inf s else .nan)
    else if e = 0 then .fin s t f.ulp0 else .fin s (t + 2 ^ f.m) (f.ulp0 + e - 1)
  | .e4m3 =>
    if x % 128 = 127 then .nan
    else if e = 0 then .fin s t f.ulp0 else .fin s (t + 2 ^ f.m) (f.ulp0 + e - 1)
  | .e2m1 => if e = 0 then .fin s t f.ulp0 else .fin s (t + 2 ^ f.m) (f.ulp0 + e - 1)

/-! ## Rounding (R43 .. R46) -/

/-- Rounding modes (R44). -/
inductive RMode where
  | rne | rtz | rdn | rup | rna
  deriving DecidableEq, Repr

/-- The mode of a code below 5. -/
def RMode.ofCode : Nat → RMode
  | 0 => .rne
  | 1 => .rtz
  | 2 => .rdn
  | 3 => .rup
  | _ => .rna

/-- A magnitude (m + δ) × 2^e, with 0 < δ < 1 when `sticky` and δ = 0 otherwise, rounded to a multiple of 2^u: the multiple, and
whether it differs. -/
def roundAt (mode : RMode) (s : Bool) (m : Nat) (e : Int) (sticky : Bool) (u : Int) : Nat × Bool :=
  if u ≤ e then (m * 2 ^ (e - u).toNat, sticky)
  else
    let sh := (u - e).toNat
    let q := m / 2 ^ sh
    let r := m % 2 ^ sh
    let half := 2 ^ (sh - 1)
    let inexact := r != 0 || sticky
    let up := match mode with
      | .rne => decide (half < r) || (r == half && (sticky || q % 2 == 1))
      | .rtz => false
      | .rdn => s && inexact
      | .rup => !s && inexact
      | .rna => decide (half ≤ r)
    (if up then q + 1 else q, inexact)

/-- What an overflow delivers (R33). -/
def Fmt.overflow (f : Fmt) (mode : RMode) (s : Bool) : Nat :=
  match mode with
  | .rne | .rna => f.inf s
  | .rtz => f.maxFin s
  | .rdn => if s then f.inf s else f.maxFin s
  | .rup => if s then f.maxFin s else f.inf s

/-- The encoding of q × 2^u, where u is the grid of its binade. -/
def Fmt.encode (f : Fmt) (s : Bool) (q : Nat) (u : Int) : Nat :=
  f.signed s (if q < 2 ^ f.m then q else ((u - f.ulp0).toNat + 1) * 2 ^ f.m + (q - 2 ^ f.m))

/-- One rounding of (-1)^s × (m + δ) × 2^e to the format: the encoding and the flags (R43, R46). -/
def Fmt.round (f : Fmt) (mode : RMode) (s : Bool) (m : Nat) (e : Int) (sticky : Bool) : Nat × Flags :=
  if m = 0 ∧ sticky = false then (f.signed s 0, {})
  else
    let top : Int := (Nat.log2 m : Int) + e
    let u0 := max top f.emin - (f.m : Int)
    let (q0, nx) := roundAt mode s m e sticky u0
    let (q, u) := if q0 = 2 ^ (f.m + 1) then (2 ^ f.m, u0 + 1) else (q0, u0)
    if f.umax < u ∨ (u = f.umax ∧ f.qmax < q) then (f.overflow mode s, { of_ := true, nx := true })
    else (f.encode s q u, { uf := nx && decide (top < f.emin), nx := nx })

/-- An exact signed sum m × 2^e, rounded by rne; an exact zero has the sign given. -/
def Fmt.roundInt (f : Fmt) (m : Int) (e : Int) (zsign : Bool) : Nat × Flags :=
  if m = 0 then (f.signed zsign 0, {}) else f.round .rne (decide (m < 0)) m.natAbs e false

/-! ## Arithmetic (R227, R237) -/

/-- A NaN result with NV. -/
def Fmt.invalid (f : Fmt) : Nat × Flags := (f.nan, { nv := true })

/-- The signed significand at exponent `e0`, at most its own. -/
def sigAt (s : Bool) (m : Nat) (e e0 : Int) : Int := (if s then -1 else 1) * ((m * 2 ^ (e - e0).toNat : Nat) : Int)

/-- The sum of two decoded values, rounded once. -/
def Fmt.addVal (f : Fmt) (a b : FVal) : Nat × Flags :=
  match a, b with
  | .nan, _ | _, .nan => (f.nan, {})
  | .inf s, .inf t => if s = t then (f.inf s, {}) else f.invalid
  | .inf s, .fin _ _ _ => (f.inf s, {})
  | .fin _ _ _, .inf t => (f.inf t, {})
  | .fin s m e, .fin t n d => f.roundInt (sigAt s m e (min e d) + sigAt t n d (min e d)) (min e d) (s && t)

/-- Minus a value. -/
def FVal.neg : FVal → FVal
  | .nan => .nan
  | .inf s => .inf (!s)
  | .fin s m e => .fin (!s) m e

/-- The exact product, or nothing for 0 × ∞. -/
def FVal.mul (a b : FVal) : Option FVal :=
  match a, b with
  | .nan, _ | _, .nan => some .nan
  | .inf s, .inf t => some (.inf (s != t))
  | .inf s, .fin t n _ => if n = 0 then none else some (.inf (s != t))
  | .fin s m _, .inf t => if m = 0 then none else some (.inf (s != t))
  | .fin s m e, .fin t n d => some (.fin (s != t) (m * n) (e + d))

/-- A decoded value rounded to the format by rne. -/
def Fmt.ofVal (f : Fmt) (mode : RMode) : FVal → Nat × Flags
  | .nan => (f.nan, {})
  | .inf s => (f.inf s, match f.kind with | .ieee => {} | _ => { of_ := true })
  | .fin s m e => f.round mode s m e false

def Fmt.add (f : Fmt) (a b : Nat) : Nat × Flags := f.addVal (f.decode a) (f.decode b)
def Fmt.sub (f : Fmt) (a b : Nat) : Nat × Flags := f.addVal (f.decode a) (f.decode b).neg
def Fmt.mul (f : Fmt) (a b : Nat) : Nat × Flags :=
  match (f.decode a).mul (f.decode b) with
  | none => f.invalid
  | some v => f.ofVal .rne v
/-- A × B + C with one rounding; 0 × ∞ is invalid whatever C is. -/
def Fmt.fma (f : Fmt) (a b c : Nat) : Nat × Flags :=
  match (f.decode a).mul (f.decode b) with
  | none => f.invalid
  | some v => f.addVal v (f.decode c)

/-- The quotient with enough bits and a sticky remainder. -/
def Fmt.div (f : Fmt) (a b : Nat) : Nat × Flags :=
  match f.decode a, f.decode b with
  | .nan, _ | _, .nan => (f.nan, {})
  | .inf _, .inf _ => f.invalid
  | .inf s, .fin t _ _ => (f.inf (s != t), {})
  | .fin s _ _, .inf t => (f.signed (s != t) 0, {})
  | .fin s m e, .fin t n d =>
    if n = 0 then (if m = 0 then f.invalid else (f.inf (s != t), { dz := true }))
    else if m = 0 then (f.signed (s != t) 0, {})
    else f.round .rne (s != t) (m * 2 ^ 64 / n) (e - d - 64) (m * 2 ^ 64 % n != 0)

/-- The integer square root of n, by its bits below 2^k. -/
def isqrtFrom (n r : Nat) : Nat → Nat
  | 0 => r
  | k + 1 => let t := r + 2 ^ k; isqrtFrom n (if t * t ≤ n then t else r) k

/-- The integer square root of n < 2^(2k). -/
def isqrt (k n : Nat) : Nat := isqrtFrom n 0 k

/-- m × 2^e with an even exponent: the significand is doubled when e is odd. -/
def evenExp (m : Nat) (e : Int) : Nat × Int := if e % 2 = 0 then (m, e) else (2 * m, e - 1)

/-- The square root (R227). -/
def Fmt.sqrt (f : Fmt) (a : Nat) : Nat × Flags :=
  match f.decode a with
  | .nan => (f.nan, {})
  | .inf s => if s then f.invalid else (f.inf false, {})
  | .fin s m e =>
    if m = 0 then (f.signed s 0, {})
    else if s then f.invalid
    else
      let (n, d) := evenExp m e
      let r := isqrt 48 (n * 2 ^ 64)
      f.round .rne false r (d / 2 - 32) (r * r != n * 2 ^ 64)

/-- 1 / A (R243). -/
def Fmt.rcp (f : Fmt) (a : Nat) : Nat × Flags :=
  match f.decode a with
  | .nan => (f.nan, {})
  | .inf s => (f.signed s 0, {})
  | .fin s m e =>
    if m = 0 then (f.inf s, { dz := true })
    else f.round .rne s (2 ^ 64 / m) (-e - 64) (2 ^ 64 % m != 0)

/-- 1 / √A (R243). -/
def Fmt.rsq (f : Fmt) (a : Nat) : Nat × Flags :=
  match f.decode a with
  | .nan => (f.nan, {})
  | .inf s => if s then f.invalid else (f.signed false 0, {})
  | .fin s m e =>
    if m = 0 then (f.inf s, { dz := true })
    else if s then f.invalid
    else
      let (n, d) := evenExp m e
      let r := isqrt 81 (2 ^ 160 / n)
      f.round .rne false r (-(d / 2) - 80) (r * r * n != 2 ^ 160)

/-- The product of 2^(2^-1), 2^(2^-2), … over the bits of a fraction, highest first, in units of 2^-128; `c` is the factor of
the next bit. -/
def exp2Bits (frac c acc : Nat) : Nat → Nat
  | 0 => acc
  | k + 1 =>
    exp2Bits frac (isqrt 129 (c * 2 ^ 128)) (if frac / 2 ^ k % 2 = 1 then acc * c / 2 ^ 128 else acc) k

/-- 2^A (R243): the fraction of A is taken exactly, and its power to 2^-120, far inside the gap between any such power and a
rounding boundary of FP32. -/
def Fmt.exp2 (f : Fmt) (a : Nat) : Nat × Flags :=
  match f.decode a with
  | .nan => (f.nan, {})
  | .inf s => if s then (f.signed false 0, {}) else (f.inf false, {})
  | .fin s m e =>
    if m = 0 then f.round .rne false 1 0 false
    else if 9 ≤ (Nat.log2 m : Int) + e then (if s then f.round .rne false 1 (-400) true else f.round .rne false 1 400 true)
    else if (Nat.log2 m : Int) + e < -30 then (if s then f.round .rne false (2 ^ 60 - 1) (-60) true else f.round .rne false (2 ^ 60) (-60) true)
    else
      let x : Int := sigAt s m (e + 60) 0
      let n := x / 2 ^ 60
      let frac := (x % 2 ^ 60).toNat
      if frac = 0 then f.round .rne false 1 n false
      else f.round .rne false (exp2Bits frac (isqrt 129 (2 ^ 257)) (2 ^ 128) 60) (n - 128) true

/-! ## Comparisons and selections (R228, R229) -/

/-- A < B; the zeros compare equal, and NaN is unordered. -/
def FVal.lt (a b : FVal) : Bool :=
  match a, b with
  | .nan, _ | _, .nan => false
  | .inf s, .inf t => s && !t
  | .inf s, .fin _ _ _ => s
  | .fin _ _ _, .inf t => !t
  | .fin s m e, .fin t n d => decide (sigAt s m e (min e d) < sigAt t n d (min e d))

/-- NaN. -/
def FVal.isNan : FVal → Bool
  | .nan => true
  | _ => false

/-- A = B; the zeros are equal. -/
def FVal.eq (a b : FVal) : Bool := !a.isNan && !b.isNan && !a.lt b && !b.lt a

/-- The conditions of R229. -/
def Fmt.cond (f : Fmt) (c a b : Nat) : Bool :=
  let x := f.decode a
  let y := f.decode b
  match c with
  | 0 => x.eq y
  | 1 => x.lt y
  | 2 => x.lt y || x.eq y
  | _ => x.isNan || y.isNan

/-- The sign bit. -/
def Fmt.neg? (f : Fmt) (a : Nat) : Bool := a / 2 ^ (f.width - 1) % 2 == 1

/-- The smaller operand (R228): −0 lies below +0. -/
def Fmt.min (f : Fmt) (a b : Nat) : Nat :=
  let x := f.decode a
  let y := f.decode b
  if x.isNan then (if y.isNan then f.nan else b)
  else if y.isNan then a
  else if x.eq y then (if f.neg? a then a else b)
  else if x.lt y then a else b

/-- The larger operand (R228). -/
def Fmt.max (f : Fmt) (a b : Nat) : Nat :=
  let x := f.decode a
  let y := f.decode b
  if x.isNan then (if y.isNan then f.nan else b)
  else if y.isNan then a
  else if x.eq y then (if f.neg? a then b else a)
  else if x.lt y then b else a

/-- The one-hot class of R230, as its bit number. -/
def Fmt.classBit (f : Fmt) (a : Nat) : Nat :=
  match f.decode a with
  | .nan => 8
  | .inf s => if s then 0 else 7
  | .fin s m _ =>
    if m = 0 then (if s then 3 else 4)
    else if m < 2 ^ f.m then (if s then 2 else 5)
    else (if s then 1 else 6)

/-! ## Conversions (R33, R45, R232, R238) -/

/-- From one format to another. -/
def Fmt.convert (src dst : Fmt) (mode : RMode) (a : Nat) : Nat × Flags := dst.ofVal mode (src.decode a)

/-- To an integer in [lo, hi] (R45). -/
def Fmt.toInt (f : Fmt) (mode : RMode) (lo hi : Int) (a : Nat) : Int × Flags :=
  match f.decode a with
  | .nan => (0, { nv := true })
  | .inf s => (if s then lo else hi, { nv := true })
  | .fin s m e =>
    let (q, nx) := roundAt mode s m e false 0
    let v : Int := if s then -(q : Int) else q
    if v < lo then (lo, { nv := true }) else if hi < v then (hi, { nv := true }) else (v, { nx := nx })

/-- From an integer. -/
def Fmt.fromInt (f : Fmt) (mode : RMode) (x : Int) : Nat × Flags := f.round mode (decide (x < 0)) x.natAbs 0 false

/-- To an integral value of the same format (R232): infinities and zeros unchanged, NX when changed. -/
def Fmt.integral (f : Fmt) (mode : RMode) (a : Nat) : Nat × Flags :=
  match f.decode a with
  | .nan => (f.nan, {})
  | .inf s => (f.inf s, {})
  | .fin s m e =>
    let (q, nx) := roundAt mode s m e false 0
    if nx then ((f.round mode s q 0 false).1, { nx := true }) else (a, {})

/-- A with sign(A) XOR sign(B); a NaN A gives the canonical NaN (R231). -/
def Fmt.sgn (f : Fmt) (a b : Nat) : Nat :=
  if (f.decode a).isNan then f.nan else f.signed (f.neg? a != f.neg? b) (a % 2 ^ (f.width - 1))

end Sys2Proof.Machine
end

