-- ==== Sys2Proof/Machine/FpScalar.lean ====
section
/-! DEFINITION. Scalar floating point: page 1 majors 1 and 2 (R227 .. R234). -/

namespace Sys2Proof.Machine

/-- An `f` operand as FP32 bits. -/
def State.fn (s : State) (r : Reg) : Nat := (s.f r).toNat

/-- A long-latency instruction ends with an FP32 result and its flags. -/
def State.endFp (s : State) (l : BitVec 4) (d : Reg) (r : Nat × Flags) : State :=
  s.endLong l (.f d (BitVec.ofNat 32 r.1) :: r.2.write)

/-- A long-latency instruction ends with a `g` result and flags. -/
def State.endFg (s : State) (l : BitVec 4) (d : Reg) (x : Word) (fl : Flags) : State := s.endLong l (.g d x :: fl.write)

/-- `fadd` (R227). -/
def execFadd (o : L3) (s : State) : Out := .next (s.endFp o.l o.d (Fmt.fp32.add (s.fn o.a) (s.fn o.b)))
/-- `fsub` (R227). -/
def execFsub (o : L3) (s : State) : Out := .next (s.endFp o.l o.d (Fmt.fp32.sub (s.fn o.a) (s.fn o.b)))
/-- `fmul` (R227). -/
def execFmul (o : L3) (s : State) : Out := .next (s.endFp o.l o.d (Fmt.fp32.mul (s.fn o.a) (s.fn o.b)))
/-- `fdiv` (R227). -/
def execFdiv (o : L3) (s : State) : Out := .next (s.endFp o.l o.d (Fmt.fp32.div (s.fn o.a) (s.fn o.b)))
/-- `fmin` (R228). -/
def execFmin (o : L3) (s : State) : Out := .next (s.endFp o.l o.d (Fmt.fp32.min (s.fn o.a) (s.fn o.b), {}))
/-- `fmax` (R228). -/
def execFmax (o : L3) (s : State) : Out := .next (s.endFp o.l o.d (Fmt.fp32.max (s.fn o.a) (s.fn o.b), {}))
/-- `fsqrt` (R227). -/
def execFsqrt (o : L2) (s : State) : Out := .next (s.endFp o.l o.d (Fmt.fp32.sqrt (s.fn o.a)))
/-- `ffma` (R227). -/
def execFfma (o : L4) (s : State) : Out :=
  .next (s.endFp o.l o.d (Fmt.fp32.fma (s.fn o.a) (s.fn o.b) (s.fn (cReg o.c))))
/-- `fcmp` (R229). -/
def execFcmp (o : FcmpOps) (s : State) : Out :=
  .next (s.endLong o.l [.g o.d (ofBool64 (Fmt.fp32.cond o.cond.toNat (s.fn o.a) (s.fn o.b)))])
/-- `fclass` (R230). -/
def execFclass (o : L2) (s : State) : Out :=
  .next (s.endLong o.l [.g o.d (BitVec.ofNat 64 (2 ^ Fmt.fp32.classBit (s.fn o.a)))])
/-- `fsgn` (R231). -/
def execFsgn (o : L3) (s : State) : Out := .next (s.endFp o.l o.d (Fmt.fp32.sgn (s.fn o.a) (s.fn o.b), {}))

/-- A value rounded to a narrower format and held widened (R232). -/
def rounded (f : Fmt) (mode : RMode) (a : Nat) : Nat × Flags :=
  let r := Fmt.fp32.convert f mode a
  ((f.convert Fmt.fp32 .rne r.1).1, r.2)

/-- An integer result in a `g` register. -/
def intWord (r : Int × Flags) : Word × Flags := (BitVec.ofInt 64 r.1, r.2)

/-- `fcvt` (R232). -/
def execFcvt (o : FcvtOps) (s : State) : Out :=
  let m := RMode.ofCode o.mode.toNat
  let a := s.fn o.a
  let toG (r : Word × Flags) : Out := .next (s.endFg o.l o.d r.1 r.2)
  let toF (r : Nat × Flags) : Out := .next (s.endFp o.l o.d r)
  match o.k.toNat with
  | 0 => toG (intWord (Fmt.fp32.toInt m (-(2 ^ 63)) (2 ^ 63 - 1) a))
  | 1 => toG (intWord (Fmt.fp32.toInt m 0 (2 ^ 64 - 1) a))
  | 2 => toG (intWord (Fmt.fp32.toInt m (-(2 ^ 31)) (2 ^ 31 - 1) a))
  | 3 => toF (Fmt.fp32.fromInt m (s.g o.a).toInt)
  | 4 => toF (Fmt.fp32.fromInt m ((s.g o.a).toNat : Int))
  | 5 => toF (rounded .bf16 m a)
  | 6 => toF (rounded .fp16 m a)
  | _ => toF (Fmt.fp32.integral m a)

/-- A value of a 16-bit format widened exactly; a NaN payload is kept, since `fmov` codes 0 .. 4 are moves (R226, R233). -/
def widenMove (f : Fmt) (x : Nat) : Nat :=
  match f.decode x with
  | .nan => Fmt.fp32.signed (f.neg? x) (255 * 2 ^ 23 + x % 2 ^ f.m * 2 ^ (23 - f.m))
  | v => (Fmt.fp32.ofVal .rne v).1

/-- `fmov` (R233); code 7 never decodes. -/
def execFmov (o : FmovOps) (s : State) : Out :=
  let f (x : BitVec 32) : Out := .next (s.endLong o.l [.f o.d x])
  match o.k.toNat with
  | 0 => f (s.f o.a)
  | 1 => .next (s.endLong o.l [.g o.d ((s.f o.a).setWidth 64)])
  | 2 => f ((s.g o.a).setWidth 32)
  | 3 => f (BitVec.ofNat 32 (widenMove .bf16 (bits (s.g o.a) 15 0)))
  | 4 => f (BitVec.ofNat 32 (widenMove .fp16 (bits (s.g o.a) 15 0)))
  | 5 => let r := Fmt.fp32.convert .bf16 .rne (s.fn o.a); .next (s.endFg o.l o.d (BitVec.ofNat 64 r.1) r.2)
  | _ => let r := Fmt.fp32.convert .fp16 .rne (s.fn o.a); .next (s.endFg o.l o.d (BitVec.ofNat 64 r.1) r.2)

/-- The FP32 bits that the immediate of `fli` places, by its number of XI words (R234). -/
def fliBits (k : Nat) (imm : Nat) : Nat :=
  match k with
  | 0 => imm % 2 ^ 6 * 2 ^ 26
  | 1 => imm % 2 ^ 16 * 2 ^ 16
  | 2 => imm % 2 ^ 26 * 2 ^ 6
  | _ => imm % 2 ^ 32

/-- `fli` (R234). -/
def execFli (o : FliOps) (s : State) : Out :=
  let x := fliBits o.k.toNat o.imm.toNat
  s.run (do
    must (o.k.toNat != 3 || bits o.imm 35 32 == 0) (illegal11 0)
    .ok (s.endLong o.l [.f o.d (BitVec.ofNat 32 (if (Fmt.fp32.decode x).isNan then Fmt.fp32.nan else x))]))

end Sys2Proof.Machine
end

