-- ==== Sys2Proof/Machine/VecInt.lean ====
section
/-! DEFINITION. Vector lanes (R226) and the integer vector instructions of page 5 (R235, R236). -/

namespace Sys2Proof.Machine

/-! ## Lanes -/

/-- The lane width of an element type code (R171). -/
def tyWidth (ty : BitVec 3) : Nat :=
  match ty.toNat with
  | 0 | 4 => 32
  | 1 => 8
  | 3 => 64
  | _ => 16

/-- The low n lanes of w bits of a number, lane 0 first. -/
def unpack (w : Nat) : Nat → Nat → List Nat
  | 0, _ => []
  | n + 1, x => x % 2 ^ w :: unpack w n (x / 2 ^ w)

/-- The number whose lanes of w bits are these. -/
def pack (w : Nat) : List Nat → Nat
  | [] => 0
  | x :: xs => x % 2 ^ w + 2 ^ w * pack w xs

/-- The lanes of a register. -/
def lanes (w : Nat) (v : Vec) : List Nat := unpack w (1024 / w) v.toNat
/-- A register from its lanes. -/
def ofLanes (w : Nat) (l : List Nat) : Vec := BitVec.ofNat 1024 (pack w l)
/-- The signed reading of a lane. -/
def sLane (w x : Nat) : Int := if x < 2 ^ (w - 1) then (x : Int) else (x : Int) - 2 ^ w
/-- The lane that holds an integer modulo 2^w. -/
def toLane (w : Nat) (x : Int) : Nat := (x % 2 ^ w).toNat
/-- A mask lane. -/
def maskLane (w : Nat) (b : Bool) : Nat := if b then 2 ^ w - 1 else 0
/-- A mask lane selects (R226). -/
def selects (w x : Nat) : Bool := decide (2 ^ (w - 1) ≤ x % 2 ^ w)

/-- Three lists side by side. -/
def zip3 (f : Nat → Nat → Nat → α) : List Nat → List Nat → List Nat → List α
  | a :: as, b :: bs, c :: cs => f a b c :: zip3 f as bs cs
  | _, _, _ => []

/-- An integer as a lane: wrapped, or clamped when `sat` (R26); and whether it was clamped. -/
def fitLane (w : Nat) (sat : Bool) (x : Int) : Nat × Bool :=
  if sat then
    if 2 ^ (w - 1) - 1 < x then (2 ^ (w - 1) - 1, true)
    else if x < -(2 ^ (w - 1)) then (2 ^ (w - 1), true)
    else (toLane w x, false)
  else (toLane w x, false)

/-! ## Shared forms -/

/-- An instruction ends with a register of lanes and VSAT when one clamped. -/
def State.endLanes (s : State) (l : BitVec 4) (d : VReg) (w : Nat) (r : List (Nat × Bool)) : State :=
  s.endLong l (.v d (ofLanes w (r.map Prod.fst)) :: vsat (r.any Prod.snd))

/-- Lane by lane on exact signed values, wrapping or saturating. -/
def State.vArith (s : State) (o : VIOps) (f : Int → Int → Int) : Out :=
  let w := tyWidth o.ty
  .next (s.endLanes o.l o.d w
    (List.zipWith (fun a b => fitLane w o.sat (f (sLane w a) (sLane w b))) (lanes w (s.v o.a)) (lanes w (s.v o.b))))

/-- Lane by lane on bit patterns. -/
def State.vBits (s : State) (o : VIOps) (f : Nat → Nat → Nat → Nat) : Out :=
  let w := tyWidth o.ty
  .next (s.endLong o.l [.v o.d (ofLanes w (List.zipWith (f w) (lanes w (s.v o.a)) (lanes w (s.v o.b))))])

/-- `vadd` (R235). -/
def execVadd (o : VIOps) (s : State) : Out := s.vArith o (fun a b => a + b)
/-- `vsub` (R235). -/
def execVsub (o : VIOps) (s : State) : Out := s.vArith o (fun a b => a - b)
/-- `vmul` (R235). -/
def execVmul (o : VIOps) (s : State) : Out := s.vArith o (fun a b => a * b)
/-- `vmin` (R235). -/
def execVmin (o : VIOps) (s : State) : Out := s.vBits o (fun w a b => if sLane w b < sLane w a then b else a)
/-- `vmax` (R235). -/
def execVmax (o : VIOps) (s : State) : Out := s.vBits o (fun w a b => if sLane w a < sLane w b then b else a)
/-- `vand` (R235). -/
def execVand (o : VIOps) (s : State) : Out := .next (s.endLong o.l [.v o.d (s.v o.a &&& s.v o.b)])
/-- `vor` (R235). -/
def execVor (o : VIOps) (s : State) : Out := .next (s.endLong o.l [.v o.d (s.v o.a ||| s.v o.b)])
/-- `vxor` (R235). -/
def execVxor (o : VIOps) (s : State) : Out := .next (s.endLong o.l [.v o.d (s.v o.a ^^^ s.v o.b)])

/-- `vshl`: the count is the lane of B modulo w (R235). -/
def execVshl (o : VIOps) (s : State) : Out :=
  let w := tyWidth o.ty
  .next (s.endLanes o.l o.d w
    (List.zipWith (fun a b => fitLane w o.sat (sLane w a * 2 ^ (b % w))) (lanes w (s.v o.a)) (lanes w (s.v o.b))))
/-- `vshr` (R235). -/
def execVshr (o : VIOps) (s : State) : Out := s.vBits o (fun w a b => a / 2 ^ (b % w))
/-- `vsha` (R235). -/
def execVsha (o : VIOps) (s : State) : Out := s.vBits o (fun w a b => toLane w (sLane w a / 2 ^ (b % w)))

/-- The conditions of R236. -/
def vCond (c w a b : Nat) : Bool :=
  match c with
  | 0 => a == b
  | 1 => a != b
  | 2 => decide (sLane w a < sLane w b)
  | 3 => decide (sLane w b ≤ sLane w a)
  | 4 => decide (a < b)
  | _ => decide (b ≤ a)

/-- `vcmp` (R236). -/
def execVcmp (o : VCmpOps) (s : State) : Out :=
  let w := tyWidth o.ty
  .next (s.endLong o.l [.v o.d (ofLanes w
    (List.zipWith (fun a b => maskLane w (vCond o.cond.toNat w a b)) (lanes w (s.v o.a)) (lanes w (s.v o.b))))])

/-- `vsel` (R235). -/
def execVsel (o : VSelOps) (s : State) : Out :=
  let w := tyWidth o.ty
  .next (s.endLong o.l [.v o.d (ofLanes w
    (zip3 (fun a b c => if selects w c then a else b) (lanes w (s.v o.a)) (lanes w (s.v o.b)) (lanes w (s.v o.c))))])

/-- `vabs` (R235). -/
def execVabs (o : VI2Ops) (s : State) : Out :=
  let w := tyWidth o.ty
  .next (s.endLanes o.l o.d w ((lanes w (s.v o.a)).map (fun a => fitLane w o.sat ((sLane w a).natAbs : Int))))

/-- `vmac`: reads d; clamped once (R235). -/
def execVmac (o : VIOps) (s : State) : Out :=
  let w := tyWidth o.ty
  .next (s.endLanes o.l o.d w
    (zip3 (fun d a b => fitLane w o.sat (sLane w d + sLane w a * sLane w b))
      (lanes w (s.v o.d)) (lanes w (s.v o.a)) (lanes w (s.v o.b))))

/-- `vsplat` (R235). -/
def execVsplat (o : VSplatOps) (s : State) : Out :=
  let w := tyWidth o.ty
  .next (s.endLong o.l [.v o.d (ofLanes w (List.replicate (1024 / w) (s.g o.a).toNat))])

end Sys2Proof.Machine
end

