-- ==== Sys2Proof/Machine/VecFp.lean ====
section
/-! DEFINITION. Vector floating point, conversions, MX blocks, code tables and elementary functions: page 6 (R237 .. R243). -/

namespace Sys2Proof.Machine

/-- The format of an FP type code (R171). -/
def tyFmt (ty : BitVec 3) : Fmt :=
  match ty.toNat with
  | 5 => .bf16
  | 6 => .fp16
  | _ => .fp32

/-- The flags of several lanes together. -/
def orFlags (l : List (Nat × Flags)) : Flags := l.foldl (fun a x => a.or x.2) {}

/-- An instruction ends with a register of FP lanes and their flags. -/
def State.endVf (s : State) (l : BitVec 4) (d : VReg) (w : Nat) (r : List (Nat × Flags)) : State :=
  s.endLong l (.v d (ofLanes w (r.map Prod.fst)) :: (orFlags r).write)

/-- Lane by lane on two sources. -/
def State.vfBin (s : State) (o : VTOps) (op : Fmt → Nat → Nat → Nat × Flags) : Out :=
  let f := tyFmt o.ty
  .next (s.endVf o.l o.d f.width (List.zipWith (op f) (lanes f.width (s.v o.a)) (lanes f.width (s.v o.b))))

/-- `vfadd` (R237). -/
def execVfadd (o : VTOps) (s : State) : Out := s.vfBin o Fmt.add
/-- `vfsub` (R237). -/
def execVfsub (o : VTOps) (s : State) : Out := s.vfBin o Fmt.sub
/-- `vfmul` (R237). -/
def execVfmul (o : VTOps) (s : State) : Out := s.vfBin o Fmt.mul
/-- `vfmin` (R228, R237). -/
def execVfmin (o : VTOps) (s : State) : Out := s.vfBin o (fun f a b => (f.min a b, {}))
/-- `vfmax` (R228, R237). -/
def execVfmax (o : VTOps) (s : State) : Out := s.vfBin o (fun f a b => (f.max a b, {}))
/-- `vffma` (R237). -/
def execVffma (o : VT4Ops) (s : State) : Out :=
  let f := tyFmt o.ty
  .next (s.endVf o.l o.d f.width
    (zip3 f.fma (lanes f.width (s.v o.a)) (lanes f.width (s.v o.b)) (lanes f.width (s.v o.c))))
/-- `vfcmp` (R237). -/
def execVfcmp (o : VFcmpOps) (s : State) : Out :=
  let f := tyFmt o.ty
  .next (s.endLong o.l [.v o.d (ofLanes f.width
    (List.zipWith (fun a b => maskLane f.width (f.cond o.cond.toNat a b)) (lanes f.width (s.v o.a)) (lanes f.width (s.v o.b))))])

/-! ## `vfcvt` (R238) -/

/-- The conversion of a code: source width, target width, and the lane function. -/
def cvtOf (code : Nat) (m : RMode) : Nat × Nat × (Nat → Nat × Flags) :=
  let c (a b : Fmt) : Nat × Nat × (Nat → Nat × Flags) := (a.width, b.width, a.convert b m)
  match code with
  | 0 => c .fp32 .bf16
  | 1 => c .fp32 .fp16
  | 2 => c .bf16 .fp32
  | 3 => c .fp16 .fp32
  | 4 => (32, 32, fun a => let r := Fmt.fp32.toInt m (-(2 ^ 31)) (2 ^ 31 - 1) a; (toLane 32 r.1, r.2))
  | 5 => (32, 32, fun a => Fmt.fp32.fromInt m (sLane 32 a))
  | 6 => c .fp32 .e4m3
  | 7 => c .fp32 .e5m2
  | 8 => c .e4m3 .fp32
  | 9 => c .e5m2 .fp32
  | 10 => c .bf16 .e4m3
  | 11 => c .bf16 .e5m2
  | 12 => c .e4m3 .bf16
  | 13 => c .e5m2 .bf16
  | 14 => c .bf16 .fp16
  | _ => c .fp16 .bf16

/-- The converted lanes: narrowing writes lanes of part p and keeps the others of d; widening reads those of part p. -/
def cvtLanes (ns nd p : Nat) (f : Nat → Nat × Flags) (d a : Vec) (ws wd : Nat) : List (Nat × Flags) :=
  if wd < ws then
    let r := (lanes ws a).map f
    let old := (lanes wd d).map (fun x => (x, ({} : Flags)))
    old.take (p * ns) ++ r ++ old.drop (p * ns + ns)
  else (((lanes ws a).drop (p * nd)).take nd).map f

/-- `vfcvt` (R238); its part is checked where it is decoded. -/
def execVfcvt (o : VFcvtOps) (s : State) : Out :=
  let (ws, wd, f) := cvtOf o.code.toNat (RMode.ofCode o.mode.toNat)
  .next (s.endVf o.l o.d wd (cvtLanes (1024 / ws) (1024 / wd) o.part.toNat f (s.v o.d) (s.v o.a) ws wd))

/-! ## MX blocks (R239 .. R241) -/

/-- The element format of an MX format code. -/
def mxFmt : Nat → Fmt
  | 0 => .e2m1
  | 1 => .e4m3
  | _ => .e5m2
/-- The exponent of its largest finite value. -/
def mxEmt : Nat → Int
  | 0 => 2
  | 1 => 8
  | _ => 15
/-- The bits of one code in an image. -/
def mxBits : Nat → Nat
  | 0 => 4
  | _ => 8

/-- floor(log2) of a finite non-zero value, or nothing. -/
def FVal.lg? : FVal → Option Int
  | .fin _ m e => if m = 0 then none else some ((Nat.log2 m : Int) + e)
  | _ => none

/-- The scale of a block (R240): 0x1FF when a NaN is bound for E2M1. -/
def mxScale (fmt : Nat) (xs : List FVal) : Nat :=
  if fmt = 0 ∧ xs.any FVal.isNan then 0x1FF
  else
    match (xs.filterMap FVal.lg?).foldl (fun a x => match a with | none => some x | some y => some (max x y)) none with
    | none => 0x100
    | some k => (min (max (k - mxEmt fmt + 256) 0) 0x1FE).toNat

/-- A value times 2^k. -/
def FVal.scaled (k : Int) : FVal → FVal
  | .fin s m e => .fin s m (e + k)
  | v => v

/-- One block quantised: its scale, codes and flags. -/
def mxBlock (fmt : Nat) (xs : List FVal) : Nat × List (Nat × Flags) :=
  let sc := mxScale fmt xs
  if sc = 0x1FF then (sc, xs.map (fun _ => (0, {})))
  else (sc, xs.map (fun x => (mxFmt fmt).ofVal .rne (x.scaled (256 - (sc : Int)))))

/-- Lists of n elements each. -/
def chunks (n : Nat) : Nat → List α → List (List α)
  | 0, _ => []
  | k + 1, l => l.take n :: chunks n k (l.drop n)

/-- `vqmx` (R240): the image of the blocks, every other byte zero (R239). -/
def execVqmx (o : VMxOps) (s : State) : Out :=
  let f := tyFmt o.ty
  let fmt := o.fmt.toNat
  let blocks := (chunks 32 (32 / f.width) ((lanes f.width (s.v o.a)).map f.decode)).map (mxBlock fmt)
  let codes := pack (mxBits fmt) (blocks.flatMap (fun b => b.2.map Prod.fst))
  let scales := pack 16 (blocks.map Prod.fst)
  .next (s.endLong o.l (.v o.d (BitVec.ofNat 1024 (codes + scales * 2 ^ 512)) ::
    (orFlags (blocks.flatMap Prod.snd)).write))

/-- `vdqmx` (R241). -/
def execVdqmx (o : VMxOps) (s : State) : Out :=
  let f := tyFmt o.ty
  let fmt := o.fmt.toNat
  let nb := 32 / f.width
  let img := (s.v o.a).toNat
  let block (b : Nat) : List (Nat × Flags) :=
    let sc := img / 2 ^ (512 + 16 * b) % 512
    (unpack (mxBits fmt) 32 (img / 2 ^ (32 * mxBits fmt * b))).map (fun c =>
      if sc = 0x1FF then (f.nan, {}) else f.ofVal .rne (((mxFmt fmt).decode c).scaled ((sc : Int) - 256)))
  .next (s.endVf o.l o.d f.width ((List.range nb).flatMap block))

/-! ## Code tables (R242) -/

/-- The BF16 table of a register: lanes 0 .. 15. -/
def codeTable (v : Vec) : List Nat := unpack 16 16 v.toNat

/-- The value a table distance takes: infinities count as ±2^128. -/
def FVal.forTable : FVal → Option (Bool × Nat × Int)
  | .nan => none
  | .inf s => some (s, 1, 128)
  | .fin s m e => some (s, m, e)

/-- |x − y| × 2^200, an exact number for every finite FP32 and BF16 value. -/
def tableDist (x y : Bool × Nat × Int) : Nat :=
  (sigAt x.1 x.2.1 (x.2.2 + 200) 0 - sigAt y.1 y.2.1 (y.2.2 + 200) 0).natAbs

/-- The code of the nearest entry, ties to the lower code; NaN entries are never chosen. -/
def nearestCode (t : List Nat) (x : FVal) : Option Nat :=
  match x.forTable with
  | none => none
  | some v =>
    (t.zipIdx.foldl (fun (acc : Option (Nat × Nat)) (p : Nat × Nat) =>
      match (Fmt.bf16.decode p.1).forTable with
      | none => acc
      | some e =>
        let d := tableDist v e
        match acc with
        | none => some (d, p.2)
        | some (d0, c0) => if d < d0 then some (d, p.2) else some (d0, c0)) none).map Prod.snd

/-- One lane of `vcode`: NV for a NaN or a table of NaNs; NX when the entry differs. -/
def codeLane (f : Fmt) (t : List Nat) (x : Nat) : Nat × Flags :=
  match nearestCode t (f.decode x) with
  | none => (0, { nv := true })
  | some c => (c, { nx := !(f.decode x).eq (Fmt.bf16.decode (t.getD c 0)) })

/-- `vcode` (R242): n codes at byte (n / 2) × p, the other bytes of d unchanged. -/
def execVcode (o : VCodeOps) (s : State) : Out :=
  let f := tyFmt o.ty
  let n := 1024 / f.width
  let r := (lanes f.width (s.v o.a)).map (codeLane f (codeTable (s.v o.b)))
  let old := (lanes 4 (s.v o.d)).map (fun x => (x, ({} : Flags)))
  let p := o.part.toNat
  .next (s.endVf o.l o.d 4 (old.take (p * n) ++ r ++ old.drop (p * n + n)))

/-- The value a code decodes to (R242): an entry of −0 gives +0, a NaN entry the canonical NaN. -/
def decodeEntry (f : Fmt) (e : Nat) : Nat :=
  match Fmt.bf16.decode e with
  | .fin _ 0 _ => 0
  | v => (f.ofVal .rne v).1

/-- `vdecode` (R242). -/
def execVdecode (o : VCodeOps) (s : State) : Out :=
  let f := tyFmt o.ty
  let n := 1024 / f.width
  let t := codeTable (s.v o.b)
  .next (s.endLong o.l [.v o.d (ofLanes f.width
    ((((lanes 4 (s.v o.a)).drop (o.part.toNat * n)).take n).map (fun c => decodeEntry f (t.getD c 0))))])

/-! ## Elementary functions (R243) -/

/-- Lane by lane on FP32. -/
def State.vfUn (s : State) (o : V2Ops) (op : Fmt → Nat → Nat × Flags) : Out :=
  .next (s.endVf o.l o.d 32 ((lanes 32 (s.v o.a)).map (op .fp32)))

/-- `vexp2` (R243). -/
def execVexp2 (o : V2Ops) (s : State) : Out := s.vfUn o Fmt.exp2
/-- `vrcp` (R243). -/
def execVrcp (o : V2Ops) (s : State) : Out := s.vfUn o Fmt.rcp
/-- `vrsq` (R243). -/
def execVrsq (o : V2Ops) (s : State) : Out := s.vfUn o Fmt.rsq

end Sys2Proof.Machine
end

