-- ==== Sys2Proof/Machine/VecMove.lean ====
section
/-! DEFINITION. Reductions and lane moves: page 8 selectors 0 .. 3 (R248, R249). -/

namespace Sys2Proof.Machine

/-! ## `vred` (R248) -/

/-- The integer reduction of lanes of width w. -/
def redInt (op w : Nat) (xs : List Nat) : Word :=
  let sx (x : Nat) : Word := BitVec.ofInt 64 (sLane w x)
  let fold (f : Nat → Nat → Nat) : Nat := match xs with | [] => 0 | x :: r => r.foldl f x
  match op with
  | 0 => BitVec.ofInt 64 (xs.foldl (fun a x => a + sLane w x) 0)
  | 1 => sx (fold (fun a b => if sLane w b < sLane w a then b else a))
  | 2 => sx (fold (fun a b => if sLane w a < sLane w b then b else a))
  | 3 => BitVec.ofNat 64 (fold Nat.min)
  | 4 => BitVec.ofNat 64 (fold Nat.max)
  | 5 => BitVec.ofNat 64 (fold (fun a b => a &&& b))
  | 6 => BitVec.ofNat 64 (fold (fun a b => a ||| b))
  | _ => BitVec.ofNat 64 (fold (fun a b => a ^^^ b))

/-- The exact sum of finite values, in units of the format's smallest subnormal. -/
def sumUnits (f : Fmt) (xs : List FVal) : Int :=
  xs.foldl (fun a x => match x with | .fin s m e => a + sigAt s m e f.ulp0 | _ => a) 0

/-- The FP sum (R248): exact, rounded once. Lanes that hold a NaN beside both infinities give NaN with no flag, since R248 sets NV for the
infinities alone (DESIGN CHOICE, log entry 59). -/
def redSum (f : Fmt) (xs : List Nat) : Nat × Flags :=
  let vs := xs.map f.decode
  if vs.any FVal.isNan then (f.nan, {})
  else
    match vs.contains (.inf false), vs.contains (.inf true) with
    | true, true => f.invalid
    | true, false => (f.inf false, {})
    | false, true => (f.inf true, {})
    | false, false => f.roundInt (sumUnits f vs) f.ulp0 (vs.all (fun v => match v with | .fin s m _ => s && m == 0 | _ => false))

/-- The FP reduction, held widened. -/
def redFp (f : Fmt) (op : Nat) (xs : List Nat) : Nat × Flags :=
  let r : Nat × Flags := match op with
    | 0 => redSum f xs
    | 1 => (match xs with | [] => 0 | x :: t => t.foldl f.min x, {})
    | _ => (match xs with | [] => 0 | x :: t => t.foldl f.max x, {})
  ((f.convert .fp32 .rne r.1).1, r.2)

/-- `vred` (R248): a `g` register for integer types, an `f` register for FP types. -/
def execVred (o : VRedOps) (s : State) : Out :=
  let w := tyWidth o.ty
  if 4 ≤ o.ty.toNat then .next (s.endFp o.l o.d (redFp (tyFmt o.ty) o.op.toNat (lanes w (s.v o.a))))
  else .next (s.endLong o.l [.g o.d (redInt o.op.toNat w (lanes w (s.v o.a)))])

/-! ## Lane moves (R249) -/

/-- `vperm` (R249). -/
def execVperm (o : VTOps) (s : State) : Out :=
  let w := tyWidth o.ty
  let src := lanes w (s.v o.a)
  .next (s.endLong o.l [.v o.d (ofLanes w ((lanes w (s.v o.b)).map (fun i => src.getD (i % (1024 / w)) 0)))])

/-- `vins`: reads d (R249). -/
def execVins (o : VInsOps) (s : State) : Out :=
  let w := tyWidth o.ty
  s.run (do
    must (decide ((s.g o.b).toNat < 1024 / w)) (illegal11 0)
    .ok (s.endLong o.l [.v o.d (ofLanes w ((lanes w (s.v o.d)).set (s.g o.b).toNat (s.g o.a).toNat))]))

/-- `vext`: sign-extended for integer types (R249). -/
def execVext (o : VExtOps) (s : State) : Out :=
  let w := tyWidth o.ty
  s.run (do
    must (decide ((s.g o.b).toNat < 1024 / w)) (illegal11 0)
    let x := (lanes w (s.v o.a)).getD (s.g o.b).toNat 0
    .ok (s.endLong o.l [.g o.d (if 4 ≤ o.ty.toNat then BitVec.ofNat 64 x else BitVec.ofInt 64 (sLane w x))]))

end Sys2Proof.Machine
end

