-- ==== Sys2Proof/Machine/Long.lean ====
section
/-! DEFINITION. Long accumulators: their image, AccAdd, the drain (R38, R40, R42), and the contribution of one K block to one
output, by format pair (R36, R37, R39). -/

namespace Sys2Proof.Machine

/-! ## The accumulator (R38, R40) -/

/-- The bound M of R40. -/
def accMax : Int := 2 ^ 383 - 1

/-- AccAdd (R40): `n` NaN, `on` and `op` the overflow bits, `st` sticky, ORed in. -/
def Acc.add (a : Acc) (c : Int) (n on op st : Bool) : Acc :=
  let v := a.v + c
  let hi := decide (accMax < v)
  let lo := decide (v < -accMax)
  { v := if hi then accMax else if lo then -accMax else v
    nan := a.nan || n, ovfn := a.ovfn || lo || on, ovfp := a.ovfp || hi || op, sticky := a.sticky || st }

/-- The 64 bytes of an element (R38). -/
def Acc.bytes (a : Acc) : List Byte :=
  leBytes 64 ((BitVec.ofInt 384 a.v).toNat + ((if a.sticky then 1 else 0) + (if a.ovfp then 2 else 0) + (if a.ovfn then 4 else 0)
    + (if a.nan then 8 else 0)) * 2 ^ 384)

/-- The element of 64 bytes, as a number. -/
def accOf (x : Nat) : Acc where
  v := (BitVec.ofNat 384 x).toInt
  sticky := x / 2 ^ 384 % 2 == 1
  ovfp := x / 2 ^ 385 % 2 == 1
  ovfn := x / 2 ^ 386 % 2 == 1
  nan := x / 2 ^ 387 % 2 == 1

/-- Its status bits as AFlags (R47). -/
def Acc.aflags (a : Acc) : AFlags := ⟨a.nan, a.ovfn, a.ovfp, a.sticky⟩

/-- Drain (R42). -/
def Acc.drain (a : Acc) (f : Fmt) : Nat × Flags :=
  if a.nan || (a.ovfp && a.ovfn) then f.invalid
  else if a.ovfp then (f.inf false, { of_ := true, nx := true })
  else if a.ovfn then (f.inf true, { of_ := true, nx := true })
  else if a.v = 0 then (0, if a.sticky then { uf := true, nx := true } else {})
  else
    let r := f.round .rne (decide (a.v < 0)) a.v.natAbs (-192) a.sticky
    (if r.1 = f.signed true 0 then 0 else r.1, r.2)

/-- The target format of a drain (R262). -/
def drainFmt : Nat → Fmt
  | 0 => .fp32
  | 1 => .bf16
  | _ => .fp16

/-- A row of a tile from 32 drained elements: all of it for FP32, one half for BF16 and FP16 (R105). -/
def drainRow (fmt : Nat) (hi : Bool) (old : BitVec 1024) (xs : List Nat) : BitVec 1024 :=
  if fmt = 0 then BitVec.ofNat 1024 (pack 32 xs)
  else
    let h := pack 16 xs
    if hi then BitVec.ofNat 1024 (old.toNat % 2 ^ 512 + h * 2 ^ 512)
    else BitVec.ofNat 1024 (old.toNat / 2 ^ 512 * 2 ^ 512 + h)

/-- The flag writes of drained elements. -/
def drainFlags (f : Fmt) (as : List Acc) : List RegWrite :=
  let fl := as.foldl (fun x a => x.or (a.drain f).2) ({} : Flags)
  let af := as.foldl (fun x a => x.or a.aflags) ({} : AFlags)
  fl.write ++ (if af.word = 0#64 then [] else [.aflags af.word])

/-! ## A as integers (R36, R37) -/

/-- Format pairs by the selector of R261: 0 i8c, 1 i4c, 2 bfc, 3 e2x, 4 e4x, 5 e5x, 6 i8i8. -/
def pairKind : Nat → Nat
  | 0 | 1 | 2 => 1
  | 3 | 4 | 5 => 2
  | _ => 3

/-- One K block of A: whether it holds a NaN or an infinity, its integers, and ea: each value is a × 2^(-ea). -/
structure ABlock where
  nan : Bool
  a   : List Int
  ea  : Int
  deriving DecidableEq, Repr

/-- A value in units of 2^e, or zero for NaN and infinity. -/
def FVal.units (e : Int) : FVal → Int
  | .fin s m d => sigAt s m d e
  | _ => 0
/-- NaN or infinity. -/
def FVal.bad : FVal → Bool
  | .fin _ _ _ => false
  | _ => true

/-- A block of a format whose elements become integers by one factor 2^ea. -/
def exactBlock (f : Fmt) (ea : Int) (xs : List Nat) : ABlock :=
  ⟨xs.any (fun x => (f.decode x).bad), xs.map (fun x => (f.decode x).units (-ea)), ea⟩

/-- E(x) of R37 for a non-zero finite BF16 value. -/
def bfExp : FVal → Option Int
  | .fin _ m e => if m = 0 then none else some (if m < 128 then -126 else e + 7)
  | _ => none

/-- A BF16 block, aligned to its largest exponent (R37). -/
def bfBlock (xs : List Nat) : ABlock :=
  let vs := xs.map Fmt.bf16.decode
  let emax := (vs.filterMap bfExp).foldl max (-126)
  ⟨vs.any FVal.bad,
    vs.map (fun v => match v with
      | .fin s m e => let q := (roundAt .rne s m (e + 22 - emax) false 0).1; if s then -(q : Int) else q
      | _ => 0),
    22 - emax⟩

/-- The four K blocks of a row of A: `t` the row of the tile, `u` the row of the next tile for BF16 (R98). -/
def aBlocks (pair : Nat) (t u : BitVec 1024) : List ABlock :=
  match pair with
  | 0 | 6 => (chunks 32 4 (unpack 8 128 t.toNat)).map (fun xs => ⟨false, xs.map (sLane 8), 0⟩)
  | 1 => (chunks 32 4 (unpack 4 128 t.toNat)).map (fun xs => ⟨false, xs.map (sLane 4), 0⟩)
  | 2 => (chunks 32 4 (unpack 16 64 t.toNat ++ unpack 16 64 u.toNat)).map bfBlock
  | 3 => (chunks 32 4 (unpack 4 128 t.toNat)).map (exactBlock .e2m1 1)
  | 4 => (chunks 32 4 (unpack 8 128 t.toNat)).map (exactBlock .e4m3 9)
  | _ => (chunks 32 4 (unpack 8 128 t.toNat)).map (exactBlock .e5m2 16)

/-! ## B as integers (R34, R36, R96) -/

/-- A code of a bank: row k, column n. -/
def Bank.code (b : Bank) (k n : Nat) : Nat := (SMap.get b.codes 0#128 k).toNat / 16 ^ n % 16

/-- eb: each decoded B is an integer × 2^(-eb). -/
def pairEb : Nat → Int
  | 1 => 133
  | 2 => 1
  | _ => 0

/-- The decoded B elements of column n in K block j, in units of 2^(-eb); none for an infinity or NaN. -/
def bColumn (kind : Nat) (b0 b1 bank : Bank) (n j : Nat) : Option (List Int) :=
  let ks := (List.range 32).map (fun i => 32 * j + i)
  match kind with
  | 1 =>
    let vs := ks.map (fun k => Fmt.bf16.decode (bank.table.toNat / 2 ^ (16 * bank.code k n) % 65536))
    if vs.any FVal.bad then none else some (vs.map (FVal.units (-133)))
  | 2 => some (ks.map (fun k => (Fmt.e2m1.decode (bank.code k n)).units (-1)))
  | _ => some (ks.map (fun k => 16 * sLane 4 (b1.code k n) + b0.code k n))

/-! ## Contributions (R39) -/

/-- The contribution of one block: the value in grid units, nan, and sticky. -/
def contribution (a : ABlock) (b : Option (List Int)) (eb : Int) (sa sb : Nat) : Int × Bool × Bool :=
  match b with
  | none => (0, true, false)
  | some bs =>
    if a.nan || sa == 0x1FF || sb == 0x1FF then (0, true, false)
    else
      let p := (List.zipWith (· * ·) a.a bs).foldl (· + ·) 0
      let e : Int := sa + sb - 512 + 192 - a.ea - eb
      if 0 ≤ e then (p * 2 ^ e.toNat, false, false)
      else (p.tdiv (2 ^ (-e).toNat), false, p.tmod (2 ^ (-e).toNat) != 0)

/-- Block scale of column n and K block j; kind `c` has none (R32). -/
def bScale (kind : Nat) (bank : Bank) (n j : Nat) : Nat :=
  if kind = 1 then 0x100 else (SMap.get bank.scales 0x100#16 (4 * n + j)).toNat % 512

/-- One accumulator takes the four contributions of its row and column in ascending K block order (R41, R260). -/
def Acc.takeRow (acc : Acc) (kind : Nat) (b0 b1 bank : Bank) (blocks : List ABlock) (scales : List Nat) (n : Nat) : Acc :=
  ((List.range 4).zip (blocks.zip scales)).foldl (fun a p =>
    let (c, nan, st) := contribution p.2.1 (bColumn kind b0 b1 bank n p.1) (pairEb kind) p.2.2 (bScale kind bank n p.1)
    a.add c nan false false st) acc

/-- The E9 scale in lane i of the A scale register. -/
def aScale (c : Vec) (i : Nat) : Nat := c.toNat / 2 ^ (16 * i) % 512

/-- An accumulator of the core. -/
def Core.accum (c : Core) (i : Nat) : Acc := SMap.get c.acc {} i

/-- The 512 accumulators of a member after an `mma` (R260): `leader` holds the A tile and `sc` the A scales. -/
def Core.mmaAccs (c leader : Core) (pair : Nat) (t : TReg) (m : MReg) (sc : Vec) (accum : Bool) : SMap Acc :=
  (List.range 16).flatMap (fun i =>
    let blocks := aBlocks pair (leader.tileRow t i) (leader.tileRow (t + 1) i)
    let scales := (List.range 4).map (fun j => aScale sc (4 * i + j))
    (List.range 32).map (fun n =>
      let a := if accum then c.accum (32 * i + n) else {}
      (32 * i + n, a.takeRow (pairKind pair) c.bank0 c.bank1 (c.bankOf m) blocks scales n)))

end Sys2Proof.Machine
end

