-- ==== Sys2Proof/Machine/Images.lean ====
section
/-! DEFINITION. The image of a core in its chorus's slot (R373, R374): its units, where each lies, its bytes, and a unit read back from
bytes. The layout is the model's choice (DESIGN CHOICE, log entry 4). -/

namespace Sys2Proof.Machine

/-! ## Units (R374)

A number each: 3k, 3k + 1 and 3k + 2 the `g`, `f` and `v` file of context k, 33 + k its remaining state, 44 + t a tile, 52 + m a bank,
54 + r a row of 32 accumulators, 70 the deque, 71 the inbox with the completion queue, 72 the send queue, 73 the event state,
74 what has no dirty bit, 100 + i a local line with its tags. -/

/-- The unit that an offset of a core's 256 KiB lies in. -/
def unitAt (off : Nat) : Nat :=
  if off < 0x800 then 74
  else if off < 0x1000 then 100 + (off - 0x800)
  else if off < 0x2_1000 then 100 + (off - 0x1000) / 64
  else if off < 0x2_5000 then 44 + (off - 0x2_1000) / 2048
  else if off < 0x2_6240 then 52 + (off - 0x2_5000) / 2336
  else if off < 0x2_7000 then 74
  else if off < 0x2_F000 then 54 + (off - 0x2_7000) / 2048
  else if off < 0x3_6380 then
    let k := (off - 0x2_F000) / 2688
    let o := (off - 0x2_F000) % 2688
    if o < 256 then 3 * k else if o < 384 then 3 * k + 1 else if o < 2432 then 3 * k + 2 else 33 + k
  else if off < 0x3_6800 then 74
  else if off < 0x3_7000 then 70
  else if off < 0x3_7A00 then 71
  else if off < 0x3_8A00 then 72
  else if off < 0x3_9000 then 73
  else 74

/-- The byte of a number at an index. -/
def byteOf (x i : Nat) : Byte := BitVec.ofNat 8 (x / 256 ^ i)

/-- Word i of a context's remaining state that has its place in an image. -/
def Ctx.imageWord (c : Ctx) : Nat → Word
  | 0 => c.pc
  | 1 => c.cause
  | 2 => c.fpc
  | 3 => c.faddr
  | 4 => c.finfo
  | 5 => c.rpc
  | 6 => c.tstat
  | 7 => c.tscratch
  | 8 => c.fflags
  | 9 => c.aflags
  | 10 => c.satflags
  | 11 => c.atomstat
  | _ => c.result

/-- That word replaced. -/
def Ctx.setImageWord (c : Ctx) (i : Nat) (w : Word) : Ctx :=
  match i with
  | 0 => { c with pc := w }
  | 1 => { c with cause := w }
  | 2 => { c with fpc := w }
  | 3 => { c with faddr := w }
  | 4 => { c with finfo := w }
  | 5 => { c with rpc := w }
  | 6 => { c with tstat := w }
  | 7 => { c with tscratch := w }
  | 8 => { c with fflags := w }
  | 9 => { c with aflags := w }
  | 10 => { c with satflags := w }
  | 11 => { c with atomstat := w }
  | _ => { c with result := w }

/-- Byte o of a bank: codes, scales with the kind in bits [15:14] of the first, code table. -/
def Bank.imageByte (b : Bank) (o : Nat) : Byte :=
  if o < 2048 then byteOf (SMap.get b.codes 0#128 (o / 16)).toNat (o % 16)
  else if o < 2304 then
    let i := (o - 2048) / 2
    byteOf ((SMap.get b.scales 0x100#16 i).toNat % 512 + if i = 0 then b.kind * 2 ^ 14 else 0) (o % 2)
  else byteOf b.table.toNat (o - 2304)

/-- A bank from its bytes. -/
def Bank.ofImage (bs : List Byte) : Bank where
  codes := imageRows bs
  scales := imageScales ((bs.drop 2048).take 256)
  table := BitVec.ofNat 256 (leNat (bs.drop 2304))
  kind := leNat ((bs.drop 2048).take 2) / 2 ^ 14

/-- Byte o of a core's part of its slot: of a unit that the model lays out, its value; of another the implementation's, by the number
of the save that wrote it. -/
def CoreImage.byte (m : CoreImage) (o : Nat) : Byte :=
  let free : Byte := Config.imageByte (SMap.get m.vers 0 (unitAt o)) o
  if o < 0x800 then 0#8
  else if o < 0x1000 then
    BitVec.ofNat 8 ((List.range 8).foldl (fun a i => a + if SMap.get m.core.tags false (8 * (o - 0x800) + i) then 2 ^ i else 0) 0)
  else if o < 0x2_1000 then SMap.get m.cells 0#8 (o - 0x1000)
  else if o < 0x2_5000 then byteOf (SMap.get m.core.tiles 0#1024 ((o - 0x2_1000) / 128)).toNat ((o - 0x2_1000) % 128)
  else if o < 0x2_6240 then
    (m.core.bankOf (BitVec.ofNat 1 ((o - 0x2_5000) / 2336))).imageByte ((o - 0x2_5000) % 2336)
  else if o < 0x2_7000 then 0#8
  else if o < 0x2_F000 then ((SMap.get m.core.acc {} ((o - 0x2_7000) / 64)).bytes).getD ((o - 0x2_7000) % 64) 0#8
  else if o < 0x3_6380 then
    let c := SMap.get m.ctxs {} ((o - 0x2_F000) / 2688)
    let p := (o - 0x2_F000) % 2688
    if p < 256 then byteOf (SMap.get c.g 0#64 (p / 8)).toNat (p % 8)
    else if p < 384 then byteOf (SMap.get c.f 0#32 ((p - 256) / 4)).toNat (p % 4)
    else if p < 2432 then byteOf (SMap.get c.v 0#1024 ((p - 384) / 128)).toNat ((p - 384) % 128)
    else if p < 2536 then byteOf (c.imageWord ((p - 2432) / 8)).toNat (p % 8)
    else free
  else if o < 0x3_6800 then 0#8
  else if o < 0x3_A000 then free
  else 0#8

/-- The bytes of a unit that a restore reads, as first offset and length; none for one whose form is the implementation's. -/
def unitSpan (u : Nat) : Option (Nat × Nat) :=
  if u < 33 then
    let base := 0x2_F000 + u / 3 * 2688
    some (match u % 3 with | 0 => (base, 256) | 1 => (base + 256, 128) | _ => (base + 384, 2048))
  else if u < 44 then some (0x2_F000 + (u - 33) * 2688 + 2432, 104)
  else if u < 52 then some (0x2_1000 + (u - 44) * 2048, 2048)
  else if u < 54 then some (0x2_5000 + (u - 52) * 2336, 2336)
  else if u < 70 then some (0x2_7000 + (u - 54) * 2048, 2048)
  else if 100 ≤ u ∧ u < 2148 then some (0x1000 + (u - 100) * 64, 64)
  else none

/-- Numbers of n bytes each, by their place from `first` on. -/
def imageWords (n first : Nat) (bs : List Byte) : SMap Nat :=
  (List.range (bs.length / n)).map (fun i => (first + i, leNat ((bs.drop (n * i)).take n)))

/-- A unit of a core read back from its bytes; `tags` is the byte of a line's tags. -/
def CoreImage.load (m : CoreImage) (u : Nat) (bs : List Byte) (tags : Byte) : CoreImage :=
  let ctx (k : Nat) (f : Ctx → Ctx) : CoreImage := { m with ctxs := SMap.put m.ctxs k (f (SMap.get m.ctxs {} k)) }
  if u < 33 then
    ctx (u / 3) (fun c => match u % 3 with
      | 0 => { c with g := (imageWords 8 0 bs).map (fun p => (p.1, BitVec.ofNat 64 p.2)) }
      | 1 => { c with f := (imageWords 4 0 bs).map (fun p => (p.1, BitVec.ofNat 32 p.2)) }
      | _ => { c with v := (imageWords 128 0 bs).map (fun p => (p.1, BitVec.ofNat 1024 p.2)) })
  else if u < 44 then ctx (u - 33) (fun c => (imageWords 8 0 bs).foldl (fun c p => c.setImageWord p.1 (BitVec.ofNat 64 p.2)) c)
  else if u < 52 then
    { m with core := (imageWords 128 0 bs).foldl (fun c p => c.setTileRow (BitVec.ofNat 3 (u - 44)) p.1 (BitVec.ofNat 1024 p.2)) m.core }
  else if u < 54 then { m with core := m.core.setBank (BitVec.ofNat 1 (u - 52)) (Bank.ofImage bs) }
  else if u < 70 then
    { m with core := { m.core with
        acc := (imageWords 64 (32 * (u - 54)) bs).foldl (fun a p => SMap.put a p.1 (accOf p.2)) m.core.acc } }
  else
    { m with
      core := { m.core with
        tags := (List.range 8).foldl (fun t i => SMap.put t (8 * (u - 100) + i) (tags.getLsbD i)) m.core.tags }
      cells := bs.zipIdx.foldl (fun c p => SMap.put c (64 * (u - 100) + p.2) p.1) m.cells }

/-! ## Changes (R374) -/

/-- The keys at which two sorted maps differ. -/
def SMap.differ {α : Type} [DecidableEq α] : Nat → SMap α → SMap α → List Nat
  | 0, _, _ => []
  | _ + 1, [], m => m.map Prod.fst
  | _ + 1, m, [] => m.map Prod.fst
  | n + 1, p :: l, q :: m =>
    if p.1 < q.1 then p.1 :: SMap.differ n l (q :: m)
    else if q.1 < p.1 then q.1 :: SMap.differ n (p :: l) m
    else if p.2 = q.2 then SMap.differ n l m else p.1 :: SMap.differ n l m
/-- The same without a bound. -/
def SMap.changed {α : Type} [DecidableEq α] (l m : SMap α) : List Nat := SMap.differ (l.length + m.length) l m

/-- The units of a core that differ between two times. -/
def CoreImage.unitsChanged (m n : CoreImage) : List Nat :=
  ((List.range 11).flatMap (fun k =>
      let a := SMap.get m.ctxs {} k
      let b := SMap.get n.ctxs {} k
      (if a.g = b.g then [] else [3 * k]) ++ (if a.f = b.f then [] else [3 * k + 1]) ++ (if a.v = b.v then [] else [3 * k + 2])
        ++ (if { a with g := [], f := [], v := [] } = { b with g := [], f := [], v := [] } then [] else [33 + k]))
    ++ (SMap.changed m.core.tiles n.core.tiles).map (fun i => 44 + i / 16)
    ++ (if m.core.bank0 = n.core.bank0 then [] else [52]) ++ (if m.core.bank1 = n.core.bank1 then [] else [53])
    ++ (SMap.changed m.core.acc n.core.acc).map (fun i => 54 + i / 32)
    ++ (if m.core.deque = n.core.deque then [] else [70])
    ++ (if m.core.inbox = n.core.inbox ∧ m.core.compq = n.core.compq then [] else [71])
    ++ (if m.core.sendq = n.core.sendq then [] else [72]) ++ (if m.core.layers = n.core.layers then [] else [73])
    ++ (SMap.changed m.cells n.cells).map (fun i => 100 + i / 64)
    ++ (SMap.changed m.core.tags n.core.tags).map (fun i => 100 + i / 8)).eraseDups

end Sys2Proof.Machine
end

