-- ==== Sys2Proof/Machine/Operands.lean ====
section
/-! DEFINITION. Operand forms: scopes (R129, R130), addresses and the near window (R17 .. R19, R269), the declared buffer rule
(R55, R56), page tables, TLBs and permissions (R339 .. R352), and where an access goes (R22). -/

namespace Sys2Proof.Machine

/-! ## Control space and the partition device (R406) -/

/-- The reset value of a control-space register: a scale-out port listens on UDP port 0x4D52 (R415); every other one that the spec
gives a value is zero, and so are the rest (log entry 2). -/
def ctlReset (a : Nat) : Word :=
  if 0x0_F000_0A80_0000 ≤ a ∧ a < 0x0_F000_0A80_1000 ∧ a % 0x100 = 0 then 0x4D52_0000_0000_0000#64 else 0#64
/-- A control-space register. -/
def State.ctlReg (s : State) (a : Nat) : Word := SMap.get s.ctl (ctlReset a) a
/-- A control-space register stored. -/
def State.setCtl (s : State) (a : Nat) (x : Word) : State := { s with ctl := SMap.put s.ctl a x }

/-- Control-space addresses of the registers that other rules read. -/
def pmodeAddr : Nat := 0x0_F000_0A00_0000
def peeridAddr : Nat := 0x0_F000_0800_1000
def routeAddr (p : Nat) : Nat := 0x0_F000_0800_0000 + 8 * p
def dieBlock (d : Nat) : Nat := 0x0_F000_0000_0000 + d * 0x1_0000
def hashBlock (dev : Nat) : Nat := 0x0_F000_0A01_0000 + dev * 0x1000
def dispBlock (dev : Nat) : Nat := 0x0_F000_0100_0000 + dev * 0x10_0000

/-- The partition mode: 0 one, 1 two, 2 die. -/
def State.pmode (s : State) : Nat := bits (s.ctlReg pmodeAddr) 1 0
/-- The partition device that holds die d. -/
def State.devOf (s : State) (d : Nat) : Nat :=
  match s.pmode with
  | 0 => 0
  | 1 => d % 8 / 4
  | _ => d
/-- The dies of a partition device, ascending. -/
def State.diesOf (s : State) (dev : Nat) : List Nat := (List.range 64).filter (fun d => s.devOf d == dev)
/-- The device memory of a device: first address and length. -/
def State.devMem (s : State) (dev : Nat) : Nat × Nat :=
  match s.pmode with
  | 0 => (0, 2 ^ 43)
  | 1 => (2 ^ 42 * dev, 2 ^ 42)
  | _ => (2 ^ 37 * dev, 2 ^ 37)
/-- A die is live. -/
def State.dieLive (s : State) (d : Nat) : Bool := !(s.die d).dead
/-- The first address and carved length of a die's near store (R22, R411). -/
def nearBase (d : Nat) : Nat := 0x0_1000_0000_0000 + d * 0x4000_0000
def State.nearLen (s : State) (d : Nat) : Nat := bits (s.ctlReg (dieBlock d + 0x920)) 1 0 * 0x1000_0000

/-! ## Location keys -/

def hostKey (a : Nat) : Nat := 2 ^ 52 + a
def peerKey (p a : Nat) : Nat := 2 ^ 60 + p * 2 ^ 52 + a
def localKey (h off : Nat) : Nat := 2 ^ 70 + h * 2 ^ 17 + off

/-- The part of the panel's memory that a location lies in, by its number in `State.nsEra`: a die's near store, or 64 for device
memory. -/
def memPart (loc : Nat) : Option Nat :=
  if loc < 2 ^ 43 then some 64
  else if loc < nearBase 0 ∨ nearBase 64 ≤ loc then none
  else some ((loc - nearBase 0) / 0x4000_0000)

/-- The address of the core's part of an image slot that a location would lie in (R373). -/
def partOf (loc : Nat) : Nat := loc - loc % 0x4_0000

/-- What a byte of the panel's memory holds where `State.mem` lists nothing: what the dispatcher wrote to an image slot (R373), else an
undefined value after its memory has lost its contents (R411, R420), else nothing. -/
def State.nsKey (s : State) (loc : Nat) : Byte :=
  match s.images.find? (fun p => p.1 == partOf loc) with
  | some (_, m) => m.byte (loc % 0x4_0000)
  | none =>
    match memPart loc with
    | none => 0#8
    | some d =>
      let e := SMap.get s.nsEra 0 d
      if e = 0 then 0#8 else Config.freeByte e loc

/-- The byte at a location's owner. -/
def State.rawByte (s : State) (loc : Nat) : Byte := s.mem.byte loc ^^^ s.nsKey loc
/-- A byte written at a location's owner. -/
def State.setRaw (s : State) (loc : Nat) (b : Byte) : State := { s with mem := s.mem.setByte loc (b ^^^ s.nsKey loc) }
/-- Bytes at consecutive locations. -/
def State.rawBytes (s : State) (loc : Nat) : Nat → List Byte
  | 0 => []
  | n + 1 => s.rawByte loc :: s.rawBytes (loc + 1) n
/-- Bytes written at consecutive locations. -/
def State.setRaws (s : State) (loc : Nat) : List Byte → State
  | [] => s
  | b :: bs => (s.setRaw loc b).setRaws (loc + 1) bs

/-! ## Launches and live cores (R130) -/

/-- The launch with a serial number. -/
def State.launchOf (s : State) (n : Nat) : Option Launch := s.launches.find? (fun l => l.serial == n)
/-- The handle under which a core of a launch now stands: its own, or its image's while its chorus is pre-empted. -/
def Launch.handle (l : Launch) (h : Nat) : Nat :=
  if l.outs.contains (chorusOf h) then (l.serial + 1) * 65536 + h % 65536 else h % 65536
/-- A live core of the launch of core `c` (R130). -/
def State.liveFor (s : State) (c : Core) (h : Nat) : Bool :=
  match c.launch with
  | none => false
  | some n =>
    match s.launchOf n with
    | none => false
    | some l => l.chor.contains (chorusOf h) && s.dieLive (hdie h)
/-- The handle of a core as seen by a core of the same launch. -/
def State.handleFor (s : State) (c : Core) (h : Nat) : Nat :=
  match c.launch with
  | none => h
  | some n =>
    match s.launchOf n with
    | none => h
    | some l => l.handle h

/-! ## Scopes (R129) -/

/-- The kind of a scope. -/
def scopeKind (v : Word) : Nat := bits v 34 32
/-- The scope an XS register names: `dscope` for `g0` (R129). -/
def State.scopeOf (s : State) (xs : Reg) : Word := if xs = 0#5 then s.me.dscope else s.g xs
/-- The rectangle's corners. -/
def scopeRect (v : Word) : Nat × Nat × Nat × Nat := (bits v 7 0, bits v 15 8, bits v 23 16, bits v 31 24)
/-- R129's conditions, for a core of partition device `dev`. -/
def State.scopeOk (s : State) (dev : Nat) (v : Word) : Bool :=
  bits v 63 35 == 0 && decide (scopeKind v < 5) &&
    (scopeKind v != 0 ||
      (let (x0, y0, x1, y1) := scopeRect v
       decide (x0 ≤ x1) && decide (y0 ≤ y1) && s.devOf (dieAt x0 y0) == dev && s.devOf (dieAt x1 y1) == dev))
/-- The partition device of the executing core. -/
def State.myDev (s : State) : Nat := s.devOf (hdie s.now.h)
/-- The check of a scope operand. -/
def State.checkScope (s : State) (v : Word) : Except Stop Unit := must (s.scopeOk s.myDev v) (scopeTrap v)
/-- The scope reaches beyond the own core (R23). -/
def beyondCore (v : Word) : Bool := scopeKind v != 1 && scopeKind v != 2
/-- Sem parts (R132). -/
def semAcq (m : BitVec 2) : Bool := m.getLsbD 0
def semRel (m : BitVec 2) : Bool := m.getLsbD 1

/-! ## Addresses -/

/-- The address of an MI instruction: (g[a] + imm × size) mod 2^52 (R269). -/
def State.addrMI (s : State) (a : Reg) (imm : Word) (size : Nat) : Nat :=
  ((s.g a + imm * BitVec.ofNat 64 size).toNat) % 2 ^ 52
/-- An address operand without offset. -/
def State.addrG (s : State) (a : Reg) : Nat := (s.g a).toNat % 2 ^ 52

/-- Where a near-window access of n bytes goes (R17 .. R19): the holding core, as it stands, and the offset; WINDOW
otherwise. -/
def State.nearLoc (s : State) (va n : Nat) : Except Stop (Nat × Nat) :=
  let w := BitVec.ofNat 64
  let off := va - NW
  let me := s.now.h
  if va < NW then .error (windowAt (w va))
  else if off < 0x2_0000 then
    if off + n ≤ 0x2_0000 then .ok (me, off) else .error (windowAt (w (NW + 0x2_0000)))
  else if off < 0x10_0000 ∨ 0x30_0000 ≤ off then .error (windowAt (w va))
  else
    let p := (off - 0x10_0000) / 0x2_0000
    let o := (off - 0x10_0000) % 0x2_0000
    if ¬ s.liveFor s.me (peerHandle me p) ∧ p ≠ peerNo me then .error (windowDead (w va) p)
    else if o + n ≤ 0x2_0000 then
      .ok (if p = peerNo me then me else s.handleFor s.me (peerHandle me p), o)
    else .error (windowAt (w (va + (0x2_0000 - o))))

/-! ## Declared buffers (R55, R56) -/

/-- The reset value of a descriptor. -/
def Core.buf (c : Core) (i : Nat) : Buf := SMap.get c.bufs {} i
/-- A buffer covers these bytes. -/
def Buf.first (b : Buf) : Nat := b.base * 64
def Buf.bytes (b : Buf) : Nat := (b.size + 1) * 64
/-- Declared. -/
def Buf.live (b : Buf) : Bool := b.state != 0
/-- The bytes [off, off + n) overlap the buffer. -/
def Buf.overlaps (b : Buf) (off n : Nat) : Bool := b.live && decide (off < b.first + b.bytes) && decide (b.first < off + n)
/-- May this holder touch the buffer's bytes (R55)? `k` is the context of the holding core, or none for a peer. -/
def Buf.permits (b : Buf) (k : Option Nat) (wr : Bool) : Bool :=
  match b.state with
  | 1 | 4 => k == some b.owner
  | 3 => !wr
  | 2 => false
  | _ => true
/-- BUFSTATE information (R56). -/
def bufInfo (wr : Bool) (state id : Nat) : Word := BitVec.ofNat 64 ((if wr then 2048 else 0) + state * 256 + id)

/-- The first illegal byte of an access to [off, off + n), with the buffer it lies in. -/
def Core.firstIllegal (c : Core) (k : Option Nat) (off n : Nat) (wr : Bool) : Option (Nat × Nat) :=
  (List.range 32).foldl (fun acc i =>
    let b := c.buf i
    if b.overlaps off n && !b.permits k wr then
      let a := max off b.first
      match acc with
      | some (a0, i0) => if a < a0 then some (a, i) else some (a0, i0)
      | none => some (a, i)
    else acc) none

/-- The buffer check of an access by the executing context to [off, off + n) of core h, whose first byte the instruction
named `va` (R55, R56). -/
def State.checkBuf (s : State) (h off n va : Nat) (wr : Bool) : Except Stop Unit :=
  let c := s.core h
  match c.firstIllegal (if h = s.now.h then some s.now.k else none) off n wr with
  | none => .ok ()
  | some (a, i) => .error (.trap .bufstate (BitVec.ofNat 64 (va + (a - off))) (bufInfo wr (c.buf i).state i))

/-! ## Homes (R409) -/

/-- The parity of a number's 64 low bits. -/
def parity (x : Nat) : Nat := (List.range 64).foldl (fun a i => (a + x / 2 ^ i) % 2) 0
/-- Bit i of the slice index of a physical address. -/
def State.hashBit (s : State) (dev pa i : Nat) : Nat :=
  parity (pa &&& (s.ctlReg (hashBlock dev + 8 * i)).toNat)
/-- The slice within its die. -/
def State.homeSlice (s : State) (dev pa : Nat) : Nat := (List.range 4).foldl (fun a i => a + s.hashBit dev pa i * 2 ^ i) 0
/-- The die slot, before remap. -/
def State.homeSlot (s : State) (dev pa : Nat) : Nat :=
  let b := match s.pmode with | 0 => 6 | 1 => 5 | _ => 0
  (List.range b).foldl (fun a i => a + s.hashBit dev pa (4 + i) * 2 ^ i) 0
/-- The home die, after remap. -/
def State.homeDie (s : State) (dev pa : Nat) : Nat :=
  let e := s.ctlReg (hashBlock dev + 0x100 + 8 * s.homeSlot dev pa)
  if e.getLsbD 16 && parity (pa &&& (s.ctlReg (hashBlock dev + 0x50)).toNat) == 1 then bits e 13 8 else bits e 5 0
/-- A line homed on this die cannot be reached: the die is dead or of another device. -/
def State.homeLost (s : State) (dev d : Nat) : Bool := !s.dieLive d || s.devOf d != dev

/-! ## Page tables (R339 .. R341) -/

/-- Fields of a page table entry. -/
def pteV (e : Word) : Bool := e.getLsbD 0
def pteLeaf (e : Word) : Bool := e.getLsbD 1
def pteR (e : Word) : Bool := e.getLsbD 2
def pteW (e : Word) : Bool := e.getLsbD 3
def pteX (e : Word) : Bool := e.getLsbD 4
def pteUser (e : Word) : Bool := e.getLsbD 5
def pteMode (e : Word) : Nat := bits e 7 6
def pteAp (e : Word) : Nat := bits e 9 8
def pteRap (e : Word) : Bool := e.getLsbD 10
def pteThr (e : Word) : Nat := bits e 13 11
def pteFrame (e : Word) : Nat := bits e 51 16
def ptePeer (e : Word) : Nat := bits e 59 52

/-- The bytes a leaf maps, by its level (R339). -/
def leafSpan : Nat → Nat
  | 1 => 2 ^ 40
  | 2 => 2 ^ 28
  | _ => 2 ^ 16

/-- The peer has a route (R378); the entry of the panel's own number is ignored (R379). -/
def State.routed (s : State) (p : Nat) : Bool :=
  (s.ctlReg (routeAddr p)).getLsbD 5 && !((s.ctlReg peeridAddr).getLsbD 8 && bits (s.ctlReg peeridAddr) 7 0 == p)

/-- Malformed leaf entries (R341, R407), for a device. -/
def State.malformed (s : State) (dev : Nat) (e : Word) (lvl : Nat) : Bool :=
  let base := pteFrame e * 65536
  let span := leafSpan lvl
  bits e 15 14 != 0 || (pteThr e != 0 && pteMode e != 3) || (pteRap e && pteAp e != 3) || (ptePeer e != 0 && pteAp e != 3)
    || (pteMode e == 3 && pteAp e == 1) || base % span != 0
    || (pteAp e == 0 && (let (lo, n) := s.devMem dev; decide (base < lo) || decide (lo + n < base + span)))
    || (pteAp e == 1 &&
        (let d := (base - nearBase 0) / 0x4000_0000
         decide (base < nearBase 0) || decide (64 ≤ d) || s.devOf d != dev
           || decide (nearBase d + s.nearLen d < base + span)))
    || (pteAp e == 3 && !s.routed (ptePeer e))

/-- What a walk returns (R341). -/
inductive Walk where
  | leaf (e : Word) (lvl : Nat)
  | miss (lvl : Nat)
  /-- FATAL, with the leaf entry at which the walk ended, zero at any other entry (R351). -/
  | fatal (lvl : Nat) (leaf : Word)
  /-- An entry holds an uncorrectable error (R346), or its line cannot be reached (R409). -/
  | mchk (pa : Nat)
  /-- A table lies where the panel has no memory. -/
  | hole (pa : Nat)
  deriving DecidableEq, Repr

/-- A physical address of device memory or near store. -/
def State.physical (s : State) (pa : Nat) : Bool :=
  decide (pa < 2 ^ 43) ||
    (decide (nearBase 0 ≤ pa) && decide (pa < nearBase 64) &&
      (let d := (pa - nearBase 0) / 0x4000_0000; decide (pa < nearBase d + s.nearLen d)))

/-- The index into the level's table. -/
def vaIndex (va lvl : Nat) : Nat := va / 2 ^ (52 - 12 * lvl) % 4096

/-- Reads the level's entry. -/
def State.walkFrom (s : State) (dev va t lvl : Nat) : Nat → Walk
  | 0 => .fatal 3 0#64
  | fuel + 1 =>
    let a := t + 8 * vaIndex va lvl
    if ¬ s.physical a then .hole a
    else if SMap.get s.poison false (a / 8) ∨ (a < 2 ^ 43 ∧ s.homeLost dev (s.homeDie dev a)) then .mchk a
    else
      let e := BitVec.ofNat 64 (leNat (s.rawBytes a 8))
      if ¬ pteV e then .miss lvl
      else if pteLeaf e then (if s.malformed dev e lvl then .fatal lvl e else .leaf e lvl)
      else if lvl = 3 ∨ bits e 15 2 ≠ 0 ∨ ptePeer e ≠ 0 then .fatal lvl 0#64
      else s.walkFrom dev va (pteFrame e * 65536) (lvl + 1) fuel

/-- Walk(va) from a root (R341). -/
def State.walk (s : State) (dev root va : Nat) : Walk := s.walkFrom dev va root 1 3

/-! ## TLBs (R343) -/

/-- The entry translates the address. -/
def TlbEntry.covers (t : TlbEntry) (dctx va : Nat) : Bool :=
  t.dctx == dctx && t.vpn == va / leafSpan t.level * (leafSpan t.level / 65536)

/-- The address of a device-context record (R360). -/
def dctxRec (dev c : Nat) : Nat := dispBlock dev + 0x8_0000 + 0x40 * c

/-- The root of the tree that translates for a core: `ptroot` of its launch's device context (R360), else the die's (R348). -/
def State.rootOf (s : State) (h : Nat) : Nat :=
  match (s.core h).launch.bind s.launchOf with
  | some l => (s.ctlReg (dctxRec l.dev l.dctx)).toNat
  | none => (s.die (hdie h)).ptroot.toNat

/-- The entry of an address, from the core's TLB, the die's TLB, or a walk. -/
def State.translate (s : State) (h va : Nat) : Walk :=
  match (s.core h).tlb.find? (fun t => t.covers (s.dctxOf h) va) with
  | some t => .leaf t.pte t.level
  | none =>
    match (s.die (hdie h)).tlb.find? (fun t => t.covers (s.dctxOf h) va) with
    | some t => .leaf t.pte t.level
    | none => s.walk (s.devOf (hdie h)) (s.rootOf h) va

/-- A TLB holds the address's entry. -/
def State.tlbHit (s : State) (h va : Nat) : Bool :=
  (s.core h).tlb.any (fun t => t.covers (s.dctxOf h) va) || (s.die (hdie h)).tlb.any (fun t => t.covers (s.dctxOf h) va)

/-- The physical address. -/
def leafPa (e : Word) (lvl va : Nat) : Nat := pteFrame e * 65536 + va % leafSpan lvl

/-- Translations leave the TLBs of a die and its cores (R344). -/
def Die.retired (d : Die) (ts : List TlbEntry) : Die :=
  { d with old := d.old ++ (ts.map (fun t => { t with count := 0 })).filter (fun t => !d.old.contains t) }

/-- A leaf entry found by a walk, as a TLB entry of a device context. -/
def tlbEntry (dc va : Nat) (e : Word) (lvl : Nat) : TlbEntry := ⟨dc, va / leafSpan lvl * (leafSpan lvl / 65536), lvl, e, 0⟩

/-- The translation of an address has been used by core h without entering its TLB: an access may be on its way through it (R344). -/
def State.retain (s : State) (h va : Nat) : State :=
  match s.translate h va with
  | .leaf e lvl => s.modDie (hdie h) (fun d => d.retired [tlbEntry (s.dctxOf h) va e lvl])
  | _ => s

/-- A translation is used: the core's and the die's TLB hold the entry (the newest first, 32 and 4,096 at most), and a mode-11
access counts, recording a MIGRATE notice at the threshold (R343, R352). -/
def State.noteUse (s : State) (h k va acc : Nat) : State :=
  match s.translate h va with
  | .leaf e lvl =>
    let dn := hdie h
    let d := s.die dn
    let dc := s.dctxOf h
    let vpn := va / leafSpan lvl * (leafSpan lvl / 65536)
    let old := d.tlb.find? (fun t => t.covers dc va)
    let cnt : Nat := match old with | some t => t.count | none => 0
    let thr : Nat := (SMap.get d.mthr 0#64 (pteThr e)).toNat % 2 ^ 32
    let hit := pteMode e == 3 && thr != 0 && decide (thr ≤ cnt + 1)
    let cnt' := if pteMode e = 3 then (if hit then 0 else cnt + 1) else 0
    let ent : TlbEntry := ⟨dc, vpn, lvl, e, 0⟩
    let inCore := ent :: (s.core h).tlb
    let inDie := { ent with count := cnt' } :: d.tlb.filter (fun t => !t.covers dc va)
    let known := (s.core h).tlb.any (fun t => t.covers dc va)
    let s1 := s.modCore h (fun c => if known then c else { c with tlb := inCore.take 32 })
    s1.modDie dn (fun d => { d.retired ((if known then [] else inCore.drop 32) ++ inDie.drop 4096) with
      tlb := inDie.take 4096
      faultIn := if hit then d.faultIn ++ [⟨true, dc, va / 65536, acc, hx h, hy h, k⟩] else d.faultIn })
  | _ => s

/-! ## Permissions (R346, R351) -/

/-- What an access needs. -/
structure Need where
  rd      : Bool := false
  wr      : Bool := false
  fetch   : Bool := false
  /-- An atomic: on a host page only `amo.add`, `swap` and `cas` are permitted (R141); a peer page needs RAP. -/
  atomic  : Bool := false
  hostOk  : Bool := true
  /-- `post` and `nbctl`: apertures 00 and 01 only. -/
  board   : Bool := false
  deriving DecidableEq, Repr

/-- The access field of R351. -/
def Need.acc (n : Need) : Nat := (if n.rd then 1 else 0) + (if n.wr then 2 else 0) + (if n.fetch then 4 else 0)

/-- `finfo` of causes 0x05 to 0x07 (R351). -/
def pageInfo (leaf : Word) (reason lvl acc : Nat) : Word :=
  BitVec.ofNat 64 (leaf.toNat % 65536 * 65536 + reason * 4096 + lvl * 256 + acc)

/-- The lowest PERM reason that fails, 0 when none does (R351). -/
def permReason (e : Word) (n : Need) (sup : Bool) : Nat :=
  if n.rd && !pteR e then 1
  else if n.wr && !pteW e then 2
  else if n.fetch && !pteX e then 3
  else if !sup && !pteUser e then 4
  else if n.atomic && !n.hostOk && pteAp e == 2 then 5
  else if n.board && (pteAp e == 2 || pteAp e == 3) then 6
  else 0

/-- The space of a leaf, for a partition device. -/
def leafSpace (dev : Nat) (e : Word) : Space :=
  match pteAp e with
  | 0 => .device (pteMode e)
  | 1 => .near (pteMode e)
  | 2 => .host (pteMode e) dev
  | _ => .peer (pteMode e) dev

/-- The location key of a leaf's byte. -/
def leafKey (e : Word) (lvl va : Nat) : Nat :=
  match pteAp e with
  | 0 | 1 => leafPa e lvl va
  | 2 => hostKey (leafPa e lvl va)
  | _ => peerKey (ptePeer e) (leafPa e lvl va)

/-- Translation and permission of one byte, as step 5 of R175. -/
def State.global (s : State) (va : Nat) (n : Need) : Except Stop Loc :=
  let w := BitVec.ofNat 64 va
  if s.now.defer && !s.tlbHit s.now.h va then .error (.wait (.walk va n.acc))
  else match s.translate s.now.h va with
  | .miss lvl => .error (.park w (pageInfo 0 0 lvl n.acc) va n.acc)
  | .fatal lvl e => .error (.trap .pageFatal w (pageInfo e 1 lvl n.acc))
  | .mchk pa => .error (.trap .mchk (BitVec.ofNat 64 pa) 6#64)
  | .hole pa => .error (.fault (.noSuchPhysical pa))
  | .leaf e lvl =>
    let r := permReason e n s.cur.supervisor
    if r ≠ 0 then .error (.trap .perm w (pageInfo e r lvl n.acc))
    else if n.atomic && pteAp e == 3 && !pteRap e then .error (.trap .rap w (pageInfo e 1 lvl n.acc))
    else .ok ⟨leafSpace s.myDev e, leafKey e lvl va⟩

/-- Where an access of n bytes goes, all on one page or in one window row (R270 steps 3 to 5). -/
def State.locate (s : State) (va n : Nat) (need : Need) : Except Stop Loc :=
  if NW ≤ va then do
    let (h, off) ← s.nearLoc va n
    s.checkBuf h off n va need.wr
    .ok ⟨.local_ h, localKey h off⟩
  else if NW < va + n then .error (windowAt (BitVec.ofNat 64 va))
  else s.global va need

/-- The space is global. -/
def Space.isGlobal : Space → Bool
  | .local_ _ => false
  | _ => true

/-- Bookkeeping of a translation used for an access at `va` (nothing for the near window). -/
def State.used (s : State) (va : Nat) (need : Need) : State :=
  if NW ≤ va then s else s.noteUse s.now.h s.now.k va need.acc

end Sys2Proof.Machine
end

