-- ==== Sys2Proof/Machine/Memory.lean ====
section
/-! DEFINITION. The ordering machine of R127 .. R140: reading and writing at points of coherence, the L1, the post queue and the
core path, and the conditions under which a load, a write or an atomic may take its step. -/

namespace Sys2Proof.Machine

/-! ## The event log (R426) -/

/-- A record is written and `logw` advances. -/
def State.logEvent (s : State) (type source : Nat) (addr detail : Word) : State :=
  let r : LogRec :=
    ⟨BitVec.ofNat 64 (source * 2 ^ 32 + s.logw % 2 ^ 24 * 256 + type), addr, detail,
      SMap.get s.dclk 0#64 0⟩
  { s with log := SMap.put s.log (s.logw % 1024) r, logw := s.logw + 1 }

/-! ## Points of coherence (R22, R128) -/

/-- The partition device that holds copies of this space's lines as points of coherence: mode 10 on host and peer pages. -/
def Space.copied : Space → Option Nat
  | .host 2 dev | .peer 2 dev => some dev
  | _ => none

/-- The key of a device copy. -/
def copyKey (dev line : Nat) : Nat := dev * 2 ^ 64 + line

/-- Byte i of a line. -/
def lineByte (l : BitVec 512) (i : Nat) : Byte := l.extractLsb' (8 * i) 8
/-- Byte i of a line replaced. -/
def setLineByte (l : BitVec 512) (i : Nat) (b : Byte) : BitVec 512 :=
  BitVec.ofNat 512 (l.toNat - (lineByte l i).toNat * 2 ^ (8 * i) + b.toNat * 2 ^ (8 * i))

/-- The line at the owner. -/
def State.rawLine (s : State) (line : Nat) : BitVec 512 := BitVec.ofNat 512 (leNat (s.rawBytes (line * 64) 64))

/-- The device copy of a location's line, if the device holds one. -/
def State.devCopy (s : State) (sp : Space) (a : Nat) : Option (BitVec 512) :=
  match sp.copied with
  | some d =>
    if SMap.has s.devLines (copyKey d (a / 64)) then some (SMap.get s.devLines 0#512 (copyKey d (a / 64))) else none
  | none => none

/-- A byte at its point of coherence. -/
def State.pocByte (s : State) (sp : Space) (a : Nat) : Byte :=
  match s.devCopy sp a with
  | some l => lineByte l (a % 64)
  | none => s.rawByte a

/-- A byte written at its point of coherence; the first write to a mode-10 line takes the device copy. -/
def State.setPoc (s : State) (sp : Space) (a : Nat) (b : Byte) : State :=
  match sp.copied with
  | some d =>
    let l := (s.devCopy sp a).getD (s.rawLine (a / 64))
    { s with devLines := SMap.put s.devLines (copyKey d (a / 64)) (setLineByte l (a % 64) b) }
  | none => s.setRaw a b

/-- Bytes at a point of coherence. -/
def State.pocBytes (s : State) (sp : Space) (a : Nat) : Nat → List Byte
  | 0 => []
  | n + 1 => s.pocByte sp a :: s.pocBytes sp (a + 1) n
/-- Bytes written at a point of coherence. -/
def State.setPocs (s : State) (sp : Space) (a : Nat) : List Byte → State
  | [] => s
  | b :: bs => (s.setPoc sp a b).setPocs sp (a + 1) bs

/-- The line at its point of coherence. -/
def State.pocLine (s : State) (sp : Space) (line : Nat) : BitVec 512 := BitVec.ofNat 512 (leNat (s.pocBytes sp (line * 64) 64))

/-- A device copy is taken for a read through mode 10 (R128). -/
def State.takeCopy (s : State) (sp : Space) (a : Nat) : State :=
  match sp.copied with
  | some d =>
    if (s.devCopy sp a).isNone then
      { s with devLines := SMap.put s.devLines (copyKey d (a / 64)) (s.rawLine (a / 64)) } else s
  | none => s

/-- The L1 may hold lines of this space: modes 00 and 10 of global memory (R22, R23); on host and peer pages only mode 10. -/
def Space.l1able : Space → Bool
  | .device m | .near m => m == 0 || m == 2
  | .host m _ | .peer m _ => m == 2
  | .local_ _ => false

/-- A copy that the own L1 holds of the line takes the byte, and is as new there as any context has read (R134). -/
def Core.l1Write (c : Core) (a : Nat) (b : Byte) : Core :=
  if SMap.has c.l1 (a / 64) then
    { c with
      l1 := SMap.put c.l1 (a / 64) (setLineByte (SMap.get c.l1 0#512 (a / 64)) (a % 64) b)
      newer := c.newer.filter (fun p => p.2 != a) }
  else c

/-- Where an uncorrectable error of a location lies when it is not its owner's memory: its line in the LLC, or in the L1 of core h
(R425). -/
def llcKey (a : Nat) : Nat := 2 ^ 90 + a
def l1Key (h a : Nat) : Nat := 2 ^ 100 * (h + 1) + a

/-- Granules of [a, a + n) that a write replaces whole no longer hold an uncorrectable error. -/
def unpoisoned (m : SMap Bool) (a n : Nat) : SMap Bool :=
  m.filter (fun p => !(decide (a ≤ 8 * p.1) && decide (8 * p.1 + 8 ≤ a + n)))
/-- The same in memory and the LLC. -/
def State.unpoison (s : State) (a n : Nat) : State := { s with poison := unpoisoned (unpoisoned s.poison a n) (llcKey a) n }

/-- A write performs at its point of coherence. -/
def State.putPoc (s : State) (sp : Space) (a : Nat) (bs : List Byte) : State := (s.setPocs sp a bs).unpoison a bs.length

/-- A write of core h performs at its point of coherence and updates the own L1 copy (R134). -/
def State.perform (s : State) (h : Nat) (loc : Loc) (bs : List Byte) : State :=
  let s1 := s.putPoc loc.space loc.at_ bs
  if loc.space.isGlobal then
    ({ s1 with poison := unpoisoned s1.poison (l1Key h loc.at_) bs.length } : State).modCore h (fun c =>
      (bs.foldl (fun (p : Core × Nat) b => (p.1.l1Write p.2 b, p.2 + 1)) (c, loc.at_)).1)
  else s1

/-- The whole L1 is invalidated (R23). -/
def State.dropL1 (s : State) (h : Nat) : State := s.modCore h (fun c => { c with l1 := [] })

/-- An acquire at scope v has been satisfied (R136). -/
def State.acquired (s : State) (h : Nat) (v : Word) : State := if beyondCore v then s.dropL1 h else s

/-! ## What a core and a context see (R133, R135) -/

/-- The newest byte that these writes (oldest first) leave at a location. -/
def newest (ws : List (Nat × List Byte)) (a : Nat) : Option Byte :=
  ws.foldl (fun acc w => if w.1 ≤ a ∧ a < w.1 + w.2.length then w.2[a - w.1]? else acc) none

/-- The writes in the core path. -/
def Core.pathWrites (c : Core) : List (Nat × List Byte) := c.path.map (fun w => (w.loc.at_, w.b))
/-- The writes in the post queue. -/
def postWrites (es : List PEntry) : List (Nat × List Byte) :=
  es.filterMap (fun e => match e.kind with | .store b => some (e.loc.at_, b) | _ => none)

/-- A byte as a load of a context of core h sees it, with `es` the earlier entries of its post queue. -/
def State.seeByte (s : State) (h : Nat) (es : List PEntry) (sp : Space) (a : Nat) : Byte :=
  match newest (postWrites es) a with
  | some b => b
  | none =>
    match newest (s.core h).pathWrites a with
    | some b => b
    | none => s.pocByte sp a

/-- Bytes as a load sees them. -/
def State.seeBytes (s : State) (h : Nat) (es : List PEntry) (sp : Space) (a : Nat) : Nat → List Byte
  | 0 => []
  | n + 1 => s.seeByte h es sp a :: s.seeBytes h es sp (a + 1) n

/-- Bytes as the executing context sees them. -/
def State.look (s : State) (loc : Loc) (n : Nat) : List Byte := s.seeBytes s.now.h s.cur.post loc.space loc.at_ n
/-- The little-endian number of those bytes. -/
def State.lookNat (s : State) (loc : Loc) (n : Nat) : Nat := leNat (s.look loc n)

/-- The bytes of [a, a + n) at their point of coherence that differ from the L1's copy of their line. -/
def State.aheadOf (s : State) (c : Core) (loc : Loc) (n : Nat) : List Nat :=
  (List.range n).filterMap (fun i =>
    let a := loc.at_ + i
    if SMap.has c.l1 (a / 64) && lineByte (SMap.get c.l1 0#512 (a / 64)) (a % 64) != s.pocByte loc.space a then some a else none)

/-- The newest write to a byte in the core path, when no write of the own post queue is nearer. -/
def Core.pathByte (c : Core) (es : List PEntry) (a : Nat) : Option CWrite :=
  if (newest (postWrites es) a).isSome then none
  else c.path.reverse.find? (fun w => decide (w.loc.at_ ≤ a) && decide (a < w.loc.at_ + w.b.length))

/-- The writes of other contexts in the core path that a load of [a, a + n) by context k reads. -/
def Core.readsOf (c : Core) (k : Nat) (es : List PEntry) (a n : Nat) : List CWrite :=
  (((List.range n).filterMap (fun i => c.pathByte es (a + i))).filter (fun w => w.k != k)).eraseDups

/-- Context k of core h has read [a, a + n) under the nearer writes for instruction `id`: writes of other contexts that it read from
the core path come before its later releases (R137). -/
def State.pathRead (s : State) (h k id : Nat) (es : List PEntry) (a n : Nat) : State :=
  s.modCore h (fun c => { c with seen := c.seen ++ (c.readsOf k es a n).map (fun w => ⟨k, id, w⟩) })

/-- The same with memory read at the point of coherence: bytes newer than the L1's copy are not read from that copy afterwards
(R133). -/
def State.hasRead (s : State) (h k id : Nat) (es : List PEntry) (loc : Loc) (n : Nat) : State :=
  (s.pathRead h k id es loc.at_ n).modCore h (fun c => { c with
    newer := c.newer ++ (if loc.space.isGlobal then (s.aheadOf c loc n).map (fun a => (k, a)) else []) })

/-! ## Failing data (R378, R409, R425) -/

/-- The peer of a peer-memory location. -/
def locPeer (a : Nat) : Nat := (a - 2 ^ 60) / 2 ^ 52

/-- The lanes of a Stolrus link. -/
def State.lanesOf (s : State) (l : Nat) : Nat := (SMap.get s.links {} l).lanes

/-- The link that carries packets to peer p, if it is routed: its primary link, or the alternate one when that is down (R378, R379,
R383). -/
def State.peerLink (s : State) (p : Nat) : Option Nat :=
  let r := s.ctlReg (routeAddr p)
  if !s.routed p then none
  else if s.lanesOf (bits r 4 0) ≠ 0 then some (bits r 4 0)
  else if r.getLsbD 15 && s.lanesOf (bits r 12 8) != 0 then some (bits r 12 8)
  else none

/-- This panel has no number, no link to peer p is up, or the peer refuses (R378, R379, R383). -/
def State.peerRefuses (s : State) (p : Nat) (atomic : Bool) : Bool :=
  let deny := SMap.get s.peerDeny 0 p
  !(s.ctlReg peeridAddr).getLsbD 8 || (s.peerLink p).isNone || deny % 2 == 1 || (atomic && deny / 2 % 2 == 1)

/-- An access to a peer's memory ends as a refusal: this panel has no number, or its line is no device copy and the peer, or the way to
it, refuses (R378, R379). -/
def State.refuses (s : State) (loc : Loc) (atomic : Bool) : Bool :=
  match loc.space with
  | .peer _ _ =>
    !(s.ctlReg peeridAddr).getLsbD 8 || ((s.devCopy loc.space loc.at_).isNone && s.peerRefuses (locPeer loc.at_) atomic)
  | _ => false

/-- The partition device of a die; the home die of a location in device memory, or of its device copy. -/
def State.locHome (s : State) (dev : Nat) (loc : Loc) : Nat :=
  match loc.space with
  | .device _ => s.homeDie dev loc.at_
  | .near _ => (loc.at_ - nearBase 0) / 0x4000_0000
  | .host _ _ => s.homeDie dev (loc.at_ - 2 ^ 52)
  | .peer _ _ => s.homeDie dev ((loc.at_ - 2 ^ 60) % 2 ^ 52)
  | .local_ h => hdie h

/-- A location's line is homed where it cannot be reached: lines of device memory, and the device copies of mode-10 lines (R409). -/
def State.unreachable (s : State) (dev : Nat) (loc : Loc) : Bool :=
  match loc.space with
  | .device _ | .host 2 _ | .peer 2 _ => s.homeLost dev (s.locHome dev loc)
  | _ => false

/-- The first byte of [a, a + n) of a location whose line cannot be reached. -/
def State.lostByte (s : State) (dev : Nat) (loc : Loc) (n : Nat) : Option Nat :=
  (List.range n).find? (fun i => (i == 0 || (loc.at_ + i) % 64 == 0) && s.unreachable dev { loc with at_ := loc.at_ + i })

/-- The MCHK source of an uncorrectable error at a byte of memory (R425): its line in the LLC, or its owner's memory. -/
def State.badByte (s : State) (loc : Loc) : Option Nat :=
  if SMap.get s.poison false (llcKey loc.at_ / 8) then some 3
  else if SMap.get s.poison false (loc.at_ / 8) then some (match loc.space with | .local_ _ => 1 | .near _ => 3 | _ => 4)
  else none

/-- Why the data at a location cannot be delivered: the MCHK source (R425), with the failing location. -/
def State.dataError (s : State) (dev : Nat) (loc : Loc) (n : Nat) (atomic : Bool) : Option (Nat × Nat) :=
  if s.refuses loc atomic then some (5, loc.at_)
  else match s.lostByte dev loc n with
    | some i => some (3, loc.at_ + i)
    | none => (List.range n).findSome? (fun i =>
        (s.badByte { loc with at_ := loc.at_ + i }).map (fun src => (src, loc.at_ + i)))

/-- A unit's write of n bytes at a location cannot be made: a line cannot be reached, or the peer refuses (R378, R409). -/
def State.writeLost (s : State) (dev : Nat) (loc : Loc) (n : Nat) : Bool := (s.lostByte dev loc n).isSome || s.refuses loc false

/-- Every line of an access can be reached, or the instruction raises MCHK (R409). -/
def State.checkHome (s : State) (va : Nat) (loc : Loc) (n : Nat) : Except Stop Unit :=
  match s.lostByte s.myDev loc n with
  | none => .ok ()
  | some i => .error (.trap .mchk (BitVec.ofNat 64 (va + i)) 3#64)

/-- The data of an access may be consumed, or the instruction raises MCHK (R425). -/
def State.checkData (s : State) (va : Nat) (loc : Loc) (n : Nat) (atomic : Bool) : Except Stop Unit :=
  match s.dataError s.myDev loc n atomic with
  | none => .ok ()
  | some (src, a) => .error (.trap .mchk (BitVec.ofNat 64 (va + (a - loc.at_))) (BitVec.ofNat 64 src))

/-! ## Places and destinations (R141, R376, R377) -/

/-- Where an atomic is performed: on the bytes' own point of coherence (a core's ALU, a home sync engine, the host, a peer), or on
the sync copy of a die. -/
inductive Place where
  | owner
  | copy (d : Nat)
  deriving DecidableEq, Repr

/-- The die of a rectangle that lies within one die. -/
def rectDie (v : Word) : Option Nat :=
  let (x0, y0, x1, y1) := scopeRect v
  if dieAt x0 y0 = dieAt x1 y1 then some (dieAt x0 y0) else none

/-- The place of an atomic of core h on a location at a scope (R141). -/
def placeOf (h : Nat) (sp : Space) (v : Word) : Place :=
  match sp with
  | .device m | .near m =>
    if m = 1 ∨ m = 3 then .owner
    else match scopeKind v with
      | 0 => (match rectDie v with | some d => .copy d | none => .owner)
      | 1 | 2 => .copy (hdie h)
      | _ => .owner
  | _ => .owner

/-- The partition devices of the mode (R406). -/
def State.devices (s : State) : Nat :=
  match s.pmode with
  | 0 => 1
  | 1 => 2
  | _ => 64

/-- The I/O die that serves a partition device's host (R412). -/
def State.ioDie (s : State) (dev : Nat) : Nat :=
  match s.pmode with
  | 0 => 0
  | 1 => dev
  | _ => dev % 8

/-- Where a request of partition device `dev` goes in the fabric: a die, an I/O die (64 + i), a peer (128 + p), or a core of the own
cluster. -/
def State.destination (s : State) (dev : Nat) (p : Place) (loc : Loc) : Nat :=
  match p, loc.space with
  | .copy d, _ => d
  | .owner, .host _ _ => 64 + s.ioDie dev
  | .owner, .peer _ _ => 128 + locPeer loc.at_
  | .owner, .local_ h => 1024 + h
  | .owner, _ => s.locHome dev loc

/-- Where a requester's operation is performed: requests from outside go to the home (R141). -/
def Part.place (p : Part) (loc : Loc) : Place :=
  match p.from_ with
  | .core => placeOf p.h loc.space p.scope
  | _ => .owner

/-- The partition device whose memory holds a physical address. -/
def State.outsideDev (s : State) (a : Nat) : Nat :=
  ((List.range s.devices).find? (fun d => let m := s.devMem d; decide (m.1 ≤ a ∧ a < m.1 + m.2))).getD 0

/-- The partition device on whose behalf a request is made. -/
def State.partDev (s : State) (p : Part) (loc : Loc) : Nat :=
  match p.from_ with
  | .core => s.devOf (hdie p.h)
  | _ => s.outsideDev loc.at_

/-- A request's destination. -/
def State.reqDest (s : State) (r : Req) : Option Nat := r.parts.head?.map (fun p => s.destination (s.partDev p r.loc) (p.place r.loc) r.loc)

/-- Core h sent no request to this destination, for an instruction before `id`, that is still in the fabric: one source's requests to
one destination arrive in the order they were sent (R377). -/
def State.clearTo (s : State) (h id dest : Nat) : Bool :=
  s.reqs.all (fun r => s.reqDest r != some dest || r.parts.all (fun p => p.from_ != .core || p.h != h || decide (id ≤ p.id)))

/-- The same for an access to a location at its owner. -/
def State.clearFor (s : State) (h id : Nat) (loc : Loc) : Bool :=
  s.reqs == [] || s.clearTo h id (s.destination (s.devOf (hdie h)) .owner loc)

/-! ## Refused writes -/

/-- A write to a peer that is refused is discarded, REFUSED is set and a record is logged (R378). -/
def State.refusedWrite (s : State) (h k : Nat) (loc : Loc) : State :=
  (s.modCtx h k (fun c => { c with atomstat := c.atomstat ||| 4#64 })).logEvent 1 (hdie h) (BitVec.ofNat 64 (loc.at_ % 2 ^ 52)) 0

/-- A write performs at its point of coherence, or is discarded when its peer refuses it. -/
def State.performOrRefuse (s : State) (h k : Nat) (loc : Loc) (bs : List Byte) : State :=
  if s.refuses loc false then s.refusedWrite h k loc else s.perform h loc bs

/-! ## Ordering conditions (R134, R136, R138) -/

/-- A core that is held out: an access to an image waits until the peer is restored (R21). -/
def Space.held : Space → Bool
  | .local_ h => decide (65536 ≤ h)
  | _ => false

/-- The byte ranges an atomic covers, the first at its own location. -/
def AtomicOp.ranges (op : AtomicOp) (a : Nat) : List (Nat × Nat) :=
  match op with
  | .rmw _ w _ => [(a, w)]
  | .post _ _ _ v0 v1 sl => [(a, 64), (v0, 64), (v1, 64), (sl, 8)]
  | .nbctl _ v0 v1 => [(a, 64), (v0, 64), (v1, 64)]

/-- The byte ranges an entry covers. -/
def PEntry.ranges (e : PEntry) : List (Nat × Nat) :=
  match e.kind with
  | .load n _ => [(e.loc.at_, n)]
  | .store b => [(e.loc.at_, b.length)]
  | .atomic op _ | .sent op _ | .acked op _ => op.ranges e.loc.at_
  | .tagged _ => [(e.loc.at_, 8)]
  | .later n => [(e.loc.at_, n)]
  | .sparse _ n more => (e.loc.at_, n) :: more
  | .fence | .bacq => []

/-- Two byte ranges share a byte. -/
def overlap (a n b m : Nat) : Bool := decide (a < b + m) && decide (b < a + n)

/-- The entry's bytes overlap [a, a + n). -/
def PEntry.hits (e : PEntry) (a n : Nat) : Bool := e.ranges.any (fun r => overlap r.1 r.2 a n)
/-- The entry's bytes overlap one of the ranges. -/
def PEntry.hitsAny (e : PEntry) (rs : List (Nat × Nat)) : Bool := rs.any (fun r => e.hits r.1 r.2)

/-- The entry is a load that is satisfied. -/
def PEntry.satisfied (e : PEntry) : Bool :=
  match e.kind with
  | .load _ (some _) => true
  | _ => false
/-- The entry is a load that is not satisfied yet. -/
def PEntry.openLoad (e : PEntry) : Bool :=
  match e.kind with
  | .load _ none | .sparse _ _ _ => true
  | _ => false
/-- The entry writes memory or is an atomic. -/
def PEntry.writes (e : PEntry) : Bool :=
  match e.kind with
  | .store _ | .atomic _ _ | .sent _ _ | .acked _ _ | .tagged _ | .later _ => true
  | .sparse wr _ _ => wr
  | _ => false
/-- An acquire that is not satisfied. -/
def PEntry.openAcquire (e : PEntry) : Bool :=
  semAcq e.sem && (match e.kind with | .store _ => false | .load _ (some _) => false | _ => true)

/-- A fence that has not completed: an earlier one bars writes and atomics, so that a release fence and a later relaxed store act
as a release (R138). -/
def PEntry.isFence (e : PEntry) : Bool := match e.kind with | .fence => true | _ => false

/-- A release at scope v must carry a write to this space to its point of coherence (R130). -/
def carries (v : Word) (sp : Space) : Bool :=
  match scopeKind v, sp with
  | 0, .local_ _ | 0, .device _ | 0, .near _ => true
  | 3, .peer _ _ => false
  | 3, _ => true
  | 4, _ => true
  | _, _ => false

/-- R134's release condition: with `es` the earlier entries of the context's post queue and `ws` the writes of the context in
the core path, every earlier load is satisfied, every `bacq` granted, and every earlier write and atomic has performed where the scope requires. -/
def releaseOk (es : List PEntry) (ws : List CWrite) (v : Word) : Bool :=
  es.all (fun e => !e.openLoad && e.kind != .bacq && !(e.writes && (carries v e.loc.space || scopeKind v == 2))) &&
    ws.all (fun w => !carries v w.loc.space)

/-- The writes in its core's path that come before releases of context k: its own, and those of other contexts that a load of it
has read, under the number of the load's instruction (R134, R137). -/
def Core.pathOf (c : Core) (k : Nat) : List CWrite :=
  c.path.filter (fun w => w.k == k) ++
    (c.seen.filter (fun x => x.k == k && c.path.contains x.w)).map (fun x => { x.w with id := x.id })

/-- The release condition for the executing context's next access. -/
def State.canRelease (s : State) (v : Word) : Bool := releaseOk s.cur.post (s.me.pathOf s.now.k) v

/-- An earlier entry that a load of its bytes waits for: a load that is not satisfied, or an atomic or tagged operation. -/
def PEntry.barsLoad (e : PEntry) : Bool := e.openLoad || (e.writes && (postWrites [e]).isEmpty)

/-- Every load of an instruction is satisfied, so that no trap of it is to come and what it writes may be seen (R425). -/
def settled (es : List PEntry) (id : Nat) : Bool := es.all (fun x => x.id != id || !x.openLoad)

/-- Entry x of an earlier instruction keeps a load of its bytes waiting, with `es` the entries before the load. -/
def PEntry.blocks (x : PEntry) (es : List PEntry) (id : Nat) : Bool := x.barsLoad || (x.id != id && !settled es x.id)

/-- A load of the executing context may be satisfied now: no earlier acquire is open, on its bytes no earlier load is unsatisfied and no
earlier atomic outstanding, and no earlier request of its core is still on its way to the same place. -/
def State.canLoad (s : State) (loc : Loc) (n : Nat) : Bool :=
  !loc.space.held && s.clearFor s.now.h s.serial loc && s.cur.post.all (fun e => !e.openAcquire && !(e.hits loc.at_ n && e.blocks s.cur.post s.serial))

/-- Such a load that is a part of an instruction's own step at issue: it does not read a write of another context that is still in
the core path (R137). -/
def State.canRead (s : State) (loc : Loc) (n : Nat) : Bool :=
  s.canLoad loc n && s.me.path.all (fun w => w.k == s.now.k || !overlap w.loc.at_ w.b.length loc.at_ n)

/-- A write or atomic of the executing context may take its whole effect now: nothing earlier of the context touches its bytes,
no write of the core to them is in the path, no earlier acquire is open, no earlier request of the core is on its way to the same
place, and the release condition holds if it is a release. -/
def State.canWrite (s : State) (loc : Loc) (n : Nat) (sem : BitVec 2) (v : Word) : Bool :=
  !loc.space.held && s.clearFor s.now.h s.serial loc && s.cur.post.all (fun e => !e.openAcquire && !e.isFence && !e.hits loc.at_ n) &&
    s.me.path.all (fun w => !overlap w.loc.at_ w.b.length loc.at_ n) && (!semRel sem || s.canRelease v)

/-- An entry enters the executing context's post queue (R133). -/
def State.enqueue (s : State) (e : PEntry) : State := s.modCur (fun c => { c with post := c.post ++ [e] })

/-! ## Completing loads -/

/-- Rows of n bytes. -/
def byteRows (n : Nat) (bs : List Byte) : List (List Byte) := chunks n (bs.length / n) bs

/-- The register writes of rows of a tile. -/
def tileWrites (t : TReg) (first : Nat) (rows : List (BitVec 1024)) : List RegWrite :=
  rows.zipIdx.map (fun p => .tile t (first + p.2) p.1)

/-- Long-array elements rounded into rows of a tile (R265). -/
def roundRows (t : TReg) (fmt : Nat) (hi : Bool) (first : Nat) (old : List (BitVec 1024)) (bs : List Byte) : List RegWrite :=
  let accs := (byteRows 64 bs).map (fun e => accOf (leNat e))
  let rows := chunks 32 (accs.length / 32) accs
  tileWrites t first ((rows.zip old).map (fun p => drainRow fmt hi p.2 (p.1.map (fun a => (a.drain (drainFmt fmt)).1))))
    ++ drainFlags (drainFmt fmt) accs

/-- A sparse column applied to 32 INT32 lanes (R250). -/
def columnWrites (n : VReg) (i8 sat : Bool) (q : Int) (table ls : List Int) (bs : List Byte) : List RegWrite :=
  let vals := if i8 then (unpack 8 32 (leNat bs)).map (sLane 8) else (unpack 4 32 (leNat bs)).map (fun c => table.getD c 0)
  let r := List.zipWith (fun d x => fitLane 32 sat (d + q * x)) ls vals
  .v n (ofLanes 32 (r.map Prod.fst)) :: esat (r.any Prod.snd)

/-- The register writes that the bytes of a load make. -/
def Dest.build (d : Dest) (bs : List Byte) : List RegWrite :=
  match d with
  | .g n sgn =>
    [.g n (if sgn then (BitVec.ofNat (8 * bs.length) (leNat bs)).signExtend 64 else BitVec.ofNat 64 (leNat bs))]
  | .f n => [.f n (BitVec.ofNat 32 (leNat bs))]
  | .v n => [.v n (BitVec.ofNat 1024 (leNat bs))]
  | .splat n w => [.v n (ofLanes w (List.replicate (1024 / w) (leNat bs)))]
  | .tile t first => tileWrites t first ((byteRows 128 bs).map (fun r => BitVec.ofNat 1024 (leNat r)))
  | .bank m kind => [.bank m kind bs]
  | .rounded t fmt hi first old => roundRows t fmt hi first old bs
  | .column n i8 sat q table ls => columnWrites n i8 sat q table ls bs
  | .elems _ _ _ | .none => []

/-- The executing context reads parts for an instruction: the device takes its copies of mode-10 lines, and what the context has
read is known. -/
def State.readParts (s : State) (id : Nat) (ps : List (Loc × Nat)) : State :=
  ps.foldl (fun t p => (t.takeCopy p.1.space p.1.at_).hasRead s.now.h s.now.k id s.cur.post p.1 p.2) s

/-- A load of the parts `ps` (location and size, in the order of the destination's bytes) at issue: satisfied at once where the
machine may and the turn does not defer it, else entered into the post queue (R133, R135). -/
def State.loadParts (s : State) (l : BitVec 4) (sem : BitVec 2) (v : Word) (dest : Dest) (ps : List (Loc × Nat)) : State :=
  if !s.now.defer && ps.all (fun p => s.canLoad p.1 p.2) then
    let bs := ps.flatMap (fun p => s.look p.1 p.2)
    let s1 := s.readParts s.serial ps
    (if semAcq sem then s1.acquired s.now.h v else s1).endLong l (dest.build bs)
  else
    (ps.foldl (fun t p => t.enqueue ⟨s.serial, sem, v, p.1, .load p.2 none, 0⟩) s).stay l [] (.loads dest)

/-- A write of the parts `ps` at issue: performed at once where the machine may and the turn does not defer it, else entered
into the post queue; the instruction may complete in either case (R69, R272), unless `p` says what it waits for. -/
def State.storeParts (s : State) (l : BitVec 4) (sem : BitVec 2) (v : Word) (ps : List (Loc × List Byte)) (ws : List RegWrite)
    (p : Pend := .ready) : State :=
  if !s.now.defer && ps.all (fun x => s.canWrite x.1 x.2.length sem v) then
    (ps.foldl (fun t x => t.performOrRefuse s.now.h s.now.k x.1 x.2) s).endLong l ws
  else
    (ps.foldl (fun t x => t.enqueue ⟨s.serial, sem, v, x.1, .store x.2, 0⟩) s).stay l ws p

/-! ## Steps of the post queue and the core path -/

/-- The entries before position i. -/
def Ctx.before (c : Ctx) (i : Nat) : List PEntry := c.post.take i

/-- The outstanding instruction with a serial number changed. -/
def Ctx.modOut (c : Ctx) (id : Nat) (f : Outst → Outst) : Ctx := { c with out := c.out.map (fun o => if o.id = id then f o else o) }

/-- AccAdd of an element of 64 bytes with a value and status (R263). -/
def addElement (x : Nat) (c : Int) (a : Acc) : List Byte := ((accOf x).add c a.nan a.ovfn a.ovfp a.sticky).bytes

/-- One element of `xadd`: the new bytes of the destination element (R264). -/
def xaddElement (sub : Bool) (dst src : Nat) : List Byte :=
  let a := accOf src
  addElement dst (if sub then -a.v else a.v) a

/-- The bytes of satisfied loads. -/
def loadedBytes (es : List PEntry) : List Byte := es.flatMap (fun e => match e.kind with | .load _ (some b) => b | _ => [])

/-- The entry is a load. -/
def PEntry.isLoad (e : PEntry) : Bool := match e.kind with | .load _ _ => true | _ => false

/-- The entries of an `xacc` or `xadd`, element by element the loads of the destination, those of the source, and the writes that
follow from them: an element whose loads are satisfied has its writes known, and its loads leave (R253, R263, R264). An accumulator goes
with its element's place among the core's offsets, which the core's image keeps (R371). -/
def settleElems (base : Nat) (sub : Bool) (accs : List Acc) : Nat → List PEntry → List PEntry
  | 0, es => es
  | fuel + 1, es =>
    match es with
    | [] => []
    | e :: rest =>
      if !e.isLoad then e :: settleElems base sub accs fuel rest
      else
        let n := if accs = [] then 16 else 8
        let ls := es.take n
        let ws := (es.drop n).take 8
        let more := settleElems base sub accs fuel (es.drop (n + 8))
        if ls.all PEntry.satisfied then
          let dst := leNat (loadedBytes (ls.take 8))
          let a := accs.getD ((e.loc.at_ % 2 ^ 17 - base % 2 ^ 17) / 64) {}
          let new := if accs = [] then xaddElement sub dst (leNat (loadedBytes (ls.drop 8))) else addElement dst a.v a
          List.zipWith (fun w b => { w with kind := .store b }) ws (byteRows 8 new) ++ more
        else ls ++ ws ++ more

/-- When every load entry of an instruction is satisfied, its destination's value is known and its entries leave (R135); the
elements of a long array settle one by one. -/
def Ctx.settleLoads (c : Ctx) (id : Nat) : Ctx :=
  let mine := c.post.filter (fun e => e.id == id)
  match (c.out.find? (fun o => o.id == id)).map Outst.pend with
  | some (.loads (.elems base sub accs)) =>
    let es := settleElems base sub accs mine.length mine
    { c with
      post := c.post.takeWhile (fun e => e.id != id) ++ es ++ (c.post.dropWhile (fun e => e.id != id)).filter (fun e => e.id != id)
      out := c.out.map (fun o => if o.id = id ∧ es.all (fun e => !e.isLoad) then { o with pend := .ready } else o) }
  | _ =>
  if mine.all (fun e => e.satisfied) then
    let bs := mine.flatMap (fun e => match e.kind with | .load _ (some b) => b | _ => [])
    { c with
      post := c.post.filter (fun e => e.id != id)
      out := c.out.map (fun o => if o.id = id then
        (match o.pend with | .loads d => { o with writes := o.writes ++ d.build bs, pend := .ready } | _ => o) else o) }
  else c

/-- The entries of instructions before the one with a serial number. -/
def olderThan (id : Nat) (es : List PEntry) : List PEntry := es.filter (fun x => x.id != id)

/-- No acquire of an earlier instruction is open (`es`: the earlier entries). -/
def noAcquire (es : List PEntry) (e : PEntry) : Bool := (olderThan e.id es).all (fun x => !x.openAcquire)

/-- The release condition of an entry, if it is a release: for the accesses of earlier instructions (R134). -/
def relReady (es : List PEntry) (ws : List CWrite) (e : PEntry) : Bool :=
  !semRel e.sem || releaseOk (olderThan e.id es) (ws.filter (fun w => decide (w.id < e.id))) e.scope

/-- A load entry may be satisfied (R135): no earlier acquire is open, and on its bytes no earlier load is unsatisfied and no
earlier atomic outstanding. -/
def loadReady (es : List PEntry) (e : PEntry) : Bool :=
  e.openLoad && !e.loc.space.held && noAcquire es e && es.all (fun x => !(x.hitsAny e.ranges && x.blocks es e.id))

/-- A byte from the L1 copy, under the context's own and the core's writes. -/
def State.seeL1 (s : State) (h : Nat) (es : List PEntry) (a : Nat) : Byte :=
  match newest (postWrites es) a with
  | some b => b
  | none =>
    match newest (s.core h).pathWrites a with
    | some b => b
    | none => lineByte (SMap.get (s.core h).l1 0#512 (a / 64)) (a % 64)

/-- A write may leave the post queue (R134). -/
def leaveReady (es : List PEntry) (ws : List CWrite) (e : PEntry) : Bool :=
  (match e.kind with | .store _ => true | _ => false) && !e.loc.space.held && noAcquire es e &&
    es.all (fun x => !x.isFence && !(x.hitsAny e.ranges && (x.writes || x.openLoad))) && relReady es ws e

/-- An atomic or tagged operation may take its step (R134, R136, R143, R145). -/
def stepReady (es : List PEntry) (ws path : List CWrite) (e : PEntry) : Bool :=
  !e.loc.space.held && noAcquire es e &&
    es.all (fun x => !x.isFence && !(x.hitsAny e.ranges && (x.writes || x.openLoad))) &&
    path.all (fun w => !e.hits w.loc.at_ w.b.length) && relReady es ws e

end Sys2Proof.Machine
end

