-- ==== Sys2Proof/Machine/Gangs.lean ====
section
/-! DEFINITION. Chorus gangs (R99 .. R101, R107): their positions and partner rows, how one dissolves, and what one does in which every
position has joined. -/

namespace Sys2Proof.Machine

/-! ## Gangs -/

/-- The partner row's core. -/
def partnerOf (h : Nat) : Nat := h / 65536 * 65536 + handleOf (hx h) (hy h ^^^ 1)
/-- The position of a core in its chorus (R3). -/
def posOf (h : Nat) : Nat := hx h % 32

/-- `finfo` of GANG (R101). -/
def gangInfo (mask : BitVec 32) (pos : Nat) (local_ self maskDiff op : Bool) : Word :=
  BitVec.ofNat 64 (mask.toNat * 2 ^ 32 + pos * 256 + (if local_ then 8 else 0) + (if self then 4 else 0)
    + (if maskDiff then 2 else 0) + (if op then 1 else 0))

/-- Every position of the mask has joined. -/
def Gang.full (g : Gang) : Bool :=
  (List.range 32).all (fun p => !g.mask.getLsbD p || g.members.any (fun m => posOf m.h == p))

/-- GANG on every member of a gang, which dissolves: `pos` none means each member's own position (R100, R101). -/
def State.dissolve (s : State) (g : Gang) (pos : Option Nat) (local_ maskDiff op : Bool) : State :=
  let s1 : State := { s with gangs := s.gangs.filter (fun x => x.id != g.id) }
  g.members.foldl (fun t m =>
    let pc := (t.ctx m.h m.k).pc
    t.raiseAt m.h m.k m.id Cause.gang.code pc pc 0 (gangInfo g.mask (pos.getD (posOf m.h)) local_ false maskDiff op)) s1

/-- A core is in a forming gang. -/
def State.forming (s : State) (h : Nat) : Bool := s.gangs.any (fun g => g.turn.isNone && g.members.any (fun m => m.h == h))

/-! ## Completion (R100, R107) -/

/-- A member passes its local check: the bank's kind, and the accumulator mode of an accumulating `mma`. -/
def State.localOk (s : State) (g : Gang) (m : GMember) : Bool :=
  let c := s.core m.h
  let kind := pairKind g.pair
  (if kind = 3 then c.bank0.kind == 3 && c.bank1.kind == 3 else (c.bankOf m.b).kind == kind) && (!g.acc || c.accMode == g.red)

/-- The lowest position whose local check fails. -/
def State.badPos (s : State) (g : Gang) : Option Nat :=
  (List.range 32).find? (fun p => g.members.any (fun m => posOf m.h == p && !s.localOk g m))

/-- When every position of a gang had joined: the number of the join that came last (R100). -/
def Gang.joinedAt (g : Gang) : Nat := (g.members.getLast?.map GMember.id).getD 0

/-- A gang that was complete at join `n`: every member's `mma` becomes outstanding, its context goes on, and the gang waits for the row
bus. -/
def State.release (s : State) (g : Gang) (n : Nat) : State :=
  let s1 : State := { s with gangs := s.gangs.map (fun x => if x.id = g.id then { x with turn := some n } else x) }
  g.members.foldl (fun t m => t.modCtx m.h m.k (fun c =>
    { (c.push ⟨m.id, c.pc, m.l.toNat, m.uses, [], .planes⟩).advance m.len with state := .ready })) s1

/-- The partner row is a chorus of the gang's launch. -/
def State.hasPartner (s : State) (g : Gang) : Bool :=
  match g.members with
  | m :: _ => s.liveFor (s.core m.h) (partnerOf m.h)
  | [] => false

/-- A forming gang by its number. -/
def State.formingGang (s : State) (id : Nat) : Option Gang := s.gangs.find? (fun g => g.id == id && g.turn.isNone)

/-- The launch of a gang's cores. -/
def State.gangLaunch (s : State) (g : Gang) : Option Nat := g.members.head?.bind (fun m => (s.core m.h).launch)

/-- The partner gang of a gang of which one is redundant: the same mask in the partner row of the launch, complete (R107). -/
def State.partnerGang (s : State) (g : Gang) : Option Gang :=
  s.gangs.find? (fun p => p.chorus == g.chorus ^^^ 1 && p.turn.isNone && (p.red || g.red) && p.mask == g.mask && p.full
    && s.gangLaunch p == s.gangLaunch g)

/-- The lowest position of a gang's mask. -/
def Gang.lowest (g : Gang) : Option Nat := (List.range 32).find? (fun p => g.mask.getLsbD p)

/-- What a gang in which every position has joined does: nothing while it waits for its partner row. -/
def State.gangStep (s : State) (g : Gang) : Option State :=
  if !g.full then none
  else if g.red && !s.hasPartner g then some (s.dissolve g g.lowest true false false)
  else match s.badPos g with
    | some p => some (s.dissolve g (some p) true false false)
    | none =>
      match s.partnerGang g with
      | none => if g.red then none else some (s.release g g.joinedAt)
      | some p =>
        if p.pair ≠ g.pair ∨ p.acc ≠ g.acc ∨ p.red ≠ g.red then some ((s.dissolve g none false false true).dissolve p none false false true)
        else match s.badPos p with
          | some _ => none
          | none =>
            let n := max g.joinedAt p.joinedAt
            some ((s.release g n).release p n)

/-- When a gang was complete: of a redundant pair, when its later gang was (R100, R107); none for one that is not. -/
def State.completeAt (s : State) (g : Gang) : Option Nat :=
  match g.turn with
  | some n => some n
  | none =>
    if !g.full then none
    else match s.partnerGang g with
      | some p => some (max g.joinedAt p.joinedAt)
      | none => if g.red then none else some g.joinedAt

end Sys2Proof.Machine
end

