-- ==== Sys2Proof/Machine/TaskUnit.lean ====
section
/-! DEFINITION. Declared-buffer transitions (R57), the task deque and the task dispatcher (R72 .. R74), and how a context starts
(R10). -/

namespace Sys2Proof.Machine

/-! ## Buffers (R57) -/

/-- A wait after a round of refusals ends when the own deque or inbox changes (R77). -/
def Core.stir (c : Core) : Core := match c.steal with | .round _ => { c with steal := .next 0 } | _ => c

/-- A descriptor replaced. -/
def Core.setBuf (c : Core) (i : Nat) (b : Buf) : Core := { c with bufs := SMap.put c.bufs i b }
/-- Every descriptor changed. -/
def Core.mapBufs (c : Core) (f : Buf → Buf) : Core :=
  { c with bufs := c.bufs.map (fun p => (p.1, f p.2)) }

/-- `done` of context k releases the buffers it owns: EMPTY and DRAINING become EMPTY with owner none (R57). -/
def Core.releaseBufs (c : Core) (k : Nat) : Core :=
  c.mapBufs (fun b => if (b.state = 1 ∨ b.state = 4) ∧ b.owner = k then { b with state := 1, owner := 0x1F } else b)

/-- The phase of the barrier at a local offset completes: bound FILLING buffers become FULL with owner none (R57, R122). -/
def Core.fillBound (c : Core) (off : Nat) : Core :=
  c.mapBufs (fun b => if b.state = 2 ∧ b.bv ∧ b.barrier * 16 = off then { b with state := 3, owner := 0x1F, byPhase := true } else b)

/-! ## Barriers (R121, R122) -/

/-- A barrier's fields. -/
structure Barrier where
  phase    : Nat
  arrivals : Nat
  sectors  : Nat
  reload   : Nat
  deriving DecidableEq, Repr

/-- The fields of 128 bits; the reserved bits are kept apart. -/
def readBarrier (n : Nat) : Barrier := ⟨n % 16, n / 2 ^ 16 % 2 ^ 20, n / 2 ^ 36 % 2 ^ 28, n / 2 ^ 64 % 2 ^ 20⟩
/-- The reserved bits of 128 bits. -/
def barrierRest (n : Nat) : Nat := n - n % 2 ^ 84 + n % 2 ^ 16 - n % 16
/-- The 128 bits of the fields, over reserved bits. -/
def Barrier.word (b : Barrier) (rest : Nat) : Nat :=
  rest + b.reload * 2 ^ 64 + b.sectors * 2 ^ 36 + b.arrivals * 2 ^ 16 + b.phase

/-- Credits of n sectors. -/
def Barrier.credits (b : Barrier) (n : Nat) : Barrier := { b with sectors := (b.sectors + 2 ^ 28 - n % 2 ^ 28) % 2 ^ 28 }
/-- An arrival that expects n bytes. -/
def Barrier.arrive (b : Barrier) (n : Nat) : Barrier :=
  { b with
    sectors := (b.sectors + n / 32) % 2 ^ 28
    arrivals := if b.arrivals = 0 then 0xF_FFFF else b.arrivals - 1 }
/-- Arrivals and sectors are both zero. -/
def Barrier.over (b : Barrier) : Bool := b.arrivals == 0 && b.sectors == 0
/-- Completion of the phase. -/
def Barrier.complete (b : Barrier) : Barrier := { b with phase := (b.phase + 1) % 16, arrivals := b.reload }

/-- The 128 bits of a barrier of core h. -/
def State.barrierAt (s : State) (h off : Nat) : Nat := leNat (s.rawBytes (localKey h off) 16)
/-- The 128 bits written. -/
def State.setBarrier (s : State) (h off n : Nat) : State := s.putPoc (.local_ h) (localKey h off) (leBytes 16 n)

/-- A change's effect on the fields. -/
def BarChange.apply (x : BarChange) (b : Barrier) : Barrier := if x.arrival then b.arrive x.n else b.credits x.n

/-- A list of offsets with one more. -/
def withOff (off : Nat) (l : List Nat) : List Nat := l.filter (fun o => o != off) ++ [off]

/-- A credit or an arrival is applied to its barrier of core h, which is in use from then on; an arrival that finds arrivals at zero
leaves it stuck (R122). -/
def State.applyChange (s : State) (h : Nat) (x : BarChange) : State :=
  let n := s.barrierAt h x.off
  let b := readBarrier n
  (s.setBarrier h x.off ((x.apply b).word (barrierRest n))).modCore h (fun c => { c with
    due := withOff x.off c.due
    stuck := if x.arrival && b.arrivals == 0 then withOff x.off c.stuck else c.stuck })

/-- Arrivals and sectors of a barrier of core h are zero; one that arrived beyond zero completes no phase (R122). -/
def State.barrierOver (s : State) (h off : Nat) : Bool := (readBarrier (s.barrierAt h off)).over && !(s.core h).stuck.contains off

/-- The barrier at an offset of core h is tested (R122): a phase that completes makes the bound buffers FULL. -/
def State.phaseStep (s : State) (h off : Nat) : State :=
  let n := s.barrierAt h off
  if s.barrierOver h off then
    (s.setBarrier h off ((readBarrier n).complete.word (barrierRest n))).modCore h (fun c => c.fillBound off)
  else s

/-- A barrier of core h is still in use (DEDUCED, log entry 27): its phase has begun, a declared buffer is bound to it, or an `xbwait`
waits on it. -/
def State.barrierInUse (s : State) (h off : Nat) : Bool :=
  let b := readBarrier (s.barrierAt h off)
  b.arrivals != b.reload || b.sectors != 0 || (s.core h).bufs.any (fun p => p.2.live && p.2.bv && 16 * p.2.barrier == off)
    || s.ctxs.any (fun p => match p.2.state with | .waiting (.xbwait g o _) => g == h % 65536 && o == off | _ => false)

/-- The barrier step of core h (R122): the credits, then the arrivals, then a test of every barrier in use, from its fields as they stand
(R433). -/
def State.barrierStep (s : State) (h : Nat) : State :=
  let q := (s.core h).barq
  let s1 := s.modCore h (fun c => { c with barq := [] })
  let s2 := (q.filter (fun x => !x.arrival) ++ q.filter (fun x => x.arrival)).foldl (fun t x => t.applyChange h x) s1
  let s3 := (s2.core h).due.foldl (fun t off => t.phaseStep h off) s2
  s3.modCore h (fun c => { c with due := c.due.filter (s3.barrierInUse h) })

/-- A credit or an arrival reaches a barrier of core h (R122): the core's next barrier step applies it to the fields as they stand; plain
stores to a barrier in use leave each byte as the last of them or the last count has left it, one of the values of R433 (DESIGN CHOICE, log
entry 27). For a core that is out it updates
the image; the phase that it completes completes on restore, and what comes after it waits for that (R61; DEDUCED, log entry 27). -/
def State.barrierChange (s : State) (h : Nat) (x : BarChange) : State :=
  if h < 65536 ∨ x.off ∈ (s.core h).fills then s.modCore h (fun c => { c with barq := c.barq ++ [x] })
  else
    let t := s.applyChange h x
    if t.barrierOver h x.off then t.modCore h (fun c => { c with fills := c.fills ++ [x.off] }) else t

/-- A core that has come back takes the phase completions that its image held, then what came after them (R61, R372). -/
def State.catchUp (s : State) (h : Nat) : State :=
  let c := s.core h
  let s1 := c.fills.foldl (fun t off => t.phaseStep h off) (s.modCore h (fun c => { c with fills := [], barq := [] }))
  c.barq.foldl (fun t x => (t.applyChange h x).phaseStep h x.off) s1

/-! ## The core cycle (R58) -/

/-- The barrier step of the core cycle, the first thing that happens in it (R58 step 1, R122). -/
def State.openCycle (s : State) (h : Nat) : State :=
  if (s.core h).stepped then s else (s.barrierStep h).modCore h (fun c => { c with stepped := true })

/-! ## Task records (R71) -/

/-- The four slots of a record. -/
def Task.slot (t : Task) (i : Nat) : Nat := bits t.slots (8 * i + 7) (8 * i)
/-- The buffer ids that valid slots name. -/
def Task.bufs (t : Task) : List Nat := ((List.range 4).filter (fun i => 128 ≤ t.slot i)).map (fun i => t.slot i % 32)
/-- Pinned: by its pin bit, or by a valid slot (R72). -/
def Task.pinned (t : Task) : Bool := t.w0.getLsbD 56 || !t.bufs.isEmpty
/-- The entry. -/
def Task.entry (t : Task) : Word := BitVec.ofNat 64 (bits t.w0 51 0)
/-- The record's 32 bytes. -/
def Task.bytes (t : Task) : List Byte :=
  leBytes 8 t.w0.toNat ++ leBytes 8 t.slots.toNat ++ leBytes 8 t.arg0.toNat ++ leBytes 8 t.arg1.toNat

/-- Ripe: every buffer a valid slot names is FULL (R73). -/
def Core.ripe (c : Core) (t : Task) : Bool := t.bufs.all (fun i => (c.buf i).state == 3)

/-! ## Starting contexts (R10) -/

/-- A layer's state. -/
def Core.layer (c : Core) (i : Nat) : Layer := SMap.get c.layers {} i
/-- A layer's state replaced. -/
def Core.setLayer (c : Core) (i : Nat) (l : Layer) : Core := { c with layers := SMap.put c.layers i l }

/-- The designated context of the core's die (R350). -/
def State.designated (s : State) (h k : Nat) : Bool :=
  let v := (s.die (hdie h)).fbsvc
  v.getLsbD 63 && bits v 47 40 == hy h && bits v 39 32 == hx h && bits v 27 24 == k

/-- The top of context k's stack slice, and its base, as near-window addresses (R10, R11). -/
def Core.stackTop (c : Core) (k : Nat) : Word := BitVec.ofNat 64 NW + c.stackbase + BitVec.ofNat 64 (k + 1) * c.stacksize
def Core.stackLow (c : Core) (k : Nat) : Word := BitVec.ofNat 64 NW + c.stackbase + BitVec.ofNat 64 k * c.stacksize

/-- A context starts: registers and per-context CSRs zero but for `g2`, `g3`, `g28` and `g30`; accesses of its former life that
have not performed yet stay in its post queue, and an eft keeps its result word (R10, R203). A handler keeps the vector table entry of its layer (R297). -/
def State.begin (s : State) (h k : Nat) (entry g2 g3 g30 : Word) (byStart : Bool) (layer : Option Nat) : State :=
  let old := s.ctx h k
  let c : Ctx := { pc := entry, state := .ready, post := old.post, result := old.result, byStart := byStart, layer := layer,
                   hentry := match layer with | some i => ((s.core h).layer i).entry | none => 0#64
                   tstat := if s.designated h k then 1#64 else 0#64 }
  s.setCtx h k ((((c.setG 2#5 g2).setG 3#5 g3).setG 28#5 ((s.core h).stackTop k)).setG 30#5 g30)

/-- The lowest-numbered IDLE eft (R74, R221). -/
def State.idleEft (s : State) (h : Nat) : Option Nat :=
  (List.range 10).map (· + 1) |>.find? (fun k => (s.ctx h k).state == .idle)

/-! ## The task dispatcher (R74) -/

/-- Vector table fields (R87). -/
def Layer.pennants (l : Layer) : Nat := bits l.entry 31 24
def Layer.batch (l : Layer) : Nat := bits l.entry 23 20
def Layer.prio (l : Layer) : Nat := bits l.entry 19 18
def Layer.valid (l : Layer) : Bool := l.entry.getLsbD 17
def Layer.stateBuf (l : Layer) : Nat := bits l.entry 12 8

/-- What the dispatcher would start. -/
inductive Startable where
  | slot (t : Task)
  | handler (layer : Nat) (t : Task)
  | deque (i : Nat) (t : Task)
  deriving DecidableEq, Repr

/-- The pending handler task whose state buffer is FULL, of the highest priority, ties to the lower layer (R74). -/
def Core.readyHandler (c : Core) : Option (Nat × Task) :=
  (List.range 64).foldl (fun acc i =>
    let l := c.layer i
    match l.pending with
    | none => acc
    | some t =>
      if !c.ripe t then acc
      else match acc with
        | none => some (i, t)
        | some (j, u) => if (c.layer j).prio < l.prio then some (i, t) else some (j, u)) none

/-- The ripe deque task nearest the bottom. -/
def Core.ripeTask (c : Core) : Option (Nat × Task) :=
  (c.deque.zipIdx.find? (fun p => c.ripe p.1)).map (fun p => (p.2, p.1))

/-- The dispatcher's choice (R74). -/
def Core.choose (c : Core) : Option Startable :=
  match c.slot with
  | some t => some (.slot t)
  | none =>
    match c.readyHandler with
    | some (i, t) => some (.handler i t)
    | none => c.ripeTask.map (fun p => .deque p.1 p.2)

/-- The task starts on eft k: the record is copied to the base of its stack slice, the registers are set, its buffers become
DRAINING and its own, and it leaves where it was held (R74). The start of a stolen task, and of one with a buffer that a phase
completion filled, invalidates the L1 (R126, R149, R296). -/
def State.startTask (s : State) (h k : Nat) (x : Startable) : State :=
  let t := match x with | .slot t => t | .handler _ t => t | .deque _ t => t
  let layer := match x with | .handler i _ => some i | _ => none
  let c := s.core h
  let at_ := (c.stackbase + BitVec.ofNat 64 k * c.stacksize).toNat % 0x2_0000
  let s1 := s.modCore h (fun c =>
    let c := match x with
      | .slot _ => { c with slot := none }
      | .handler i _ => c.setLayer i { c.layer i with pending := none }
      | .deque i _ => { c.stir with deque := c.deque.eraseIdx i }
    t.bufs.foldl (fun c i => c.setBuf i { c.buf i with state := 4, owner := k }) c)
  let s2 := s1.putPoc (.local_ h) (localKey h at_) t.bytes
  let stolen := match x with | .slot _ => true | _ => false
  let s3 := if stolen || t.bufs.any (fun i => (c.buf i).byPhase) then s2.dropL1 h else s2
  s3.begin h k t.entry t.arg0 t.arg1 (c.stackLow k) false layer

/-- The dispatcher has an IDLE eft and something to start. -/
def State.canStart (s : State) (h : Nat) : Bool :=
  (s.core h).launch.isSome && !(s.core h).ended && (s.idleEft h).isSome && (s.core h).choose.isSome

/-- An eft has ended: its buffers are released, its `g2` becomes its result word, and it is IDLE (R78, R203). -/
def State.endEft (s : State) (h k : Nat) : State :=
  let s1 := s.modCore h (fun c => c.releaseBufs k)
  s1.modCtx h k (fun c => { c with state := .idle, result := c.gr 2#5, layer := none, hentry := 0#64, byStart := false })

end Sys2Proof.Machine
end

