-- ==== Sys2Proof/Machine/LoadStore.lean ====
section
/-! DEFINITION. Page 3 loads and stores (R269 .. R273), `pf`, `cinv` and `cwb` (R276 .. R278). -/

namespace Sys2Proof.Machine

/-- Log2 of an access size. -/
def lg : Nat → Nat
  | 1 => 0
  | 2 => 1
  | 4 => 2
  | 8 => 3
  | 16 => 4
  | 32 => 5
  | 64 => 6
  | 128 => 7
  | _ => 11

/-- A scope is checked when the sem is not relaxed (R273). -/
def State.semScope (s : State) (sem : BitVec 2) (xs : Reg) : Except Stop Unit :=
  if sem = 0#2 then .ok () else s.checkScope (s.scopeOf xs)

/-- The checks of R270 for an access of `n` bytes at `va`: where it goes. -/
def State.access (s : State) (sem : BitVec 2) (xs : Reg) (va n acc : Nat) (need : Need) : Except Stop Loc := do
  s.semScope sem xs
  must (va % n == 0) (misalign (BitVec.ofNat 64 va) acc (lg n))
  s.locate va n need

/-- A load of R271 into `dest`. -/
def State.loadMI (s : State) (o : MemOps) (n : Nat) (dest : Dest) : Except Stop State := do
  let va := s.addrMI o.a o.imm n
  let loc ← s.access o.sem o.xs va n 0 { rd := true }
  s.checkData va loc n false
  .ok ((s.used va { rd := true }).loadParts o.l o.sem (s.scopeOf o.xs) dest [(loc, n)])

/-- A store of R271 of the low bytes of a value. -/
def State.storeMI (s : State) (o : MemOps) (n : Nat) (x : Nat) : Except Stop State := do
  let va := s.addrMI o.a o.imm n
  let loc ← s.access o.sem o.xs va n 1 { wr := true }
  s.checkHome va loc n
  .ok ((s.used va { wr := true }).storeParts o.l o.sem (s.scopeOf o.xs) [(loc, leBytes n x)] [])

/-- `ld.b` (R271). -/
def execLdB (o : MemOps) (s : State) : Out := s.run (s.loadMI o 1 (.g o.d false))
/-- `ld.h` (R271). -/
def execLdH (o : MemOps) (s : State) : Out := s.run (s.loadMI o 2 (.g o.d false))
/-- `ld.w` (R271). -/
def execLdW (o : MemOps) (s : State) : Out := s.run (s.loadMI o 4 (.g o.d false))
/-- `ld.d` (R271). -/
def execLdD (o : MemOps) (s : State) : Out := s.run (s.loadMI o 8 (.g o.d false))
/-- `ld.bs` (R271). -/
def execLdBs (o : MemOps) (s : State) : Out := s.run (s.loadMI o 1 (.g o.d true))
/-- `ld.hs` (R271). -/
def execLdHs (o : MemOps) (s : State) : Out := s.run (s.loadMI o 2 (.g o.d true))
/-- `ld.ws` (R271). -/
def execLdWs (o : MemOps) (s : State) : Out := s.run (s.loadMI o 4 (.g o.d true))
/-- `fld` (R271). -/
def execFld (o : MemOps) (s : State) : Out := s.run (s.loadMI o 4 (.f o.d))
/-- `st.b` (R271). -/
def execStB (o : MemOps) (s : State) : Out := s.run (s.storeMI o 1 (s.g o.d).toNat)
/-- `st.h` (R271). -/
def execStH (o : MemOps) (s : State) : Out := s.run (s.storeMI o 2 (s.g o.d).toNat)
/-- `st.w` (R271). -/
def execStW (o : MemOps) (s : State) : Out := s.run (s.storeMI o 4 (s.g o.d).toNat)
/-- `st.d` (R271). -/
def execStD (o : MemOps) (s : State) : Out := s.run (s.storeMI o 8 (s.g o.d).toNat)
/-- `fst` (R271). -/
def execFst (o : MemOps) (s : State) : Out := s.run (s.storeMI o 4 (s.f o.d).toNat)

/-! ## Prefetch and line maintenance -/

/-- The line that `pf` may ask for (R277): a global address whose leaf permits the read and whose space the L1 may hold. -/
def State.pfLine (s : State) (va : Nat) : Option Loc :=
  if NW ≤ va then none
  else match s.translate s.now.h va with
    | .leaf e lvl =>
      if permReason e { rd := true } s.cur.supervisor = 0 ∧ (leafSpace s.myDev e).l1able then
        some ⟨leafSpace s.myDev e, leafKey e lvl va / 64 * 64⟩
      else none
    | _ => none

/-- `pf [ga]` (R277): the line is asked for; its fill is a later event. -/
def execPf (o : LA) (s : State) : Out :=
  .next ((match s.pfLine (s.g o.a).toNat with
    | some l => (s.retain s.now.h (s.g o.a).toNat).modMe (fun c => { c with pf := c.pf ++ [l] })
    | none => s).endLong o.l [])

/-- The parts of [a, a + n) by page: the first address and length of each. -/
def pageParts (a n : Nat) : List (Nat × Nat) :=
  if n = 0 then []
  else (List.range ((a + n - 1) / 65536 - a / 65536 + 1)).map (fun i =>
    let lo := max a ((a / 65536 + i) * 65536)
    (lo, min (a + n) ((a / 65536 + i + 1) * 65536) - lo))

/-- The line numbers of a range that `cinv` and `cwb` act on, page by page: space, first and last line. A page that fails
translation or user permission is skipped (R278). -/
def State.lineRuns (s : State) (a n : Nat) : List (Space × Nat × Nat) :=
  (pageParts a n).filterMap (fun p =>
    match s.translate s.now.h p.1 with
    | .leaf e lvl =>
      if permReason e {} s.cur.supervisor = 0 then
        some (leafSpace s.myDev e, leafKey e lvl p.1 / 64, leafKey e lvl (p.1 + p.2 - 1) / 64)
      else none
    | _ => none)

/-- The translations of a range have been used page by page (R344). -/
def State.retainAll (s : State) (a n : Nat) : State := (pageParts a n).foldl (fun t p => t.retain s.now.h p.1) s

/-- A line lies in one of the runs. -/
def inRuns (rs : List (Space × Nat × Nat)) (line : Nat) : Bool := rs.any (fun r => decide (r.2.1 ≤ line) && decide (line ≤ r.2.2))

/-- The runs of mode-10 lines that a scope of this kind reaches (R278). -/
def copiedRuns (kind : Nat) (rs : List (Space × Nat × Nat)) : List (Space × Nat × Nat) :=
  rs.filter (fun r => match r.1 with
    | .host 2 _ => kind == 3 || kind == 4
    | .peer 2 _ => kind == 4
    | _ => false)

/-- The checks of `cinv` and `cwb`, in the order R278 gives them. -/
def State.lineCheck (s : State) (a n : Word) (v : Word) : Except Stop Unit := do
  must (decide (n.toNat ≤ 2 ^ 26)) (illegal11 0)
  must (decide (a.toNat + n.toNat ≤ NW)) (windowAt a)
  s.checkScope v

/-- `cinv [ga], gb (gs)` (R278). -/
def execCinv (o : LineOps) (s : State) : Out :=
  let a := s.g o.a
  let n := s.g o.b
  let v := s.scopeOf o.xs
  if n = 0#64 then .next (s.endLong o.l [])
  else s.run (do
    s.lineCheck a n v
    let rs := s.lineRuns a.toNat n.toNat
    let cs := copiedRuns (scopeKind v) rs
    let s1 := s.modMe (fun c => { c with l1 := c.l1.filter (fun p => !inRuns rs p.1) })
    .ok (({ s1 with devLines := s1.devLines.filter (fun p => p.1 / 2 ^ 64 != s.myDev || !inRuns cs (p.1 % 2 ^ 64)) } : State).endLong o.l []))

/-- Where a device copy is carried to: the owner (R128). -/
def Space.owner : Space → Space
  | .host _ d => .host 1 d
  | .peer _ d => .peer 1 d
  | x => x

/-- A location at its owner. -/
def Loc.owner (l : Loc) : Loc := ⟨l.space.owner, l.at_⟩

/-- The space of a location key of host or peer memory, at its owner. -/
def keySpace (dev a : Nat) : Space := if a < 2 ^ 60 then .host 1 dev else .peer 1 dev

/-- The device copies of device `dev` whose lines lie in the runs: line number and value. -/
def State.copiesIn (s : State) (dev : Nat) (rs : List (Space × Nat × Nat)) : List (Nat × BitVec 512) :=
  s.devLines.filterMap (fun p =>
    if p.1 / 2 ^ 64 = dev ∧ inRuns rs (p.1 % 2 ^ 64) then some (p.1 % 2 ^ 64, p.2) else none)

/-- A line's eight granules as writes at its owner. -/
def lineParts (dev : Nat) (p : Nat × BitVec 512) : List (Loc × List Byte) :=
  (List.range 8).map (fun i =>
    let a := p.1 * 64 + 8 * i
    (⟨keySpace dev a, a⟩, (leBytes 64 p.2.toNat).drop (8 * i) |>.take 8))

/-- `cwb [ga], gb (gs)` (R278): each granule of a device copy in the range is a write of the context to its owner; the copies stay,
and the instruction completes once every granule has performed. Writes of the core to those lines that have not performed come first
(R133). -/
def execCwb (o : LineOps) (s : State) : Out :=
  let a := s.g o.a
  let n := s.g o.b
  let v := s.scopeOf o.xs
  if n = 0#64 then .next (s.endLong o.l [])
  else s.run (do
    s.lineCheck a n v
    let cs := copiedRuns (scopeKind v) (s.lineRuns a.toNat n.toNat)
    let busy (at_ len : Nat) : Bool := cs.any (fun r => overlap at_ len (r.2.1 * 64) ((r.2.2 - r.2.1 + 1) * 64))
    must (s.cur.post.all (fun e => e.ranges.all (fun r => !busy r.1 r.2)) &&
      s.me.path.all (fun w => !busy w.loc.at_ w.b.length)) (.wait .retry)
    .ok ((s.retainAll a.toNat n.toNat).storeParts o.l 0#2 v ((s.copiesIn s.myDev cs).flatMap (lineParts s.myDev)) [] .writes))

end Sys2Proof.Machine
end

