-- ==== Sys2Proof/Machine/Tagged.lean ====
section
/-! DEFINITION. Tagged operations (R62 .. R65, R274, R275): the step at the holding core, the word's waiting list, and the six
instructions. -/

namespace Sys2Proof.Machine

/-! ## The step at the holding core -/

/-- The tag of a word, by word index: empty unless listed. -/
def Core.tagFull (c : Core) (w : Nat) : Bool := SMap.get c.tags false w
/-- The tag set. -/
def Core.setTag (c : Core) (w : Nat) (full : Bool) : Core :=
  { c with tags := if full then SMap.put c.tags w true else SMap.del c.tags w }

/-- The word at a local offset of core h, at its point of coherence. -/
def State.localWord (s : State) (h off : Nat) : Word := BitVec.ofNat 64 (leNat (s.rawBytes (localKey h off) 8))

/-- A tagged operation tests, reads or writes, and changes the tag in one step (R63): the state and the value it returns, or
nothing when it cannot perform. -/
def State.tagTry (s : State) (h off : Nat) (op : TagOp) : Option (State × Word) :=
  let full := (s.core h).tagFull (off / 8)
  let set (t : State) (b : Bool) : State := t.modCore h (fun c => c.setTag (off / 8) b)
  let put (x : Word) : State := s.putPoc (.local_ h) (localKey h off) (leBytes 8 x.toNat)
  match op with
  | .ldf => if full then some (s, s.localWord h off) else none
  | .take => if full then some (set s false, s.localWord h off) else none
  | .ste x => if full then none else some (set (put x) true, 0#64)
  | .stf x => some (set (put x) true, 0#64)
  | .clr => some (set s false, 0#64)
  | .rd => some (s, ofBool64 full)

/-- The register write of a tagged operation's value. -/
def tagWrites (dest : Dest) (x : Word) : List RegWrite :=
  match dest with
  | .g n _ => [.g n x]
  | _ => []

/-- The post-queue entry of an instruction. -/
def Ctx.entry (c : Ctx) (id : Nat) : Option PEntry := c.post.find? (fun e => e.id == id)
/-- The outstanding instruction with a serial number. -/
def Ctx.outOf (c : Ctx) (id : Nat) : Option Outst := c.out.find? (fun o => o.id == id)

/-- An entry has taken its step: it leaves the post queue, its acquire part is satisfied, and its instruction has its writes; they
are made at once when the instruction has completed (R279). -/
def State.finishEntry (s : State) (h k id : Nat) (ws : List RegWrite) : State :=
  let acq := match (s.ctx h k).entry id with | some e => semAcq e.sem && beyondCore e.scope | none => false
  let s1 := s.modCtx h k (fun c => { c with
    post := c.post.filter (fun e => e.id != id)
    out := c.out.map (fun o => if o.id = id then { o with writes := o.writes ++ ws, pend := .ready } else o) })
  let s2 := if ((s.ctx h k).outOf id).isNone then s1.complete h k ws else s1
  if acq then s2.dropL1 h else s2

/-! ## Data that fails after issue (R219, R378, R425) -/

/-- The virtual address of a location, as core h reaches it: by its place in the near window, or by an entry of its TLB; else the
address at its owner. -/
def State.backVa (s : State) (h : Nat) (loc : Loc) : Nat :=
  match loc.space with
  | .local_ g =>
    let off := loc.at_ % 2 ^ 17
    if g % 65536 = h % 65536 then NW + off else NW + 0x10_0000 + peerNo g * 0x2_0000 + off
  | _ =>
    match (s.core h).tlb.find? (fun t => t.dctx == s.dctxOf h && decide (leafKey t.pte t.level 0 ≤ loc.at_)
        && decide (loc.at_ < leafKey t.pte t.level 0 + leafSpan t.level)) with
    | some t => t.vpn * 65536 + (loc.at_ - leafKey t.pte t.level 0)
    | none => loc.at_ % 2 ^ 52

/-- A context leaves a gang that is still forming. -/
def State.leaveGang (s : State) (h k : Nat) : State :=
  { s with gangs := (s.gangs.map (fun g => if g.turn.isNone then { g with members := g.members.filter (fun m => !(m.h == h && m.k == k)) }
      else g)).filter (fun g => !g.members.isEmpty) }

/-- The gang that context k of core h waits in, if every position has joined, has completed (R100); nothing for another one. -/
def State.joined (s : State) (h k : Nat) : State :=
  ((s.gangs.find? (fun g => g.turn.isNone && g.members.any (fun m => m.h == h && m.k == k))).bind s.gangStep).getD s

/-- An outstanding instruction traps after it has issued: it leaves without effect and its context takes the trap, with `fpc` its pc and
`rpc` the pc at which the context stands (R219). A gang in which it waits has completed, or it leaves the gang. -/
def State.failOut (s : State) (h k id code : Nat) (addr info : Word) : State :=
  match (s.ctx h k).outOf id with
  | none => s.modCtx h k (fun x => { x with post := x.post.filter (fun e => e.id != id) })
  | some o =>
    let t := s.joined h k
    let x := t.ctx h k
    ((t.leaveGang h k).setCtx h k { x with
        post := x.post.filter (fun e => e.id != id)
        out := x.out.filter (fun y => y.id != id) }).raiseAt h k id code o.pc x.pc addr info

/-- The data of an outstanding instruction failed: it takes MCHK (R425). -/
def State.killOut (s : State) (h k id : Nat) (addr info : Word) : State := s.failOut h k id Cause.mchk.code addr info

/-! ## Waiting requests (R64) -/

/-- The destination that an outstanding tagged operation names. -/
def Ctx.tagDest (c : Ctx) (id : Nat) : Dest :=
  match c.outOf id with
  | some o => (match o.pend with | .tag d => d | _ => .none)
  | none => .none

/-- The longest waiting request for a word. -/
def Core.tagHead (c : Core) (off : Nat) : Option TagWaiter := c.tagWait.find? (fun w => w.off == off)

/-- A tagged operation that has arrived at its holding core performs for its requester if it can; one that would read a word with an
uncorrectable error raises MCHK instead (R63, R425). -/
def State.tagStep (s : State) (h off : Nat) (op : TagOp) (c k id : Nat) : Option State :=
  match s.tagTry h off op with
  | none => none
  | some (t, x) =>
    let reads := match op with | .ldf | .take => true | _ => false
    if reads && SMap.get s.poison false (localKey h off / 8) then
      some (s.killOut c k id (BitVec.ofNat 64 (s.backVa c ⟨.local_ h, localKey h off⟩)) 1#64)
    else some (t.finishEntry c k id (tagWrites ((s.ctx c k).tagDest id) x))

/-- The head of a word's waiting list performs if it can, and is removed (R64). -/
def State.tagRetry (s : State) (h off : Nat) : Option State :=
  match (s.core h).tagHead off with
  | none => none
  | some w =>
    let drop (t : State) : State := t.modCore h (fun c => { c with tagWait := c.tagWait.erase w })
    match (s.ctx w.h w.k).entry w.id with
    | none => some (drop s)
    | some e =>
      match e.kind with
      | .tagged op =>
        (s.tagStep h off op w.h w.k w.id).map drop
      | _ => some (drop s)

/-- The heads of a word's waiting list perform until one cannot (R64); `fuel` bounds their number. -/
def State.tagDrain (s : State) (h off : Nat) : Nat → State
  | 0 => s
  | fuel + 1 =>
    match s.tagRetry h off with
    | none => s
    | some t => t.tagDrain h off fuel

/-- Every head that can perform does. -/
def State.tagSettle (s : State) (h off : Nat) : State := s.tagDrain h off ((s.core h).tagWait.length + 1)

/-! ## Issue -/

/-- A tagged operation at issue (R274, R275): performed at once where it may and can, else outstanding, on the word's waiting
list when it has reached the holding core and cannot perform. -/
def State.tagIssue (s : State) (l : BitVec 4) (sem : BitVec 2) (xs : Reg) (a : Reg) (imm : Word) (acc : Nat) (need : Need)
    (op : TagOp) (dest : Dest) : Except Stop State := do
  let va := s.addrMI a imm 8
  s.semScope sem xs
  must (va % 8 == 0) (misalign (BitVec.ofNat 64 va) acc 3)
  must (decide (NW ≤ va)) (windowAt (BitVec.ofNat 64 va))
  let (h, off) ← s.nearLoc va 8
  s.checkBuf h off 8 va need.wr
  let loc : Loc := ⟨.local_ h, localKey h off⟩
  (if need.rd then s.checkData va loc 8 true else .ok ())
  let v := s.scopeOf xs
  let post := (s.enqueue ⟨s.serial, sem, v, loc, .tagged op, 0⟩).stay l [] (.tag dest)
  if s.now.defer || !s.canWrite loc 8 sem v then .ok post
  else
    let s0 := s.tagSettle h off
    match s0.tagTry h off op with
    | some (t, x) =>
      let t1 := if semAcq sem then t.acquired s.now.h v else t
      .ok ((t1.tagSettle h off).endLong l (tagWrites dest x))
    | none => .ok (post.modCore h (fun c => { c with tagWait := c.tagWait ++ [⟨off, s.now.h, s.now.k, s.serial⟩] }))

/-- `ldf gd, [ga+off]` (R274). -/
def execLdf (o : MemOps) (s : State) : Out :=
  s.run (s.tagIssue o.l o.sem o.xs o.a o.imm 0 { rd := true } .ldf (.g o.d false))
/-- `ldf.take gd, [ga+off]`: a write for R55 (R274). -/
def execLdfTake (o : MemOps) (s : State) : Out :=
  s.run (s.tagIssue o.l o.sem o.xs o.a o.imm 2 { rd := true, wr := true } .take (.g o.d false))
/-- `ste [ga+off], gd` (R274). -/
def execSte (o : MemOps) (s : State) : Out :=
  s.run (s.tagIssue o.l o.sem o.xs o.a o.imm 1 { wr := true } (.ste (s.g o.d)) .none)
/-- `stf [ga+off], gd` (R274). -/
def execStf (o : MemOps) (s : State) : Out :=
  s.run (s.tagIssue o.l o.sem o.xs o.a o.imm 1 { wr := true } (.stf (s.g o.d)) .none)
/-- `tagclr [ga+off]` (R274). -/
def execTagclr (o : MemAOps) (s : State) : Out :=
  s.run (s.tagIssue o.l o.sem o.xs o.a o.imm 1 { wr := true } .clr .none)
/-- `tagrd gd, [ga+off]` (R274). -/
def execTagrd (o : MemOps) (s : State) : Out :=
  s.run (s.tagIssue o.l o.sem o.xs o.a o.imm 0 { rd := true } .rd (.g o.d false))

end Sys2Proof.Machine
end

