-- ==== Sys2Proof/Machine/VecMem.lean ====
section
/-! DEFINITION. Vector memory: page 7 (R244 .. R247), and `vscma` of page 8 (R250). -/

namespace Sys2Proof.Machine

/-! ## The checks of R244, step by step over every piece (first address, bytes) of an access -/

/-- A check on each element, in order: the first that fails decides. -/
def eachOk (f : α → Except Stop Unit) (xs : List α) : Except Stop Unit := xs.forM f

/-- Results gathered over each element, in order. -/
def eachGet (f : α → Except Stop (List β)) (xs : List α) : Except Stop (List β) := (xs.mapM f).map List.flatten

/-- Step 4: the near window (R17, R18). -/
def State.winOk (s : State) (p : Nat × Nat) : Except Stop Unit :=
  if NW ≤ p.1 then (s.nearLoc p.1 p.2).map (fun _ => ()) else must (decide (p.1 + p.2 ≤ NW)) (windowAt (BitVec.ofNat 64 p.1))

/-- Where each part of a piece lies: one part in the near window, one a page elsewhere; step 5 of R244. -/
def State.partsOf (s : State) (need : Need) (p : Nat × Nat) : Except Stop (List (Loc × Nat)) :=
  if NW ≤ p.1 then do
    let (h, off) ← s.nearLoc p.1 p.2
    .ok [(⟨.local_ h, localKey h off⟩, p.2)]
  else eachGet (fun q => (s.global q.1 need).map (fun l => [(l, q.2)])) (pageParts p.1 p.2)

/-- Step 6: declared buffers (R55). -/
def State.bufsOk (s : State) (wr : Bool) (p : Nat × Nat) : Except Stop Unit :=
  if NW ≤ p.1 then do
    let (h, off) ← s.nearLoc p.1 p.2
    s.checkBuf h off p.2 p.1 wr
  else .ok ()

/-- Pieces in ascending order of address, so that the lowest faulting byte is the one reported (R220). -/
def byAddress (ps : List (Nat × Nat)) : List (Nat × Nat) := inOrder (fun a b => decide (a.1 ≤ b.1)) ps

/-- Parts that follow one another from an address on, each with its own address. -/
def withVa (va : Nat) : List (Loc × Nat) → List (Nat × Loc × Nat)
  | [] => []
  | q :: qs => (va, q) :: withVa (va + q.2) qs

/-- The data of each part of a piece that is read may be consumed, and a part that is written can be reached (R409, R425). -/
def State.dataOk (s : State) (need : Need) (p : Nat × Nat) : Except Stop Unit := do
  let ls ← s.partsOf need p
  eachOk (fun q : Nat × Loc × Nat => if need.wr then s.checkHome q.1 q.2.1 q.2.2 else s.checkData q.1 q.2.1 q.2.2 false) (withVa p.1 ls)

/-- Steps 4 to 6 over all pieces: the parts, in the order of the pieces. -/
def State.spread (s : State) (need : Need) (ps : List (Nat × Nat)) : Except Stop (List (Loc × Nat)) := do
  eachOk s.winOk ps
  eachOk (fun p => (s.partsOf need p).map (fun _ => ())) (byAddress ps)
  eachOk (s.bufsOk need.wr) ps
  eachOk (s.dataOk need) ps
  eachGet (s.partsOf need) ps

/-- The first page of the leaf that maps an address. -/
def State.leafPage (s : State) (va : Nat) : Nat :=
  match s.translate s.now.h va with
  | .leaf _ lvl => va / leafSpan lvl * (leafSpan lvl / 65536)
  | _ => va / 65536

/-- The translations used, each once (R352). -/
def State.usedAll (s : State) (need : Need) (ps : List (Nat × Nat)) : State :=
  ((ps.flatMap (fun p => if NW ≤ p.1 then [] else (pageParts p.1 p.2).map Prod.fst)).eraseDupsBy
    (fun a b => s.leafPage a == s.leafPage b)).foldl (fun t va => t.used va need) s

/-- A part cut at 8-byte boundaries: the granules that perform one by one (R139). -/
def granules (p : Loc × Nat) : List (Loc × Nat) :=
  let a := p.1.at_
  (List.range ((a + p.2 - 1) / 8 - a / 8 + 1)).map (fun i =>
    let lo := max a ((a / 8 + i) * 8)
    (⟨p.1.space, lo⟩, min (a + p.2) ((a / 8 + i + 1) * 8) - lo))

/-- Bytes handed to parts in order. -/
def deal : List (Loc × Nat) → List Byte → List (Loc × List Byte)
  | [], _ => []
  | p :: ps, bs => (p.1, bs.take p.2) :: deal ps (bs.drop p.2)

/-- The base address of page 7 (R244). -/
def State.addrV (s : State) (a : Reg) (imm : Word) : Nat := s.addrMI a imm 128

/-- Alignment of each address (R244 step 3). -/
def aligned (n acc : Nat) (as : List Nat) : Except Stop Unit :=
  eachOk (fun a => must (a % n == 0) (misalign (BitVec.ofNat 64 a) acc (lg n))) as

/-- A vector load of pieces aligned to n. -/
def State.vload (s : State) (l : BitVec 4) (sem : BitVec 2) (xs : Reg) (n : Nat) (as : List Nat) (ps : List (Nat × Nat))
    (dest : Dest) : Except Stop State := do
  s.semScope sem xs
  aligned n 0 as
  let parts ← s.spread { rd := true } ps
  .ok ((s.usedAll { rd := true } ps).loadParts l sem (s.scopeOf xs) dest (parts.flatMap granules))

/-- A vector store of bytes to pieces aligned to n. -/
def State.vstore (s : State) (l : BitVec 4) (sem : BitVec 2) (xs : Reg) (n : Nat) (as : List Nat) (ps : List (Nat × Nat))
    (bs : List Byte) : Except Stop State := do
  s.semScope sem xs
  aligned n 1 as
  let parts ← s.spread { wr := true } ps
  .ok ((s.usedAll { wr := true } ps).storeParts l sem (s.scopeOf xs) (deal (parts.flatMap granules) bs) [])

/-- The 128 bytes of a register (R226). -/
def vecBytes (v : Vec) : List Byte := leBytes 128 v.toNat

/-- `vld` (R245). -/
def execVld (o : VMemOps) (s : State) : Out :=
  let a := s.addrV o.a o.imm
  s.run (s.vload o.l o.sem o.xs 8 [a] [(a, 128)] (.v o.d))
/-- `vst` (R245). -/
def execVst (o : VMemOps) (s : State) : Out :=
  let a := s.addrV o.a o.imm
  s.run (s.vstore o.l o.sem o.xs 8 [a] [(a, 128)] (vecBytes (s.v o.d)))
/-- `vldb` (R245). -/
def execVldb (o : VMemTOps) (s : State) : Out :=
  let a := s.addrV o.a o.imm
  let w := tyWidth o.ty
  s.run (s.vload o.l o.sem o.xs (w / 8) [a] [(a, w / 8)] (.splat o.d w))

/-- The lane addresses of `vldx` and `vstx` (R246). -/
def State.laneAddrs (s : State) (o : VMemXOps) : List Nat :=
  ((lanes 32 (s.v o.c)).take (1024 / tyWidth o.ty)).map (fun x =>
    (BitVec.ofNat 64 (s.addrV o.a o.imm) + (BitVec.ofNat 32 x).signExtend 64).toNat % 2 ^ 52)

/-- `vldx` (R246). -/
def execVldx (o : VMemXOps) (s : State) : Out :=
  let n := tyWidth o.ty / 8
  let as := s.laneAddrs o
  s.run (s.vload o.l o.sem o.xs n as (as.map (fun a => (a, n))) (.v o.d))
/-- `vstx`: lanes in ascending order (R246). -/
def execVstx (o : VMemXOps) (s : State) : Out :=
  let n := tyWidth o.ty / 8
  let as := s.laneAddrs o
  s.run (s.vstore o.l o.sem o.xs n as (as.map (fun a => (a, n))) (vecBytes (s.v o.d)))

/-- The lanes that the mask of `vstm` selects: lane number and value. -/
def State.maskedLanes (s : State) (o : VMemXOps) : List (Nat × Nat) :=
  let w := tyWidth o.ty
  (List.zip (List.range (1024 / w)) (List.zip (lanes w (s.v o.d)) (lanes w (s.v o.c)))).filterMap (fun p =>
    if selects w p.2.2 then some (p.1, p.2.1) else none)

/-- Step 4 of R244 for an access of several pieces: with a byte at or above NW, all of them lie in one row of R17. -/
def State.oneRow (s : State) (ps : List (Nat × Nat)) : Except Stop Unit :=
  match ps with
  | [] => .ok ()
  | p :: _ =>
    if ps.all (fun q => decide (q.1 + q.2 ≤ NW)) then .ok ()
    else do
      let (_, off) ← s.nearLoc p.1 p.2
      match ps.find? (fun q => decide (q.1 < p.1 - off) || decide (p.1 - off + 0x2_0000 < q.1 + q.2)) with
      | some q => .error (windowAt (BitVec.ofNat 64 q.1))
      | none => .ok ()

/-- `vstm`: unselected bytes have no byte event (R245). -/
def execVstm (o : VMemXOps) (s : State) : Out :=
  let a := s.addrV o.a o.imm
  let n := tyWidth o.ty / 8
  let ls := s.maskedLanes o
  let ps := ls.map (fun p => ((a + n * p.1) % 2 ^ 52, n))
  s.run (do
    s.semScope o.sem o.xs
    aligned n 1 [a]
    s.oneRow ps
    s.vstore o.l o.sem o.xs n [a] ps (ls.flatMap (fun p => leBytes n p.2)))

/-! ## Compressed vector blocks (R66, R67, R247) -/

/-- Fields of a block header (R66). -/
def hdrSize (h : Word) : Nat := bits h 55 48
def hdrCap (h : Word) : Nat := bits h 47 32
def hdrNz (h : Word) : Nat := bits h 31 16
def hdrN (h : Word) : Nat := bits h 15 0

/-- The SPOVF trap of a block (R247). -/
def spovf (a : Nat) (h : Word) (need : Nat) : Stop :=
  .trap .spovf (BitVec.ofNat 64 a) (BitVec.ofNat 64 (need * 2 ^ 32 + hdrCap h * 2 ^ 16 + hdrNz h))

/-- The header checks of R67. -/
def hdrOk (h : Word) : Bool :=
  decide (hdrSize h < 4) && decide (hdrN h ≠ 0) && hdrN h % 64 == 0 && decide (hdrNz h ≤ hdrN h) && decide (hdrNz h ≤ hdrCap h)

/-- Loads that an instruction makes at issue: it waits until they may be satisfied (R135). -/
def State.mayLoad (s : State) (ps : List (Loc × Nat)) : Except Stop Unit :=
  must (ps.all (fun p => s.canRead p.1 p.2)) (.wait .retry)

/-- The bytes of parts, as the executing context sees them. -/
def State.lookAll (s : State) (ps : List (Loc × Nat)) : List Byte := ps.flatMap (fun p => s.look p.1 p.2)

/-- A block operation with its operands as they were at issue: the instruction, the block's address, the first element index and,
for `vspst`, the register's value (R247). -/
structure SpOp where
  o   : VSpOps
  val : Option Vec
  at_ : Nat
  i0  : Nat
  deriving DecidableEq, Repr

/-- What an operation on a block needs of its header's page. -/
def SpOp.need (p : SpOp) : Need := { rd := true, wr := p.val.isSome }

/-- The parts of a block that an operation reads at issue: it waits until each may be satisfied (R135). -/
def State.spReady (s : State) (ps : List (Loc × Nat)) : Except Stop Unit := must (ps.all (fun p => s.canLoad p.1 p.2)) (.wait .retry)

/-- The lane count of a block. -/
def hdrLanes (h : Word) : Nat := 128 / 2 ^ hdrSize h

/-- The checks of a header and of the first element index (R67, R247). -/
def SpOp.check (p : SpOp) (h : Word) : Except Stop Unit := do
  must (hdrOk h) (spovf p.at_ h 0)
  must (p.i0 % hdrLanes h == 0 && decide (p.i0 + hdrLanes h ≤ hdrN h)) (illegal11 0)

/-- The header of a block that may be used, and its location. -/
def State.spHeader (s : State) (p : SpOp) : Except Stop (Word × List (Loc × Nat)) := do
  let hp ← s.spread p.need [(p.at_, 8)]
  s.spReady hp
  let h := BitVec.ofNat 64 (leNat (s.lookAll hp))
  p.check h
  .ok (h, hp)

/-- The mask bits of a block below a bound, from its mask bytes. -/
def maskBits (m : List Byte) : List Bool := m.flatMap (fun b => (List.range 8).map b.getLsbD)

/-- The lanes that `vspld` gives: present lanes take the slots' values in order (R247). -/
def spLanes (e : Nat) : List Bool → List Byte → List Nat
  | [], _ => []
  | true :: ms, bs => leNat (bs.take e) :: spLanes e ms (bs.drop e)
  | false :: ms, bs => 0 :: spLanes e ms bs

/-- What an operation on a block does: the pieces it touches, its reads, its writes, and its register's value. -/
structure SpEffect where
  pieces : List (Nat × Nat)
  reads  : List (Loc × Nat) := []
  writes : List (Loc × List Byte) := []
  regs   : List RegWrite := []
  deriving DecidableEq, Repr

/-- The writes of `vspst` of a value over a header: the mask bytes, the slots and the header, in that order, with the pieces (R247). The
header, the mask bytes and the run of slots are one access of R18 each, so that a run of slots that leaves a row is WINDOW while header and
mask may lie in other rows (DESIGN CHOICE, log entry 59). -/
def State.spWrites (s : State) (p : SpOp) (v : Vec) (h : Word) : Except Stop (List (Nat × Nat) × List (Loc × List Byte)) := do
  let a := p.at_
  let e := 2 ^ hdrSize h
  let ls := lanes (8 * e) v
  let nz := ls.filter (fun x => x != 0)
  must (decide (hdrNz h + nz.length ≤ hdrCap h)) (spovf a h nz.length)
  let slots : Nat × Nat := ((a + 8 + hdrN h / 8 + hdrNz h * e) % 2 ^ 52, nz.length * e)
  let mask : Nat × Nat := ((a + 8 + p.i0 / 8) % 2 ^ 52, 128 / e / 8)
  let ps := mask :: (if nz.length = 0 then [] else [slots])
  let wp ← s.spread { wr := true } ps
  let hp ← s.spread p.need [(a, 8)]
  let maskNat := pack 1 (ls.map (fun x => if x = 0 then 0 else 1))
  let new := BitVec.ofNat 64 (hdrSize h * 2 ^ 48 + hdrCap h * 2 ^ 32 + (hdrNz h + nz.length) * 2 ^ 16 + hdrN h)
  let bs := leBytes (128 / e / 8) maskNat ++ nz.flatMap (leBytes e) ++ leBytes 8 new.toNat
  .ok (ps, deal ((wp ++ hp).flatMap granules) bs)

/-- The mask bytes that `vspld` reads (R247). -/
def SpOp.maskPiece (p : SpOp) (h : Word) : Nat × Nat := ((p.at_ + 8) % 2 ^ 52, (p.i0 + hdrLanes h) / 8)
/-- The mask bits of its own lanes. -/
def SpOp.mine (p : SpOp) (h : Word) (mask : List Byte) : List Bool := ((maskBits mask).drop p.i0).take (hdrLanes h)
/-- The slots that it reads; none when no lane is present. -/
def SpOp.slotPieces (p : SpOp) (h : Word) (mask : List Byte) : List (Nat × Nat) :=
  let e := 2 ^ hdrSize h
  let n := (p.mine h mask).countP id
  if n = 0 then []
  else [((p.at_ + 8 + hdrN h / 8 + ((maskBits mask).take p.i0).countP id * e) % 2 ^ 52, n * e)]
/-- The register that it writes. -/
def SpOp.value (p : SpOp) (h : Word) (mask slots : List Byte) : RegWrite :=
  let e := 2 ^ hdrSize h
  .v p.o.d (ofLanes (8 * e) (spLanes e (p.mine h mask) slots))

/-- `vspst` at once (R247). -/
def State.spStore (s : State) (p : SpOp) (v : Vec) : Except Stop SpEffect := do
  let (h, hp) ← s.spHeader p
  let (ps, ws) ← s.spWrites p v h
  .ok { pieces := (p.at_, 8) :: ps, reads := hp, writes := ws }

/-- `vspld` at once (R247). -/
def State.spLoad (s : State) (p : SpOp) : Except Stop SpEffect := do
  let rd : Need := { rd := true }
  let (h, hp) ← s.spHeader p
  let mp ← s.spread rd [p.maskPiece h]
  s.spReady mp
  let ms := s.lookAll mp
  let vp ← s.spread rd (p.slotPieces h ms)
  s.spReady vp
  .ok { pieces := (p.at_, 8) :: p.maskPiece h :: p.slotPieces h ms, reads := hp ++ mp ++ vp, regs := [p.value h ms (s.lookAll vp)] }

/-- The granule that begins n bytes into a list of granules. -/
def granuleAt : Nat → List (Loc × Nat) → Option (Loc × Nat)
  | _, [] => none
  | n, q :: qs => if n = 0 then some q else granuleAt (n - q.2) qs

/-- The granule that an operation reads next, when it has read the bytes `got` of header, mask bytes and slots; nothing when these are all
that it needs (R247). -/
def State.spNext (s : State) (p : SpOp) (got : List Byte) : Except Stop (Option (Loc × Nat)) := do
  let rd : Need := { rd := true }
  if got.length < 8 then
    let hp ← s.spread p.need [(p.at_, 8)]
    .ok (granuleAt got.length (hp.flatMap granules))
  else
    let h := BitVec.ofNat 64 (leNat (got.take 8))
    p.check h
    if p.val.isSome then .ok none
    else
      let mp ← s.spread rd [p.maskPiece h]
      let ms := (got.drop 8).take (p.maskPiece h).2
      if ms.length < (p.maskPiece h).2 then .ok (granuleAt (got.length - 8) (mp.flatMap granules))
      else
        let vp ← s.spread rd (p.slotPieces h ms)
        .ok (granuleAt (got.length - 8 - ms.length) (vp.flatMap granules))

/-- The effect of an operation that has read all that it needs. -/
def State.spFinish (s : State) (p : SpOp) (got : List Byte) : Except Stop SpEffect := do
  let h := BitVec.ofNat 64 (leNat (got.take 8))
  match p.val with
  | some v =>
    let (ps, ws) ← s.spWrites p v h
    .ok { pieces := ps, writes := ws }
  | none =>
    let ms := (got.drop 8).take (p.maskPiece h).2
    .ok { pieces := [], regs := [p.value h ms (got.drop (8 + ms.length))] }

/-- The effect of an operation on a block. -/
def State.spEffect (s : State) (p : SpOp) : Except Stop SpEffect :=
  match p.val with
  | some v => s.spStore p v
  | none => s.spLoad p

/-- The bytes from a block's header on in the local memory of a peer that is out, if the header lies there (R21). -/
def State.spHeld (s : State) (p : SpOp) : Option (Loc × Nat) :=
  if p.at_ < NW then none
  else match s.nearLoc p.at_ 8 with
    | .ok (h, off) => if 65536 ≤ h then some (⟨.local_ h, localKey h off⟩, 0x2_0000 - off) else none
    | .error _ => none

/-- `vspst` or `vspld` at issue: its checks, and its effect at once, or an entry of the post queue whose reads are satisfied later (R133,
R135); held, and outstanding meanwhile, while the peer that holds its block is out (R21, R247). -/
def State.spIssue (s : State) (o : VSpOps) (val : Option Vec) : Except Stop State := do
  let p : SpOp := ⟨o, val, s.addrV o.a o.imm, (s.g (cReg o.c)).toNat⟩
  let v := s.scopeOf o.xs
  let enter (t : State) (loc : Loc) (n : Nat) (more : List (Nat × Nat)) : State :=
    (t.enqueue ⟨s.serial, o.sem, v, loc, .sparse p.need.wr n more, 0⟩).stay o.l [] (.sparse o val p.at_ p.i0 [])
  s.semScope o.sem o.xs
  aligned 8 (if p.need.wr then 2 else 0) [p.at_]
  match s.spHeld p with
  | some (loc, n) =>
    s.bufsOk p.need.wr (p.at_, 8)
    .ok (enter s loc n [])
  | none =>
    let x ← s.spEffect p
    let s1 := s.usedAll p.need x.pieces
    match s.now.defer, x.reads with
    | true, q :: qs => .ok (enter s1 q.1 8 (qs.map (fun r => (r.1.at_, r.2)) ++ x.writes.map (fun w => (w.1.at_, w.2.length))))
    | _, _ =>
      let s2 := s1.readParts s.serial x.reads
      .ok (if val.isSome then s2.storeParts o.l o.sem v x.writes []
        else (if semAcq o.sem then s2.acquired s.now.h v else s2).endLong o.l x.regs)

/-- `vspst [ga+imm], vd, gc` (R247). -/
def execVspst (o : VSpOps) (s : State) : Out := s.run (s.spIssue o (some (s.v o.d)))
/-- `vspld vd, [ga+imm], gc` (R247). -/
def execVspld (o : VSpOps) (s : State) : Out := s.run (s.spIssue o none)

/-! ## `vscma` (R250) -/

/-- The predefined INT4 table (R35). -/
def int4Table : List Int := (List.range 16).map (fun c => sLane 4 c)

/-- `vscma vd, [ga], gb, vc` (R250). -/
def execVscma (o : VScmaOps) (s : State) : Out :=
  let a := s.addrG o.a
  let n := if o.i8 then 32 else 16
  let table := if o.c = 0#4 then int4Table else (unpack 16 16 (s.v o.c).toNat).map (sLane 16)
  s.run (s.vload o.l 0#2 0#5 n [a] [(a, n)]
    (.column o.d o.i8 o.sat (sLane 32 (bits (s.g o.b) 31 0)) table ((lanes 32 (s.v o.d)).map (sLane 32))))

end Sys2Proof.Machine
end

