-- ==== Sys2Proof/Machine/Atomics.lean ====
section
/-! DEFINITION. Atomics, notice boards and fences (R141 .. R144, R279 .. R288): the places where they are performed, the step at a
place, the reply, and the instructions of page 4. -/

namespace Sys2Proof.Machine

/-! ## Sync copies (R142, R392) -/

/-- A rectangle holds a core of a chorus. -/
def rectHolds (v : Word) (chorus : Nat) : Bool :=
  let (x0, y0, x1, y1) := scopeRect v
  let x := chorus / 32 % 8 * 32
  let y := chorus / 32 / 8 * 32 + chorus % 32
  decide (x0 ≤ x + 31) && decide (x ≤ x1) && decide (y0 ≤ y) && decide (y ≤ y1)

/-- The scope of an atomic of core h contains a core of die d: a live core of the launch (R130, R142). -/
def State.scopeHits (s : State) (h : Nat) (v : Word) (d : Nat) : Bool :=
  match scopeKind v, (s.core h).launch.bind s.launchOf with
  | 1, _ | 2, _ => d == hdie h
  | _, none => false
  | k, some l => s.dieLive d && l.chor.any (fun c => c / 32 == d && (k != 0 || rectHolds v c))

/-- A home state of a line with the dies `mask` left: none when no die is. -/
def Die.keepMask (e : Die) (line : Nat) (mask : BitVec 64) : Die :=
  if !SMap.has e.homes line then e
  else
    let m := SMap.get e.homes 0#64 line &&& mask
    { e with homes := if m = 0#64 then SMap.del e.homes line else SMap.put e.homes line m }

/-- The registers of a die's overflow area (R393). -/
def State.sovbase (s : State) (d : Nat) : Nat := (s.ctlReg (dieBlock d + 0x900)).toNat
def State.sovsize (s : State) (d : Nat) : Nat := (s.ctlReg (dieBlock d + 0x908)).toNat % 65536

/-- The dies that hold sync copies of a line. -/
def State.syncMask (s : State) (line : Nat) : BitVec 64 :=
  BitVec.ofNat 64 ((List.range 64).foldl (fun a d => a + if SMap.has (s.die d).sync line then 2 ^ d else 0) 0)

/-- Home state of a line that lies in an overflow area holds the mask of the dies that hold copies (R392). -/
def State.refreshOvf (s : State) (line : Nat) : State :=
  let m := leBytes 8 (s.syncMask line).toNat
  s.dies.foldl (fun t p =>
    if p.2.ovf.contains line && !SMap.has p.2.homes line then t.setRaws (s.sovbase p.1 + 16 * p.2.ovf.idxOf line + 8) m else t) s

/-- The sync copies of a line are dropped on the dies that `hit` names, and the home engine's mask of the line forgets them. -/
def State.dropOn (s : State) (hit : Nat → Bool) (line : Nat) : State :=
  let keep := BitVec.ofNat 64 ((List.range 64).foldl (fun a d => a + if hit d then 0 else 2 ^ d) 0)
  ({ s with dies := s.dies.map (fun p =>
      (p.1, (if hit p.1 then { p.2 with sync := SMap.del p.2.sync line } else p.2).keepMask line keep)) } : State).refreshOvf line

/-- The home sync engine drops the sync copies that the scope's dies hold of a line (R142). -/
def State.dropCopies (s : State) (h : Nat) (v : Word) (line : Nat) : State := s.dropOn (s.scopeHits h v) line

/-- Every die's sync copy of a line is dropped, and the line forgotten. -/
def State.dropAll (s : State) (line : Nat) : State := s.dropOn (fun _ => true) line

/-- The home die of a line of device memory or near store. -/
def State.lineHome (s : State) (dev line : Nat) : Nat :=
  if nearBase 0 ≤ line * 64 then (line * 64 - nearBase 0) / 0x4000_0000 else s.homeDie dev (line * 64)

/-- The home state of a line leaves die d's sync engine (R392): into entry i of the overflow area, the entry that the line has or
the next free one, or with a drop of every copy. -/
def State.evictHome (s : State) (d line : Nat) : State :=
  let l := (s.die d).ovf
  let i := l.idxOf line
  let cap := s.sovsize d * 4096
  if i < cap then
    let a := s.sovbase d + 16 * i
    (s.setRaws a (leBytes 8 (line * 64) ++ leBytes 8 (SMap.get (s.die d).homes 0#64 line).toNat)).modDie d (fun e =>
      { e with homes := SMap.del e.homes line, ovf := if l.contains line then l else l ++ [line] })
  else s.dropAll line

/-- The sync lines of a die's engine: its sync copies and its home state. -/
def Die.syncLines (e : Die) : Nat := e.sync.length + e.homes.length

/-- Die d's engine may hold a further line beside `n` that the same step adds: its sync SRAM has 32,768 (R392). -/
def Die.syncFits (e : Die) (n : Nat) : Bool := decide (e.syncLines + n < 32768)

/-- An operation at a place has room for the sync copy that it takes and for the line's home state; without, it waits until a copy is
dropped or home state evicted (R142, R392). -/
def State.syncRoom (s : State) (p : Place) (loc : Loc) : Bool :=
  match p with
  | .owner => true
  | .copy d =>
    let line := loc.at_ / 64
    let hd := s.lineHome (s.devOf d) line
    let new : Bool := !SMap.has (s.die d).sync line
    let newHome : Bool := !SMap.has (s.die hd).homes line
    (!new || (s.die d).syncFits 0) && (!newHome || (s.die hd).syncFits (if new && hd == d then 1 else 0))

/-- The die's sync engine has used a line (R434). -/
def Die.touch (e : Die) (line : Nat) : Die := { e with recent := e.recent.filter (fun x => x != line) ++ [line] }

/-- The line is the least recently used one of its set in the die's sync engine (R434). -/
def Die.oldest (e : Die) (line : Nat) : Bool :=
  (e.recent.takeWhile (fun x => x != line)).all (fun x =>
    !(SMap.has e.sync x || SMap.has e.homes x) || Config.syncSet x != Config.syncSet line)

/-- Die d's sync engine has a sync copy of a line: it holds it, and the line's home engine holds d in its mask. -/
def State.setCopy (s : State) (d line : Nat) (x : BitVec 512) : State :=
  let hd := s.lineHome (s.devOf d) line
  let old := if SMap.has (s.die hd).homes line then SMap.get (s.die hd).homes 0#64 line else s.syncMask line
  let s1 := s.modDie d (fun e => { e.touch line with sync := SMap.put e.sync line x })
  s1.modDie hd (fun e => { e.touch line with homes := SMap.put e.homes line (old ||| BitVec.ofNat 64 (2 ^ d)) })

/-- A space of which sync engines hold copies. -/
def Space.syncable : Space → Bool
  | .device _ | .near _ => true
  | _ => false

/-- The sync copy of a die, taken from the point of coherence if it has none (R142). -/
def State.syncCopy (s : State) (d : Nat) (sp : Space) (line : Nat) : BitVec 512 :=
  if SMap.has (s.die d).sync line then SMap.get (s.die d).sync 0#512 line else s.pocLine sp line

/-- The bytes an atomic reads at its place. -/
def State.placeRead (s : State) (p : Place) (sp : Space) (a n : Nat) : Nat :=
  match p with
  | .owner => leNat (s.pocBytes sp.owner a n)
  | .copy d => (s.syncCopy d sp (a / 64)).toNat / 2 ^ (8 * (a % 64)) % 2 ^ (8 * n)

/-- The bytes an atomic writes at its place; a sync copy is written through (R142). -/
def State.placeWrite (s : State) (p : Place) (sp : Space) (a n x : Nat) : State :=
  match p with
  | .owner => s.putPoc sp.owner a (leBytes n x)
  | .copy d =>
    let old := (s.syncCopy d sp (a / 64)).toNat
    let sh := 2 ^ (8 * (a % 64))
    let new := old - old / sh % 2 ^ (8 * n) * sh + x % 2 ^ (8 * n) * sh
    (s.putPoc sp a (leBytes n x)).setCopy d (a / 64) (BitVec.ofNat 512 new)

/-- The sync copy that an atomic which writes nothing has taken (R142). -/
def State.placeKeep (s : State) (p : Place) (sp : Space) (a : Nat) : State :=
  match p with
  | .owner => s
  | .copy d => s.setCopy d (a / 64) (s.syncCopy d sp (a / 64))

/-! ## Read-modify-write (R280 .. R283) -/

/-- The signed reading of a w-byte value. -/
def sgnOf (w x : Nat) : Int := (BitVec.ofNat (8 * w) x).toInt

/-- Op(old, B) on w bytes: the new value, or none for a `cas` that fails, and the flags of an FP add. -/
def RmwOp.apply (op : RmwOp) (w old b : Nat) : Option Nat × Word :=
  let m := 2 ^ (8 * w)
  match op with
  | .add => (some ((old + b) % m), 0#64)
  | .and => (some (old &&& b), 0#64)
  | .or => (some (old ||| b), 0#64)
  | .xor => (some (old ^^^ b), 0#64)
  | .min => (some (if sgnOf w b < sgnOf w old then b else old), 0#64)
  | .max => (some (if sgnOf w old < sgnOf w b then b else old), 0#64)
  | .minn => (some (Nat.min old b), 0#64)
  | .maxn => (some (Nat.max old b), 0#64)
  | .swap => (some b, 0#64)
  | .cas new => (if old = b then some (new.toNat % m) else none, 0#64)
  | .fadd => let r := Fmt.fp32.add old b; (some r.1, r.2.word)

/-! ## Notice boards (R285 .. R287) -/

/-- The 128 view bytes, as a register. -/
def State.boardView (s : State) (sp : Space) (v0 v1 : Nat) : Vec :=
  BitVec.ofNat 1024 (leNat (s.pocBytes sp v0 64) + leNat (s.pocBytes sp v1 64) * 2 ^ 512)
/-- The view written. -/
def State.setView (s : State) (sp : Space) (v0 v1 : Nat) (v : Vec) : State :=
  (s.putPoc sp v0 (leBytes 64 v.toNat)).putPoc sp v1 (leBytes 64 (v.toNat / 2 ^ 512))
/-- The number of one bits among the low n. -/
def popVec (v : Vec) (n : Nat) : Nat := (List.range n).foldl (fun a i => a + if v.getLsbD i then 1 else 0) 0

/-- A `post` at the home sync engine (R286): the view and STALE. -/
def State.postStep (s : State) (sp : Space) (a slot round : Nat) (val : Word) (v0 v1 sl : Nat) : State × Vec × Bool :=
  let h := leNat (s.pocBytes sp a 64)
  let hr := h % 2 ^ 32
  let n := h / 2 ^ 32 % 65536
  let auto := h / 2 ^ 48 % 2
  if n = 0 ∨ 1024 < n ∨ h / 2 ^ 49 ≠ 0 ∨ n ≤ slot ∨ round ≠ hr then (s, 0#1024, true)
  else
    let v := s.boardView sp v0 v1 ||| (1#1024 <<< slot)
    let s1 := (s.putPoc sp sl (leBytes 8 val.toNat)).setView sp v0 v1 v
    if auto = 1 ∧ popVec v 1024 = n then
      ((s1.putPoc sp a (leBytes 4 (hr + 1))).setView sp v0 v1 0#1024, v, false)
    else (s1, v, false)

/-- An `nbctl` at the home sync engine (R287): the header as it was, and STALE. -/
def State.nbctlStep (s : State) (sp : Space) (a : Nat) (w : Word) (v0 v1 : Nat) : State × Word × Bool :=
  let h := BitVec.ofNat 64 (leNat (s.pocBytes sp a 8))
  match bits w 3 0 with
  | 0 =>
    ((s.putPoc sp a (leBytes 64 (bits w 63 32 + (bits w 25 16 + 1) * 2 ^ 32 + bits w 26 26 * 2 ^ 48))).setView sp v0 v1 0#1024,
      h, false)
  | 1 =>
    if bits w 63 32 = bits h 31 0 then
      ((s.putPoc sp a (leBytes 4 (bits h 31 0 + 1))).setView sp v0 v1 0#1024, h, false)
    else (s, h, true)
  | _ => (s, h, false)

/-! ## The step at the place -/

/-- An atomic of core h is performed (R141 .. R143): the state and what goes back. The issuing core's L1 copy of its line is
dropped. Of a board's lines the home engine drops the sync copies of the header's alone (DESIGN CHOICE, log entry 57). -/
def State.atomStep (s : State) (h : Nat) (loc : Loc) (v : Word) (op : AtomicOp) : State × FReply :=
  let line := loc.at_ / 64
  let s0 := s.modCore h (fun c => { c with l1 := SMap.del c.l1 line })
  match op with
  | .rmw op w b =>
    let p := placeOf h loc.space v
    let s1 := if p = .owner ∧ loc.space.syncable then s0.dropCopies h v line else s0
    let old := s1.placeRead p loc.space loc.at_ w
    let (new, fl) := op.apply w old (b.toNat % 2 ^ (8 * w))
    (match new with
      | some x => s1.placeWrite p loc.space loc.at_ w x
      | none => s1.placeKeep p loc.space loc.at_, .val (BitVec.ofNat 64 old) fl false)
  | .post slot round val v0 v1 sl =>
    let (t, view, stale) := (s0.dropCopies h v line).postStep loc.space loc.at_ slot round val v0 v1 sl
    (t, .views [(view, stale)])
  | .nbctl w v0 v1 =>
    let (t, x, stale) := (s0.dropCopies h v line).nbctlStep loc.space loc.at_ w v0 v1
    (t, .val x 0#64 stale)

/-! ## Replies (R280 .. R284, R386) -/

/-- The writes a reply makes (R280 .. R287); an atomic without a reply makes none. -/
def replyWrites (op : AtomicOp) (rep : Reply) (r : FReply) : List RegWrite :=
  let stale (b : Bool) : List RegWrite := if b then [.atomstat 2#64] else []
  match op, rep, r with
  | .rmw _ w _, .g n, .val x _ _ => [.g n (BitVec.ofInt 64 (sgnOf w x.toNat))]
  | .rmw _ _ _, .f n, .val x fl _ => [.f n (x.setWidth 32), .fflags fl]
  | .nbctl _ _ _, .g n, .val x _ st => .g n x :: stale st
  | .post _ _ _ _ _ _, .v n, .views ((x, st) :: _) => .v n x :: stale st
  | _, _, _ => []

/-- The writes of a retired request: all ones in its destination, and LOST (R284, R389). -/
def lostWrites (rep : Reply) : List RegWrite :=
  (match rep with
    | .none => []
    | .g n => [.g n (~~~0#64)]
    | .f n => [.f n (~~~0#32)]
    | .v n => [.v n (~~~0#1024)]) ++ [.atomstat 1#64]

/-! ## Issue -/

/-- The cycle at which the watchdog of a request issued now fires (R389, R391). -/
def State.dueNow (s : State) : Nat := s.me.cycle.toNat + s.me.atomwd.toNat

/-- An atomic of core h for an instruction `id` passes no earlier request of the core to the place where it is performed (R377), and
there is room there. -/
def State.sendable (s : State) (h id : Nat) (loc : Loc) (v : Word) : Bool :=
  let p := placeOf h loc.space v
  (s.reqs == [] || s.clearTo h id (s.destination (s.devOf (hdie h)) p loc)) && s.syncRoom p loc

/-- An atomic at issue: performed at once where it may and the turn does not defer it, else entered into the post queue. One
without a reply completes when the pipe accepts it (R279). -/
def State.atomIssue (s : State) (l : BitVec 4) (sem : BitVec 2) (v : Word) (loc : Loc) (op : AtomicOp) (rep : Reply) : State :=
  if !s.now.defer && (op.ranges loc.at_).all (fun r => s.canWrite ⟨loc.space, r.1⟩ r.2 sem v) && s.sendable s.now.h s.serial loc v then
    let (t, r) := s.atomStep s.now.h loc v op
    (if semAcq sem then t.acquired s.now.h v else t).endLong l (replyWrites op rep r)
  else
    (s.enqueue ⟨s.serial, sem, v, loc, .atomic op rep, s.dueNow⟩).stay l []
      (match rep with | .none => .ready | _ => .reply)

/-- What an atomic needs of its page (R279, R141). -/
def needAtomic (hostOk : Bool) : Need := { rd := true, wr := true, atomic := true, hostOk := hostOk }

/-- The checks of R279, and issue. -/
def State.atomic (s : State) (l : BitVec 4) (sem : BitVec 2) (xs a : Reg) (w : Nat) (hostOk : Bool) (op : AtomicOp)
    (rep : Reply) : Except Stop State := do
  let v := s.scopeOf xs
  s.checkScope v
  let va := s.addrG a
  must (va % w == 0) (misalign (BitVec.ofNat 64 va) 2 (lg w))
  let loc ← s.locate va w (needAtomic hostOk)
  s.checkData va loc.owner w true
  .ok ((s.used va (needAtomic hostOk)).atomIssue l sem v loc op rep)

/-- The width in bytes that mod[0] selects (R279). -/
def amoWidth (w32 : Bool) : Nat := if w32 then 4 else 8

/-- `amo.*` and `swap`. -/
def State.amo (s : State) (o : AmoOps) (op : RmwOp) (hostOk : Bool) : Out :=
  s.run (s.atomic o.l o.sem o.xs o.a (amoWidth o.w32) hostOk (.rmw op (amoWidth o.w32) (s.g o.b)) (.g o.d))

/-- `amo.add` (R280). -/
def execAmoAdd (o : AmoOps) (s : State) : Out := s.amo o .add true
/-- `amo.and` (R280). -/
def execAmoAnd (o : AmoOps) (s : State) : Out := s.amo o .and false
/-- `amo.or` (R280). -/
def execAmoOr (o : AmoOps) (s : State) : Out := s.amo o .or false
/-- `amo.xor` (R280). -/
def execAmoXor (o : AmoOps) (s : State) : Out := s.amo o .xor false
/-- `amo.min` (R280). -/
def execAmoMin (o : AmoOps) (s : State) : Out := s.amo o .min false
/-- `amo.max` (R280). -/
def execAmoMax (o : AmoOps) (s : State) : Out := s.amo o .max false
/-- `amo.minn` (R280). -/
def execAmoMinn (o : AmoOps) (s : State) : Out := s.amo o .minn false
/-- `amo.maxn` (R280). -/
def execAmoMaxn (o : AmoOps) (s : State) : Out := s.amo o .maxn false
/-- `swap` (R281). -/
def execSwap (o : AmoOps) (s : State) : Out := s.amo o .swap true
/-- `cas` (R281). -/
def execCas (o : CasOps) (s : State) : Out :=
  s.run (s.atomic o.l o.sem o.xs o.a (amoWidth o.w32) true (.rmw (.cas (s.g (cReg o.c))) (amoWidth o.w32) (s.g o.b)) (.g o.d))
/-- `famo.add` (R282). -/
def execFamoAdd (o : FamoOps) (s : State) : Out :=
  s.run (s.atomic o.l o.sem o.xs o.a 4 false (.rmw .fadd 4 ((s.f o.b).setWidth 64)) (.f o.d))
/-- `fred.add` (R282). -/
def execFredAdd (o : FredOps) (s : State) : Out :=
  s.run (s.atomic o.l o.sem o.xs o.a 4 false (.rmw .fadd 4 ((s.f o.b).setWidth 64)) .none)

/-- The operation that `red` names (R283). -/
def redOp : Nat → RmwOp
  | 0 => .add
  | 1 => .and
  | 2 => .or
  | 3 => .xor
  | 4 => .min
  | 5 => .max
  | 6 => .minn
  | _ => .maxn

/-- `red` (R283). -/
def execRed (o : RedOps) (s : State) : Out :=
  s.run (s.atomic o.l o.sem o.xs o.a (amoWidth o.w32) false (.rmw (redOp o.op.toNat) (amoWidth o.w32) (s.g o.b)) .none)

/-! ## `post` and `nbctl` -/

/-- What a board needs of its pages (R286). -/
def needBoard : Need := { rd := true, wr := true, atomic := true, hostOk := false, board := true }

/-- One check over several lines, in ascending address order (R286). -/
def overLines (f : Nat → Except Stop Unit) (lines : List Nat) : Except Stop Unit := lines.forM f

/-- The walk of one line finds a leaf. -/
def State.lineLeaf (s : State) (va : Nat) : Except Stop Unit :=
  match s.global va { needBoard with rd := false, wr := false, atomic := false, board := false } with
  | .error (.trap .perm _ _) | .ok _ => .ok ()
  | .error (.park a i _ _) => .error (.park a (i ||| 3#64) va 3)
  | .error (.trap .pageFatal a i) => .error (.trap .pageFatal a (i ||| 3#64))
  | .error (.wait (.walk _ _)) => .error (.wait (.walk va 3))
  | .error e => .error e

/-- The checks that `post` and `nbctl` share, over their lines (R286): scope, alignment, window, translation, permission, data. -/
def State.boardCheck (s : State) (v : Word) (va : Nat) (lines : List Nat) : Except Stop Unit := do
  s.checkScope v
  must (scopeKind v == 3 || scopeKind v == 4) (scopeTrap v)
  must (va % 64 == 0) (misalign (BitVec.ofNat 64 va) 2 6)
  overLines (fun x => must (decide (x < NW)) (windowAt (BitVec.ofNat 64 x))) lines
  overLines s.lineLeaf lines
  overLines (fun x => (s.global x { needBoard with board := false, atomic := false }).map (fun _ => ())) lines
  overLines (fun x => (s.global x needBoard).map (fun _ => ())) lines
  overLines (fun x => (s.global x needBoard) >>= fun loc => s.checkData x loc 64 true) lines

/-- The lines a board instruction checks: the header, the view, and the line of a slot, ascending. -/
def boardLines (va : Nat) (slot : Option Nat) : List Nat :=
  [va, va + 64, va + 128] ++ (match slot with
    | some p => if 128 < (192 + 8 * p) / 64 * 64 then [va + (192 + 8 * p) / 64 * 64] else []
    | none => [])

/-- `post vd, [ga], gb, gc (gs)` (R286): a release and an acquire at the scope, whatever its sem. -/
def execPost (o : PostOps) (s : State) : Out :=
  let w := s.g o.b
  let v := s.scopeOf o.xs
  let va := s.addrG o.a
  let p := bits w 9 0
  s.run (do
    must (bits w 31 10 == 0) (illegal11 0)
    s.boardCheck v va (boardLines va (some p))
    let hd ← s.global va needBoard
    let v0 ← s.global (va + 64) needBoard
    let v1 ← s.global (va + 128) needBoard
    let sl ← s.global (va + 192 + 8 * p) needBoard
    .ok ((s.usedAll needBoard [(va, 192), (va + 192 + 8 * p, 8)]).atomIssue o.l 3#2 v hd
      (.post p (bits w 63 32) (s.g (cReg o.c)) v0.at_ v1.at_ sl.at_) (.v o.d)))

/-- A reserved op, or a field set that the op does not use (R287). -/
def nbctlBad (w : Word) : Bool :=
  decide (2 < bits w 3 0) || bits w 31 27 != 0 || bits w 15 4 != 0 || (bits w 3 0 != 0 && bits w 26 16 != 0)
    || (bits w 3 0 == 2 && bits w 63 32 != 0)

/-- `nbctl gd, [ga], gb (gs)` (R287). -/
def execNbctl (o : FamoOps) (s : State) : Out :=
  let w := s.g o.b
  let v := s.scopeOf o.xs
  let va := s.addrG o.a
  s.run (do
    must (!nbctlBad w) (illegal11 0)
    s.boardCheck v va (boardLines va none)
    let hd ← s.global va needBoard
    let v0 ← s.global (va + 64) needBoard
    let v1 ← s.global (va + 128) needBoard
    .ok ((s.usedAll needBoard [(va, 192)]).atomIssue o.l 3#2 v hd (.nbctl w v0.at_ v1.at_) (.g o.d)))

/-! ## `fence` (R138, R288) -/

/-- A fence's condition, with `es` the earlier entries of its context and `ws` the context's writes in the core path. -/
def fenceReady (es : List PEntry) (ws : List CWrite) (sem : BitVec 2) (v : Word) : Bool :=
  es.all (fun e => !e.openAcquire) && (!semAcq sem || es.all (fun e => !e.openLoad)) && (!semRel sem || releaseOk es ws v)

/-- `fence.sem (gs)` (R138, R288). -/
def execFence (o : FenceOps) (s : State) : Out :=
  let v := s.scopeOf o.xs
  s.run (do
    s.checkScope v
    if !s.now.defer && fenceReady s.cur.post (s.me.pathOf s.now.k) o.sem v then
      .ok ((if semAcq o.sem then s.acquired s.now.h v else s).endLong o.l [])
    else
      .ok ((s.enqueue ⟨s.serial, o.sem, v, ⟨.local_ s.now.h, 0⟩, .fence, 0⟩).stay o.l [] .fence))

end Sys2Proof.Machine
end

