-- ==== Sys2Proof/Machine/Csr.lean ====
section
/-! DEFINITION. Control and status registers (R215 .. R218) and `csrrd`, `csrwr`. -/

namespace Sys2Proof.Machine

/-- Field placement: value `x` at bit `i`. -/
def field (x i : Nat) : Nat := x * 2 ^ i

/-! ## Layouts -/

/-- `ctxid` (R218). -/
def ctxidWord (h k : Nat) : Word := BitVec.ofNat 64 (field (hdie h) 24 + field (hy h) 16 + field (hx h) 8 + k)

/-- `deqstat` (R76): ripe and count as they stand when the instruction issues, at step 3 of R58, before the grants of step 4 and the start of
step 5 (DESIGN CHOICE, log entry 59). -/
def Core.deqstat (c : Core) : Word :=
  BitVec.ofNat 64 (field (c.lost % 256) 24 + field (c.stolen % 256) 16 + field (c.deque.countP c.ripe) 8 + c.deque.length)

/-- `inboxstat` (R85). -/
def Core.inboxstat (c : Core) : Word :=
  BitVec.ofNat 64 (field (c.nacks % 65536) 48 + field (if c.spf then 1 else 0) 47 + field c.spillN 20 + c.inbox.length)

/-- A slot of the fault buffer. -/
def Die.slot (d : Die) (i : Nat) : FSlot := SMap.get d.slots {} i
/-- A sum over the eight slots. -/
def Die.sumSlots (d : Die) (f : FSlot → Bool) : Nat := (List.range 8).foldl (fun a i => a + if f (d.slot i) then 2 ^ i else 0) 0
/-- `fbstat` (R348). -/
def Die.fbstat (d : Die) : Word :=
  BitVec.ofNat 64 (field (if d.ndrop then 1 else 0) 17 + field (if d.dropped then 1 else 0) 16
    + field (d.sumSlots (fun x => x.valid && x.fatal)) 8 + d.sumSlots (fun x => x.valid))
/-- `fbent0` (R348). -/
def FSlot.ent0 (x : FSlot) : Word :=
  BitVec.ofNat 64 (field x.vpn 28 + field x.count 16 + field (if x.fatal then 1 else 0) 11 + field x.access 8
    + field (if x.notice then 1 else 0) 4 + if x.valid then 1 else 0)
/-- `fbent1` (R348). -/
def FSlot.ent1 (x : FSlot) : Word := BitVec.ofNat 64 (field x.dctx 32 + field x.y 16 + field x.x 8 + x.k)

/-- A write to `fbclr` (R348): refused when a reserved bit is set or a slot is named in both mark and free; else slots are freed
and marked fatal and flags cleared. -/
def Die.fbclr (d : Die) (v : Word) : Option Die :=
  if bits v 63 18 ≠ 0 ∨ (bits v 15 8) &&& (bits v 7 0) ≠ 0 then none
  else
    some { d with
      slots := (List.range 8).foldl (fun m i =>
        let x := SMap.get m {} i
        if v.getLsbD i then SMap.put m i {}
        else if v.getLsbD (8 + i) && x.valid then SMap.put m i { x with fatal := true } else m) d.slots
      dropped := d.dropped && !v.getLsbD 16
      ndrop := d.ndrop && !v.getLsbD 17 }

/-! ## Reading and writing -/

/-- The value of a CSR for context k of core h (R217 and the rules it names). While a write to `spillbase` is pending (R86) a read gives the
base that still applies (DESIGN CHOICE, log entry 59). -/
def State.readCsr (s : State) (h k n : Nat) : Word :=
  let c := s.core h
  let x := s.ctx h k
  let d := s.die (hdie h)
  match n with
  | 0x000 => c.cycle
  | 0x001 => ctxidWord h k
  | 0x002 => c.launchid
  | 0x008 => c.dscope
  | 0x010 => x.cause
  | 0x011 => x.fpc
  | 0x012 => x.faddr
  | 0x013 => x.finfo
  | 0x014 => c.tvec
  | 0x015 => x.tstat
  | 0x016 => x.tscratch
  | 0x017 => x.rpc
  | 0x020 => x.fflags
  | 0x021 => x.aflags
  | 0x022 => x.satflags
  | 0x030 => c.evbase
  | 0x031 => c.fobase
  | 0x032 => c.spillbase
  | 0x033 => c.evcnt
  | 0x040 => c.stackbase
  | 0x041 => c.stacksize
  | 0x050 => x.atomstat
  | 0x051 => c.atomwd
  | 0x058 => c.tileid
  | 0x060 => c.deqstat
  | 0x070 => c.inboxstat
  | 0x100 => d.ptroot
  | 0x101 => d.dctx
  | 0x110 => d.fbstat
  | 0x111 => BitVec.ofNat 64 d.fbsel
  | 0x112 => (d.slot d.fbsel).ent0
  | 0x113 => (d.slot d.fbsel).ent1
  | 0x115 => d.fbsvc
  | _ => if 0x118 ≤ n ∧ n < 0x120 then SMap.get d.mthr 0#64 (n - 0x118) else 0#64

/-- Bits [hi:lo] of a word in place, the others zero. -/
def keep (v : Word) (hi lo : Nat) : Word := BitVec.ofNat 64 (bits v hi lo * 2 ^ lo)

/-- The supervisor CSRs that a `csrwr` may write only in supervisor mode, and 0x100 .. 0x1FF (R175). -/
def csrPrivileged (n : Nat) (wr : Bool) : Bool :=
  decide (0x100 ≤ n ∧ n < 0x200) || (wr && decide (0x010 ≤ n ∧ n ≤ 0x017)) || (!wr && n == 0x016)

/-- A `csrwr` (R215): the RW fields take the bits as given, other bits are kept as their layout has them; a CSR with no RW
field raises ILLEGAL, reason 11. -/
def State.writeCsr (s : State) (h k n : Nat) (v : Word) : Except Stop State :=
  let me (f : Core → Core) : Except Stop State := .ok (s.modCore h f)
  let my (f : Ctx → Ctx) : Except Stop State := .ok (s.modCtx h k f)
  let dn := hdie h
  match n with
  | 0x008 => if bits v 63 35 ≠ 0 then .error (scopeTrap v) else me (fun c => { c with dscope := v })
  | 0x010 => my (fun x => { x with cause := keep v 7 0 })
  | 0x011 => my (fun x => { x with fpc := v })
  | 0x012 => my (fun x => { x with faddr := v })
  | 0x013 => my (fun x => { x with finfo := v })
  | 0x014 => me (fun c => { c with tvec := keep v 51 1 })
  | 0x015 => my (fun x => { x with tstat := keep v 1 0 })
  | 0x016 => my (fun x => { x with tscratch := v })
  | 0x017 => my (fun x => { x with rpc := v })
  | 0x020 => my (fun x => { x with fflags := keep v 4 0 })
  | 0x021 => my (fun x => { x with aflags := keep v 3 0 })
  | 0x022 => my (fun x => { x with satflags := keep v 1 0 })
  | 0x030 => me (fun c => { c with evbase := keep v 51 1 })
  | 0x031 => me (fun c => { c with fobase := keep v 16 6 })
  | 0x032 =>
    me (fun c => if c.spillN = 0 then { c with spillbase := keep v 51 16, spillnext := none }
      else { c with spillnext := some (keep v 51 16) })
  | 0x040 => me (fun c => { c with stackbase := keep v 16 6 })
  | 0x041 => me (fun c => { c with stacksize := keep v 16 6 })
  | 0x050 => my (fun x => { x with atomstat := keep v 2 0 })
  | 0x051 => me (fun c => { c with atomwd := if bits v 31 0 < 0x1_0000 then 0x1_0000#64 else keep v 31 0 })
  | 0x058 => me (fun c => { c with tileid := v })
  | 0x070 => me (fun c => { c with spf := v.getLsbD 47 })
  | 0x111 => .ok (s.modDie dn (fun d => { d with fbsel := bits v 2 0 }))
  | 0x114 =>
    match (s.die dn).fbclr v with
    | some d => .ok (s.modDie dn (fun _ => d))
    | none => .error (illegal11 0)
  | _ =>
    if 0x118 ≤ n ∧ n < 0x120 then .ok (s.modDie dn (fun d => { d with mthr := SMap.put d.mthr (n - 0x118) (keep v 31 0) }))
    else .error (illegal11 0)

/-- PRIV: a CSR access with its number, or a page 12 instruction (R220). -/
def State.privTrap (s : State) (csr : Bool) (n : Nat) : Stop :=
  .trap .priv 0#64 (BitVec.ofNat 64 ((if csr then 2 ^ 28 else 0) + n * 65536 + (s.now.words.getLastD 0#16).toNat))

/-- An outstanding instruction may still set a flag CSR: by a write that it has computed, or by one that its loads or its reply make
(R49, R216). -/
def Outst.flagsToCome (o : Outst) : Bool :=
  o.writes.any (fun w => match w with | .fflags _ | .aflags _ | .satflags _ | .atomstat _ => true | _ => false)
    || (match o.pend with | .reply | .loads (.rounded _ _ _ _ _) | .loads (.column _ _ _ _ _ _) => true | _ => false)

/-- A location of a peer's memory, whose writes the peer may refuse (R378). -/
def Loc.refusable (l : Loc) : Bool := match l.space with | .peer _ _ => true | _ => false

/-- An access of the executing context may still set a bit of `atomstat`: a write to a peer that has not performed, or an atomic without
its reply (R390). -/
def State.statusToCome (s : State) : Bool :=
  s.cur.post.any (fun e => match e.kind with
    | .store _ => e.loc.refusable
    | .atomic _ _ | .sent _ _ | .acked _ _ => true
    | _ => false)
    || s.me.path.any (fun w => w.k == s.now.k && w.loc.refusable)

/-- A CSR access waits for the flag updates of earlier instructions (R49, R216). -/
def State.csrWaits (s : State) (n : Nat) : Bool :=
  ([0x020, 0x021, 0x022, 0x050].contains n && s.cur.out.any Outst.flagsToCome) || (n == 0x050 && s.statusToCome)

/-! ## Meanings -/

/-- `csrrd gd, csr` (R215, R216). -/
def execCsrrd (o : CsrOps) (s : State) : Out :=
  let n := o.n.toNat
  s.run (do
    must (s.cur.supervisor || !csrPrivileged n false) (s.privTrap true n)
    must (!s.csrWaits n) (.wait .retry)
    .ok (s.endLong o.l [.g o.d (s.readCsr s.now.h s.now.k n)]))

/-- `csrwr csr, gd` (R215, R216): it acts at issue, after the updates of earlier instructions. -/
def execCsrwr (o : CsrOps) (s : State) : Out :=
  let n := o.n.toNat
  s.run (do
    must (s.cur.supervisor || !csrPrivileged n true) (s.privTrap true n)
    must (!s.csrWaits n) (.wait .retry)
    let t ← s.writeCsr s.now.h s.now.k n (s.g o.d)
    .ok (t.endLong o.l []))

end Sys2Proof.Machine
end

