-- ==== Sys2Proof/Machine/Control.lean ====
section
/-! DEFINITION. Branches, jumps, `done`, `yield`, `brk` (R201 .. R205), `sys` (R224) and the context instructions `start`,
`join`, `ctxq` (R221 .. R223). -/

namespace Sys2Proof.Machine

/-- The target of a branch: pc + 2 × offset (R174). -/
def State.target (s : State) (off : Word) : Word := s.cur.pc + 2#64 * off

/-- The pc set, nothing else changed. -/
def State.goto (s : State) (t : Word) : State := s.modCur (fun c => { c with pc := t })

/-- A jump to a register's value: bit 0 set raises MISALIGN with `faddr` the target (R174, R202). -/
def State.jumpTo (s : State) (t : Word) : Out :=
  s.run (do
    must (!t.getLsbD 0) (misalign t 3 1)
    .ok (s.goto t))

/-- `bz gs, label` (R201). -/
def execBz (o : BROps) (s : State) : Out := .next (if s.g o.s = 0#64 then s.goto (s.target o.off) else s.endBase [])
/-- `bnz gs, label` (R201). -/
def execBnz (o : BROps) (s : State) : Out := .next (if s.g o.s ≠ 0#64 then s.goto (s.target o.off) else s.endBase [])
/-- `jmp` (R202). -/
def execJmp (o : JOps) (s : State) : Out := .next (s.goto (s.target o.off))
/-- `call`: `g1` takes the address after the instruction (R202). -/
def execCall (o : JOps) (s : State) : Out :=
  .next (s.modCur (fun c => { c.setG 1#5 (c.pc + s.len) with pc := c.pc + 2#64 * o.off }))
/-- `jr ga` (R202). -/
def execJr (o : JrOps) (s : State) : Out := s.jumpTo (s.g o.a)
/-- `ret`: to `g1` (R202). -/
def execRet (s : State) : Out := s.jumpTo (s.g 1#5)
/-- `nop` (R202). -/
def execNop (s : State) : Out := .next (s.endBase [])

/-- `done` (R78, R203): an eft with nothing outstanding releases its buffers, records its result word and becomes IDLE; with
instructions outstanding it is WAITING until they complete. The control context releases its buffers and waits for its efts. -/
def execDone (s : State) : Out :=
  let h := s.now.h
  let k := s.now.k
  if k = 0 then
    if s.cur.out ≠ [] then s.stop (.wait .retry)
    else .next ((s.modCore h (fun c => c.releaseBufs 0)).modCur (fun c => { c with state := .waiting .done }))
  else if s.cur.out = [] then .next (s.endEft h k)
  else .next (s.modCur (fun c => { c with state := .waiting .done }))

/-- `yield` (R204): arbitration passes over the context until every other context now READY has issued or stopped being
READY. -/
def execYield (s : State) : Out :=
  let h := s.now.h
  let others := (List.range 11).filter (fun k => k != s.now.k && (s.ctx h k).state == .ready)
  .next ((s.modCur (fun c => { c with yields := others })).endBase [])

/-- `brk code` (R205). -/
def execBrk (o : BrkOps) (s : State) : Out := .next (s.raise .brk 0#64 (o.k.setWidth 64))

/-- `sys` (R224). -/
def execSys (_o : L0) (s : State) : Out := .next (s.raise .sys 0#64 0#64)

/-- `start gd, ga, gb, gc` (R221). -/
def execStart (o : L4) (s : State) : Out :=
  let entry := s.g o.a
  let h := s.now.h
  s.run (do
    must (!entry.getLsbD 0) (misalign entry 3 1)
    must (decide (entry.toNat < NW)) (illegal11 0)
    match s.idleEft h with
    | none => .ok (s.endLong o.l [.g o.d 0#64])
    | some e =>
      .ok ((s.begin h e entry (s.g o.b) (s.g (cReg o.c)) 0#64 true none).endLong o.l [.g o.d (BitVec.ofNat 64 e)]))

/-- A `join` of eft e may complete: the eft is IDLE and the dispatcher has nothing to start on it (R222). -/
def State.joinReady (s : State) (h e : Nat) : Bool := (s.ctx h e).state == .idle && !s.canStart h

/-- `join gd, ga` (R222). -/
def execJoin (o : L2) (s : State) : Out :=
  let e := s.g o.a
  s.run (do
    must (decide (1 ≤ e.toNat ∧ e.toNat ≤ 10) && e.toNat != s.now.k) (illegal11 0)
    must (s.joinReady s.now.h e.toNat) (.wait (.join o.d e.toNat))
    .ok (s.endLong o.l [.g o.d (s.ctx s.now.h e.toNat).result]))

/-- The state code of `ctxq`. -/
def CtxState.code : CtxState → Nat
  | .idle => 0
  | .ready => 1
  | .waiting _ => 2
  | .parked => 3

/-- `ctxq gd, ga` (R223). -/
def execCtxq (o : L2) (s : State) : Out :=
  let k := (s.g o.a).toNat
  let c := s.ctx s.now.h k
  let code := if k = s.now.k then 1 else c.state.code
  s.run (do
    must (decide (k ≤ 10)) (illegal11 0)
    .ok (s.endLong o.l [.g o.d (BitVec.ofNat 64
      ((if c.byStart then 8 else 0) + (if c.layer.isSome then 4 else 0) + code))]))

end Sys2Proof.Machine
end

