-- ==== Sys2Proof/Machine/Tiles.lean ====
section
/-! DEFINITION. Tile transfers, macro loads, drains and long arrays: page 9 majors 0 and 2 (R253 .. R259, R262 .. R265). -/

namespace Sys2Proof.Machine

/-! ## Operands -/

/-- A row run (R254): its first row and number of rows, or nothing when a reserved bit is set or it passes row 15. -/
def runOf (g : Word) : Option (Nat × Nat) :=
  let first := bits g 3 0
  let n := 16 - bits g 7 4
  if bits g 63 8 ≠ 0 ∨ 16 < first + n then none else some (first, n)

/-- The run of a register: ILLEGAL, reason 11, otherwise. -/
def State.run? (s : State) (b : Reg) : Except Stop (Nat × Nat) :=
  match runOf (s.g b) with
  | some r => .ok r
  | none => .error (illegal11 0)

/-- An operand in the core's own local memory: the offset of its first byte (R253). -/
def State.ownOff (s : State) (va n : Nat) : Except Stop Nat := do
  let (h, off) ← s.nearLoc va n
  must (h == s.now.h) (windowAt (BitVec.ofNat 64 va))
  .ok off

/-- A location in the executing core's local memory. -/
def State.ownLoc (s : State) (off : Nat) : Loc := ⟨.local_ s.now.h, localKey s.now.h off⟩

/-- The skew-mode buffer that holds a local offset (R51). -/
def Core.skewBuf (c : Core) (off : Nat) : Option Buf :=
  ((List.range 32).map c.buf).find? (fun b => b.live && b.skew && decide (b.first ≤ off) && decide (off < b.first + b.bytes))

/-- Row 0 of a tile at an address: MISALIGN by R255; whether the tile is stored in skew mode. -/
def State.tileAt (s : State) (va acc : Nat) : Except Stop Bool :=
  let b := match s.ownOff va 1 with | .ok off => (s.me.skewBuf off).map (fun b => (off - b.first) % 2048 == 0) | .error _ => none
  match b with
  | some true => .ok true
  | some false => .error (misalign (BitVec.ofNat 64 va) acc 11)
  | none => do
    must (va % 128 == 0) (misalign (BitVec.ofNat 64 va) acc 7)
    .ok false

/-- The granules of the n rows of a tile from row `first` on, which is at a local offset, row by row and word by word (R51, R255). -/
def State.tileGranules (s : State) (off first n : Nat) (skew : Bool) : List (Loc × Nat) :=
  (List.range n).flatMap (fun i => (List.range 16).map (fun w =>
    (s.ownLoc (off + 128 * i + (w + if skew then first + i else 0) % 16 * 8), 8)))

/-- The granules of a range of own local memory. -/
def State.ownGranules (s : State) (off n : Nat) : List (Loc × Nat) := (List.range (n / 8)).map (fun i => (s.ownLoc (off + 8 * i), 8))

/-- The checks of a range of own local memory: WINDOW, BUFSTATE, and for a read its data. -/
def State.ownRange (s : State) (va n : Nat) (rd wr : Bool) : Except Stop Nat := do
  let off ← s.ownOff va n
  s.checkBuf s.now.h off n va wr
  (if rd then s.checkData va (s.ownLoc off) n false else .ok ())
  .ok off

/-! ## `tld` and `tst` (R255) -/

/-- `tld td, [ga], gb`. -/
def execTld (o : TMemOps) (s : State) : Out :=
  let va := (s.g o.a).toNat
  s.run (do
    let (first, n) ← s.run? o.b
    let skew ← s.tileAt va 0
    let off ← s.ownRange (va + 128 * first) (128 * n) true false
    .ok (s.loadParts o.l 0#2 0#64 (.tile o.d first) (s.tileGranules off first n skew)))

/-- `tst [ga], td, gb`. -/
def execTstTile (o : TMemOps) (s : State) : Out :=
  let va := (s.g o.a).toNat
  s.run (do
    let (first, n) ← s.run? o.b
    let skew ← s.tileAt va 1
    let off ← s.ownRange (va + 128 * first) (128 * n) false true
    let bs := (List.range n).flatMap (fun i => leBytes 128 (s.me.tileRow o.d (first + i)).toNat)
    .ok (s.storeParts o.l 0#2 0#64 (deal (s.tileGranules off first n skew) bs) []))

/-! ## `tget` and `tset` (R256) -/

/-- The limit of a slice index. -/
def sliceLimit (col : Bool) (esz : BitVec 2) : Nat := if col then 128 / 2 ^ esz.toNat else 16

/-- `tget.sel vd, ta, gb`. -/
def execTget (o : TGetOps) (s : State) : Out :=
  let i := (s.g o.b).toNat
  let w := 8 * 2 ^ o.esz.toNat
  s.run (do
    must (decide (i < sliceLimit o.col o.esz)) (illegal11 0)
    .ok (s.endLong o.l [.v o.d (if o.col then
      ofLanes w ((List.range 16).map (fun r => (s.me.tileRow o.a r).toNat / 2 ^ (w * i) % 2 ^ w))
      else s.me.tileRow o.a i)]))

/-- `tset.sel td, va, gb`. -/
def execTset (o : TSetOps) (s : State) : Out :=
  let i := (s.g o.b).toNat
  let w := 8 * 2 ^ o.esz.toNat
  s.run (do
    must (decide (i < sliceLimit o.col o.esz)) (illegal11 0)
    .ok (s.endLong o.l (if o.col then
      (List.range 16).map (fun r =>
        .tile o.d r (ofLanes w ((lanes w (s.me.tileRow o.d r)).set i ((lanes w (s.v o.a)).getD r 0))))
      else [.tile o.d i (s.v o.a)])))

/-! ## `tzero` (R257) -/

/-- `tzero.t td, gb`. -/
def execTzeroT (o : TZeroTOps) (s : State) : Out :=
  s.run (do
    let (first, n) ← s.run? o.b
    .ok (s.endLong o.l (tileWrites o.d first (List.replicate n 0#1024))))

/-- The accumulators of rows of a run cleared. -/
def Core.zeroAccs (c : Core) (first n : Nat) : Core :=
  { c with acc := c.acc.filter (fun p => !(decide (32 * first ≤ p.1) && decide (p.1 < 32 * (first + n)))) }

/-- `tzero.acc gb`, `tzero.acc.red gb`. -/
def execTzeroAcc (o : TZeroAccOps) (s : State) : Out :=
  s.run (do
    let (first, n) ← s.run? o.b
    .ok ((s.modMe (fun c => { c.zeroAccs first n with accMode := o.red })).endLong o.l []))

/-- A long-array address: 64-byte aligned (R257, R263 .. R265). -/
def longAligned (va acc : Nat) : Except Stop Unit := must (va % 64 == 0) (misalign (BitVec.ofNat 64 va) acc 6)

/-- `tzero.x [ga], gb`. -/
def execTzeroX (o : LAB) (s : State) : Out :=
  let va := (s.g o.a).toNat
  s.run (do
    let (first, n) ← s.run? o.b
    longAligned va 1
    let off ← s.ownRange (va + 2048 * first) (2048 * n) false true
    .ok (s.storeParts o.l 0#2 0#64 ((s.ownGranules off (2048 * n)).map (fun p => (p.1, List.replicate 8 0#8))) []))

/-! ## `mcld` and `mctab` (R258, R259) -/

/-- ILLEGAL for the base word, with a reason (R177). -/
def State.badWord (s : State) (reason : Nat) : Stop :=
  let i := s.now.words.length - 1
  .trap .illegal (s.cur.pc + BitVec.ofNat 64 (2 * i))
    (BitVec.ofNat 64 ((s.now.words.getLastD 0#16).toNat * 65536 + i * 256 + reason))

/-- The bytes of an image (R96). -/
def imageBytes : Nat → Nat
  | 0 => 2048
  | 1 => 2304
  | _ => 4352

/-- `mcld.kind md, [ga]`: its checks in the order of R258. -/
def execMcld (o : McldOps) (s : State) : Out :=
  let va := (s.g o.a).toNat
  let n := imageBytes o.kind.toNat
  s.run (do
    must (va % 128 == 0) (misalign (BitVec.ofNat 64 va) 0 7)
    must (o.kind != 2#2 || o.d == 0#1) (s.badWord 9)
    let off ← s.ownRange va n true false
    .ok (s.loadParts o.l 0#2 0#64 (.bank o.d o.kind.toNat) (s.ownGranules off n)))

/-- `mctab md, va`. -/
def execMctab (o : MctabOps) (s : State) : Out :=
  .next ((s.modMe (fun c => c.setBank o.d { c.bankOf o.d with table := (s.v o.a).setWidth 256 })).endLong o.l [])

/-! ## `mdrain` (R105, R108, R262) -/

/-- The register writes of a drain of all accumulators into a tile. -/
def Core.drainWrites (c : Core) (d : TReg) (fmt : Nat) (hi : Bool) : List RegWrite :=
  let accs := (List.range 512).map c.accum
  (List.range 16).map (fun i =>
    .tile d i (drainRow fmt hi (c.tileRow d i)
      (((accs.drop (32 * i)).take 32).map (fun a => (a.drain (drainFmt fmt)).1)))) ++ drainFlags (drainFmt fmt) accs

/-- A precise trap after an effect: the writes are made, and the trap names the instruction, which has issued, so that `rpc` lies past
it (R108, R219). -/
def State.writeTrap (s : State) (ws : List RegWrite) (c : Cause) (addr info : Word) : State :=
  (s.complete s.now.h s.now.k ws).raiseAt s.now.h s.now.k s.serial c.code s.cur.pc (s.cur.pc + s.len) addr info

/-- `mdrain.fmt td`: in redundant mode it waits for its partner, or raises REDUNDANT with nopart when there is none. -/
def execMdrain (o : MdrainOps) (s : State) : Out :=
  let ws := s.me.drainWrites o.d o.fmt.toNat o.hi
  if !s.me.accMode then .next (s.endLong o.l ws)
  else if !s.liveFor s.me (partnerOf s.now.h) then .next (s.writeTrap ws .redundant s.me.tileid 0x8000_0000#64)
  else s.stop (.wait (.drain o.d o.fmt o.hi s.len))

/-! ## Long arrays (R263 .. R265) -/

/-- The eight granules of an element at a location. -/
def elemLocs (sp : Space) (a : Nat) : List Loc := (List.range 8).map (fun i => ⟨sp, a + 8 * i⟩)

/-- An `xacc` or `xadd` of n elements, whose accesses are granule loads and stores of the tile port (R253): its effect at once where
every access may take its step and the turn does not defer it, with `ws` the new elements; else its loads and the writes that follow
from them enter the post queue, element by element. -/
def State.elemParts (s : State) (l : BitVec 4) (dst : Nat) (src : Option (Space × Nat)) (n : Nat) (sub : Bool) (accs : List Acc)
    (ws : List (Nat × List Byte)) : State :=
  let own : Space := .local_ s.now.h
  let dLoc : Loc := ⟨own, dst⟩
  let free := s.canWrite dLoc (64 * n) 0#2 0#64 && s.canLoad dLoc (64 * n) &&
    (match src with | some p => s.canLoad ⟨p.1, p.2⟩ (64 * n) | none => true)
  if !s.now.defer && free then
    let s1 := match src with | some p => s.readParts s.serial [(⟨p.1, p.2⟩, 64 * n)] | none => s
    (ws.foldl (fun t w => t.performOrRefuse s.now.h s.now.k ⟨own, w.1⟩ w.2) s1).endLong l []
  else
    let put (t : State) (kind : PKind) (ls : List Loc) : State := ls.foldl (fun t x => t.enqueue ⟨s.serial, 0#2, 0#64, x, kind, 0⟩) t
    ((List.range n).foldl (fun t i =>
      let d := elemLocs own (dst + 64 * i)
      let t1 := put t (.load 8 none) d
      let t2 := match src with | some p => put t1 (.load 8 none) (elemLocs p.1 (p.2 + 64 * i)) | none => t1
      put t2 (.later 8) d) s).stay l [] (.loads (.elems dst sub accs))

/-- `xacc [ga]`. -/
def execXacc (o : LA) (s : State) : Out :=
  let va := (s.g o.a).toNat
  s.run (do
    longAligned va 2
    let off ← s.ownRange va 32768 true true
    let accs := (List.range 512).map s.me.accum
    let dst := localKey s.now.h off
    let olds := byteRows 64 (s.look (s.ownLoc off) 32768)
    let ws := (List.zipWith (fun x (a : Acc) => addElement (leNat x) a.v a) olds accs).zipIdx.map (fun p => (dst + 64 * p.2, p.1))
    .ok (s.elemParts o.l dst none 512 false accs ws))

/-- The elements of `xadd` in order, each reading what earlier ones wrote: `rd` reads 64 bytes under the writes so far. -/
def xaddAll (sub : Bool) (rd : List (Nat × List Byte) → Nat → List Byte) (dst src : Nat) :
    Nat → List (Nat × List Byte) → List (Nat × List Byte)
  | 0, ws => ws
  | n + 1, ws =>
    xaddAll sub rd (dst + 64) (src + 64) n
      (ws ++ [(dst, xaddElement sub (leNat (rd ws dst)) (leNat (rd ws src)))])

/-- 64 bytes at a local key, as the executing context sees them under writes of its own. -/
def State.lookUnder (s : State) (h : Nat) (ws : List (Nat × List Byte)) (a : Nat) : List Byte :=
  let hit := ws.filter (fun w => overlap w.1 64 a 64)
  (s.look ⟨.local_ h, a⟩ 64).zipIdx.map (fun p => (newest hit (a + p.2)).getD p.1)

/-- `xadd [ga], [gb], gc`: the source may be a cluster peer's. -/
def execXadd (o : XaddOps) (s : State) : Out :=
  let va := (s.g o.a).toNat
  let vb := (s.g o.b).toNat
  s.run (do
    let (first, n) ← s.run? (cReg o.c)
    longAligned va 2
    longAligned vb 0
    let da := va + 2048 * first
    let db := vb + 2048 * first
    let off ← s.ownOff da (2048 * n)
    let (h, src) ← s.nearLoc db (2048 * n)
    s.checkBuf s.now.h off (2048 * n) da true
    s.checkBuf h src (2048 * n) db false
    s.checkData da (s.ownLoc off) (2048 * n) false
    s.checkData db ⟨.local_ h, localKey h src⟩ (2048 * n) false
    let ws := xaddAll o.sub (fun ws a => s.lookUnder (if a / 2 ^ 17 = localKey h src / 2 ^ 17 then h else s.now.h) ws a)
      (localKey s.now.h off) (localKey h src) (32 * n) []
    .ok (s.elemParts o.l (localKey s.now.h off) (some (.local_ h, localKey h src)) (32 * n) o.sub [] ws))

/-- `xrnd.fmt td, [ga], gb`. -/
def execXrnd (o : XrndOps) (s : State) : Out :=
  let va := (s.g o.a).toNat
  s.run (do
    let (first, n) ← s.run? o.b
    longAligned va 0
    let off ← s.ownRange (va + 2048 * first) (2048 * n) true false
    .ok (s.loadParts o.l 0#2 0#64
      (.rounded o.d o.fmt.toNat o.hi first ((List.range n).map (fun i => s.me.tileRow o.d (first + i))))
      (s.ownGranules off (2048 * n))))

end Sys2Proof.Machine
end

