-- ==== Sys2Proof/Machine/EventUnit.lean ====
section
/-! DEFINITION. The event unit of a core (R81 .. R94): sending, arrival, spill, layers and handler tasks; `evtab`, `evpop`, `evadv`,
`pennant` (R297 .. R300), `sdenc` (R251), and their events. -/

namespace Sys2Proof.Machine

/-! ## Scopes that instructions imply -/

/-- The scope of kind 3 (R129): the partition device's own memory and the host, "system". -/
def sysScope : Word := 0x3_0000_0000#64
/-- The scope of the own core. -/
def coreScope : Word := 0x2_0000_0000#64
/-- The rectangle of a die's cores (R296). -/
def dieScope (h : Nat) : Word :=
  let x := hx h / 32 * 32
  let y := hy h / 32 * 32
  BitVec.ofNat 64 (x + y * 2 ^ 8 + (x + 31) * 2 ^ 16 + (y + 31) * 2 ^ 24)

/-- The instruction waits until R134's release condition holds at the scope for the context's earlier accesses. -/
def State.afterRelease (s : State) (v : Word) : Except Stop Unit := must (s.canRelease v) (.wait .retry)

/-- Parts of local memory that an instruction reads and writes at issue, in program order with the context's earlier accesses. -/
def State.mayStore (s : State) (ps : List (Loc × Nat)) : Except Stop Unit :=
  must (ps.all (fun p => s.canWrite p.1 p.2 0#2 0#64)) (.wait .retry)

/-! ## Event words (R81) -/

/-- The destination core. -/
def evDst (w : Word) : Nat := bits w 63 48
/-- The pennant bit. -/
def evPen (w : Word) : Bool := w.getLsbD 40
/-- The sender's step modulo 4. -/
def evStep (w : Word) : Nat := bits w 39 38
/-- The layer. -/
def evLayer (w : Word) : Nat := bits w 37 32
/-- The delta. -/
def evDelta (w : Word) : Int := sgnOf16 (bits w 31 16)
where sgnOf16 (x : Nat) : Int := (BitVec.ofNat 16 x).toInt
/-- The element index. -/
def evIndex (w : Word) : Nat := bits w 15 0
/-- An event. -/
def evWord (dst : Nat) (pen : Bool) (step layer : Nat) (delta : Int) (index : Nat) : Word :=
  BitVec.ofNat 64 (dst * 2 ^ 48 + (if pen then 2 ^ 40 else 0) + step % 4 * 2 ^ 38 + layer % 64 * 2 ^ 32
    + (BitVec.ofInt 16 delta).toNat * 2 ^ 16 + index % 65536)

/-! ## Layers (R83, R88, R89) -/

/-- The relative step of a two-bit step. -/
def Layer.rel (l : Layer) (step : Nat) : Nat := (step + 4 - l.step.toNat % 4) % 4
/-- The inbox entries of the current step of layer i. -/
def Core.stepEntries (c : Core) (i : Nat) : List InEntry :=
  c.inbox.filter (fun e => e.layer == i && (c.layer i).rel e.step == 0)
/-- Step end by an entry that expects n pennants (R88). -/
def Core.stepEndBy (c : Core) (i n : Nat) : Bool := (c.layer i).p0 == n && (c.stepEntries i).isEmpty
/-- Step end (R88). -/
def Core.stepEnd (c : Core) (i : Nat) : Bool := c.stepEndBy i (c.layer i).pennants
/-- Step end for a running handler of layer i, by the entry it keeps (R297). -/
def Core.stepEndFor (c : Core) (x : Ctx) (i : Nat) : Bool := c.stepEndBy i (bits x.hentry 31 24)
/-- The layer advances (R89). -/
def Layer.advance (l : Layer) : Layer := { l with step := l.step + 1#32, p0 := l.p1, p1 := l.p2, p2 := 0 }

/-- A handler of layer i is live on core h. -/
def State.handlerLive (s : State) (h i : Nat) : Bool :=
  (List.range 11).any (fun k => (s.ctx h k).layer == some i && (s.ctx h k).state != .idle)

/-- A handler task is due for layer i (R88). -/
def State.handlerDue (s : State) (h i : Nat) : Bool :=
  let c := s.core h
  let l := c.layer i
  l.valid && l.pending.isNone && !s.handlerLive h i && (decide (l.batch + 1 ≤ (c.stepEntries i).length) || c.stepEnd i)

/-- The handler record (R88). -/
def Core.handlerTask (c : Core) (i : Nat) : Task :=
  let l := c.layer i
  { w0 := BitVec.ofNat 64 (3 * 2 ^ 56 + (c.evbase.toNat + bits l.entry 63 32) % 2 ^ 52)
    slots := BitVec.ofNat 32 (128 + l.stateBuf)
    arg0 := BitVec.ofNat 64 i
    arg1 := l.step.setWidth 64
    layer := some i }

/-- HANDLER_TASK_CREATE (R88): layer l of core c. -/
def execEvHandlerTaskCreate (c l : Nat) (s : State) : Out :=
  .next (if s.handlerDue c l && (s.core c).launch.isSome && !(s.core c).ended then
    s.modCore c (fun x => x.setLayer l { x.layer l with pending := some (x.handlerTask l) }) else s)

/-! ## Arrival (R82 .. R86) -/

/-- A pennant is counted at its relative step. One that `evtab` has left at relative step 3 before it was refilled is not counted
(DESIGN CHOICE, log entry 55). -/
def Core.countPennant (c : Core) (layer step : Nat) : Core :=
  let l := c.layer layer
  c.setLayer layer (match l.rel step with
    | 0 => { l with p0 := l.p0 + 1 }
    | 1 => { l with p1 := l.p1 + 1 }
    | 2 => { l with p2 := l.p2 + 1 }
    | _ => l)

/-- The entry merges with the newest one of its layer, index and step, where the sum fits (R83). -/
def mergeInbox (e : InEntry) (es : List InEntry) : Option (List InEntry) :=
  let rec go : List InEntry → Option (List InEntry)
    | [] => none
    | x :: xs =>
      if x.layer = e.layer ∧ x.index = e.index ∧ x.step = e.step then
        if -32768 ≤ x.delta + e.delta ∧ x.delta + e.delta ≤ 32767 then some ({ x with delta := x.delta + e.delta } :: xs)
        else none
      else (go xs).map (fun ys => x :: ys)
  (go es.reverse).map List.reverse

/-- An event enters the inbox: a pennant is counted, an event merges or takes an entry; nothing when no entry is free (R83). -/
def Core.intoInbox (c : Core) (w : Word) : Option Core :=
  if evPen w then some (c.countPennant (evLayer w) (evStep w))
  else
    let e : InEntry := ⟨evLayer w, evStep w, evIndex w, evDelta w⟩
    match mergeInbox e c.inbox with
    | some es => some { c with inbox := es }
    | none => if c.inbox.length < 256 then some { c with inbox := c.inbox ++ [e] } else none

/-- Where a unit of core h reads or writes 8 bytes at a virtual address of its device context, if it may (R85). -/
def State.unitLoc (s : State) (h va : Nat) (need : Need) : Option Loc :=
  if NW ≤ va then none
  else match s.translate h va with
    | .leaf e lvl =>
      if permReason e need false = 0 then some ⟨leafSpace (s.devOf (hdie h)) e, leafKey e lvl va⟩ else none
    | _ => none

/-- The base of the spill area that applies: a pending write counts once the area is empty (R86). -/
def Core.spillArea (c : Core) : Word := if c.spillN = 0 then c.spillnext.getD c.spillbase else c.spillbase

/-- The address of entry i of the spill ring. -/
def Core.spillAddr (c : Core) (i : Nat) : Nat := c.spillArea.toNat + 8 * (i % 2 ^ 20)

/-- A NACK is counted; `spf` is set when a spill write failed. -/
def State.nack (s : State) (h : Nat) (fail : Bool) : State :=
  s.modCore h (fun c => { c with nacks := (c.nacks + 1) % 65536, spf := c.spf || fail })

/-- An event reaches core h (an image while the core is out): the state, and whether it was accepted (R78, R83, R85, R94). -/
def State.accept (s : State) (h : Nat) (w : Word) : State × Bool :=
  let c := s.core h
  if c.ended then (s.modCore h (fun c => { c with lostEvents := c.lostEvents + 1 }), true)
  else if (c.layer (evLayer w)).rel (evStep w) = 3 then (s.nack h false, false)
  else if c.spillN ≠ 0 ∨ 256 ≤ c.inbox.length ∨ 65536 ≤ h then
    if 2 ^ 20 ≤ c.spillN ∨ c.spillArea = 0#64 then (s.nack h false, false)
    else
      match (s.unitLoc h (c.spillAddr (c.spillAt + c.spillN)) { wr := true }).filter (fun l => !s.writeLost (s.devOf (hdie h)) l 8) with
      | none => (s.nack h true, false)
      | some loc =>
        ((s.putPoc loc.space loc.at_ (leBytes 8 w.toNat)).modCore h (fun c =>
          { c with spillbase := c.spillArea, spillnext := if c.spillN = 0 then none else c.spillnext, spillN := c.spillN + 1 }),
         true)
  else
    match c.intoInbox w with
    | some c' => (s.setCore h c'.stir, true)
    | none => (s.nack h false, false)

/-- The oldest queued event of a core for a destination. -/
def Core.headFor (c : Core) (dst : Nat) : Option QEvent := c.sendq.find? (fun e => evDst e.w == dst)

/-- An accepted event leaves the send queue; its instruction has no more to wait for when none of its events is left (R84). -/
def State.dequeue (s : State) (h : Nat) (e : QEvent) : State :=
  let s1 := s.modCore h (fun c => { c with sendq := c.sendq.erase e, holds := SMap.del c.holds (evDst e.w) })
  if (s1.core h).sendq.any (fun x => x.id == e.id) then s1
  else s1.modCtx h e.k (fun c => c.modOut e.id (fun o => match o.pend with | .events => { o with pend := .ready } | _ => o))

/-- The head event of core h for a destination arrives there (R82 .. R84). -/
def State.sendHead (s : State) (h dst : Nat) : State :=
  match (s.core h).headFor dst with
  | none => s
  | some e =>
    let (t, ok) := s.accept (s.handleFor (s.core h) dst) e.w
    if ok then t.dequeue h e
    else t.modCore h (fun c => { c with holds := SMap.put c.holds dst (c.cycle.toNat + 64) })

/-- EVENT_ARRIVAL (R83): the oldest event of core c for destination core x, whose channel no NACK holds. -/
def execEvEventArrival (c x : Nat) (s : State) : Out :=
  .next (if c < 65536 ∧ !SMap.has (s.core c).holds x then s.sendHead c x else s)

/-- NACK_RESEND_TIMER (R84): the head of core c's held channel to x is sent again after 64 cycles. -/
def execEvNackResendTimer (c x : Nat) (s : State) : Out :=
  .next (if c < 65536 ∧ SMap.has (s.core c).holds x ∧ SMap.get (s.core c).holds 0 x ≤ (s.core c).cycle.toNat then s.sendHead c x
    else s)

/-- The oldest event in a core's spill area; nothing when the read fails translation or permission, or its data fail, and then the
event stays where it is (DESIGN CHOICE, log entry 55). -/
def State.spillHead (s : State) (h : Nat) : Option Word :=
  let c := s.core h
  if c.spillN = 0 then none
  else (s.unitLoc h (c.spillAddr c.spillAt) { rd := true }).bind (fun loc =>
    if (s.dataError (s.devOf (hdie h)) loc 8 false).isSome then none else some (BitVec.ofNat 64 (leNat (s.pocBytes loc.space loc.at_ 8))))

/-- A spilled event moves to the inbox, when there is room for it; a pennant or an event that merges needs no free entry, and moves
while all 256 are occupied too (R83; DESIGN CHOICE, log entry 55). -/
def State.refill (s : State) (h : Nat) : Option State :=
  (s.spillHead h).bind (fun w => ((s.core h).intoInbox w).map (fun c =>
    s.setCore h { c.stir with spillAt := (c.spillAt + 1) % 2 ^ 20, spillN := c.spillN - 1 }))

/-- SPILL_REFILL (R83): the oldest spilled event of core c. -/
def execEvSpillRefill (c : Nat) (s : State) : Out := .next (if c < 65536 then (s.refill c).getD s else s)

/-- SPILLBASE_SWITCH (R86): the area of core c is empty and a write of `spillbase` is pending. -/
def execEvSpillbaseSwitch (c : Nat) (s : State) : Out :=
  .next (s.modCore c (fun x => if x.spillN = 0 then { x with spillbase := x.spillArea, spillnext := none } else x))

/-! ## `evtab`, `evpop`, `evadv` -/

/-- An entry that R297 refuses. -/
def evtabBad (e : Word) : Bool :=
  bits e 16 13 != 0 || bits e 7 0 != 0 || e.getLsbD 32 || (e.getLsbD 17 && bits e 31 24 == 0)

/-- `evtab ga, gb` (R297). -/
def execEvtab (o : LAB) (s : State) : Out :=
  let i := s.g o.a
  let e := s.g o.b
  s.run (do
    must (bits i 63 6 == 0) (illegal11 0)
    must (!evtabBad e) (illegal11 0)
    .ok ((s.modMe (fun c => c.setLayer i.toNat { entry := e })).endLong o.l []))

/-- The layer of the running handler; ILLEGAL, reason 11, in any other context. -/
def State.myLayer (s : State) : Except Stop Nat :=
  match s.cur.layer with
  | some i => .ok i
  | none => .error (illegal11 0)

/-- The result of `evpop` for an inbox entry (R89). -/
def popWord (e : InEntry) : Word := BitVec.ofInt 64 (e.delta * 2 ^ 32) + BitVec.ofNat 64 e.index

/-- `evpop gd` (R89, R298). -/
def execEvpop (o : LD) (s : State) : Out :=
  s.run (do
    let i ← s.myLayer
    let c := s.me
    match c.stepEntries i with
    | e :: _ =>
      .ok ((s.modMe (fun c => { c.stir with inbox := c.inbox.erase e, evcnt := c.evcnt + 1#64 })).endLong o.l [.g o.d (popWord e)])
    | [] =>
      if c.stepEndFor s.cur i then
        .ok ((s.acquired s.now.h sysScope).endLong o.l
          [.g o.d (BitVec.ofNat 64 ((c.layer i).step.toNat * 2 ^ 32 + 0xFFFF_FFFE))])
      else .ok (s.endLong o.l [.g o.d (~~~0#64)]))

/-- `evadv` takes its effect on core h: the layer advances, with an acquire at system scope (R89, R150, R299). -/
def State.advanceLayer (s : State) (h i : Nat) : State :=
  (s.modCore h (fun c => c.setLayer i (c.layer i).advance)).acquired h sysScope

/-- `evadv` (R299). -/
def execEvadv (o : L0) (s : State) : Out :=
  s.run (do
    let i ← s.myLayer
    must (s.me.stepEndFor s.cur i) (.wait .evadv)
    .ok ((s.advanceLayer s.now.h i).endLong o.l []))

/-- A waiting instruction has taken its effect: its writes are made and its context goes on after it. -/
def State.endWait (s : State) (h k : Nat) (ws : List RegWrite) : State :=
  s.modCtx h k (fun c => { (c.writes ws).advance c.wlen with state := .ready })

/-- EVADV_STEP_END (R299): the `evadv` in which context k of core c waits. -/
def execEvEvadvStepEnd (c k : Nat) (s : State) : Out :=
  let x := s.ctx c k
  .next (match x.state, x.layer with
    | .waiting .evadv, some i => if c < 65536 ∧ (s.core c).stepEndFor x i then (s.advanceLayer c i).endWait c k [] else s
    | _, _ => s)

/-! ## Fan-out groups (R91, R92) -/

/-- A fan-out group: theta, qmax, step, and its destinations (core, index offset, layer). -/
structure Group where
  theta : Nat
  qmax  : Nat
  step  : Nat
  dests : List (Nat × Nat × Nat)
  deriving DecidableEq, Repr

/-- The local offset of group k. -/
def Core.groupOff (c : Core) (k : Nat) : Nat := (c.fobase.toNat + 64 * k) % 2 ^ 17

/-- A field of n bytes at an offset of a byte list. -/
def bytesAt (bs : List Byte) (off n : Nat) : Nat := leNat ((bs.drop off).take n)

/-- The group that 64 bytes hold, when it passes R92; `lanebase` is absent for `pennant`, which has no index. `live` tells the
live cores of the launch. The reserved byte and bits of an entry d that is not below ndest are not checked (DESIGN CHOICE, log entry 59). -/
def readGroup (live : Nat → Bool) (bs : List Byte) (lanebase : Option Nat) : Option Group :=
  let theta := bytesAt bs 0 4
  let qmax := bytesAt bs 4 4
  let n := bytesAt bs 12 1
  let ds := (List.range n).map (fun d => (bytesAt bs (16 + 6 * d) 2, bytesAt bs (18 + 6 * d) 2, bytesAt bs (20 + 6 * d) 2))
  let ok := decide (1 ≤ theta ∧ theta ≤ qmax ∧ qmax ≤ 0x7FFF ∧ n ≤ 8) && bytesAt bs 13 3 == 0 &&
    ds.all (fun d => decide (d.2.2 < 64) && live d.1 &&
      (match lanebase with | some b => decide (d.2.1 + b + 31 ≤ 0xFFFD) | none => true))
  if ok then some ⟨theta, qmax, bytesAt bs 8 4, ds⟩ else none

/-- The send queue's free places: entries and those reserved by a `pennant` that has not placed its markers yet (R84). -/
def State.sendRoom (s : State) (h : Nat) : Nat :=
  512 - ((s.core h).sendq.length + (List.range 11).foldl (fun a k => (s.ctx h k).out.foldl (fun a o =>
    match o.pend with | .pennants es => a + es.length | _ => a) a) 0)

/-- Events enter the send queue under an instruction's serial number (R84). -/
def Core.enqueueEvents (c : Core) (id k : Nat) (ws : List Word) : Core :=
  { c with sendq := c.sendq ++ ws.map (fun w => ⟨id, k, w⟩) }

/-- The group at issue: read in program order with the context's other accesses, and checked. -/
def State.group (s : State) (k : Nat) (lanebase : Option Nat) : Except Stop Group := do
  let off := s.me.groupOff k
  s.mayLoad [(s.ownLoc off, 64)]
  match readGroup (s.liveFor s.me) (s.look (s.ownLoc off) 64) lanebase with
  | some g => .ok g
  | none => .error (illegal11 (BitVec.ofNat 64 (NW + off)))

/-- `pennant ga` (R300): the step is read and advanced at issue; the markers enter the send queue once the release condition
holds (R150). -/
def execPennant (o : LA) (s : State) : Out :=
  let k := s.g o.a
  let off := s.me.groupOff k.toNat
  s.run (do
    must (bits k 63 4 == 0) (illegal11 0)
    s.checkBuf s.now.h off 64 (NW + off) true
    let g ← s.group k.toNat none
    s.mayStore [(s.ownLoc (off + 8), 4)]
    must (decide (g.dests.length ≤ s.sendRoom s.now.h)) (.wait .retry)
    let ws := g.dests.map (fun d => evWord d.1 true g.step d.2.2 0 0)
    let s1 := s.perform s.now.h (s.ownLoc (off + 8)) (leBytes 4 (g.step + 1))
    if ws = [] then .ok (s1.endLong o.l [])
    else if !s.now.defer && s.canRelease sysScope then
      .ok ((s1.modMe (fun c => c.enqueueEvents s.serial s.now.k ws)).stay o.l [] .events)
    else .ok (s1.stay o.l [] (.pennants ws)))

/-! ## The sigma-delta encoder (R92, R93, R251) -/

/-- One lane: the new acc, the emitted q, and whether acc was clamped. -/
def encodeLane (sat : Bool) (theta qmax : Nat) (y prev acc : Int) : Int × Int × Bool :=
  let sum := acc + (y - prev)
  let (r, hit) := fitLane 32 sat sum
  let a := sLane 32 r
  if theta ≤ a.natAbs then
    let q : Int := theta * Nat.min (a.natAbs / theta) (qmax / theta)
    let q := if a < 0 then -q else q
    (a - q, q, hit)
  else (a, 0, hit)

/-- A lane's value as 4 bytes. -/
def laneBytes (x : Int) : List Byte := leBytes 4 (BitVec.ofInt 32 x).toNat

/-- `sdenc vd, [ga], gb, gc` (R251). State bytes that would run past NW + 0x2_0000 are WINDOW after the alignment check and before the
others (DESIGN CHOICE from R18, log entry 59). -/
def execSdenc (o : SdencOps) (s : State) : Out :=
  let a := (s.g o.a).toNat
  let base := (s.g o.b).toNat
  let gc := s.g (cReg o.c)
  let off := a - NW
  s.run (do
    must (decide (NW ≤ a ∧ off < 0x2_0000)) (windowAt (BitVec.ofNat 64 a))
    must (a % 128 == 0) (misalign (BitVec.ofNat 64 a) 2 7)
    must (decide (off + 256 ≤ 0x2_0000)) (windowAt (BitVec.ofNat 64 (NW + 0x2_0000)))
    must (bits gc 63 4 == 0 && decide (base ≤ 0xFFFD)) (illegal11 0)
    let g ← s.group gc.toNat (some base)
    s.checkBuf s.now.h off 256 a true
    s.mayStore [(s.ownLoc off, 256)]
    let ys := (lanes 32 (s.v o.d)).map (sLane 32)
    let ps := (unpack 32 32 (s.lookNat (s.ownLoc off) 128)).map (sLane 32)
    let as := (unpack 32 32 (s.lookNat (s.ownLoc (off + 128)) 128)).map (sLane 32)
    let rs := List.zipWith (fun y pa => encodeLane o.sat g.theta g.qmax y pa.1 pa.2) ys (List.zip ps as)
    let qs := (rs.map (fun r => r.2.1)).zipIdx.filter (fun q => q.1 != 0)
    let ws := g.dests.flatMap (fun d => qs.map (fun q => evWord d.1 false g.step d.2.2 q.1 (d.2.1 + base + q.2)))
    must (decide (ws.length ≤ s.sendRoom s.now.h)) (.wait .retry)
    let s1 := s.perform s.now.h (s.ownLoc off) (ys.flatMap laneBytes ++ rs.flatMap (fun r => laneBytes r.1))
    let fl := esat (rs.any (fun r => r.2.2))
    if ws = [] then .ok (s1.endLong o.l fl)
    else .ok ((s1.modMe (fun c => c.enqueueEvents s.serial s.now.k ws)).stay o.l fl .events))

end Sys2Proof.Machine
end

