-- ==== Sys2Proof/Machine/Query.lean ====
section
/-! DEFINITION. Page 2 major 0: addresses, coordinates, scopes, identity, homes and the cycle counter (R208 .. R214). -/

namespace Sys2Proof.Machine

/-- A number placed at a bit, as a word. -/
def at_ (x i : Nat) : Word := BitVec.ofNat 64 (x * 2 ^ i)

/-- `lea gd, [ga+gb+imm]` (R208). -/
def execLea (o : LeaOps) (s : State) : Out :=
  .next (s.endLong o.l [.g o.d (BitVec.ofNat 64 ((s.g o.a + s.g o.b + o.imm).toNat % 2 ^ 52))])

/-- The handle that a coordinate names: x in [7:0], y in [15:8] (R209). -/
def coordHandle (a : Word) : Nat := handleOf (bits a 7 0) (bits a 15 8)

/-- The groups of a coordinate, in the layout of R209. -/
def State.coordWord (s : State) (h : Nat) : Word :=
  at_ (if s.liveFor s.me h then 1 else 0) 63 ||| at_ (hy h / 4 * 4) 48 ||| at_ (hx h / 4 * 4) 40 ||| at_ (hdie h) 32
    ||| at_ (peerNo h) 24 ||| at_ (hx h % 32) 16 ||| at_ (hy h) 8 ||| at_ (hx h) 0

/-- `coord gd, ga` (R209). -/
def execCoord (o : L2) (s : State) : Out :=
  s.run (do
    must (bits (s.g o.a) 63 16 == 0) (illegal11 0)
    .ok (s.endLong o.l [.g o.d (s.coordWord (coordHandle (s.g o.a)))]))

/-- The scope of kind 0 with these corners (R210). -/
def rectWord (a b : Word) : Word := at_ (bits a 7 0) 0 ||| at_ (bits a 15 8) 8 ||| at_ (bits b 7 0) 16 ||| at_ (bits b 15 8) 24

/-- `rect gd, ga, gb` (R210). The `finfo` of its SCOPE trap is the scope word that it would have built (DESIGN CHOICE, log entry 57). -/
def execRect (o : L3) (s : State) : Out :=
  let a := s.g o.a
  let b := s.g o.b
  s.run (do
    must (bits a 63 16 == 0 && bits b 63 16 == 0) (illegal11 0)
    s.checkScope (rectWord a b)
    .ok (s.endLong o.l [.g o.d (rectWord a b)]))

/-- The core at a handle is an issuer that the scope contains, for the executing core (R130, R211). -/
def State.scopeHas (s : State) (v : Word) (h : Nat) : Bool :=
  match scopeKind v with
  | 0 =>
    let (x0, y0, x1, y1) := scopeRect v
    s.liveFor s.me h && decide (x0 ≤ hx h ∧ hx h ≤ x1 ∧ y0 ≤ hy h ∧ hy h ≤ y1)
  | 1 | 2 => h == s.now.h % 65536
  | _ => s.liveFor s.me h

/-- `inrect gd, ga, gb` (R211). -/
def execInrect (o : L3) (s : State) : Out :=
  let a := s.g o.a
  let v := s.scopeOf o.b
  s.run (do
    s.checkScope v
    must (bits a 63 16 == 0) (illegal11 0)
    .ok (s.endLong o.l [.g o.d (ofBool64 (s.scopeHas v (coordHandle a)))]))

/-- The instance of a core at a domain (R362). -/
def instKey (dom h : Nat) : Nat :=
  match dom with
  | 0 => 0
  | 1 => hdie h
  | 2 => hy h / 4 * 64 + hx h / 4
  | 3 => chorusOf h
  | _ => h

/-- The cores of a launch, ascending by (die, y, x). -/
def Launch.cores (l : Launch) : List Nat := l.chor.flatMap (fun c => (List.range 32).map (chorusCore c))

/-- The numbers of a list, each once, in the order of their first places. -/
def firsts (l : List Nat) : List Nat := l.foldl (fun acc x => if acc.contains x then acc else acc ++ [x]) []

/-- Level n of a launch (R361, R362). -/
def Launch.level (l : Launch) (n : Nat) : Word := l.packet.getD (8 + n) 0#64
/-- The number of its levels. -/
def Launch.nlev (l : Launch) : Nat := bits (l.packet.getD 0 0#64) 19 16
/-- The domain of level n. -/
def Launch.domain (l : Launch) (n : Nat) : Nat := bits (l.level n) 2 0

/-- The instances of level n inside the parent instance of core h, in order (R362). -/
def Launch.instances (l : Launch) (n h : Nat) : List Nat :=
  let inParent (c : Nat) : Bool := n == 0 || instKey (l.domain (n - 1)) c == instKey (l.domain (n - 1)) h
  firsts ((l.cores.filter inParent).map (instKey (l.domain n)))

/-- The value of `myid` for context k of core h (R212). -/
def Launch.myid (l : Launch) (n h k : Nat) : Word :=
  if l.nlev ≤ n then 0#64
  else if l.domain n = 5 then at_ 11 32 ||| at_ k 0
  else
    let is := l.instances n h
    at_ is.length 32 ||| at_ (is.idxOf (instKey (l.domain n) h)) 0

/-- The launch of the executing core. -/
def State.myLaunch (s : State) : Option Launch :=
  match s.me.launch with
  | some n => s.launchOf n
  | none => none

/-- `myid gd, ga` (R212). -/
def execMyid (o : L2) (s : State) : Out :=
  let n := s.g o.a
  s.run (do
    must (bits n 63 3 == 0) (illegal11 0)
    .ok (s.endLong o.l [.g o.d (match s.myLaunch with
      | some l => l.myid n.toNat (s.now.h % 65536) s.now.k
      | none => 0#64)]))

/-- The home of an address, in the layout of R213; zero when it fails translation, and zero as a whole too when its leaf does not permit the
read (DESIGN CHOICE, log entry 59). -/
def State.hashWord (s : State) (va : Nat) : Word :=
  if NW ≤ va then 0#64
  else match s.translate s.now.h va with
    | .leaf e lvl =>
      if permReason e { rd := true } s.cur.supervisor ≠ 0 then 0#64
      else
        let pa := leafPa e lvl va
        match pteAp e with
        | 0 => at_ 1 63 ||| at_ (s.homeDie s.myDev pa) 16 ||| at_ (s.homeSlot s.myDev pa) 4 ||| at_ (s.homeSlice s.myDev pa) 0
        | 1 => at_ 1 63 ||| at_ 1 22 ||| at_ ((pa - nearBase 0) / 0x4000_0000) 16
        | ap => at_ 1 63 ||| at_ ap 22
    | _ => 0#64

/-- `hashq gd, ga` (R213). -/
def execHashq (o : L2) (s : State) : Out := .next (s.endLong o.l [.g o.d (s.hashWord (s.g o.a).toNat)])

/-- `rdcyc gd` (R214). -/
def execRdcyc (o : LD) (s : State) : Out := .next (s.endLong o.l [.g o.d s.me.cycle])

end Sys2Proof.Machine
end

