-- ==== Sys2Proof/Machine/TaskOps.lean ====
section
/-! DEFINITION. Declared buffers and tasks: `bdecl`, `bacq`, `brel`, `bstat`, `spawn` (R292 .. R296), completion of outstanding
instructions (R69), entering a pending trap (R219), the start, theft and end of tasks (R74 .. R78). -/

namespace Sys2Proof.Machine

/-! ## Declared buffers (R53, R54, R292 .. R295) -/

/-- The buffer id in a register: bits [63:5] must be zero. -/
def State.bufId (s : State) (a : Reg) : Except Stop Nat := do
  must (bits (s.g a) 63 5 == 0) (illegal11 0)
  .ok (s.g a).toNat

/-- BUFSTATE that concerns no byte (R56). -/
def Core.refuse (c : Core) (i : Nat) (wr : Bool) : Stop := .trap .bufstate 0 (bufInfo wr (c.buf i).state i)

/-- A declaration word with a reserved bit set, a barrier without bv, or und with another field (R292). -/
def declBad (w : Word) : Bool :=
  bits w 49 47 != 0 || bits w 20 4 != 0 || bits w 2 0 != 0 || (!w.getLsbD 50 && bits w 63 51 != 0) || (w.getLsbD 3 && w != 8#64)

/-- The buffer that a declaration word describes, EMPTY and owned by context k. -/
def declBuf (w : Word) (k : Nat) : Buf :=
  { state := 1, owner := k, base := bits w 35 25, size := bits w 46 36, esize := bits w 24 22, skew := w.getLsbD 21,
    bv := w.getLsbD 50, barrier := bits w 63 51 }

/-- A declaration of buffer i by context k is legal (R51, R54, R292). -/
def Core.declOk (c : Core) (i k : Nat) (w : Word) : Bool :=
  let old := c.buf i
  let b := declBuf w k
  let mine := old.state == 1 && old.owner == k
  if w.getLsbD 3 then mine
  else (old.state == 0 || mine) && decide (b.first + b.bytes ≤ 2 ^ 17) && decide (b.esize < 4)
    && (!b.skew || (b.first % 128 == 0 && b.bytes % 2048 == 0))
    && (List.range 32).all (fun j => j == i || !(c.buf j).overlaps b.first b.bytes)
    && !(b.bv && b.overlaps (16 * b.barrier) 16)

/-- `bdecl ga, gb` (R292). -/
def execBdecl (o : LAB) (s : State) : Out :=
  let w := s.g o.b
  let k := s.now.k
  s.run (do
    let i ← s.bufId o.a
    must (!declBad w) (illegal11 0)
    must (s.me.declOk i k w) (s.me.refuse i true)
    .ok ((s.modMe (fun c => c.setBuf i (if w.getLsbD 3 then {} else declBuf w k))).endLong o.l []))

/-- `bacq` of a buffer by context k that need not wait: the buffer after it, by the transition of R57 that applies (R293). -/
def Buf.acquire (b : Buf) (k : Nat) : Option Buf :=
  if b.state = 3 then some { b with state := 4, owner := k }
  else if b.state = 1 ∧ b.owner = 0x1F then some { b with owner := k }
  else if (b.state = 1 ∨ b.state = 4) ∧ b.owner = k then some b
  else none

/-- Context k of core h acquires buffer i (R126): the L1 is invalidated when a phase completion filled it. -/
def State.takeBuf (s : State) (h i : Nat) (b : Buf) : State :=
  let s1 := s.modCore h (fun c => c.setBuf i b)
  if (s.core h |>.buf i).state = 3 ∧ b.byPhase then s1.dropL1 h else s1

/-- `bacq ga` (R293): while it waits it is an acquire that is not satisfied (R126). -/
def execBacq (o : LA) (s : State) : Out :=
  s.run (do
    let i ← s.bufId o.a
    must ((s.me.buf i).state != 0) (s.me.refuse i true)
    match (s.me.buf i).acquire s.now.k with
    | some b => .ok ((s.takeBuf s.now.h i b).endLong o.l [])
    | none => .ok ((s.enqueue ⟨s.serial, 1#2, coreScope, s.ownLoc 0, .bacq, 0⟩).stay o.l [] (.bacq i)))

/-- The waiting `bacq`s of a core for buffer i: serial number and context. -/
def State.bacqWaiters (s : State) (h i : Nat) : List (Nat × Nat) :=
  (List.range 11).flatMap (fun k => (s.ctx h k).out.filterMap (fun o => if o.pend = .bacq i then some (o.id, k) else none))

/-- The longest-waiting `bacq` for buffer i that may be served now (R58 step 4). -/
def State.bacqNext (s : State) (h i : Nat) : Option (Nat × Nat) :=
  let b := (s.core h).buf i
  if b.state = 3 ∨ (b.state = 1 ∧ b.owner = 0x1F) then
    (s.bacqWaiters h i).foldl (fun acc w => match acc with
      | none => some w
      | some a => if w.1 < a.1 then some w else some a) none
  else none

/-- The longest-waiting `bacq` of core h for buffer i takes it, if one may (R58 step 4): its acquire is satisfied (R126). -/
def State.grant (s : State) (h i : Nat) : State :=
  match s.bacqNext h i with
  | some (id, k) =>
    match ((s.core h).buf i).acquire k with
    | some b => (s.takeBuf h i b).modCtx h k (fun x => { x.modOut id (fun o => { o with pend := .ready }) with
        post := x.post.filter (fun e => e.id != id) })
    | none => s
  | none => s

/-- The barrier step of core h's present cycle is done, or would change nothing. -/
def State.barriersStill (s : State) (h : Nat) : Bool :=
  (s.core h).stepped || ((s.core h).barq == [] && (s.core h).due.all (fun off => !s.barrierOver h off))

/-- BACQ_GRANT (R58): of buffer i of core c, once no barrier step of the core has anything to do. -/
def execEvBacqGrant (c i : Nat) (s : State) : Out := .next (if c < 65536 ∧ s.barriersStill c then s.grant c i else s)

/-- `brel` by context k: the buffer after it (R57, R294). -/
def Buf.release (b : Buf) (k : Nat) : Option Buf :=
  if b.owner ≠ k then none
  else if b.state = 1 then some { b with state := 3, owner := 0x1F, byPhase := false }
  else if b.state = 4 then some { b with state := 1, owner := 0x1F }
  else none

/-- `brel ga` (R294): a release at core scope. -/
def execBrel (o : LA) (s : State) : Out :=
  s.run (do
    let i ← s.bufId o.a
    s.afterRelease coreScope
    match (s.me.buf i).release s.now.k with
    | some b => .ok ((s.modMe (fun c => c.setBuf i b)).endLong o.l [])
    | none => .error (s.me.refuse i true))

/-- A descriptor in the layout of R53. -/
def Buf.word (b : Buf) : Word :=
  BitVec.ofNat 64 (b.barrier * 2 ^ 51 + (if b.bv then 2 ^ 50 else 0) + b.size * 2 ^ 36 + b.base * 2 ^ 25 + b.esize * 2 ^ 22
    + (if b.skew then 2 ^ 21 else 0) + b.owner * 2 ^ 16 + b.state)

/-- `bstat gd, ga` (R295). -/
def execBstat (o : L2) (s : State) : Out :=
  s.run (do
    let i ← s.bufId o.a
    .ok (s.endLong o.l [.g o.d (s.me.buf i).word]))

/-! ## The end of a core cycle (R58) -/

/-- The start that the dispatcher makes now on core h. -/
def State.startNow (s : State) (h : Nat) : State :=
  if s.canStart h then
    match s.idleEft h, (s.core h).choose with
    | some k, some x => s.startTask h k x
    | _, _ => s
  else s

/-- Steps 4 and 5 of R58 in the present cycle of core h, once: one waiting `bacq` of each buffer is served, and the dispatcher acts. -/
def State.serve (s : State) (h : Nat) : State :=
  if (s.core h).acted then s
  else (((List.range 32).foldl (fun t i => t.grant h i) (s.openCycle h)).startNow h).modCore h (fun c => { c with acted := true })

/-- A waiting `join` completes when its eft is IDLE (R222). -/
def State.wakeJoin (s : State) (h k : Nat) : State :=
  match (s.ctx h k).state with
  | .waiting (.join d e) => if (s.ctx h e).state = .idle then s.endWait h k [.g d (s.ctx h e).result] else s
  | _ => s

/-- What every core cycle ends with (R58 steps 4 and 5, R222): the `bacq`s, the dispatcher, and the waiting `join`s. -/
def State.endCycle (s : State) (h : Nat) : State :=
  ((List.range 11).foldl (fun t k => t.wakeJoin h k) (s.serve h)).modCore h (fun c => { c with stepped := false, acted := false })

/-- The core's cycle count. -/
def Core.ticked (c : Core) (n : Nat) : Core := { c with cycle := c.cycle + BitVec.ofNat 64 n }

/-- A core cycle of core h in which it issues nothing. -/
def State.idleCycle (s : State) (h : Nat) : State := (s.endCycle h).modCore h (fun c => c.ticked 1)

/-- The dispatcher of core h starts a task in this cycle, after the barrier step and the grants (R58, R73). -/
def State.startsNext (s : State) (h : Nat) : Bool :=
  !(s.core h).acted && ((List.range 32).foldl (fun t i => t.grant h i) (s.openCycle h)).canStart h

/-! ## `spawn` (R72, R75, R296) -/

/-- The record that 32 bytes hold, with evt 0, and pin set when a slot is valid. -/
def readTask (bs : List Byte) : Task :=
  let w0 := BitVec.ofNat 64 (bytesAt bs 0 8)
  let t : Task :=
    { w0 := w0 &&& ~~~(0x0200_0000_0000_0000#64), slots := BitVec.ofNat 32 (bytesAt bs 8 4),
      arg0 := BitVec.ofNat 64 (bytesAt bs 16 8), arg1 := BitVec.ofNat 64 (bytesAt bs 24 8) }
  if t.bufs.isEmpty then t else { t with w0 := t.w0 ||| 0x0100_0000_0000_0000#64 }

/-- A reserved bit or entry bit 0 of the record is set (R72). -/
def taskBad (bs : List Byte) : Bool :=
  let w0 := BitVec.ofNat 64 (bytesAt bs 0 8)
  let w1 := BitVec.ofNat 64 (bytesAt bs 8 8)
  bits w0 63 58 != 0 || bits w0 55 52 != 0 || w0.getLsbD 0 || bits w1 63 32 != 0 || (w1 &&& 0x6060_6060#64) != 0#64

/-- The first valid slot that names an UNDECLARED buffer or an id that an earlier slot names. -/
def Core.badSlot (c : Core) : List Nat → List Nat → Option Nat
  | _, [] => none
  | seen, i :: is => if (c.buf i).state = 0 ∨ seen.contains i then some i else c.badSlot (i :: seen) is

/-- `spawn gd, [ga]` (R296): a release at the issuer's die. The push comes at step 5 of R58, after the dispatcher's start of this cycle
(R75). -/
def execSpawn (o : L2) (s : State) : Out :=
  let va := (s.g o.a).toNat
  s.run (do
    must (va % 32 == 0) (misalign (BitVec.ofNat 64 va) 0 5)
    let off ← s.ownRange va 32 true false
    s.mayLoad [(s.ownLoc off, 32)]
    let bs := s.look (s.ownLoc off) 32
    must (!taskBad bs) (illegal11 (BitVec.ofNat 64 va))
    let t := readTask bs
    (match s.me.badSlot [] t.bufs with
      | some i => .error (s.me.refuse i false)
      | none => .ok ())
    s.afterRelease (dieScope s.now.h)
    let m := s.serve s.now.h
    if m.me.deque.length < 64 then
      .ok ((m.modMe (fun c => { c.stir with deque := t :: c.deque })).endLong o.l [.g o.d 1#64])
    else .ok (m.endLong o.l [.g o.d 0#64]))

/-! ## Completion and trap entry -/

/-- The post-queue entries of instructions that issued before the one with a serial number. -/
def Ctx.earlier (c : Ctx) (id : Nat) : List PEntry := c.post.filter (fun e => decide (e.id < id))
/-- The path writes that come before a release of context k by the instruction with a serial number: those of its earlier instructions, and
those of other contexts that an earlier load of it has read (R137). -/
def Core.earlierPath (c : Core) (k id : Nat) : List CWrite := (c.pathOf k).filter (fun w => decide (w.id < id))

/-- A context that a full window held may issue again when every window has room (R69). -/
def Ctx.reopen (c : Ctx) : Ctx :=
  match c.state with
  | .waiting .window => if c.out.all (fun o => o.left != 0) then { c with state := .ready } else c
  | _ => c

/-- An outstanding instruction leaves, its writes made (R69). -/
def State.retire (s : State) (h k : Nat) (o : Outst) : State :=
  (s.complete h k o.writes).modCtx h k (fun c => { c with out := c.out.filter (fun x => x.id != o.id) }.reopen)

/-- INSTRUCTION_COMPLETE (R69): instruction i of context k of core c; one whose access a peer that is out holds stays (R21). A fence also takes its step here (R138), and a `pennant`
whose release condition holds places its markers (R150, R300). -/
def execEvInstructionComplete (c k i : Nat) (s : State) : Out :=
  let x := s.ctx c k
  let es := x.earlier i
  let ws := (s.core c).earlierPath k i
  .next (match x.outOf i with
    | none => s
    | some o =>
      match o.pend with
      | .ready => if x.post.any (fun e => e.id == i && e.loc.space.held) then s else s.retire c k o
      | .writes =>
        if x.post.any (fun e => e.id == i) || (s.core c).path.any (fun w => w.k == k && w.id == i) then s else s.retire c k o
      | .fence =>
        match x.entry i with
        | some e => if fenceReady es ws e.sem e.scope then (s.finishEntry c k i []).retire c k o else s
        | none => s.retire c k o
      | .pennants evs =>
        if releaseOk es ws sysScope then
          (s.modCore c (fun y => y.enqueueEvents i k evs)).modCtx c k (fun y => y.modOut i (fun o => { o with pend := .events }))
        else s
      | _ => s)

/-- TRAP_ENTRY (R219): the pending trap of context k of core c, once nothing of the context is outstanding. -/
def execEvTrapEntry (c k : Nat) (s : State) : Out :=
  let x := s.ctx c k
  .next (match x.trap with
    | some t => if x.out = [] then s.setCtx c k (x.enter t.code t.fpc t.rpc t.addr t.info (s.core c).tvec) else s
    | none => s)

/-! ## Tasks (R74 .. R78) -/

/-- TASK_START (R58, R74): core c passes the cycle in which its dispatcher starts a task. -/
def execEvTaskStart (c : Nat) (s : State) : Out := .next (if c < 65536 ∧ s.startsNext c then s.idleCycle c else s)

/-- The core is idle for stealing (R77). -/
def State.stealIdle (s : State) (h : Nat) : Bool :=
  let c := s.core h
  c.launch.isSome && !c.ended && (s.idleEft h).isSome && c.choose.isNone

/-- |a - b|. -/
def absDiff (a b : Nat) : Nat := (a - b) + (b - a)
/-- The order in which core h visits a victim: distance, then y, then x. -/
def stealRank (h v : Nat) : Nat := (absDiff (hx h) (hx v) + absDiff (hy h) (hy v)) * 65536 + hy v * 256 + hx v

/-- The victims of core h in visiting order (R77): never itself, also when its image is the thief. -/
def State.victims (s : State) (h : Nat) : List Nat :=
  match (s.core h).launch.bind s.launchOf with
  | some l => inOrder (fun a b => decide (stealRank h a ≤ stealRank h b)) (l.cores.filter (fun v => v != h % 65536 && hdie v == hdie h))
  | none => []

/-- The steal state of a core set. -/
def State.setSteal (s : State) (h : Nat) (x : Steal) : State := s.modCore h (fun c => { c with steal := x })

/-- STEAL_REQUEST (R77): core c asks its next victim. A core that was not idle for a time, and has received no task
meanwhile, goes on at the place in the order, or in the wait after a round, that it had reached (DESIGN CHOICE, log entry 55). -/
def execEvStealRequest (c : Nat) (s : State) : Out :=
  .next (match (s.core c).steal with
    | .next i => if c < 65536 ∧ s.stealIdle c ∧ i < (s.victims c).length then s.setSteal c (.asked i) else s
    | _ => s)

/-- The ripe unpinned task nearest the top of a deque. -/
def Core.topTask (c : Core) : Option Task := c.deque.reverse.find? (fun t => c.ripe t && !t.pinned)

/-- The deque without its topmost occurrence of a task. -/
def dropTop (t : Task) (d : List Task) : List Task := (d.reverse.erase t).reverse

/-- STEAL_VICTIM_ANSWER (R75, R77): the victim that core c has asked answers, after a start that its dispatcher makes in the same cycle;
one that is pre-empted refuses. -/
def execEvStealVictimAnswer (c : Nat) (s : State) : Out :=
  .next (match (s.core c).steal with
    | .asked i =>
      match (s.victims c)[i]? with
      | none => s.setSteal c (.answer i none)
      | some v =>
        if (s.core v).launch ≠ (s.core c).launch then s.setSteal c (.answer i none)
        else
          let s1 := if s.startsNext v then s.idleCycle v else s
          match (s1.core v).topTask with
          | none => s1.setSteal c (.answer i none)
          | some t =>
            (s1.modCore v (fun x => { x.stir with deque := dropTop t x.deque, lost := (x.lost + 1) % 256 })).setSteal c (.answer i (some t))
    | _ => s)

/-- STEAL_ANSWER_ARRIVAL (R77): at thief c; a task that arrives may start in the same cycle, and the thief's next request after it goes
to the nearest victim (DESIGN CHOICE, log entry 55). -/
def execEvStealAnswerArrival (c : Nat) (s : State) : Out :=
  .next (match (s.core c).steal with
    | .answer _ (some t) =>
      let s1 := s.modCore c (fun x => { x with steal := .next 0, stolen := (x.stolen + 1) % 256, slot := some t })
      if c < 65536 then s1.idleCycle c else s1
    | .answer i none =>
      if i + 1 < (s.victims c).length then s.setSteal c (.next (i + 1))
      else s.setSteal c (.round ((s.core c).cycle.toNat + 1024))
    | _ => s)

/-- STEAL_ROUND_WAIT_EXPIRY (R77): of core c. -/
def execEvStealRoundWaitExpiry (c : Nat) (s : State) : Out :=
  .next (match (s.core c).steal with
    | .round t => if t ≤ (s.core c).cycle.toNat then s.setSteal c (.next 0) else s
    | _ => s)

/-- EFT_DONE (R203): eft k of core c waits in `done` and nothing of it is outstanding. -/
def execEvEftDone (c k : Nat) (s : State) : Out :=
  let x := s.ctx c k
  .next (if k ≠ 0 ∧ x.state = .waiting .done ∧ x.out = [] then s.endEft c k else s)

/-- JOIN_WAKE (R222): the `join` in which context k of core c waits. -/
def execEvJoinWake (c k : Nat) (s : State) : Out :=
  .next (match (s.ctx c k).state with
    | .waiting (.join d e) => if c < 65536 ∧ s.joinReady c e then s.endWait c k [.g d (s.ctx c e).result] else s
    | _ => s)

/-- A steal request of the core is under way. -/
def Core.stealing (c : Core) : Bool := match c.steal with | .asked _ | .answer _ _ => true | _ => false

/-- A handler task that is due could start now (R88). -/
def State.handlerStartable (s : State) (h : Nat) : Bool :=
  (List.range 64).any (fun i => s.handlerDue h i && ((s.core h).buf ((s.core h).layer i).stateBuf).state == 3)

/-- The part of core h in its launch ends now (R12, R78). -/
def State.partOver (s : State) (h : Nat) : Bool :=
  let c := s.core h
  c.launch.isSome && !c.ended && (s.ctx h 0).state == .waiting .done
    && (List.range 10).all (fun i => (s.ctx h (i + 1)).state == .idle) && c.choose.isNone && !c.stealing && !s.handlerStartable h

/-- LAUNCH_PART_END (R78): of core c. -/
def execEvLaunchPartEnd (c : Nat) (s : State) : Out :=
  .next (if c < 65536 ∧ s.partOver c then
    s.modCore c (fun x => { x with
      ended := true, lostTasks := x.lostTasks + x.deque.length, deque := []
      lostEvents := x.lostEvents + x.inbox.length + x.spillN, inbox := [], spillN := 0 })
  else s)

end Sys2Proof.Machine
end

