-- ==== Sys2Proof/Machine/Copies.lean ====
section
/-! DEFINITION. Transaction barriers (R121 .. R123, R311 .. R313), tile copies and their deliveries (R59, R304 .. R306), batches
and completion messages (R119, R124, R308 .. R310). -/

namespace Sys2Proof.Machine

/-! ## Barrier instructions (R311 .. R313) -/

/-- Where an item for core h of a launch lands: the core, or its image; nowhere once the launch is over. -/
def State.landing (s : State) (launch h : Nat) : Option Nat := (s.launchOf launch).map (fun l => l.handle h)

/-- The operand of a barrier instruction: in own or a cluster peer's local memory, 16-byte aligned. -/
def State.barrierOp (s : State) (a : Reg) (acc : Nat) : Except Stop (Nat × Nat) := do
  let va := (s.g a).toNat
  must (va % 16 == 0) (misalign (BitVec.ofNat 64 va) acc 4)
  s.nearLoc va 16

/-- `xbinit [ga], gb` (R311). -/
def execXbinit (o : LAB) (s : State) : Out :=
  let va := (s.g o.a).toNat
  let n := (s.g o.b).toNat
  s.run (do
    must (va % 16 == 0) (misalign (BitVec.ofNat 64 va) 1 4)
    let off ← s.ownOff va 16
    must (decide (1 ≤ n ∧ n ≤ 0xF_FFFE)) (illegal11 0)
    s.checkBuf s.now.h off 16 va true
    s.mayStore [(s.ownLoc off, 16)]
    let b := readBarrier (s.barrierAt s.now.h off)
    .ok (((s.setBarrier s.now.h off (Barrier.word { b with reload := n, arrivals := n, sectors := 0 } 0)).modMe (fun c =>
      { c with due := withOff off c.due, stuck := c.stuck.filter (fun x => x != off) })).endLong o.l []))

/-- `xbarr [ga], gb (gs)` (R312): the arrival is on its way; a release waits for R134's condition. -/
def execXbarr (o : XbOps) (s : State) : Out :=
  let n := (s.g o.b).toNat
  let v := s.scopeOf o.xs
  s.run (do
    (if semRel o.sem then s.checkScope v else .ok ())
    let (h, off) ← s.barrierOp o.a 2
    must (n % 32 == 0 && decide (n ≤ 2 ^ 26)) (illegal11 0)
    s.checkBuf h off 16 (s.g o.a).toNat true
    (if semRel o.sem then s.afterRelease v else .ok ())
    .ok (({ s with
      arrivals := s.arrivals ++ [⟨s.serial, s.me.launch.getD 0, h % 65536, off, n⟩]
      serial := s.serial + 1 } : State).endLong o.l []))

/-- BARRIER_ARRIVAL (R122): arrival i. -/
def execEvBarrierArrival (i : Nat) (s : State) : Out :=
  .next (match s.arrivals.find? (fun a => a.id == i) with
    | none => s
    | some a =>
      let s1 : State := { s with arrivals := s.arrivals.filter (fun x => x.id != i) }
      match s.landing a.launch a.h with
      | some h => s1.barrierChange h ⟨a.off, true, a.bytes⟩
      | none => s1)

/-- The checks that `xbwait` and `xbtry` share (R313): the holding core, the offset and the phase. -/
def State.barrierTest (s : State) (xs a b : Reg) : Except Stop (Nat × Nat × Nat) := do
  let p := s.g b
  s.checkScope (s.scopeOf xs)
  let (h, off) ← s.barrierOp a 0
  must (bits p 63 4 == 0) (illegal11 0)
  s.checkBuf h off 16 (s.g a).toNat false
  s.checkData (s.g a).toNat ⟨.local_ h, localKey h off⟩ 16 false
  .ok (h, off, p.toNat)

/-- The phase differs from the one named. -/
def State.phaseMoved (s : State) (h off p : Nat) : Bool := (readBarrier (s.barrierAt h off)).phase != p

/-- `xbwait [ga], gb (gs)` (R149, R313). -/
def execXbwait (o : XbOps) (s : State) : Out :=
  s.run (do
    let (h, off, p) ← s.barrierTest o.xs o.a o.b
    let loc : Loc := ⟨.local_ h, localKey h off⟩
    (if loc.space.held then .ok () else s.mayLoad [(loc, 16)])
    must (!loc.space.held && s.phaseMoved h off p) (.wait (.xbwait (h % 65536) off p))
    .ok ((s.dropL1 s.now.h).endLong o.l []))

/-- `xbtry gd, [ga], gb (gs)` (R149, R313). -/
def execXbtry (o : XbtryOps) (s : State) : Out :=
  s.run (do
    let (h, off, p) ← s.barrierTest o.xs o.a o.b
    s.mayLoad [(⟨.local_ h, localKey h off⟩, 16)]
    if s.phaseMoved h off p then .ok ((s.dropL1 s.now.h).endLong o.l [.g o.d 1#64])
    else .ok (s.endLong o.l [.g o.d 0#64]))

/-- XBWAIT_WAKE (R313): the `xbwait` in which context k of core c waits. -/
def execEvXbwaitWake (c k : Nat) (s : State) : Out :=
  .next (match (s.ctx c k).state with
    | .waiting (.xbwait h off p) =>
      let g := s.handleFor (s.core c) h
      if c < 65536 ∧ g < 65536 ∧ s.phaseMoved g off p then (s.dropL1 c).endWait c k [] else s
    | _ => s)

/-! ## Deliveries (R59, R122) -/

/-- The check of a delivery's bytes against core h's buffers (R59): the core with EMPTY bound ones FILLING, or nothing when the
delivery is refused. -/
def Core.landOk (c : Core) (ranges : List (Nat × Nat)) : Option Core :=
  let hit (b : Buf) : Bool := ranges.any (fun r => b.overlaps r.1 r.2)
  if (List.range 32).all (fun i => let b := c.buf i; !hit b || b.state == 2 || (b.state == 1 && b.bv)) then
    some (c.mapBufs (fun b => if hit b ∧ b.state = 1 then { b with state := 2, owner := 0x10 } else b))
  else none

/-- The granules of a whole tile at a local offset of core h, row by row and word by word (R51, R52). -/
def tileDst (h off : Nat) (skew : Bool) : List Loc :=
  (List.range 16).flatMap (fun r => (List.range 16).map (fun w =>
    ⟨.local_ h, localKey h (off + 128 * r + (w + if skew then r else 0) % 16 * 8)⟩))

/-- 2,048 bytes as sectors of four granules each. -/
def tileSectors (bs : List Byte) (dst : List Loc) : List Sector :=
  chunks 4 64 ((byteRows 8 bs).zipWith (fun b l => ⟨none, b, l⟩) dst)

/-- Sectors whose bytes are still to be read. -/
def readSectors (src : List (Loc × Nat)) (dst : List Loc) : List Sector :=
  chunks 4 64 (src.zipWith (fun p l => ⟨some p, [], l⟩) dst)

/-- A delivery of an operation ends, delivered or refused. -/
def State.endDelivery (s : State) (d : Delivery) (refused : Bool) : State :=
  { s with
    dels := s.dels.filter (fun x => x.id != d.id)
    ops := s.ops.map (fun o => if o.id = d.op then { o with left := o.left - 1, refused := o.refused || refused } else o) }

/-- A delivery changed. -/
def State.setDelivery (s : State) (d : Delivery) : State := { s with dels := s.dels.map (fun x => if x.id = d.id then d else x) }

/-- The first byte of a tile for core h arrives, after the barrier step of the core's cycle (R58, R59, R306): it is refused, or its
granules are known and it may land. -/
def State.checkDelivery (s : State) (h : Nat) (d : Delivery) : State :=
  let s := if h < 65536 then s.openCycle h else s
  let c := s.core h
  let skew := (c.skewBuf d.off).map (fun b => (d.off - b.first) % 2048 == 0)
  match skew, c.landOk [(d.off, 2048)] with
  | some false, _ | _, none => s.endDelivery d true
  | k, some c' =>
    (s.setCore h c').setDelivery { d with
      checked := true
      todo := tileSectors (d.todo.flatMap (fun x => x.flatMap Granule.bytes)) (tileDst h d.off k.isSome) }

/-- Bytes read from parts at their points of coherence. -/
def State.gather (s : State) (ps : List (Loc × Nat)) : List Byte := ps.flatMap (fun p => s.pocBytes p.1.space p.1.at_ p.2)

/-- A granule's bytes are read, if they have not been. -/
def Granule.read (x : Granule) (s : State) : Granule :=
  match x.src with
  | some p => { x with src := none, bytes := s.gather [p] }
  | none => x

/-- A location of a delivery as its destination now stands. -/
def Loc.moved (l : Loc) (h : Nat) : Loc :=
  match l.space with
  | .local_ _ => ⟨.local_ h, localKey h (l.at_ % 2 ^ 17)⟩
  | _ => l

/-- A granule performs (R146): at core h, or for an operation on global memory as a write of its core. -/
def State.landGranule (s : State) (op : Option CopyOp) (h : Nat) (x : Granule) : State :=
  let l := x.dst.moved h
  match op with
  | some o => s.performOrRefuse o.h o.k l (x.read s).bytes
  | none => s.putPoc l.space l.at_ (x.read s).bytes

/-- Granule m of sector n of delivery d lands; the last one of a sector credits its barrier. -/
def State.land (s : State) (d : Delivery) (n m : Nat) (x : Granule) : State :=
  let left := ((d.todo.getD n []).eraseIdx m)
  let rest : Delivery := { d with todo := if left = [] then d.todo.eraseIdx n else d.todo.set n left }
  let op := s.ops.find? (fun o => o.id == d.op)
  let fin (t : State) : State := if rest.todo = [] then t.endDelivery d false else t.setDelivery rest
  match d.h with
  | none => fin (s.landGranule op 0 x)
  | some p =>
    match s.landing d.launch p with
    | none => fin s
    | some h =>
      let s1 := s.landGranule none h x
      fin (if d.bv ∧ left = [] then s1.barrierChange h ⟨d.xb, false, 1⟩ else s1)

/-- The bytes that a granule still has to read hold an error or cannot be reached (R425). -/
def State.sourceFails (s : State) (dev : Nat) (x : Granule) : Bool := x.src.any (fun p => (s.dataError dev p.1 p.2 false).isSome)

/-- DELIVERY_SECTOR_CREDIT (R122, R146): of delivery d, granule n mod 4 of those left in sector n / 4 of those left is read (`rd`), or
lands, and the last one of the sector is credited. A delivery whose source turns out to hold an error ends there, refused (R425; DESIGN CHOICE,
log entry 36). -/
def State.sectorStep (s : State) (d : Delivery) (n : Nat) (rd : Bool) : State :=
  match (d.todo.getD (n / 4) [])[n % 4]? with
  | none => s
  | some x =>
    if !d.checked then s
    else if s.sourceFails ((s.ops.find? (fun o => o.id == d.op)).elim 0 (fun o => s.devOf (hdie o.h))) x then s.endDelivery d true
    else if rd then s.setDelivery { d with todo := d.todo.modify (n / 4) (fun y => y.set (n % 4) (x.read s)) }
    else s.land d (n / 4) (n % 4) x

/-! ## Copies (R304 .. R306) -/

/-- The reserved bits of a transfer word, and bv with a destination that is not local (R304). -/
def transferBad (w : Word) (local_ : Bool) : Bool := bits w 63 32 != 0 || w.getLsbD 13 || (w.getLsbD 14 && !local_)

/-- A copy issues with its deliveries: it joins the open batch and is on its way (R124). -/
def State.launchCopy (s : State) (l : BitVec 4) (tw : Word) (global : Bool) (ds : List (Option Nat × Nat × Bool × List Sector)) : State :=
  let n := s.serial
  let lau := s.me.launch.getD 0
  let op : CopyOp := ⟨n, lau, s.now.h, s.now.k, tw.getLsbD 15, bits tw 31 16, global, ds.length, false, none⟩
  let mk (p : (Option Nat × Nat × Bool × List Sector) × Nat) : Delivery :=
    ⟨n + 1 + p.2, n, lau, p.1.1, p.1.2.1, p.1.2.2.1, tw.getLsbD 14, 16 * bits tw 12 0, p.1.2.2.2⟩
  let s1 : State := { s with ops := s.ops ++ [op], dels := s.dels ++ ds.zipIdx.map mk, serial := n + 1 + ds.length }
  (s1.modCur (fun c => { c with openB := ⟨c.openB.ops ++ [n], c.openB.global || global⟩ })).endLong l []

/-- Nothing of the context or its core that has not performed touches the bytes that a copy reads (R146). -/
def State.quiet (s : State) (ps : List (Loc × Nat)) : Except Stop Unit :=
  must (ps.all (fun p => s.cur.post.all (fun e => !e.hits p.1.at_ p.2) &&
    s.me.path.all (fun w => !overlap w.loc.at_ w.b.length p.1.at_ p.2))) (.wait .retry)

/-- A copy into own local memory at an offset (R59, R305): refused, it ends at once with status 5; else its sectors land later. -/
def State.copyIn (s : State) (l : BitVec 4) (tw : Word) (off : Nat) (ss : List Sector) : State :=
  match s.me.landOk [(off, 2048)] with
  | none =>
    let t := s.launchCopy l tw false [(some s.now.h, off, true, [])]
    match t.dels.getLast? with
    | some d => t.endDelivery d true
    | none => t
  | some c => (s.setCore s.now.h c).launchCopy l tw false [(some s.now.h, off, true, ss)]

/-- The tile's 2,048 bytes. -/
def Core.tileBytes (c : Core) (t : TReg) : List Byte := (List.range 16).flatMap (fun r => leBytes 128 (c.tileRow t r).toNat)

/-- A global operand of 2,048 bytes (R18, R305). -/
def globalTile (va : Nat) : Except Stop Unit := must (decide (va + 2048 ≤ NW)) (windowAt (BitVec.ofNat 64 va))

/-- `cpt [ga], tb, gc` (R305). -/
def execCpt (o : CptOps) (s : State) : Out :=
  let va := (s.g o.a).toNat
  let tw := s.g (cReg o.c)
  let bs := s.me.tileBytes o.b
  s.run (if NW ≤ va then do
      let skew ← s.tileAt va 1
      let off ← s.ownOff va 2048
      must (!transferBad tw true) (illegal11 0)
      s.afterRelease coreScope
      .ok (s.copyIn o.l tw off (tileSectors bs (tileDst s.now.h off skew)))
    else do
      must (va % 64 == 0) (misalign (BitVec.ofNat 64 va) 1 6)
      globalTile va
      must (!transferBad tw false) (illegal11 0)
      let ps ← s.spread { wr := true } [(va, 2048)]
      s.afterRelease coreScope
      .ok ((s.usedAll { wr := true } [(va, 2048)]).launchCopy o.l tw true
        [(none, 0, true, tileSectors bs ((ps.flatMap granules).map Prod.fst))]))

/-- `cpt.in [ga], [gb], gc` (R305). -/
def execCptIn (o : CptGOps) (s : State) : Out :=
  let va := (s.g o.a).toNat
  let vb := (s.g o.b).toNat
  let tw := s.g (cReg o.c)
  s.run (do
    let skew ← s.tileAt va 1
    must (vb % 64 == 0) (misalign (BitVec.ofNat 64 vb) 0 6)
    let off ← s.ownOff va 2048
    globalTile vb
    must (!transferBad tw true) (illegal11 0)
    let ps ← s.spread { rd := true } [(vb, 2048)]
    s.afterRelease coreScope
    s.quiet ps
    .ok ((s.usedAll { rd := true } [(vb, 2048)]).copyIn o.l tw off
      (readSectors (ps.flatMap granules) (tileDst s.now.h off skew))))

/-- `cpt.out [ga], [gb], gc` (R305). -/
def execCptOut (o : CptGOps) (s : State) : Out :=
  let va := (s.g o.a).toNat
  let vb := (s.g o.b).toNat
  let tw := s.g (cReg o.c)
  s.run (do
    must (va % 64 == 0) (misalign (BitVec.ofNat 64 va) 1 6)
    let skew ← s.tileAt vb 0
    globalTile va
    let off ← s.ownOff vb 2048
    must (!transferBad tw false) (illegal11 0)
    s.checkBuf s.now.h off 2048 vb false
    s.checkData vb (s.ownLoc off) 2048 false
    let ps ← s.spread { wr := true } [(va, 2048)]
    s.afterRelease coreScope
    s.quiet [(s.ownLoc off, 2048)]
    let bs := s.lookAll (s.tileGranules off 0 16 skew)
    .ok ((s.usedAll { wr := true } [(va, 2048)]).launchCopy o.l tw true
      [(none, 0, true, tileSectors bs ((ps.flatMap granules).map Prod.fst))]))

/-- The cluster peers of a mask, ascending. -/
def maskPeers (m : Word) : List Nat := (List.range 16).filter (fun p => m.getLsbD p)

/-- The near-window address of an offset of peer p. -/
def peerVa (p off : Nat) : Word := BitVec.ofNat 64 (NW + 0x10_0000 + p * 0x2_0000 + off)

/-- `cpm [ga], tb, gd, gc` (R306). -/
def execCpm (o : CpmOps) (s : State) : Out :=
  let a := s.g o.a
  let m := s.g o.d
  let tw := s.g (cReg o.c)
  let off := a.toNat % 2 ^ 17
  let me := s.now.h
  let peers := maskPeers m
  let dead := peers.find? (fun p => p != peerNo me && !s.liveFor s.me (peerHandle me p))
  s.run (do
    must (a.toNat % 128 == 0) (misalign a 1 7)
    must (bits a 63 17 != 0 || decide (off + 2048 ≤ 0x2_0000) || peers.isEmpty) (windowAt (peerVa (peers.headD 0) 0x2_0000))
    (match dead with
      | some p => .error (windowDead (peerVa p off) p)
      | none => .ok ())
    must (bits m 63 16 == 0 && m != 0#64 && bits a 63 17 == 0) (illegal11 0)
    must (!transferBad tw true) (illegal11 0)
    s.afterRelease coreScope
    let ss := tileSectors (s.me.tileBytes o.b) (tileDst s.now.h off false)
    .ok (s.launchCopy o.l tw false (peers.map (fun p => (some (peerHandle me p), off, false, ss)))))

/-! ## The end of operations, and messages (R119, R124) -/

/-- The operation leaves a batch. -/
def Batch.without (b : Batch) (id : Nat) : Batch := { b with ops := b.ops.filter (fun x => x != id) }

/-- Closed batches all of whose operations have ended retire (R124). -/
def Ctx.retireBatches (c : Ctx) : Ctx :=
  { c with
    closed := c.closed.filter (fun b => !b.ops.isEmpty)
    retGlob := c.retGlob || c.closed.any (fun b => b.ops.isEmpty && b.global) }

/-- The context of an operation, wherever its core stands. -/
def State.opCtx (s : State) (o : CopyOp) (f : Ctx → Ctx) : State :=
  match s.landing o.launch o.h with
  | some h => s.modCtx h o.k f
  | none => s

/-- COPY_OPERATION_END (R124): operation i, all of whose deliveries have ended. -/
def execEvCopyOperationEnd (i : Nat) (s : State) : Out :=
  .next (match s.ops.find? (fun o => o.id == i) with
    | none => s
    | some o =>
      if o.left ≠ 0 then s
      else
        let s1 : State := { s with
          ops := s.ops.filter (fun x => x.id != i)
          msgs := if o.nt then s.msgs ++ [⟨o.launch, o.h, none,
              BitVec.ofNat 64 ((if o.refused then 5 else 0) * 2 ^ 56 + o.k * 2 ^ 16 + o.tag), o.global⟩] else s.msgs }
        s1.opCtx o (fun c =>
          ({ c with openB := c.openB.without i, closed := c.closed.map (fun b => b.without i) } : Ctx).retireBatches))

/-- COMPLETION_MESSAGE_DELIVER (R119): the i-th held message, when its core's queue has room and no message from the same place
is held before it. -/
def execEvCompletionMessageDeliver (i : Nat) (s : State) : Out :=
  .next (match s.msgs[i]? with
    | none => s
    | some m =>
      if (s.msgs.take i).any (fun x => x.launch == m.launch && x.h == m.h && x.src == m.src) then s
      else
        let s1 : State := { s with msgs := s.msgs.eraseIdx i }
        match s.landing m.launch m.h with
        | none => s1
        | some h =>
          if 64 ≤ (s.core h).compq.length then s
          else s1.modCore h (fun c => { c with compq := c.compq ++ [(m.w, m.global)] }))

/-! ## `inbox`, `batch`, `waitb` (R308 .. R310) -/

/-- The contexts of core h that wait in `inbox`: since when, number, destination. -/
def State.inboxWaiters (s : State) (h : Nat) : List (Nat × Nat × Reg) :=
  (List.range 11).filterMap (fun k => match (s.ctx h k).state with
    | .waiting (.inbox d n) => some (n, k, d)
    | _ => none)

/-- The oldest message is taken: an acquire at core scope, which empties the L1 when the operation wrote global memory (R147). -/
def State.takeMsg (s : State) (h : Nat) : State :=
  let s1 := s.modCore h (fun c => { c with compq := c.compq.drop 1 })
  if ((s.core h).compq.headD (0#64, false)).2 then s1.dropL1 h else s1

/-- `inbox gd` (R310). -/
def execInbox (o : LD) (s : State) : Out :=
  match s.me.compq with
  | (w, _) :: _ =>
    if s.inboxWaiters s.now.h = [] then .next ((s.takeMsg s.now.h).endLong o.l [.g o.d w])
    else s.stop (.wait (.inbox o.d s.me.issues))
  | [] => s.stop (.wait (.inbox o.d s.me.issues))

/-- INBOX_MESSAGE_TAKEN (R310): the `inbox` of core c that began to wait first, ties to the lower context. -/
def execEvInboxMessageTaken (c : Nat) (s : State) : Out :=
  let first := (s.inboxWaiters c).foldl (fun (acc : Option (Nat × Nat × Reg)) w => match acc with
    | none => some w
    | some a => if w.1 < a.1 then some w else some a) none
  .next (match (s.core c).compq, first with
    | (w, _) :: _, some (_, k, d) => if c < 65536 then (s.takeMsg c).endWait c k [.g d w] else s
    | _, _ => s)

/-- `inboxq gd` (R310). -/
def execInboxq (o : LD) (s : State) : Out := .next (s.endLong o.l [.g o.d (BitVec.ofNat 64 s.me.compq.length)])

/-- The open batch closes (R308). -/
def Ctx.closeBatch (c : Ctx) : Ctx := ({ c with closed := c.closed ++ [c.openB], openB := ⟨[], false⟩ } : Ctx).retireBatches

/-- `batch` (R308). -/
def execBatch (o : L0) (s : State) : Out :=
  s.run (do
    must (decide (s.cur.closed.length < 8)) (.wait .batch)
    .ok ((s.modCur Ctx.closeBatch).endLong o.l []))

/-- BATCH_SLOT_FREE (R308): the `batch` in which context k of core c waits. -/
def execEvBatchSlotFree (c k : Nat) (s : State) : Out :=
  let x := s.ctx c k
  .next (if c < 65536 ∧ x.state = .waiting .batch ∧ x.closed.length < 8 then (s.modCtx c k Ctx.closeBatch).endWait c k [] else s)

/-- `waitb` takes its effect (R124, R147). -/
def State.batchesSeen (s : State) (h k : Nat) : State :=
  let s1 := s.modCtx h k (fun c => { c with retGlob := false })
  if (s.ctx h k).retGlob then s1.dropL1 h else s1

/-- `waitb N` (R309). -/
def execWaitb (o : WaitbOps) (s : State) : Out :=
  s.run (do
    must (decide (o.n.toNat ≤ 8)) (illegal11 0)
    must (decide (s.cur.closed.length ≤ o.n.toNat)) (.wait (.waitb o.n.toNat))
    .ok ((s.batchesSeen s.now.h s.now.k).endLong o.l []))

/-- WAITB_SATISFIED (R309): the `waitb` in which context k of core c waits. -/
def execEvWaitbSatisfied (c k : Nat) (s : State) : Out :=
  let x := s.ctx c k
  .next (match x.state with
    | .waiting (.waitb n) => if c < 65536 ∧ x.closed.length ≤ n then (s.batchesSeen c k).endWait c k [] else s
    | _ => s)

end Sys2Proof.Machine
end

