-- ==== Sys2Proof/Machine/Scaleout.lean ====
section
/-! DEFINITION. Scale-out (R415 .. R418): channel records, datagrams with their CRC-32C, and sending. -/

namespace Sys2Proof.Machine

/-! ## Channel records (R415) -/

/-- The record of channel c of engine n. -/
def chanRec (n c : Nat) : Nat := 0x0_F000_0A90_0000 + n * 0x4000 + 64 * c
/-- The word of a channel record that holds rport, reng, rchan, flags and dctx. -/
def State.chanWord (s : State) (n c : Nat) : Word := s.ctlReg (chanRec n c + 0x10)
/-- The channel is enabled. -/
def State.chanEn (s : State) (n c : Nat) : Bool := (s.chanWord n c).getLsbD 32
/-- Its device context. -/
def State.chanDctx (s : State) (n c : Nat) : Nat := bits (s.chanWord n c) 63 48
/-- Next psn to send, and next psn expected. -/
def State.sendPsn (s : State) (n c : Nat) : Nat := bits (s.ctlReg (chanRec n c + 0x18)) 23 0
def State.recvPsn (s : State) (n c : Nat) : Nat := bits (s.ctlReg (chanRec n c + 0x18)) 47 24
/-- The psn fields written. -/
def State.setPsn (s : State) (n c send recv : Nat) : State :=
  s.setCtl (chanRec n c + 0x18) (BitVec.ofNat 64 (send % 2 ^ 24 + recv % 2 ^ 24 * 2 ^ 24))
/-- A channel's other state. -/
def State.chan (s : State) (n c : Nat) : Chan := SMap.get s.chans {} (n * 256 + c)
def State.setChan (s : State) (n c : Nat) (x : Chan) : State := { s with chans := SMap.put s.chans (n * 256 + c) x }
/-- The oscillator of engine n's I/O die (R365, R418). -/
def State.ioTick (s : State) (n : Nat) : Nat := (SMap.get s.dclk 0#64 (n / 16)).toNat
/-- The time since a tick count of that oscillator, which wraps (R365). -/
def State.ticksSince (s : State) (n t : Nat) : Nat := (s.ioTick n + 2 ^ 64 - t) % 2 ^ 64
/-- Something is sent outside. -/
def State.emit (s : State) (o : Output) : State := { s with outputs := s.outputs ++ [o] }

/-! ## Checksums -/

/-- One bit of a reflected CRC-32C. -/
def crc32Bit (c : BitVec 32) : BitVec 32 := if c.getLsbD 0 then (c >>> 1) ^^^ 0x82F6_3B78#32 else c >>> 1
/-- One byte. -/
def crc32Byte (c : BitVec 32) (b : Byte) : BitVec 32 :=
  crc32Bit (crc32Bit (crc32Bit (crc32Bit (crc32Bit (crc32Bit (crc32Bit (crc32Bit (c ^^^ b.setWidth 32))))))))
/-- CRC-32C (R417). -/
def crc32c (bs : List Byte) : BitVec 32 := ~~~(bs.foldl crc32Byte 0xFFFF_FFFF#32)

/-! ## Datagrams (R417) -/

/-- The header's fields. -/
structure DgHdr where
  type  : Nat
  deng  : Nat
  dchan : Nat
  psn   : Nat
  nseg  : Nat
  flags : Nat
  code  : Nat
  piece : Nat
  ack   : Nat
  deriving DecidableEq, Repr

/-- The 32 header bytes. -/
def DgHdr.bytes (h : DgHdr) : List Byte :=
  leBytes 1 1 ++ leBytes 1 h.type ++ leBytes 1 h.deng ++ leBytes 1 h.dchan ++ leBytes 4 h.psn ++ leBytes 1 h.nseg
    ++ leBytes 1 h.flags ++ leBytes 1 h.code ++ [0#8] ++ leBytes 4 h.piece ++ leBytes 4 h.ack ++ List.replicate 12 0#8

/-- The payload of a datagram with its trailer. -/
def sealDg (h : DgHdr) (segs : List Byte) : List Byte := h.bytes ++ segs ++ leBytes 4 (crc32c (h.bytes ++ segs)).toNat

/-- One segment: descriptor, data, padding. -/
def segBytes (va : Nat) (bs : List Byte) : List Byte :=
  leBytes 8 (va % 2 ^ 52 + (bs.length - 1) * 2 ^ 52) ++ bs ++ List.replicate ((8 - bs.length % 8) % 8) 0#8

/-- Segments from bytes: `n` of them, or nothing when they do not fit exactly. -/
def readSegs : Nat → List Byte → Option (List (Nat × List Byte))
  | 0, bs => if bs = [] then some [] else none
  | n + 1, bs =>
    let d := BitVec.ofNat 64 (leNat (bs.take 8))
    let len := bits d 63 52 + 1
    let pad := (len + 7) / 8 * 8
    if bs.length < 8 + pad then none
    else (readSegs n (bs.drop (8 + pad))).map (fun r => (bits d 51 0, (bs.drop 8).take len) :: r)

/-! ## Ports and frames (R415, R417) -/

/-- The scale-out port of engine n, two to an I/O die, and a word of its address record. -/
def portOf (n : Nat) : Nat := n / 16 * 2 + n % 16 / 8
def State.portWord (s : State) (p off : Nat) : Word := s.ctlReg (0x0_F000_0A80_0000 + 0x100 * p + off)
/-- The port's IP address: IPv6, or IPv4 in bytes 0 .. 3. -/
def State.portIp (s : State) (p : Nat) (ip6 : Bool) : BitVec 128 :=
  if ip6 then s.portWord p 0x18 ++ s.portWord p 0x10 else ((s.portWord p 0x08).extractLsb' 0 32).setWidth 128
/-- The UDP port that it listens on. -/
def State.portUdp (s : State) (p : Nat) : BitVec 16 := (s.portWord p 0x00).extractLsb' 48 16

/-- The frame of channel c of engine n with a payload, from its port to the remote port; the UDP source port is the one that the own
port listens on (DESIGN CHOICE, log entry 35). -/
def State.frameOf (s : State) (n c : Nat) (b : List Byte) : Frame :=
  let p := portOf n
  let w := s.chanWord n c
  let ip6 := w.getLsbD 33
  let far := s.ctlReg (chanRec n c + 8) ++ s.ctlReg (chanRec n c)
  let tag := (s.portWord p 0x20).extractLsb' 0 16
  { mac := (s.portWord p 0x00).extractLsb' 0 48, vlan := if tag.getLsbD 15 then some tag else none, ip6 := ip6
    src := s.portIp p ip6, dst := if ip6 then far else (far.extractLsb' 0 32).setWidth 128
    sport := s.portUdp p, dport := w.extractLsb' 0 16, payload := b }

/-- A frame is for engine n: it arrives at its port, for an address that the port has and the UDP port it listens on. -/
def State.frameFor (s : State) (p n : Nat) (f : Frame) : Bool :=
  portOf n == p && f.dst == s.portIp p f.ip6 && f.dst != 0#128 && f.dport == s.portUdp p

/-- A payload goes out on channel c of engine n; nothing when its port has no address of the channel's kind (R415). -/
def State.transmit (s : State) (n c : Nat) (b : List Byte) : State :=
  let f := s.frameOf n c b
  if f.src = 0#128 then s else s.emit (.datagram (portOf n) f)

/-! ## Reading datagrams -/

/-- A datagram's header and segments, when its CRC and fields pass (R417). -/
def readDg (bs : List Byte) : Option (DgHdr × List (Nat × List Byte)) :=
  let n := bs.length
  let body := bs.take (n - 4)
  let f (o k : Nat) : Nat := bytesAt bs o k
  let h : DgHdr := ⟨f 1 1, f 2 1, f 3 1, f 4 4, f 8 1, f 9 1, f 10 1, f 12 4, f 16 4⟩
  if n < 36 ∨ leNat (bs.drop (n - 4)) ≠ (crc32c body).toNat ∨ f 0 1 ≠ 1 ∨ f 11 1 ≠ 0 ∨ f 20 12 ≠ 0 then none
  else if h.type = 1 then
    if h.psn < 2 ^ 24 ∧ 1 ≤ h.nseg ∧ h.nseg ≤ 64 ∧ h.flags < 4 ∧ h.code = 0 ∧ h.ack = 0 then
      (readSegs h.nseg (body.drop 32)).bind (fun segs =>
        if (segs.map (fun x => x.2.length)).sum ≤ 4096 then some (h, segs) else none)
    else none
  else if h.type = 2 ∨ h.type = 3 then
    if h.psn = 0 ∧ h.nseg = 0 ∧ h.flags = 0 ∧ n = 36 ∧ h.ack < 2 ^ 24
        ∧ (if h.type = 3 then 1 ≤ h.code ∧ h.code ≤ 5 else h.code = 0)
        ∧ (if h.type = 3 ∧ 2 ≤ h.code ∧ h.code ≤ 4 then True else h.piece = 0) then some (h, []) else none
  else none

/-! ## Sending (R416, R418) -/

/-- Adjacent parts joined into segments of at most 4,096 bytes. -/
def joinSegs : List (Nat × List Byte) → List (Nat × List Byte)
  | [] => []
  | x :: xs =>
    match joinSegs xs with
    | y :: ys => if x.1 + x.2.length = y.1 ∧ x.2.length + y.2.length ≤ 4096 then (x.1, x.2 ++ y.2) :: ys else x :: y :: ys
    | [] => [x]

/-- Segments in groups of 64. -/
def groups64 (segs : List (Nat × List Byte)) : List (List (Nat × List Byte)) :=
  (List.range ((segs.length + 63) / 64)).map (fun i => (segs.drop (64 * i)).take 64)

/-- One DATA datagram of a packet is sent. -/
def State.sendDg (s : State) (n c job piece flags : Nat) (segs : List (Nat × List Byte)) : State :=
  let w := s.chanWord n c
  let psn := s.sendPsn n c
  let bs := sealDg ⟨1, bits w 23 16, bits w 31 24, psn, segs.length, flags, 0, piece, 0⟩ (segs.flatMap (fun x => segBytes x.1 x.2))
  let ch := s.chan n c
  ((s.setChan n c { ch with unacked := ch.unacked ++ [⟨psn, job, piece, bs, 0, s.ioTick n⟩] }).setPsn n c (psn + 1) (s.recvPsn n c)).transmit
    n c bs

/-- Waiting datagrams of a channel are sent, in order, while fewer than 1,024 are unacknowledged (R418). -/
def State.pump (s : State) (n c : Nat) : State :=
  let ch := s.chan n c
  let go := ch.waiting.take (1024 - ch.unacked.length)
  go.foldl (fun t d => t.sendDg n c d.job d.piece d.flags d.segs) (s.setChan n c { ch with waiting := ch.waiting.drop go.length })

/-- The datagrams of one piece are sent; `first` and `last` tell whether it is the first or last piece of its SEND. Elements that are adjacent
in the destination form one segment, whatever their ordinals (R417). -/
def State.sendPiece (s : State) (n c job piece : Nat) (first last : Bool) (parts : List (Nat × List Byte)) : State :=
  let gs := groups64 (joinSegs (inOrder (fun a b => decide (a.1 ≤ b.1)) parts))
  let ds : List WaitDg := gs.zipIdx.map (fun g =>
    ⟨job, piece, (if first && g.2 == 0 then 1 else 0) + (if last && g.2 + 1 == gs.length then 2 else 0), g.1⟩)
  let ch := s.chan n c
  (s.setChan n c { ch with waiting := ch.waiting ++ ds }).pump n c

/-- An ACK or NAK is sent on a channel. -/
def State.reply (s : State) (n c type code piece : Nat) : State :=
  let w := s.chanWord n c
  s.transmit n c (sealDg ⟨type, bits w 23 16, bits w 31 24, 0, 0, 0, code, piece, (s.recvPsn n c + 2 ^ 24 - 1) % 2 ^ 24⟩ [])

/-- Every unacknowledged datagram is resent, in psn order (R418). -/
def State.resend (s : State) (n c : Nat) : State :=
  let ch := s.chan n c
  let s1 := s.setChan n c { ch with unacked := ch.unacked.map (fun d => { d with tries := d.tries + 1, time := s.ioTick n }) }
  ch.unacked.foldl (fun t d => t.transmit n c d.data) s1

/-! ## Performing a received datagram (R416, R418) -/

/-- A datagram has been performed: the sequence number advances, and the sixteenth unacknowledged one is acknowledged. -/
def State.acceptDg (s : State) (n c : Nat) : State :=
  let ch := s.chan n c
  let s1 := s.setPsn n c (s.sendPsn n c) (s.recvPsn n c + 1)
  if 16 ≤ ch.owed + 1 then (s1.setChan n c { ch with owed := 0, gap := false }).reply n c 2 0 0
  else s1.setChan n c { ch with owed := ch.owed + 1, since := if ch.owed = 0 then s.ioTick n else ch.since, gap := false }

/-- Granule m of the datagram that channel c of engine n performs lands; with the last one it is performed (R146). -/
def State.landDg (s : State) (n c m : Nat) : State :=
  let ch := s.chan n c
  match ch.landing[m]? with
  | none => s
  | some x =>
    let left := ch.landing.eraseIdx m
    let t := (s.landGranule none 0 x).setChan n c { ch with landing := left }
    if left = [] then t.acceptDg n c else t

/-- The datagram that the channel performs is performed whole. -/
def State.landAll (s : State) (n c : Nat) : State := (List.range (s.chan n c).landing.length).foldl (fun t _ => t.landDg n c 0) s

end Sys2Proof.Machine
end

