-- ==== Sys2Proof/Machine/Links.lean ====
section
/-! DEFINITION. Stolrus packets (R379, R380, R382): the integrity tag, headers, sending on a link, and replies to peers. -/

namespace Sys2Proof.Machine

/-! ## The integrity tag (R380) -/

/-- One bit of the CRC-64, most significant first. -/
def crc64Bit (c : BitVec 64) : BitVec 64 := if c.getLsbD 63 then (c <<< 1) ^^^ 0x42F0_E1EB_A9EA_3693#64 else c <<< 1
/-- One byte. -/
def crc64Byte (c : BitVec 64) (b : Byte) : BitVec 64 :=
  crc64Bit (crc64Bit (crc64Bit (crc64Bit (crc64Bit (crc64Bit (crc64Bit (crc64Bit (c ^^^ (b.setWidth 64 <<< 56)))))))))
/-- The CRC-64 of bytes in the order they are sent. -/
def crc64 (bs : List Byte) : BitVec 64 := bs.foldl crc64Byte 0xFFFF_FFFF_FFFF_FFFF#64 ^^^ 0xFFFF_FFFF_FFFF_FFFF#64

/-! ## Headers (R380) -/

/-- A packet's fields. -/
structure PktHdr where
  type  : Nat
  dpeer : Nat
  speer : Nat
  seq   : Nat
  flits : Nat
  sem   : Nat
  op    : Nat
  tag   : Nat
  addr  : Nat
  deriving DecidableEq, Repr

/-- The fields of a header. -/
def readHdr (h : BitVec 128) : PktHdr :=
  ⟨bits h 127 120, bits h 119 112, bits h 111 104, bits h 103 96, bits h 95 88, bits h 87 86, bits h 85 76, bits h 75 64, bits h 51 0⟩

/-- The header of fields. -/
def PktHdr.word (h : PktHdr) : BitVec 128 :=
  BitVec.ofNat 128 (h.type * 2 ^ 120 + h.dpeer * 2 ^ 112 + h.speer * 2 ^ 104 + h.seq % 256 * 2 ^ 96 + h.flits * 2 ^ 88 + h.sem * 2 ^ 86
    + h.op * 2 ^ 76 + h.tag % 4096 * 2 ^ 64 + h.addr)

/-- The bytes that the tag covers. -/
def taggedBytes (h : BitVec 128) (payload : List Byte) : List Byte := leBytes 16 h.toNat ++ payload

/-- The tag passes, and the payload has the length the header gives, 128 flits at most. -/
def tagPasses (h : BitVec 128) (payload : List Byte) (tag : BitVec 64) : Bool :=
  crc64 (taggedBytes h payload) == tag && payload.length == 32 * (readHdr h).flits && decide ((readHdr h).flits ≤ 128)

/-! ## Links -/

/-- A link. -/
def State.link (s : State) (l : Nat) : Link := SMap.get s.links {} l
/-- A link replaced. -/
def State.setLink (s : State) (l : Nat) (x : Link) : State := { s with links := SMap.put s.links l x }

/-- This panel's number, if it has one (R379). -/
def State.myPeer (s : State) : Option Nat :=
  let r := s.ctlReg peeridAddr
  if r.getLsbD 8 then some (bits r 7 0) else none

/-- The bytes of a packet: header, payload, tag. -/
def sealPacket (h : PktHdr) (payload : List Byte) : List Byte :=
  let w := h.word
  taggedBytes w payload ++ leBytes 8 (crc64 (taggedBytes w payload)).toNat

/-- A packet is sent on link l with its next sequence number and kept until it is acknowledged; while 256 are kept, later ones wait
(R380, R382). -/
def State.sendOn (s : State) (l : Nat) (h : PktHdr) (payload : List Byte) : State :=
  let k := s.link l
  let bs := sealPacket { h with seq := k.seq, flits := payload.length / 32 } payload
  let k1 := { k with seq := (k.seq + 1) % 256 }
  if k.unacked.length < 256 ∧ k.held = [] then (s.setLink l { k1 with unacked := k.unacked ++ [bs] }).emit (.packet l bs)
  else s.setLink l { k1 with held := k.held ++ [bs] }

/-- A packet to a peer; nothing when no link goes to it. -/
def State.sendPacket (s : State) (h : PktHdr) (payload : List Byte) : State :=
  match s.peerLink h.dpeer with
  | none => s
  | some l => s.sendOn l h payload

/-- A reply to a peer's packet, which bears the sem of its request. -/
def State.respond (s : State) (h : PktHdr) (type : Nat) (payload : List Byte) : State :=
  s.sendPacket ⟨type, h.speer, s.myPeer.getD 0, 0, 0, h.sem, 0, h.tag, h.addr⟩ payload

/-! ## Writes of peers (R139, R381) -/

/-- Granule m of the write with a serial number performs; with the last one the write is acknowledged, if its tag has passed (R381). -/
def State.landWrite (s : State) (i m : Nat) : State :=
  match s.inwrites.find? (fun w => w.id == i) with
  | none => s
  | some w =>
    let left := w.todo.eraseIdx m
    let t := match w.todo[m]? with
      | some x => s.putPoc x.dst.space x.dst.at_ x.bytes
      | none => s
    if left = [] then
      let u : State := { t with inwrites := t.inwrites.filter (fun x => x.id != i) }
      if w.whole then u.respond (readHdr w.hdr) 6 [] else u
    else { t with inwrites := t.inwrites.map (fun x => if x.id = i then { x with todo := left } else x) }

/-- The write with a serial number performs whole. -/
def State.landWrites (s : State) (i : Nat) : State :=
  match s.inwrites.find? (fun w => w.id == i) with
  | some w => (List.range (max 1 w.todo.length)).foldl (fun t _ => t.landWrite i 0) s
  | none => s

/-! ## Replies to atomics from outside -/

/-- The payload of an atomic reply: the old value, or the view, each in whole flits, with STALE in the byte after it. -/
def replyPayload : FReply → List Byte
  | .val x _ st => leBytes 8 x.toNat ++ (if st then 1#8 else 0#8) :: List.replicate 23 0#8
  | .views ((v, st) :: _) => leBytes 128 v.toNat ++ (if st then 1#8 else 0#8) :: List.replicate 31 0#8
  | .views [] => []

/-- The reply to an atomic from outside, or its failure: to a peer by packet, to a host as a completion (R378, R381, R412). -/
def State.replyOut (s : State) (p : Part) (r : Option FReply) : State :=
  match p.from_, r with
  | .core, _ => s
  | .peer _ w, none => s.respond (readHdr w) 7 []
  | .peer _ w, some x =>
    let h := readHdr w
    s.respond h 5 (if h.op / 32 = 11 ∨ h.op / 32 = 12 then [] else replyPayload x)
  | .host dev, some (.val x _ _) => s.emit (.completion dev (some x))
  | .host dev, _ => s.emit (.completion dev none)

end Sys2Proof.Machine
end

