-- ==== Sys2Proof/Machine/Engines.lean ====
section
/-! DEFINITION. Copy queues and engines (R111 .. R118, R375, R416): `shape` (R302, R303), `qput` (R307), and the events of the
engines and of deliveries. -/

namespace Sys2Proof.Machine

/-! ## Shapes (R114, R115, R302) -/

/-- A signed 64-bit stride. -/
def signed64 (x : Nat) : Int := (BitVec.ofNat 64 x).toInt

/-- The number of elements. -/
def Shape.count (sh : Shape) : Nat := sh.ext.foldl (fun a x => a * x) 1
/-- The element size in bytes. -/
def Shape.esize (sh : Shape) : Nat := 2 ^ sh.esz

/-- The lowest rule of R303 that fails, and its dimension; `rest` names the lowest dimension with a reserved byte that is not zero. -/
def Shape.bad (sh : Shape) (rest : Option Nat) : Option (Nat × Nat) :=
  let off (d : Nat) : Bool := sh.sst.getD d 0 % sh.esize != 0 || sh.dst.getD d 0 % sh.esize != 0
  if sh.ndim = 0 ∨ 8 < sh.ndim then some (1, 0)
  else if 4 < sh.esz then some (2, 0)
  else match (List.range sh.ndim).find? (fun d => sh.ext.getD d 0 == 0) with
    | some d => some (3, d)
    | none =>
      match (List.range sh.ndim).find? off with
      | some d => some (4, d)
      | none =>
        if 2 ^ 32 < sh.count then some (5, 0)
        else if 2 ^ 36 < sh.count * sh.esize then some (6, 0)
        else rest.map (fun d => (7, d))

/-- A descriptor (R302): the shape, and the lowest dimension with a reserved byte that is not zero, 0 for the bytes before the first. -/
def readDesc (bs : List Byte) : Shape × Option Nat :=
  let n := bytesAt bs 0 1
  let ds := List.range (if n ≤ 8 then n else 0)
  (⟨n, bytesAt bs 1 1, bytesAt bs 2 2, ds.map (fun d => bytesAt bs (8 + 24 * d) 4),
    ds.map (fun d => signed64 (bytesAt bs (16 + 24 * d) 8)), ds.map (fun d => signed64 (bytesAt bs (24 + 24 * d) 8))⟩,
   if bytesAt bs 4 4 = 0 then ds.find? (fun d => bytesAt bs (12 + 24 * d) 4 != 0) else some 0)

/-- A shape record (R114): the shape, and 0 where a reserved byte or an entry beyond ndim is not zero. -/
def readRecord (bs : List Byte) : Shape × Option Nat :=
  let n := bytesAt bs 0 1
  let k := if n ≤ 8 then n else 0
  let ds := List.range k
  (⟨n, bytesAt bs 1 1, bytesAt bs 2 2, ds.map (fun d => bytesAt bs (32 + 4 * d) 4),
    ds.map (fun d => signed64 (bytesAt bs (64 + 8 * d) 8)), ds.map (fun d => signed64 (bytesAt bs (128 + 8 * d) 8))⟩,
   if bytesAt bs 4 28 = 0 ∧ bytesAt bs (32 + 4 * k) (32 - 4 * k) = 0 ∧ bytesAt bs (64 + 8 * k) (64 - 8 * k) = 0
     ∧ bytesAt bs (128 + 8 * k) (64 - 8 * k) = 0 then none else some 0)

/-- The 192 bytes of a record. -/
def Shape.record (sh : Shape) : List Byte :=
  let z (n k : Nat) : List Byte := List.replicate (n - k) 0#8
  let w (x : Int) : List Byte := leBytes 8 (BitVec.ofInt 64 x).toNat
  leBytes 1 sh.ndim ++ leBytes 1 sh.esz ++ leBytes 2 sh.gen ++ List.replicate 28 0#8
    ++ sh.ext.flatMap (leBytes 4) ++ z 32 (4 * sh.ndim) ++ sh.sst.flatMap w ++ z 64 (8 * sh.ndim)
    ++ sh.dst.flatMap w ++ z 64 (8 * sh.ndim)

/-- The indices of an ordinal, dimension 0 fastest (R115). -/
def indices : List Nat → Nat → List Nat
  | [], _ => []
  | x :: xs, e => e % x :: indices xs (e / x)

/-- The displacement of an ordinal along strides. -/
def displace (sh : Shape) (st : List Int) (e : Nat) : Int :=
  (List.zipWith (fun (i : Nat) (s : Int) => (i : Int) * s) (indices sh.ext e) st).foldl (· + ·) 0

/-- `shape [ga], [gb]` (R302). -/
def execShape (o : LAB) (s : State) : Out :=
  let va := (s.g o.a).toNat
  let vb := (s.g o.b).toNat
  let wr : Need := { wr := true }
  s.run (do
    must (vb % 8 == 0) (misalign (BitVec.ofNat 64 vb) 0 3)
    must (va % 64 == 0) (misalign (BitVec.ofNat 64 va) 1 6)
    let off ← s.ownOff vb 8
    (if NW ≤ va then (s.ownOff va 192).map (fun _ => ()) else must (decide (va + 192 ≤ NW)) (windowAt (BitVec.ofNat 64 va)))
    s.checkBuf s.now.h off 8 vb false
    s.checkData vb (s.ownLoc off) 8 false
    s.mayLoad [(s.ownLoc off, 8)]
    let n := leNat (s.look (s.ownLoc off) 1)
    let len := if 1 ≤ n ∧ n ≤ 8 then 8 + 24 * n else 8
    let off ← s.ownRange vb len true false
    s.mayLoad [(s.ownLoc off, len)]
    let (sh, rest) := readDesc (s.look (s.ownLoc off) len)
    (match sh.bad rest with
      | some (r, d) => .error (.trap .shape (BitVec.ofNat 64 vb) (BitVec.ofNat 64 (d * 16 + r)))
      | none => .ok ())
    let ps ← s.spread wr [(va, 192)]
    .ok ((s.usedAll wr [(va, 192)]).storeParts o.l 0#2 0#64 (deal (ps.flatMap granules) sh.record) []))

/-! ## `qput` (R307) -/

/-- The bytes of a header's fields, as the executing context reads them. -/
def State.hdrField (s : State) (hdr : Loc) (off n : Nat) : Nat := s.lookNat ⟨hdr.space, hdr.at_ + off⟩ n

/-- The slot steps of `qput` with its claim (R307): room in the ring, which the header's `read` is read for with acquire, the slot's
translation, and the writes. -/
def State.qputSlot (s : State) (l : BitVec 4) (q : Claim) : Except Stop State := do
  let hdr ← s.global q.va { rd := true, wr := true }
  s.checkData q.va hdr 16 false
  s.mayLoad [(hdr, 16)]
  let n := 2 ^ q.lgn
  must (decide ((q.i + 2 ^ 64 - s.hdrField hdr 8 8) % 2 ^ 64 < n)) (.wait (.qput l q))
  let slot := (q.slots + q.i % n * 64) % 2 ^ 52
  must (decide (slot + 64 ≤ NW)) (windowAt (BitVec.ofNat 64 slot))
  let loc ← s.global slot { wr := true }
  s.checkHome slot loc 64
  let start := bytesAt q.img 61 3
  let w7 := leBytes 8 (start * 2 ^ 40 + q.i / n % 2 * 2 + 1)
  let parts := deal (granules (loc, 56)) (q.img.take 56)
  let last : Loc := ⟨loc.space, loc.at_ + 56⟩
  let s1 := (s.acquired s.now.h sysScope).used slot { wr := true }
  let s2 := s1.modCur (fun c => { c with claims := SMap.del c.claims c.pc.toNat, state := .ready })
  if !s.now.defer && parts.all (fun p => s.canWrite p.1 p.2.length 0#2 0#64) && s.canWrite last 8 2#2 sysScope then
    .ok (((parts ++ [(last, w7)]).foldl (fun t p => t.performOrRefuse s.now.h s.now.k p.1 p.2) s2).endLong l [])
  else
    let s3 := parts.foldl (fun t p => t.enqueue ⟨s2.serial, 0#2, 0#64, p.1, .store p.2, 0⟩) { s2 with serial := s2.serial + 1 }
    .ok ((s3.enqueue ⟨s3.serial, 2#2, sysScope, last, .store w7, 0⟩).stay l [] .ready)

/-- A step taken after an effect that stays when it stops (the claim of R307, R318). -/
def State.thenRun (s : State) (f : State → Except Stop State) : Out := s.run (f s)

/-- The claim of `qput` (R307), an `amo.add` with the checks of one (R279), with its effects: `gd`, and the operation in the open batch. -/
def State.qputClaim (s : State) (o : L3) : Except Stop (State × Claim) := do
  let va := (s.g o.a).toNat
  let vb := (s.g o.b).toNat
  let rw : Need := { rd := true, wr := true }
  must (va % 64 == 0) (misalign (BitVec.ofNat 64 va) 2 6)
  must (vb % 64 == 0) (misalign (BitVec.ofNat 64 vb) 0 6)
  must (decide (va < NW)) (windowAt (BitVec.ofNat 64 va))
  let off ← s.ownOff vb 64
  let hdr ← s.global va rw
  s.checkBuf s.now.h off 64 vb false
  s.checkData vb (s.ownLoc off) 64 false
  s.mayLoad [(s.ownLoc off, 64)]
  let img := s.look (s.ownLoc off) 64
  must (bits (BitVec.ofNat 64 (bytesAt img 56 8)) 39 0 == 0) (illegal11 (BitVec.ofNat 64 vb))
  s.checkData va hdr 64 true
  s.mayLoad [(hdr, 32)]
  let lgn := s.hdrField hdr 24 1
  must (decide (6 ≤ lgn ∧ lgn ≤ 16)) (illegal11 (BitVec.ofNat 64 va))
  let _ ← s.global va { rw with atomic := true }
  must (s.canWrite hdr 8 0#2 sysScope) (.wait .retry)
  let (t, r) := (s.used va rw).atomStep s.now.h hdr sysScope (.rmw .add 8 1#64)
  let i : Word := match r with | .val x _ _ => x | .views _ => 0#64
  let global := !(BitVec.ofNat 64 (bytesAt img 0 8)).getLsbD 16
  let q : Claim := ⟨va, i.toNat, lgn, s.hdrField hdr 16 8, img, t.serial⟩
  let slot : QSlot := ⟨s.myDev, s.dctxOf s.now.h, va, hdr.at_, q.i⟩
  let op : CopyOp := ⟨t.serial, s.me.launch.getD 0, s.now.h, s.now.k, false, 0, global, 1, false, some slot⟩
  let u := (t.acquired s.now.h sysScope).modCur (fun c =>
    { c.setG o.d i with
      openB := ⟨c.openB.ops ++ [op.id], c.openB.global || global⟩, claims := SMap.put c.claims c.pc.toNat q })
  .ok ({ u with ops := u.ops ++ [op], serial := u.serial + 1 }, q)

/-- `qput gd, [ga], [gb]` (R307): an instruction that has its claim goes on with it. -/
def execQput (o : L3) (s : State) : Out :=
  match s.cur.claims.find? (fun p => p.1 == s.cur.pc.toNat) with
  | some (_, q) => s.thenRun (fun t => t.qputSlot o.l q)
  | none =>
    match s.qputClaim o with
    | .error e => s.stop e
    | .ok (t, q) => t.thenRun (fun u => u.qputSlot o.l q)

/-- The state with a waiting instruction of context k of core h executing. -/
def State.resume (s : State) (h k : Nat) : State :=
  let c := s.ctx h k
  { s with now := { h := h, k := k, defer := false, words := List.replicate (c.wlen.toNat / 2) 0#16, uses := c.wuses } }

/-- QPUT_RING_ROOM (R307): the `qput` in which context k of core c waits. -/
def execEvQputRingRoom (c k : Nat) (s : State) : Out :=
  match (s.ctx c k).state with
  | .waiting (.qput l q) => if c < 65536 then (s.resume c k).thenRun (fun t => t.qputSlot l q) else .next s
  | _ => .next s

/-! ## The engines' view of memory (R117, R346, R375) -/

/-- The partition device and context that a 16-bit device-context field of engine n names: devices stand at the ports of their I/O
die, and only in mode `die` do bits [15:8] choose among them (R375, R412, R416). -/
def State.boundTo (s : State) (n c : Nat) : Option (Nat × Nat) :=
  match s.pmode with
  | 0 => if c < 256 then some (0, c) else none
  | 1 => if c < 256 then some (if n / 16 = 1 then 1 else 0, c) else none
  | _ => if c < 2048 then some (n / 16 + 8 * (c / 256), c % 256) else none

/-- A device context's state: 0 free, 1 live, 2 tearing down (R360); a number beyond the 256 contexts names none. -/
def State.dctxState (s : State) (dev c : Nat) : Nat := if c < 256 then (s.ctlReg (dctxRec dev c + 0x18)).toNat else 0

/-- Translation of a unit's access in a device context: where it goes, or the status that its failure gives (R117, R346; an error
that the walk meets is MCHK: DEDUCED, log entry 56). -/
def State.unitWalk (s : State) (dev c va : Nat) (need : Need) : Except Nat Loc :=
  if NW ≤ va then .error 1
  else match s.walk dev (s.ctlReg (dctxRec dev c)).toNat va with
    | .leaf e lvl => if permReason e need false = 0 then .ok ⟨leafSpace dev e, leafKey e lvl va⟩ else .error 1
    | .mchk _ => .error 6
    | _ => .error 1

/-- A unit of a device has used the translations of some addresses in a device context: an access may be on its way through them (R344). -/
def State.unitUsed (s : State) (dev c : Nat) (vas : List Nat) : State :=
  let es := ((vas.map (fun va => va / 65536 * 65536)).eraseDups).filterMap (fun va =>
    match s.walk dev (s.ctlReg (dctxRec dev c)).toNat va with
    | .leaf e lvl => some (tlbEntry c va e lvl)
    | _ => none)
  match s.diesOf dev with
  | d :: _ => s.modDie d (fun x => x.retired es)
  | [] => s

/-- A core is live in a device context. -/
def State.liveIn (s : State) (dev c h : Nat) : Bool :=
  s.dieLive (hdie h) && s.launches.any (fun l => l.dev == dev && l.dctx == c && l.chor.contains (chorusOf h))

/-- Where a local address of a device context's core now stands; nowhere when no launch of the context holds the core (R430). -/
def State.standsAt (s : State) (dev c h : Nat) : Option Nat :=
  (s.launches.find? (fun l => l.dev == dev && l.dctx == c && l.chor.contains (chorusOf h))).map (fun l => l.handle h)

/-! ## Packets (R113, R117) -/

/-- Word i of a packet. -/
def Job.w (j : Job) (i : Nat) : Word := j.words.getD i 0#64
def Job.code (j : Job) : Nat := bits (j.w 0) 7 0
def Job.dloc (j : Job) : Bool := (j.w 0).getLsbD 16
def Job.sloc (j : Job) : Bool := (j.w 0).getLsbD 17
def Job.bv (j : Job) : Bool := (j.w 0).getLsbD 34
def Job.chan (j : Job) : Nat := bits (j.w 0) 27 20
/-- The core of a local address. -/
def localCore (w : Word) : Nat := bits w 63 48
/-- Pieces hold 4,096 bytes (R115). -/
def Job.perPiece (j : Job) : Nat := 4096 / j.shape.esize

/-- A reserved bit of a packet is set, or a rule of R113, R117 or R416 on its words fails; sloc of a FILL, which has no source address,
is not looked at (DESIGN CHOICE, log entry 56). -/
def State.packetBad (s : State) (j : Job) : Bool :=
  let w0 := j.w 0
  let fill := j.code == 2
  let send := j.code == 3
  let scopeBad := if j.w 4 = 0#64 then j.w 6 != 0#64
    else !((scopeKind (j.w 6) == 3 || scopeKind (j.w 6) == 4) && bits (j.w 6) 63 35 == 0 && bits (j.w 6) 31 0 == 0)
  let localBad (w : Word) : Bool := bits w 47 17 != 0 || !s.liveIn j.dev j.dctx (localCore w)
  !(j.code == 1 || fill || send) || bits w0 33 28 != 0 || w0.getLsbD 18 || bits w0 15 8 != 0 || (!send && j.chan != 0)
    || bits (j.w 7) 39 2 != 0 || (j.bv && !j.dloc) || bits (j.w 4) 3 0 != 0 || bits (j.w 3) 5 0 != 0 || scopeBad
    || (!fill && j.sloc && localBad (j.w 1)) || (j.dloc && localBad (j.w 2))
    || (send && (j.dloc || j.bv || !s.chanEn j.engine j.chan
      || s.boundTo j.engine (s.chanDctx j.engine j.chan) != some (j.dev, j.dctx)))

/-- The record that a packet names, as memory holds it: its bytes, or the status that the packet ends with (R116, R117). -/
def State.readShape (s : State) (j : Job) : Except Nat (List Byte) :=
  let va := (j.w 3).toNat
  if NW < va + 192 then .error 1
  else do
    let ls ← (pageParts va 192).mapM (fun p => (s.unitWalk j.dev j.dctx p.1 { rd := true }).map (fun l => (l, p.2)))
    if ls.any (fun l => (s.dataError j.dev l.1 l.2 false).isSome) then .error 6
    else
      let bs := s.gather ls
      if bytesAt bs 2 2 = bits (j.w 0) 63 48 then .ok bs else .error 4

/-- The record that a packet names, from the engine's cache or from memory (R116). On a hit it is the cached record, or with `new` the one
in memory while that one bears the packet's generation: a record that has been changed under its generation is used old or new, whole
(R116, R434). -/
def State.shapeFor (s : State) (j : Job) (new : Bool) : Except Nat (List Byte) :=
  match (SMap.get s.scache [] j.engine).find? (fun x =>
      x.dev == j.dev && x.dctx == j.dctx && x.at_ == (j.w 3).toNat && x.gen == bits (j.w 0) 63 48) with
  | some x => if new then .ok ((s.readShape j).toOption.getD x.rec_) else .ok x.rec_
  | none => s.readShape j

/-- The record is the most recently used of at most 64 (R434). -/
def State.cacheShape (s : State) (j : Job) (bs : List Byte) : State :=
  let e : ShapeEnt := ⟨j.dev, j.dctx, (j.w 3).toNat, bits (j.w 0) 63 48, bs⟩
  let old := SMap.get s.scache [] j.engine
  let rest := old.filter (fun x => !(x.dev == e.dev && x.dctx == e.dctx && x.at_ == e.at_ && x.gen == e.gen))
  { s with scache := SMap.put s.scache j.engine ((e :: rest).take 64) }

/-- BADALIGN (R117). -/
def Job.misaligned (j : Job) : Bool :=
  let base (loc : Bool) (w : Word) : Nat := if loc then bits w 16 0 else w.toNat
  (j.code != 2 && base j.sloc (j.w 1) % j.shape.esize != 0) || base j.dloc (j.w 2) % j.shape.esize != 0
    || (j.bv && j.shape.count * j.shape.esize % 32 != 0)

/-- A source or destination of this panel that is a near-window address (R20). -/
def Job.nearWindow (j : Job) : Bool :=
  (j.code != 2 && !j.sloc && decide (NW ≤ (j.w 1).toNat)) || (j.code != 3 && !j.dloc && decide (NW ≤ (j.w 2).toNat))

/-- A packet with its shape: it has its first piece, or its status (R20, R117, R120). -/
def State.admitJob (s : State) (j : Job) (new : Bool) : State × Job :=
  if j.status.isSome then (s, j)
  else if s.packetBad j then (s, { j with status := some (3, 0) })
  else match s.shapeFor j new with
    | .error st => (s, { j with status := some (st, if st = 4 then 0 else bits (j.w 7) 63 40) })
    | .ok bs =>
      let s1 := s.cacheShape j bs
      let (sh, rest) := readRecord bs
      let j1 := { j with shape := sh, piece := bits (j.w 7) 63 40 }
      if (sh.bad rest).isSome ∨ (j.code = 2 ∧ 3 < sh.esz) then (s1, { j1 with status := some (3, 0) })
      else if j1.misaligned then (s1, { j1 with status := some (2, 0) })
      else if j1.nearWindow then (s1, { j1 with status := some (1, 0) })
      else if sh.count ≤ j1.piece * j1.perPiece then (s1, { j1 with status := some (0, 0) })
      else (s1, j1)

/-- The address of binding entry e of engine n (R375). -/
def bindAt (n e : Nat) : Nat := 0x0_F000_0600_0000 + n * 0x1000 + 16 * e

/-- Where the next packet of entry e of engine n lies, when a valid slot of the right phase is there (R112): the device and context,
the header, `read`, and the slot. The spec does not say what an engine does when the header or the slot fails translation, or lgn is outside
6 .. 16: the queue then offers no packet (DESIGN CHOICE, log entry 59). -/
def State.slotOf (s : State) (n e : Nat) : Option (Nat × Nat × Loc × Nat × Loc) := do
  let b := s.ctlReg (bindAt n e + 8)
  let (dev, dc) ← s.boundTo n (bits b 63 48)
  guard (b.getLsbD 0 && s.dctxState dev dc == 1 && (s.ctlReg (bindAt n e)).toNat % 64 == 0)
  let hdr ← (s.unitWalk dev dc (s.ctlReg (bindAt n e)).toNat { rd := true, wr := true }).toOption
  guard (s.dataError dev hdr 32 false).isNone
  let f (l : Loc) (off k : Nat) : Nat := leNat (s.pocBytes l.space (l.at_ + off) k)
  let lgn := f hdr 24 1
  guard (decide (6 ≤ lgn ∧ lgn ≤ 16))
  let r := f hdr 8 8
  let slot ← (s.unitWalk dev dc ((f hdr 16 8 + r % 2 ^ lgn * 64) % 2 ^ 52) { rd := true }).toOption
  let w7 : Loc := ⟨slot.space, slot.at_ + 56⟩
  guard ((s.dataError dev w7 8 false).isNone && f slot 56 8 % 2 == 1 && f slot 56 8 / 2 % 2 == r / 2 ^ lgn % 2)
  pure (dev, dc, hdr, r, slot)

/-- The entry of engine n whose packet is next: the first one, in turn after the entry served last, that has a packet (R375). -/
def State.nextEntry (s : State) (n : Nat) : Option Nat :=
  ((List.range 16).map (fun i => (SMap.get s.served 0 n + i) % 16)).find? (fun e => (s.slotOf n e).isSome)

/-- The claim of an operation is slot r of the queue at this place. -/
def QSlot.names (q : QSlot) (dev dctx va at_ r : Nat) : Bool :=
  q.claim == r && (q.at_ == at_ || (q.dev == dev && q.dctx == dctx && q.va == va))

/-- Engine n takes the next packet of its entry e (R112); words that hold an uncorrectable error are not delivered, and the packet ends
MCHK at its start piece (R425). `new` is the choice of R116 on a record changed in place. -/
def State.fetchSlot (s : State) (n e : Nat) (new : Bool) : Option State := do
  let (dev, dc, hdr, r, slot) ← s.slotOf n e
  let word (i : Nat) : Word :=
    if (s.dataError dev ⟨slot.space, slot.at_ + 8 * i⟩ 8 false).isSome then 0#64
    else BitVec.ofNat 64 (leNat (s.pocBytes slot.space (slot.at_ + 8 * i) 8))
  let op := s.ops.find? (fun o => o.slot.any (fun q => q.names dev dc (s.ctlReg (bindAt n e)).toNat hdr.at_ r))
  let ws := (List.range 8).map word
  let bad := (s.dataError dev slot 64 false).map (fun _ => (6, bits (ws.getD 7 0#64) 63 40))
  let va := (s.ctlReg (bindAt n e)).toNat
  let j : Job := ⟨s.serial, n, e, dev, dc, ws, hdr, r, ⟨0, 0, 0, [], [], []⟩, 0, [], false, 0, bad, op.map CopyOp.id, false, va⟩
  let s1 := s.putPoc hdr.space (hdr.at_ + 8) (leBytes 8 (r + 1))
  let (s2, j2) := ({ s1 with serial := s1.serial + 1 } : State).admitJob j new
  pure { s2 with jobs := s2.jobs ++ [j2], served := SMap.put s2.served n (e + 1) }

/-- ENGINE_SLOT_FETCH (R112, R375): engine n, entry e, when it is that entry's turn; number 16 + e is the same fetch with the new record
where R116 lets a packet use the old one or the new one. -/
def execEvEngineSlotFetch (n e : Nat) (s : State) : Out :=
  .next (if n < 128 ∧ e < 32 ∧ s.nextEntry n = some (e % 16) then (s.fetchSlot n (e % 16) (decide (16 ≤ e))).getD s else s)

/-! ## Pieces (R59, R60, R115, R118) -/

/-- A job by its number. -/
def State.job (s : State) (i : Nat) : Option Job := s.jobs.find? (fun j => j.id == i)
/-- A job changed. -/
def State.setJob (s : State) (j : Job) : State := { s with jobs := s.jobs.map (fun x => if x.id = j.id then j else x) }

/-- The ordinals of a piece. -/
def Job.elements (j : Job) (k : Nat) : List Nat :=
  (List.range (min j.perPiece (j.shape.count - k * j.perPiece))).map (fun i => k * j.perPiece + i)

/-- The address of an element: in a local memory (offset), or virtual; none outside, which ends the packet FAULTED (DESIGN CHOICE for
a local memory, log entry 56). -/
def elementAt (loc : Bool) (w : Word) (disp : Int) (n : Nat) : Option Nat :=
  let a : Int := (if loc then bits w 16 0 else w.toNat : Nat) + disp
  if 0 ≤ a ∧ a + n ≤ (if loc then 2 ^ 17 else NW : Nat) then some a.toNat else none

/-- Where an element is read, or the status its failure gives; a FILL's is nowhere. -/
def State.elementSrc (s : State) (j : Job) (e : Nat) : Except Nat (Option Loc) :=
  let n := j.shape.esize
  if j.code = 2 then .ok none
  else match elementAt j.sloc (j.w 1) (displace j.shape j.shape.sst e) n with
    | none => .error 1
    | some a => do
      let l : Loc ← if j.sloc then
          match s.standsAt j.dev j.dctx (localCore (j.w 1)) with
          | some h => .ok ⟨.local_ h, localKey h a⟩
          | none => .error 1
        else s.unitWalk j.dev j.dctx a { rd := true }
      if (s.dataError j.dev l n false).isSome then .error 6 else .ok (some l)

/-- Where an element goes, or the status its failure gives. -/
def State.placeElement (s : State) (j : Job) (e : Nat) : Except Nat Loc :=
  let n := j.shape.esize
  match elementAt j.dloc (j.w 2) (displace j.shape j.shape.dst e) n with
  | none => .error 1
  | some a =>
    if j.dloc then
      match s.standsAt j.dev j.dctx (localCore (j.w 2)) with
      | some h => .ok ⟨.local_ h, localKey h a⟩
      | none => .error 1
    else do
      let l ← s.unitWalk j.dev j.dctx a { wr := true }
      if s.writeLost j.dev l n then .error 6 else .ok l

/-- The granules of an element's move, or a status (R139). -/
def State.moveElement (s : State) (j : Job) (e : Nat) : Except Nat (List Granule) := do
  let n := j.shape.esize
  let src ← s.elementSrc j e
  let l ← s.placeElement j e
  .ok ((granules (l, n)).map (fun p =>
    let o := p.1.at_ - l.at_
    ⟨src.map (fun x => (⟨x.space, x.at_ + o⟩, p.2)), ((leBytes n (j.w 1).toNat).drop o).take p.2, p.1⟩))

/-- A granule joins those of a piece: next to the parts of its own granule that it does not overlap, so that they perform as one
(R139), else as one of its own: elements that share bytes leave either's value (R115). -/
def joinGranule (gs : List (List Granule)) (x : Granule) : List (List Granule) :=
  let fits (g : List Granule) : Bool :=
    g.all (fun y => y.dst.space == x.dst.space && y.dst.at_ / 8 == x.dst.at_ / 8 && y.dst.at_ != x.dst.at_)
  match gs.findIdx? fits with
  | some i => gs.modify i (fun g => g ++ [x])
  | none => gs ++ [[x]]

/-- A source byte of an element that the engine may not read (R60). -/
def State.sourceBarred (s : State) (j : Job) (e : Nat) : Bool :=
  if j.code = 2 ∨ !j.sloc then false
  else match elementAt true (j.w 1) (displace j.shape j.shape.sst e) j.shape.esize, s.standsAt j.dev j.dctx (localCore (j.w 1)) with
    | none, _ | _, none => false
    | some a, some h =>
      let p := localCore (j.w 1)
      let by_ : Option Nat := (j.op.bind (fun i => s.ops.find? (fun o => o.id == i))).bind
        (fun o => if o.h = p then some o.k else none)
      (List.range 32).any (fun i =>
        let b := (s.core h).buf i
        b.overlaps a j.shape.esize && !(b.state == 3 || ((b.state == 1 || b.state == 4) && by_ == some b.owner)))

/-- The granules of each element's move that does not fail, in ascending order. -/
def State.pieceMoves (s : State) (j : Job) (es : List Nat) : List (List Granule) :=
  (es.flatMap (fun e => match s.moveElement j e with | .ok gs => gs | .error _ => [])).foldl joinGranule []

/-- The source bytes of an element of a SEND, or the status its failure gives. -/
def State.sendElement (s : State) (j : Job) (e : Nat) : Except Nat (List Byte) :=
  (s.elementSrc j e).map (fun l => l.elim [] (fun x => s.pocBytes x.space x.at_ j.shape.esize))

/-- The status of a piece that fails: the first element's failure, in ascending order. -/
def State.pieceFails (s : State) (j : Job) (es : List Nat) : Option Nat :=
  if es.any (s.sourceBarred j) then some 5
  else es.findSome? (fun e =>
    match (if j.code = 3 then (s.sendElement j e).map (fun _ => ()) else (s.moveElement j e).map (fun _ => ())) with
    | .error st => some st
    | .ok _ => none)

/-- No earlier SEND of the channel still has pieces to send (R416). -/
def State.sendTurn (s : State) (j : Job) : Bool :=
  s.jobs.all (fun x => !(decide (x.id < j.id) && x.code == 3 && x.engine == j.engine && x.chan == j.chan && x.status.isNone))

/-- A piece of a SEND is read and goes out in datagrams (R416, R417): its source bytes are read at one time, and a destination address
is taken modulo 2^52 (DESIGN CHOICE, log entry 56). -/
def State.sendOut (s : State) (j : Job) (es : List Nat) (last : Bool) : State :=
  let parts := es.map (fun e =>
    ((((j.w 2).toNat + displace j.shape j.shape.dst e) % (2 ^ 52 : Nat) : Int).toNat, (s.sendElement j e).toOption.getD []))
  (s.sendPiece j.engine j.chan j.id j.piece (j.piece == bits (j.w 7) 63 40) last parts).setJob
    { j with piece := j.piece + 1, status := if last then some (0, 0) else none }

/-- The global addresses that a piece's elements name. -/
def Job.addresses (j : Job) (es : List Nat) : List Nat :=
  let side (on : Bool) (w : Word) (st : List Int) : List Nat :=
    if on then es.filterMap (fun e => elementAt false w (displace j.shape st e) j.shape.esize) else []
  side (j.code != 2 && !j.sloc) (j.w 1) j.shape.sst ++ side (j.code != 3 && !j.dloc) (j.w 2) j.shape.dst

/-- The piece that a job is at begins (R115, R118): its granules are known, and of a piece that fails those of the elements that do not
fail, which may still be written until the packet reports. -/
def State.openPiece (s : State) (j : Job) : State :=
  let es := j.elements j.piece
  let last := decide (j.shape.count ≤ (j.piece + 1) * j.perPiece)
  let s := s.unitUsed j.dev j.dctx (j.addresses es)
  match s.pieceFails j es with
  | some st =>
    s.setJob { j with status := some (st, j.piece), open_ := if st = 5 ∨ j.code = 3 then [] else s.pieceMoves j es }
  | none => if j.code = 3 then s.sendOut j es last else s.setJob { j with open_ := s.pieceMoves j es }

/-- The bytes of a granule's parts. -/
def granuleLen (g : List Granule) : Nat := (g.map (fun x => (x.src.elim x.bytes.length Prod.snd))).sum

/-- A granule of a job's piece performs (R146). -/
def State.writeParts (s : State) (j : Job) (g : List Granule) : State :=
  (g.map (fun x => x.read s)).foldl (fun t x => t.landGranule none ((s.standsAt j.dev j.dctx (localCore (j.w 2))).getD 0) x) s

/-- Why a granule cannot be moved any more, as a status (R117): source bytes that are still to be read hold an error or cannot be reached,
or the launch of a local end is over (R425, R430; DESIGN CHOICE, log entry 56). -/
def State.granuleFails (s : State) (j : Job) (wr : Bool) (g : List Granule) : Option Nat :=
  let src := g.filterMap Granule.src
  if (j.sloc && !src.isEmpty && (s.standsAt j.dev j.dctx (localCore (j.w 1))).isNone)
      || (j.dloc && wr && (s.standsAt j.dev j.dctx (localCore (j.w 2))).isNone) then some 1
  else if src.any (fun p => (s.dataError j.dev p.1 p.2 false).isSome) || (wr && !j.dloc && g.any (fun x => s.writeLost j.dev x.dst 1)) then some 6
  else none

/-- Granule m of the piece that job i performs is read, or is written: the piece is over with its last one. One that cannot be moved is
dropped, and the packet ends at its piece. -/
def State.granuleStep (s : State) (i m : Nat) (wr : Bool) : State :=
  match s.jobs.find? (fun j => j.id == i) with
  | none => s
  | some j =>
    match j.open_[m]? with
    | none => s
    | some g =>
      match s.granuleFails j wr g with
      | some st => s.setJob { j with open_ := j.open_.eraseIdx m, status := some (j.status.getD (st, j.piece)) }
      | none =>
      if !wr then s.setJob { j with open_ := j.open_.set m (g.map (fun x => x.read s)) }
      else if j.dloc && !j.checked then s
      else
        let left := j.open_.eraseIdx m
        let end_ := left.isEmpty && j.status.isNone
        (s.writeParts j g).setJob { j with
          open_ := left
          credit := if j.bv ∧ j.status = none then j.credit + granuleLen g else j.credit
          piece := if end_ then j.piece + 1 else j.piece
          status := if end_ ∧ j.shape.count ≤ (j.piece + 1) * j.perPiece then some (0, 0) else j.status }

/-- A packet whose context is torn down is gone at a piece boundary (R375). -/
def State.reap (s : State) : State := { s with jobs := s.jobs.filter (fun j => !(j.halt && j.open_.isEmpty)) }

/-- A job's next piece may begin. -/
def State.pieceReady (s : State) (j : Job) : Bool :=
  j.status.isNone && j.open_.isEmpty && !j.halt &&
    (j.code != 3 || (s.sendTurn j && (s.chan j.engine j.chan).waiting.isEmpty && decide ((s.chan j.engine j.chan).unacked.length < 1024)))

/-- ENGINE_PIECE (R115, R139): the next piece of packet i begins; or of the piece it performs, the granules that the list names are read
(2 × position) or written (2 × position + 1), with an empty list all of them in order. Number 2^64 + engine × 256 + channel is the
datagram that a scale-out channel performs, and number 2^65 + n the write n of a peer: the granules at the positions land, with an empty list
all of them (R139, R146, R414). -/
def execEvEnginePiece (i : Nat) (which : List Nat) (s : State) : Out :=
  .next (if 2 ^ 65 ≤ i then
    (if which = [] then s.landWrites (i - 2 ^ 65) else which.foldl (fun t m => t.landWrite (i - 2 ^ 65) m) s)
  else if 2 ^ 64 ≤ i then
    (let n := (i - 2 ^ 64) / 256
     let c := i % 256
     if which = [] then s.landAll n c else which.foldl (fun t m => t.landDg n c m) s)
  else match s.job i with
    | some j =>
      if s.pieceReady j then s.openPiece j
      else
        ((if which = [] ∧ j.status = none then List.replicate j.open_.length 1 else which).foldl
          (fun t c => t.granuleStep i (c / 2) (c % 2 == 1)) s).reap
    | none => s)

/-- The whole of a packet's write into its destination core: offset and length of each element from its first piece on. -/
def Job.destRanges (j : Job) : List (Nat × Nat) :=
  let k := bits (j.w 7) 63 40
  (List.range (j.shape.count - k * j.perPiece)).filterMap (fun i =>
    (elementAt true (j.w 2) (displace j.shape j.shape.dst (k * j.perPiece + i)) j.shape.esize).map (fun a => (a, j.shape.esize)))

/-- COPY_DELIVERY_CHECK (R59): of the `cpm` branch i, or of packet i when its first byte arrives. -/
def execEvCopyDeliveryCheck (i : Nat) (s : State) : Out :=
  .next (match s.dels.find? (fun d => d.id == i) with
    | some d =>
      if d.checked then s
      else match d.h.bind (s.landing d.launch) with
        | some h => s.checkDelivery h d
        | none => s.endDelivery d false
    | none =>
      match s.job i with
      | some j =>
        if j.open_ = [] ∨ !j.dloc ∨ j.checked then s
        else match s.standsAt j.dev j.dctx (localCore (j.w 2)) with
          | none => s.setJob { j with status := some (j.status.getD (1, j.piece)), open_ := [] }
          | some h =>
            let t := if h < 65536 then s.openCycle h else s
            match (t.core h).landOk j.destRanges with
            | some c => (t.setCore h c).setJob { j with checked := true }
            | none => t.setJob { j with status := some (5, 0), open_ := [] }
      | none => s)

/-- DELIVERY_SECTOR_CREDIT (R122): of delivery i, sector n of those left is read (`rd`) or lands and credits; of packet i, up to
n + 1 sectors that have been written are credited. -/
def execEvDeliverySectorCredit (i n : Nat) (rd : Bool) (s : State) : Out :=
  .next (match s.dels.find? (fun d => d.id == i) with
    | some d => s.sectorStep d n rd
    | none =>
      match s.job i with
      | some j =>
        let m := min (n + 1) (j.credit / 32)
        if m = 0 then s
        else
          let t := match s.standsAt j.dev j.dctx (localCore (j.w 2)) with
            | some h => s.barrierChange h ⟨16 * bits (j.w 0) 47 35, false, m⟩
            | none => s
          t.setJob { j with credit := j.credit - 32 * m }
      | none => s)

/-! ## Completion (R117, R119) -/

/-- Two packets come from one queue: its header has one place, or one address in their device context (R112). -/
def Job.sameQueue (j x : Job) : Bool := x.hdr == j.hdr || (x.dev == j.dev && x.dctx == j.dctx && x.qva == j.qva)

/-- The channel of a SEND has datagrams of it that are not acknowledged. -/
def State.unsettled (s : State) (j : Job) : Bool :=
  let ch := s.chan j.engine j.chan
  j.code == 3 && (ch.unacked.any (fun d => d.job == j.id) || ch.waiting.any (fun d => d.job == j.id))

/-- A packet may report: it has its status, its sectors are credited, what it has sent is acknowledged (R118), and no earlier packet of
its queue is still to report. -/
def State.mayReport (s : State) (j : Job) : Bool :=
  j.status.isSome && decide (j.credit < 32) && s.jobs.all (fun x => !(decide (x.id < j.id) && j.sameQueue x)) && !s.unsettled j

/-- The status word and the sequence value are written, the message is made, and the operation's end is known. A word 4 that is not
16-byte aligned, which makes the packet BADPACKET, is rounded down, and a word that cannot be written is not (DESIGN CHOICE, log entry 56). -/
def State.reportJob (s : State) (j : Job) (st piece : Nat) : State :=
  let w4 := (j.w 4).toNat / 16 * 16
  let put (t : State) (va : Nat) (x : Word) : State :=
    match t.unitWalk j.dev j.dctx va { wr := true } with
    | .ok l => if t.writeLost j.dev l 8 then t else t.putPoc l.space l.at_ (leBytes 8 x.toNat)
    | .error _ => t
  let stat := BitVec.ofNat 64 (st * 2 ^ 56 + piece % 2 ^ 24)
  let s1 := if j.w 4 = 0#64 then s else put (put s (w4 + 8) stat) w4 (j.w 5)
  let s2 : State := { s1 with jobs := s1.jobs.filter (fun x => x.id != j.id) }
  match j.op.bind (fun i => s2.ops.find? (fun o => o.id == i)) with
  | none => s2
  | some o =>
    let msg : Msg := ⟨o.launch, o.h, some j.hdr.at_,
      BitVec.ofNat 64 (st * 2 ^ 56 + piece % 2 ^ 24 * 2 ^ 32 + o.k * 2 ^ 16 + bits (j.w 5) 15 0), !j.dloc⟩
    { s2 with
      ops := s2.ops.map (fun x => if x.id = o.id then { x with left := 0 } else x)
      msgs := if (j.w 0).getLsbD 19 then s2.msgs ++ [msg] else s2.msgs }

/-- PACKET_COMPLETION (R117): of packet i. -/
def execEvPacketCompletion (i : Nat) (s : State) : Out :=
  .next (match s.job i with
    | some j => if s.mayReport j then (match j.status with | some (st, p) => s.reportJob j st p | none => s) else s
    | none => s)

end Sys2Proof.Machine
end

