-- ==== Sys2Proof/Machine/Matrix.lean ====
section
/-! DEFINITION. The chorus: joining a gang, its completion, the planes, and the redundant comparison (R99 .. R103, R107, R108,
R260, R261). -/

namespace Sys2Proof.Machine

/-! ## Gangs -/

/-- An `mma` at issue (R99, R100, R260): the self check, then the join. -/
def State.mma (s : State) (pair : Nat) (o : MmaOps) : Out :=
  let h := s.now.h
  let v := s.g o.xs
  let mask := v.setWidth 32
  let me : GMember := ⟨h, s.now.k, o.l, s.len, s.now.uses, o.a, o.b, o.c, s.serial⟩
  let same (g : Gang) : Bool := g.pair == pair && g.acc == o.acc && g.red == o.red
  let near := s.gangs.filter (fun g => g.chorus == chorusOf h && g.turn.isNone && !g.full && (g.mask &&& mask) != 0#32)
  let foes := near.filter (fun g => g.mask != mask || !same g)
  let wait (t : State) : State := { t.modCur (fun c => { c with state := .waiting .gang }) with serial := t.serial + 1 }
  if bits v 63 32 ≠ 0 ∨ mask.getLsbD (posOf h) = false then
    .next (s.raise .gang 0 (gangInfo mask (posOf h) false true false false))
  else if s.forming h then s.stop (.wait .retry)
  else if foes ≠ [] then
    let md := foes.any (fun g => g.mask != mask)
    let op := foes.any (fun g => g.mask == mask && !same g) || foes.any (fun g => g.mask != mask && !same g)
    let t := foes.foldl (fun t g => t.dissolve g none false (g.mask != mask) (!same g)) s
    .next (t.raise .gang 0 (gangInfo mask (posOf h) false false md op))
  else
    match near with
    | g :: _ =>
      .next (wait { s with gangs := s.gangs.map (fun x => if x.id = g.id then { x with members := x.members ++ [me] } else x) })
    | [] => .next (wait { s with gangs := s.gangs ++ [⟨s.serial, chorusOf h, mask, pair, o.acc, o.red, [me], none⟩] })

/-- `mma.i8c` (R261). -/
def execMmaI8c (o : MmaOps) (s : State) : Out := s.mma 0 o
/-- `mma.i4c` (R261). -/
def execMmaI4c (o : MmaOps) (s : State) : Out := s.mma 1 o
/-- `mma.bfc` (R261). -/
def execMmaBfc (o : MmaOps) (s : State) : Out := s.mma 2 o
/-- `mma.e2x` (R261). -/
def execMmaE2x (o : MmaOps) (s : State) : Out := s.mma 3 o
/-- `mma.e4x` (R261). -/
def execMmaE4x (o : MmaOps) (s : State) : Out := s.mma 4 o
/-- `mma.e5x` (R261). -/
def execMmaE5x (o : MmaOps) (s : State) : Out := s.mma 5 o
/-- `mma.i8i8` (R261). -/
def execMmaI8i8 (o : MmaOps) (s : State) : Out := s.mma 6 o

/-! ## Completion (R100, R107) -/

/-- GANG_COMPLETE (R100): gang `g`. -/
def execEvGangComplete (g : Nat) (s : State) : Out :=
  .next (((s.formingGang g).bind s.gangStep).getD s)

/-! ## Planes (R102, R103, R260) -/

/-- The leader: the lowest position of the mask. -/
def Gang.leader (g : Gang) : Option GMember :=
  g.lowest.bind (fun p => g.members.find? (fun m => posOf m.h == p))

/-- The gang has the row bus: no gang of its chorus was complete earlier and has yet to run (R100). -/
def State.hasBus (s : State) (g : Gang) : Bool :=
  match g.turn with
  | none => false
  | some t => s.gangs.all (fun x => x.chorus != g.chorus || (s.completeAt x).all (fun u => decide (t ≤ u)))

/-- Every member takes the contributions of the leader's A tile and scales (R260), and its `mma` completes. -/
def State.runPlanes (s : State) (g : Gang) (ld : GMember) : State :=
  let leader := s.core ld.h
  let sc := (s.ctx ld.h ld.k).vr ld.c
  let s1 := g.members.foldl (fun t m =>
    (t.modCore m.h (fun c => { c with
      acc := c.mmaAccs leader g.pair ld.a m.b sc g.acc
      accMode := if g.acc then c.accMode else g.red })).modCtx m.h m.k
        (fun c => c.modOut m.id (fun o => { o with pend := .ready }))) s
  { s1 with gangs := s1.gangs.filter (fun x => x.id != g.id) }

/-- MMA_PLANES_START (R103): gang `g` takes the row bus. -/
def execEvMmaPlanesStart (g : Nat) (s : State) : Out :=
  match s.gangs.find? (fun x => x.id == g) with
  | none => .next s
  | some x =>
    match x.leader with
    | some ld => .next (if s.hasBus x then s.runPlanes x ld else s)
    | none => .next s

/-! ## The redundant comparison (R108) -/

/-- The accumulators that differ between two cores. -/
def diffAccs (a b : Core) : List Nat := (List.range 512).filter (fun i => a.accum i != b.accum i)

/-- `finfo` of REDUNDANT for a list of differing accumulators. -/
def redundantInfo (d : List Nat) : Word := BitVec.ofNat 64 (d.headD 0 * 65536 + min d.length 0x3FF)

/-- One side: its tile and flags are written; on a difference it traps as an instruction that has issued, with `rpc` past it (R219), else
its `mdrain` is done. -/
def State.drainSide (s : State) (h k : Nat) (w : Wait) (diff : List Nat) : State :=
  match w with
  | .drain d fmt hi len =>
    let c := s.ctx h k
    let s1 := s.complete h k ((s.core h).drainWrites d fmt.toNat hi)
    if diff = [] then s1.modCtx h k (fun c => { c.advance len with state := .ready })
    else s1.raiseAt h k s.serial Cause.redundant.code c.pc (c.pc + len) (s.core h).tileid (redundantInfo diff)
  | _ => s

/-- REDUNDANT_DRAIN_COMPARE (R108): context k of core c and context k2 of its partner wait in `mdrain`. -/
def execEvRedundantDrainCompare (c k k2 : Nat) (s : State) : Out :=
  let h2 := partnerOf c
  match (s.ctx c k).state, (s.ctx h2 k2).state with
  | .waiting (.drain d fmt hi len), .waiting (.drain d2 fmt2 hi2 len2) =>
    let diff := diffAccs (s.core c) (s.core h2)
    .next ((s.drainSide c k (.drain d fmt hi len) diff).drainSide h2 k2 (.drain d2 fmt2 hi2 len2) diff)
  | _, _ => .next s

end Sys2Proof.Machine
end

