-- ==== Sys2Proof/Machine/Ordering.lean ====
section
/-! DEFINITION. The steps of the ordering machine that are taken on their own (R133 .. R145), combining in the fabric and the
watchdog (R384 .. R389), and the sync engines' evictions (R142, R392). -/

namespace Sys2Proof.Machine

/-! ## Writes -/

/-- Two writes are parts of one aligned granule of one instruction: they leave and perform together (R139, R244). -/
def sameGranule (id id' : Nat) (l l' : Loc) : Bool := id == id' && l.space == l'.space && l.at_ / 8 == l'.at_ / 8

/-- The entry is a write of the granule of entry e. -/
def PEntry.mate (e x : PEntry) : Bool := sameGranule e.id x.id e.loc x.loc && (match x.kind with | .store _ => true | _ => false)

/-- The writes of a post queue that leave with entry e, as places in the path. -/
def Ctx.leaving (x : Ctx) (k : Nat) (e : PEntry) : List CWrite :=
  x.post.filterMap (fun y => match y.kind with | .store b => if e.mate y then some ⟨y.id, k, y.loc, b⟩ else none | _ => none)

/-- A write of context k of core c may leave its post queue, with the others of its granule: each of them may, and no load of its
instruction is open, so that a trap of the instruction changes no byte (R134, R139, R425). -/
def State.mayLeave (s : State) (c k : Nat) (e : PEntry) : Bool :=
  let x := s.ctx c k
  settled x.post e.id && x.post.zipIdx.all (fun p =>
    !e.mate p.1 || leaveReady ((x.before p.2).filter (fun y => !e.mate y)) ((s.core c).pathOf k) p.1)

/-- WRITE_LEAVE_POST_QUEUE (R134): entry n of context k of core c goes into the core path, with the other writes of its granule. -/
def execEvWriteLeavePostQueue (c k n : Nat) (s : State) : Out :=
  let x := s.ctx c k
  .next (match x.post[n]? with
    | some e =>
      match e.kind with
      | .store _ =>
        if s.mayLeave c k e then
          (s.setCtx c k { x with post := x.post.filter (fun y => !e.mate y) }).modCore c (fun y => { y with path := y.path ++ x.leaving k e })
        else s
      | _ => s
    | none => s)

/-- The write is a part of the granule of write w of the path. -/
def CWrite.mate (w x : CWrite) : Bool := w.k == x.k && sameGranule w.id x.id w.loc x.loc

/-- The n-th write of the core path performs, with the others of its granule, once no earlier one there is to its bytes and no earlier
request of the core is on its way to the same place (R139, R377). -/
def State.pathPerform (s : State) (c n : Nat) : State :=
  let p := (s.core c).path
  match p[n]? with
  | some w =>
    if !w.loc.space.held && s.clearFor c w.id w.loc && p.zipIdx.all (fun y => !w.mate y.1 ||
        (p.take y.2).all (fun x => w.mate x || !overlap x.loc.at_ x.b.length y.1.loc.at_ y.1.b.length)) then
      (p.filter w.mate).foldl (fun t y => t.performOrRefuse c y.k y.loc y.b)
        (s.modCore c (fun y => { y with path := y.path.filter (fun x => !w.mate x) }))
    else s
  | none => s

/-- WRITE_PERFORM (R134): write n of the path of core c performs. -/
def execEvWritePerform (c n : Nat) (s : State) : Out := .next (s.pathPerform c n)

/-! ## Loads -/

/-- Every line of [a, a + n) is in core h's L1. -/
def Core.l1Holds (c : Core) (a n : Nat) : Bool := SMap.has c.l1 (a / 64) && SMap.has c.l1 ((a + n - 1) / 64)

/-- The errors of a line that core h's L1 copies come with it, granule by granule (R425). -/
def State.poisonL1 (s : State) (h : Nat) (sp : Space) (i : Nat) (m : SMap Bool) : SMap Bool :=
  ((List.range 8).filter (fun g => (s.badByte ⟨sp, 64 * i + 8 * g⟩).isSome)).foldl
    (fun m g => SMap.put m (l1Key h (64 * i + 8 * g) / 8) true) (unpoisoned m (l1Key h (64 * i)) 64)

/-- The L1 takes copies of the lines of [a, a + n), where it may hold them, with their errors: no context has read newer bytes of them. -/
def State.fillL1 (s : State) (h : Nat) (loc : Loc) (n : Nat) : State :=
  let ls := [loc.at_ / 64, (loc.at_ + n - 1) / 64]
  if loc.space.l1able then
    ({ s with poison := ls.foldl (fun m i => s.poisonL1 h loc.space i m) s.poison } : State).modCore h (fun c => { c with
      l1 := ls.foldl (fun m i => SMap.put m i (s.pocLine loc.space i)) c.l1
      newer := c.newer.filter (fun p => !ls.contains (p.2 / 64)) })
  else s

/-- Context k of the core has read none of the bytes [a, a + n) newer than the L1's copies (R133). -/
def Core.freshFor (c : Core) (k a n : Nat) : Bool := c.newer.all (fun p => p.1 != k || !(decide (a ≤ p.2) && decide (p.2 < a + n)))

/-- Bytes from L1 copies. -/
def Core.l1Bytes (c : Core) (a : Nat) : Nat → List Byte
  | 0 => []
  | n + 1 => lineByte (SMap.get c.l1 0#512 (a / 64)) (a % 64) :: c.l1Bytes (a + 1) n

/-- The writes that a load sees before memory: those in the post queue, then those in the core path. -/
def State.nearer (s : State) (h : Nat) (es : List PEntry) (a : Nat) : Option Byte :=
  (newest (postWrites es) a).orElse (fun _ => newest (s.core h).pathWrites a)

/-- Bytes from memory, under the nearer writes. -/
def State.under (s : State) (h : Nat) (es : List PEntry) (a : Nat) : List Byte → List Byte
  | [] => []
  | b :: bs => (s.nearer h es a).getD b :: s.under h es (a + 1) bs

/-- A load entry has its bytes: an acquire empties the L1, and the instruction's destination is known once it has all (R135,
R136). -/
def State.loaded (s : State) (h k n : Nat) (e : PEntry) (m : Nat) (bs : List Byte) : State :=
  let s1 := s.modCtx h k (fun x => ({ x with post := x.post.set n { e with kind := .load m (some bs) } } : Ctx).settleLoads e.id)
  if semAcq e.sem then s1.acquired h e.scope else s1

/-- What a load of m bytes for instruction `id`, at place n of the post queue of context k of core c, gets (R135): `src` 2 from the L1, 1 from
the point of coherence with a fill of the L1, 0 without; the newest writes of its context and core come first. Nothing where that source does
not serve it; else the location and the MCHK source of data that fail, or the state after the read and the bytes. -/
def State.serveLoad (s : State) (c k n src id : Nat) (loc : Loc) (m : Nat) : Option (Except (Nat × Nat) (State × List Byte)) :=
  let es := (s.ctx c k).before n
  if src = 2 then
    if loc.space.l1able && (s.core c).l1Holds loc.at_ m && (s.core c).freshFor k loc.at_ m then
      some (match (List.range m).find? (fun i =>
          (s.nearer c es (loc.at_ + i)).isNone && SMap.get s.poison false (l1Key c (loc.at_ + i) / 8)) with
      | some i => .error (loc.at_ + i, 2)
      | none => .ok (s.pathRead c k id es loc.at_ m, s.under c es loc.at_ ((s.core c).l1Bytes loc.at_ m)))
    else none
  else if !s.clearFor c id loc then none
  else
    let mine := (List.range m).all (fun i => (s.nearer c es (loc.at_ + i)).isSome)
    some (match (if mine then none else s.dataError (s.devOf (hdie c)) loc m false) with
    | some (from_, a) => .error (a, from_)
    | none =>
      let s1 := (s.takeCopy loc.space loc.at_).hasRead c k id es loc m
      .ok (if src = 1 then s1.fillL1 c loc m else s1, s1.under c es loc.at_ (s1.pocBytes loc.space loc.at_ m)))

/-- The state of context k of core c as it stood when its entry n entered the post queue, the context executing. -/
def State.viewAt (s : State) (c k n : Nat) : State :=
  { s.setCtx c k { s.ctx c k with post := (s.ctx c k).before n } with now := { s.now with h := c, k := k } }

/-- A `vspld` or `vspst`, entry n, has all that it needs of its block: its register's value is known, its writes take its place in the post
queue, and its acquire is satisfied (R247). -/
def State.sparseDone (s : State) (c k n : Nat) (e : PEntry) (r : SpEffect) : State :=
  let es : List PEntry := r.writes.map (fun w => ⟨e.id, e.sem, e.scope, w.1, .store w.2, 0⟩)
  let s1 := s.modCtx c k (fun y => ({ y with post := y.post.take n ++ es ++ y.post.drop (n + 1) } : Ctx).modOut e.id (fun o =>
    { o with writes := o.writes ++ r.regs, pend := .ready }))
  if semAcq e.sem then s1.acquired c e.scope else s1

/-- A `vspld` or `vspst`, entry n, has read the bytes `got` of its block (R247): it goes on reading, traps, or has its effect. -/
def State.sparseGot (s : State) (c k n : Nat) (e : PEntry) (p : SpOp) (got : List Byte) : State :=
  let held := s.modCtx c k (fun x => x.modOut e.id (fun o => { o with pend := .sparse p.o p.val p.at_ p.i0 got }))
  match (s.viewAt c k n).spNext p got with
  | .error (.trap cs a i) => s.failOut c k e.id cs.code a i
  | .error _ | .ok (some _) => held
  | .ok none =>
    match (s.viewAt c k n).spFinish p got with
    | .error (.trap cs a i) => s.failOut c k e.id cs.code a i
    | .error _ => held
    | .ok r => s.sparseDone c k n e r

/-- One granule more of its block is read for a `vspld` or `vspst`, entry n (R135). -/
def State.sparseStep (s : State) (c k n src : Nat) (e : PEntry) : State :=
  match ((s.ctx c k).outOf e.id).map Outst.pend with
  | some (.sparse o val at_ i0 got) =>
    let p : SpOp := ⟨o, val, at_, i0⟩
    if !loadReady ((s.ctx c k).before n) e then s
    else match (s.viewAt c k n).spNext p got with
      | .ok (some (loc, m)) =>
        (match s.serveLoad c k n src e.id loc m with
        | none => s
        | some (.error (a, from_)) => s.killOut c k e.id (BitVec.ofNat 64 (s.backVa c ⟨loc.space, a⟩)) (BitVec.ofNat 64 from_)
        | some (.ok (t, bs)) => t.sparseGot c k n e p (got ++ bs))
      | .error (.trap cs a i) => s.failOut c k e.id cs.code a i
      | _ => s.sparseGot c k n e p got
  | _ => s

/-- A load, entry n of the post queue of context k of core c, is satisfied from source `src` (R135). -/
def State.loadStep (s : State) (c k n src : Nat) : State :=
  match (s.ctx c k).post[n]? with
  | none => s
  | some e =>
    match e.kind with
    | .load m none =>
      if !loadReady ((s.ctx c k).before n) e then s
      else match s.serveLoad c k n src e.id e.loc m with
        | none => s
        | some (.error (a, from_)) => s.killOut c k e.id (BitVec.ofNat 64 (s.backVa c ⟨e.loc.space, a⟩)) (BitVec.ofNat 64 from_)
        | some (.ok (t, bs)) => t.loaded c k n e m bs
    | .sparse _ _ _ => s.sparseStep c k n src e
    | _ => s

/-- LOAD_SATISFY (R135): load n of the post queue of context k of core c, from source `src`. -/
def execEvLoadSatisfy (c k n src : Nat) (s : State) : Out := .next (s.loadStep c k n src)

/-- L1_LINE_DROP (R135): of core c. -/
def execEvL1LineDrop (c line : Nat) (s : State) : Out := .next (s.modCore c (fun y => { y with l1 := SMap.del y.l1 line }))

/-- PREFETCH_FILL (R277): the n-th line that core c has asked for; nothing when its data cannot be delivered. -/
def execEvPrefetchFill (c n : Nat) (s : State) : Out :=
  .next (match (s.core c).pf[n]? with
    | none => s
    | some loc =>
      let s1 := s.modCore c (fun y => { y with pf := y.pf.eraseIdx n })
      if (s1.dataError (s1.devOf (hdie c)) loc 64 false).isSome then s1 else (s1.takeCopy loc.space loc.at_).fillL1 c loc 64)

/-! ## Atomic requests (R141, R384, R385) -/

/-- The operand of an atomic. -/
def AtomicOp.opnd : AtomicOp → Word
  | .rmw _ _ b => b
  | .post _ _ _ _ _ _ | .nbctl _ _ _ => 0#64

/-- The request of one requester. -/
def Req.single (id : Nat) (loc : Loc) (p : Part) : Req := { id := id, stage := 0, loc := loc, opnd := p.op.opnd, parts := [p] }

/-- An atomic entry that may take its step, as a request of its own. -/
def State.sentReq (s : State) (c k n : Nat) : Option Req :=
  let x := s.ctx c k
  match x.post[n]? with
  | none => none
  | some e =>
    match e.kind with
    | .atomic op _ =>
      if stepReady (x.before n) ((s.core c).pathOf k) (s.core c).path e then some (Req.single 0 e.loc ⟨c, k, e.id, op, e.scope, .core⟩)
      else none
    | _ => none

/-- An atomic of context k of core c is retired by its watchdog (R389): all ones in its destination, LOST, and a record. -/
def State.retireAtom (s : State) (c k : Nat) (e : PEntry) (rep : Reply) : State :=
  (s.finishEntry c k e.id (lostWrites rep)).logEvent 5 (hdie c) (BitVec.ofNat 64 (e.loc.at_ % 2 ^ 52 / 64 * 64)) 0

/-- A reply comes back to an entry: too late when the watchdog's interval has passed, and the request is retired instead (R389). -/
def State.replied (s : State) (c k : Nat) (e : PEntry) (rep : Reply) (ws : List RegWrite) : State :=
  if e.due ≤ (s.core c).cycle.toNat then s.retireAtom c k e rep else s.finishEntry c k e.id ws

/-- A reply reaches the requester: it is discarded when the request has been retired (R389). -/
def State.replyTo (s : State) (p : Part) (r : FReply) : State :=
  match p.from_ with
  | .core =>
    match (s.ctx p.h p.k).entry p.id with
    | some e =>
      match e.kind with
      | .atomic op rep | .sent op rep => s.replied p.h p.k e rep (replyWrites op rep r)
      | _ => s
    | none => s
  | _ => s.replyOut p (some r)

/-- A reply of a request with these parts: to the decombining record that waits for it, else to its requester. -/
def State.answer (s : State) (id : Nat) (ps : List Part) (r : FReply) : State :=
  if s.recs.any (fun x => x.m == id) then
    { s with recs := s.recs.map (fun x => if x.m = id then { x with reply := some r } else x) }
  else match ps with
    | p :: _ => s.replyTo p r
    | [] => s

/-- An atomic from outside is performed at the home sync engine, after every sync copy of its line is dropped (R141, R142). -/
def State.outsideAtomic (s : State) (sp : Space) (a : Nat) (op : AtomicOp) : State × FReply :=
  let s0 := s.dropAll (a / 64)
  match op with
  | .rmw op w b =>
    let old := s0.placeRead .owner sp a w
    let (new, fl) := op.apply w old (b.toNat % 2 ^ (8 * w))
    (match new with | some x => s0.placeWrite .owner sp a w x | none => s0, .val (BitVec.ofNat 64 old) fl false)
  | .post slot round val v0 v1 sl => let (t, v, st) := s0.postStep sp a slot round val v0 v1 sl; (t, .views [(v, st)])
  | .nbctl w v0 v1 => let (t, x, st) := s0.nbctlStep sp a w v0 v1; (t, .val x 0#64 st)

/-- A requester's operation is performed at its place. -/
def State.partStep (s : State) (loc : Loc) (p : Part) (op : AtomicOp) : State × FReply :=
  match p.from_ with
  | .core => s.atomStep p.h loc p.scope op
  | _ => s.outsideAtomic loc.space loc.at_ op

/-- The posts of a list are performed one after another (R386). -/
def State.postList (s : State) (loc : Loc) : List Part → State × List (Vec × Bool)
  | [] => (s, [])
  | p :: ps =>
    let (t, r) := s.partStep loc p p.op
    let (u, l) := t.postList loc ps
    (u, (match r with | .views v => v | .val _ _ _ => []) ++ l)

/-- What each further constituent does at the place besides the merged step: its core drops its L1 copy, and the dies of its scope
their sync copies when the home performs (R141, R142). -/
def State.alongside (s : State) (loc : Loc) (p : Part) : State :=
  let line := loc.at_ / 64
  if p.from_ ≠ .core then s.dropAll line
  else
  let s1 := s.modCore p.h (fun c => { c with l1 := SMap.del c.l1 line })
  if placeOf p.h loc.space p.scope = .owner ∧ loc.space.syncable then s1.dropCopies p.h p.scope line else s1

/-- A request is performed in one step at its place (R141, R144). -/
def State.performReq (s : State) (r : Req) : State × FReply :=
  match r.parts with
  | [] => (s, .views [])
  | p :: ps =>
    match p.op with
    | .rmw op w _ => (ps.foldl (fun t q => t.alongside r.loc q) s).partStep r.loc p (.rmw op w r.opnd)
    | .post _ _ _ _ _ _ => let (t, l) := s.postList r.loc r.parts; (t, .views l)
    | .nbctl _ _ _ => s.partStep r.loc p p.op

/-- Why a request cannot be performed: its data fail, or its peer refuses it (R378, R425). -/
def State.reqError (s : State) (r : Req) : Option (Nat × Nat) :=
  match r.parts with
  | [] => none
  | p :: _ => (p.op.ranges r.loc.at_).findSome? (fun x => s.dataError (s.partDev p r.loc) ⟨r.loc.space.owner, x.1⟩ x.2 true)

/-- A request that fails: its instructions take MCHK, requests from outside are refused, and its decombining records are gone. -/
def State.failReq (s : State) (r : Req) (src a : Nat) : State :=
  let s1 : State := { s with recs := s.recs.filter (fun x => !x.aparts.any r.parts.contains) }
  r.parts.foldl (fun t p =>
    if p.from_ ≠ .core then t.replyOut p none
    else if ((t.ctx p.h p.k).entry p.id).isSome then
      t.killOut p.h p.k p.id (BitVec.ofNat 64 (t.backVa p.h ⟨r.loc.space, a⟩)) (BitVec.ofNat 64 src)
    else t) s1

/-- An entry's kind replaced. -/
def State.setKind (s : State) (c k n : Nat) (f : PKind) : State :=
  s.modCtx c k (fun x => { x with post := x.post.modify n (fun e => { e with kind := f }) })

/-- The destination of a reply that makes these writes. -/
def replyOf (ws : List RegWrite) : Reply :=
  (ws.findSome? (fun w => match w with
    | .g r _ => some (Reply.g r) | .f r _ => some (Reply.f r) | .v r _ => some (Reply.v r) | _ => none)).getD .none

/-- A reply from this location cannot come: no link to its peer is up (R383). -/
def State.cutOff (s : State) (loc : Loc) : Bool :=
  match loc.space with
  | .peer _ _ => (s.devCopy loc.space loc.at_).isNone && (s.peerLink (locPeer loc.at_)).isNone
  | _ => false

/-- An entry of the post queue is performed, once no earlier request of its core is on its way to the same place; with `lag` its reply
arrives later. -/
def State.performEntry (s : State) (c k n : Nat) (lag : Bool) : State :=
  match (s.ctx c k).post[n]? with
  | none => s
  | some e =>
    match e.kind with
    | .acked _ ws =>
      if s.cutOff e.loc then s.killOut c k e.id (BitVec.ofNat 64 (s.backVa c e.loc)) 5#64 else s.replied c k e (replyOf ws) ws
    | .atomic op rep =>
      match s.sentReq c k n with
      | none => s
      | some r =>
        if !s.sendable c e.id e.loc e.scope then s
        else match s.reqError r with
        | some (src, a) => s.failReq r src a
        | none =>
          let (t, x) := s.performReq r
          if lag then t.setKind c k n (.acked op (replyWrites op rep x)) else t.replied c k e rep (replyWrites op rep x)
    | _ => s

/-- The leaf switch of a die (R4). -/
def leafOf (d : Nat) : Nat := d / 8 / 2 * 4 + d % 8 / 2

/-- The switch dies between two dies (R376), by their source numbers of R426. -/
def diePath (a b : Nat) : List Nat :=
  if a = b then []
  else if leafOf a = leafOf b then [64 + leafOf a]
  else [64 + leafOf a, 80 + leafOf b % 4, 64 + leafOf b]

/-- The spine of a link (R376). -/
def spineOf (l : Nat) : Nat := 80 + l / 8

/-- The switch dies from a requester of a device to a place (R376): from a die, from a peer's link, or from the I/O die of a host. -/
def State.pathTo (s : State) (p : Part) (dev : Nat) (loc : Loc) : List Nat :=
  let home := s.locHome dev loc
  match p.from_, p.place loc, loc.space with
  | .peer l _, _, _ => [spineOf l, 64 + leafOf home]
  | .host d, _, _ => [80 + s.ioDie d / 2, 64 + leafOf home]
  | .core, .copy d, _ => diePath (hdie p.h) d
  | .core, .owner, .local_ _ => []
  | .core, .owner, .host _ _ => [64 + leafOf (hdie p.h), 80 + s.ioDie dev / 2]
  | .core, .owner, .peer _ _ => [64 + leafOf (hdie p.h)] ++ ((s.peerLink (locPeer loc.at_)).map spineOf).toList
  | .core, .owner, _ => diePath (hdie p.h) home

/-- The switch dies that a request passes (R376). -/
def State.swPath (s : State) (r : Req) : List Nat :=
  match r.parts with
  | [] => []
  | p :: _ => s.pathTo p (s.partDev p r.loc) r.loc

/-- The switch die whose output queue a request is in. -/
def State.queueOf (s : State) (r : Req) : Option Nat := (s.swPath r)[r.stage]?

/-- The request still has to pass this switch die's output queue. -/
def State.passes (s : State) (r : Req) (sw : Nat) : Bool := ((s.swPath r).drop r.stage).contains sw

/-- The source of a request: a core, a peer, or a host. -/
def Part.source (p : Part) : Nat :=
  match p.from_ with
  | .core => p.h
  | .peer _ w => 2 ^ 32 + (readHdr w).speer
  | .host dev => 2 ^ 33 + dev

/-- The request is an `nbctl`. -/
def Req.isNbctl (r : Req) : Bool := match r.parts with | [p] => (match p.op with | .nbctl _ _ _ => true | _ => false) | _ => false

/-- A request arrives before another that was sent later: they have one destination and a source in common (R377). -/
def State.precedes (s : State) (x r : Req) : Bool :=
  s.reqDest x == s.reqDest r && x.parts.any (fun p => r.parts.any (fun q => p.source == q.source))

/-- The requests that arrive before r: `s.reqs` stands in the order of sending. -/
def State.before (s : State) (r : Req) : List Req := (s.reqs.takeWhile (fun x => x.id != r.id)).filter (fun x => s.precedes x r)

/-- An `nbctl` of r's line is in a queue that r still has to pass, and came there first: r stays after it (R394). -/
def State.behindNbctl (s : State) (r : Req) : Bool :=
  s.reqs.any (fun x => x.isNbctl && x.id != r.id && x.loc.at_ / 64 == r.loc.at_ / 64 &&
    (match s.queueOf x with
      | some q => s.passes r q && (s.queueOf r != some q || decide (x.came < r.came))
      | none => false))

/-- A request that is on its own in the fabric is performed, after those that arrive before it. -/
def State.performLoose (s : State) (i : Nat) : State :=
  match s.reqs.find? (fun r => r.id == i) with
  | none => s
  | some r =>
    if r.loc.space.held || r.parts.any (fun p => !s.syncRoom (p.place r.loc) r.loc) || !(s.before r).isEmpty || s.behindNbctl r then s
    else
      let s1 : State := { s with reqs := s.reqs.filter (fun x => x.id != i) }
      match s1.reqError r with
      | some (src, a) => s1.failReq r src a
      | none => let (t, x) := s1.performReq r; t.answer r.id r.parts x

/-- ATOMIC_PERFORM (R141): of a post-queue entry, whose reply arrives later with `lag` and then by a further such step, or of a
request in the fabric. -/
def execEvAtomicPerform (w : Pick) (lag : Bool) (s : State) : Out :=
  .next (match w with
    | .entry c k n => s.performEntry c k n lag
    | .req i => s.performLoose i)

/-! ## Combining (R376, R384 .. R388) -/

/-- Integer operations that combine. -/
def RmwOp.combines : RmwOp → Bool
  | .add | .and | .or | .xor => true
  | _ => false

/-- The two requests may combine (R384). -/
def Req.fits (a b : Req) : Bool :=
  match a.parts, b.parts with
  | p :: _, q :: _ =>
    a.loc.at_ == b.loc.at_ && p.place a.loc == q.place b.loc &&
      (match p.op, q.op with
        | .rmw o w _, .rmw o' w' _ => o.combines && o == o' && w == w'
        | .post _ _ _ _ _ _, .post _ _ _ _ _ _ => decide (a.parts.length + b.parts.length ≤ 16)
        | _, _ => false)
  | _, _ => false

/-- Op(a, b) of the requests' operation (R385). -/
def Req.combine (r : Req) (b : Word) : Word :=
  match r.parts with
  | p :: _ =>
    (match p.op with
      | .rmw op w _ => BitVec.ofNat 64 ((op.apply w (r.opnd.toNat % 2 ^ (8 * w)) (b.toNat % 2 ^ (8 * w))).1.getD 0)
      | _ => 0#64)
  | [] => 0#64

/-- A request as it waits, by its place. -/
def State.picked (s : State) : Pick → Option Req
  | .entry c k n => s.sentReq c k n
  | .req i => s.reqs.find? (fun r => r.id == i)

/-- The request is combinable: its operation may merge with another of its kind (R384, R387). -/
def Req.combinable (r : Req) : Bool :=
  match r.parts with
  | p :: _ => (match p.op with | .rmw o _ _ => o.combines | .post _ _ _ _ _ _ => true | .nbctl _ _ _ => false)
  | [] => false

/-- The entries in use of a switch die's combining table: candidates in its queue, and records (R387). -/
def State.tableUsed (s : State) (sw : Nat) : Nat :=
  (s.reqs.filter (fun r => r.cand && s.queueOf r == some sw)).length + (s.recs.filter (fun r => r.sw == sw)).length

/-- A request in the queue that it is in, as a candidate if it is combinable and the table there has a free entry (R387). -/
def State.asCandidate (s : State) (r : Req) : Req :=
  { r with cand := r.combinable && (match s.queueOf r with | some sw => decide (s.tableUsed sw < 4096) | none => false) }

/-- An entry of a post queue leaves it as a request of its own. -/
def State.sendEntry (s : State) (c k n : Nat) (r : Req) : State :=
  let s1 := s.modCtx c k (fun x => { x with post := x.post.modify n (fun e =>
    match e.kind with | .atomic op rep => { e with kind := .sent op rep } | _ => e) })
  { s1 with reqs := s1.reqs ++ [{ r with id := s1.serial, came := s1.serial }], serial := s1.serial + 1 }

/-- A request from outside: of a peer or of a host (R381, R412). -/
def State.sendIn (s : State) (p : Part) (loc : Loc) : State :=
  { s with reqs := s.reqs ++ [s.asCandidate { Req.single s.serial loc p with came := s.serial }], serial := s.serial + 1 }

/-- A request still has to come to a switch die's queue. -/
def State.shortOf (s : State) (r : Req) (sw : Nat) : Bool := s.passes r sw && s.queueOf r != some sw

/-- A request enters the output queue of a switch die on its path, after those that arrive before it, and is a candidate there if it is
combinable and the table has a free entry (R377, R384, R387); one that is in that queue stays as it is. -/
def State.enterQueue (s : State) (sw : Nat) (w : Pick) : State :=
  match s.picked w with
  | none => s
  | some r =>
    let r1 := s.asCandidate { r with stage := (s.swPath r).idxOf sw, came := s.serial }
    match w with
    | .req i =>
      if !s.shortOf r sw || (s.before r).any (fun x => s.shortOf x sw) then s
      else { s with reqs := s.reqs.map (fun x => if x.id = i then r1 else x), serial := s.serial + 1 }
    | .entry c k n =>
      if !s.passes r sw || s.reqs.any (fun x => s.precedes x r && s.shortOf x sw) then s else s.sendEntry c k n r1

/-- The number of a picked request that has entered a queue: its own, or the one that an entry of a post queue is given. -/
def State.pickedId (s : State) : Pick → Nat
  | .entry _ _ _ => s.serial
  | .req i => i

/-- A and B merge at a switch die: the merged request takes A's place, and a record keeps A's operand (R385). -/
def State.merge (s : State) (sw : Nat) (a b : Req) : State :=
  let m := s.serial
  { s with
    serial := m + 1
    reqs := (s.reqs.map (fun x => if x.id = a.id then { a with id := m, opnd := a.combine b.opnd, parts := a.parts ++ b.parts } else x)).filter
      (fun x => x.id != b.id)
    recs := s.recs ++ [⟨m, sw, a.id, a.parts, b.id, b.parts, a.opnd, a.loc.at_ / 64, none⟩] }

/-- An `nbctl` of the same line came into their queue between the two requests (R394). -/
def State.nbctlBetween (s : State) (a b : Req) : Bool :=
  s.reqs.any (fun x => x.isNbctl && x.loc.at_ / 64 == a.loc.at_ / 64 && s.queueOf x == s.queueOf a && decide (a.came < x.came) &&
    decide (x.came < b.came))

/-- The merge of two requests in a switch die's queue (R384): they fit, both are candidates there, A came first, no `nbctl` came between
them, and the entry that B leaves is the record's. -/
def State.mergeIn (s : State) (sw ia ib : Nat) : State :=
  match s.reqs.find? (fun r => r.id == ia), s.reqs.find? (fun r => r.id == ib) with
  | some a, some b =>
    if a.fits b && a.cand && b.cand && s.queueOf a == some sw && s.queueOf b == some sw && decide (a.came < b.came)
        && !s.nbctlBetween a b then s.merge sw a b
    else s
  | _, _ => s

/-- COMBINE_MERGE (R384): request b combines with the earlier request a in the output queue of switch die `sw`, which both enter if they
have not yet. -/
def execEvCombineMerge (sw : Nat) (a b : Pick) (s : State) : Out :=
  .next (match s.picked a, s.picked b with
    | some x, some y =>
      if a ≠ b ∧ x.fits y ∧ s.passes x sw ∧ s.passes y sw then
        let s1 := s.enterQueue sw a
        let t := (s1.enterQueue sw b).mergeIn sw (s.pickedId a) (s1.pickedId b)
        if t.recs = s.recs then s else t
      else s
    | _, _ => s)

/-- The replies to A and to B (R385, R386). -/
def CombRec.split (x : CombRec) (r : FReply) : FReply × FReply :=
  match r with
  | .val v fl st => (.val v fl st, .val (Req.combine { id := 0, stage := 0, loc := ⟨.local_ 0, 0⟩, opnd := v, parts := x.aparts } x.opnd) fl st)
  | .views l => (.views (l.take x.aparts.length), .views (l.drop x.aparts.length))

/-- DECOMBINE_REPLY (R385): the reply of merged request m reaches its record. The record is lost when both its copies are uncorrectable:
the parts that it would have routed, A's and B's, are discarded (R388). Number 2^64 + m is a loss that discards B's part alone, and A's goes
on as the reply of the request whose place A holds, as the last row of R162's table has it (DEDUCED, log entry 21). -/
def execEvDecombineReply (m : Nat) (lost : Bool) (s : State) : Out :=
  .next (match s.recs.find? (fun x => x.m == m % 2 ^ 64) with
    | none => s
    | some x =>
      match x.reply with
      | none => s
      | some r =>
        let s1 : State := { s with recs := s.recs.filter (fun y => y.m != x.m) }
        if lost then
          let s2 : State := { s1 with errU := s1.errU + 1 }
          (if m < 2 ^ 64 then s2 else s2.answer x.a x.aparts (x.split r).1).logEvent 4 x.sw (BitVec.ofNat 64 (x.line * 64 % 2 ^ 52)) 0
        else (s1.answer x.a x.aparts (x.split r).1).answer x.b x.bparts (x.split r).2)

/-- The reply that an entry's retirement stands for, if it is an atomic that has been sent. -/
def State.retirable (s : State) (c k n : Nat) : Option Reply :=
  let x := s.ctx c k
  match x.post[n]? with
  | none => none
  | some e =>
    match e.kind with
    | .atomic _ rep =>
      let near : PEntry := { e with loc := ⟨.local_ 0, e.loc.at_⟩ }
      if stepReady (x.before n) ((s.core c).pathOf k) (s.core c).path near then some rep else none
    | .sent _ rep => some rep
    | .acked _ ws => some (replyOf ws)
    | _ => none

/-- ATOMIC_WATCHDOG_RETIRE (R389): entry n of context k of core c has waited for its reply too long; a request that has not been
performed lives on. -/
def execEvAtomicWatchdogRetire (c k n : Nat) (s : State) : Out :=
  .next (match (s.ctx c k).post[n]?, s.retirable c k n with
    | some e, some rep =>
      if e.due ≤ (s.core c).cycle.toNat then
        let s1 : State := match e.kind with
          | .atomic op _ => s.sendEntry c k n (s.asCandidate { Req.single 0 e.loc ⟨c, k, e.id, op, e.scope, .core⟩ with came := s.serial })
          | _ => s
        s1.retireAtom c k e rep
      else s
    | _, _ => s)

/-! ## Sync engines (R142, R392) -/

/-- SYNC_COPY_DROP (R142): die d drops its sync copy of a line. -/
def execEvSyncCopyDrop (d line : Nat) (s : State) : Out := .next (s.dropOn (fun x => x == d) line)

/-- SYNC_HOME_EVICT (R392, R434): of a line whose home state die d holds, the least recently used of its set. -/
def execEvSyncHomeEvict (d line : Nat) (s : State) : Out :=
  .next (if SMap.has (s.die d).homes line && (s.die d).oldest line then s.evictHome d line else s)

/-! ## Requests at a holding core (R19, R21, R63, R64) -/

/-- TAG_WAITER_PERFORM (R64): the head of the waiting list of the word at an offset of core h. -/
def execEvTagWaiterPerform (h off : Nat) (s : State) : Out := .next ((s.tagRetry h off).getD s)

/-- A tagged entry takes its step at its holding core, after the waiting requests that can perform, which are tried again after it;
or it joins its word's waiting list (R64). -/
def State.tagArrive (s : State) (c k n : Nat) (e : PEntry) (op : TagOp) : State :=
  let x := s.ctx c k
  match e.loc.space with
  | .local_ h =>
    let off := e.loc.at_ % 2 ^ 17
    if !stepReady (x.before n) ((s.core c).pathOf k) (s.core c).path e then s
    else if (s.core h).tagWait.any (fun w => w.h == c && w.k == k && w.id == e.id) then s
    else
      let s0 := s.tagSettle h off
      match s0.tagStep h off op c k e.id with
      | some t => t.tagSettle h off
      | none => s0.modCore h (fun y => { y with tagWait := y.tagWait ++ [⟨off, c, k, e.id⟩] })
  | _ => s

/-- A `vspld` or `vspst` that a peer that was out has held takes its whole step (R21, R247), when it has read nothing of its block yet. -/
def State.sparseArrive (s : State) (c k n : Nat) (e : PEntry) : State :=
  match ((s.ctx c k).outOf e.id).map Outst.pend with
  | some (.sparse o val at_ i0 []) =>
    if !loadReady ((s.ctx c k).before n) e then s
    else match (s.viewAt c k n).spEffect ⟨o, val, at_, i0⟩ with
      | .error (.trap cs a i) => s.failOut c k e.id cs.code a i
      | .error _ => s
      | .ok r =>
        let t := r.reads.foldl (fun t q => (t.takeCopy q.1.space q.1.at_).hasRead c k e.id ((s.ctx c k).before n) q.1 q.2) s
        t.sparseDone c k n e r
  | _ => s

/-- CLUSTER_PEER_REQUEST (R21): entry n of context k of core c, an access to local memory, arrives at the holding core; while that
core is out it is held and nothing happens. -/
def execEvClusterPeerRequest (c k n : Nat) (s : State) : Out :=
  let x := s.ctx c k
  match x.post[n]? with
  | none => .next s
  | some e =>
    match e.loc.space with
    | .local_ _ =>
      match e.kind with
      | .load _ _ => .next (s.loadStep c k n 0)
      | .atomic _ _ | .sent _ _ | .acked _ _ => .next (s.performEntry c k n false)
      | .tagged op => .next (s.tagArrive c k n e op)
      | .store _ =>
        .next (if s.mayLeave c k e && (x.leaving k e).all (fun y =>
            (s.core c).path.all (fun w => !overlap y.loc.at_ y.b.length w.loc.at_ w.b.length)) then
          (x.leaving k e).foldl (fun t y => t.perform c y.loc y.b) (s.setCtx c k { x with post := x.post.filter (fun y => !e.mate y) })
        else s)
      | .sparse _ _ _ => .next (s.sparseArrive c k n e)
      | .fence | .later _ | .bacq => .next s
    | _ => .next s

end Sys2Proof.Machine
end

