-- ==== Sys2Proof/Machine/Faults.lean ====
section
/-! DEFINITION. Page walks that take time (R341 .. R346), the fault buffer and its doorbell (R347 .. R350), replay (R315, R349) and
dropping translations (R316, R343, R344). -/

namespace Sys2Proof.Machine

/-! ## Walks -/

/-- A context whose walk has ended tries its instruction again; the entry is in the die's TLB. -/
def State.walkDone (s : State) (h k va lvl : Nat) (e : Word) : State :=
  let t := tlbEntry (s.dctxOf h) va e lvl
  (s.modDie (hdie h) (fun d =>
    if d.tlb.any (fun x => x.covers t.dctx va) then d else { d.retired ((t :: d.tlb).drop 4096) with tlb := (t :: d.tlb).take 4096 })).modCtx h k
    (fun c => { c with state := .ready })

/-- PAGE_WALK (R341): the walk for which context k of core c waits ends with a leaf, a MISS, which parks the context (R345), or a
failure (R346). -/
def execEvPageWalk (c k : Nat) (s : State) : Out :=
  let x := s.ctx c k
  match x.state with
  | .waiting (.walk va acc) =>
    let w := BitVec.ofNat 64 va
    let s0 : State := { s with now := { s.now with h := c, k := k } }
    match s.translate c va with
    | .leaf e lvl => .next (s.walkDone c k va lvl e)
    | .miss lvl => .next (s0.park w (pageInfo 0 0 lvl acc) va acc)
    | .fatal lvl e => .next (s.raiseAt c k s.serial Cause.pageFatal.code x.pc x.pc w (pageInfo e 1 lvl acc))
    | .mchk pa => .next (s.raiseAt c k s.serial Cause.mchk.code x.pc x.pc (BitVec.ofNat 64 pa) 6#64)
    | .hole pa => .fault (.noSuchPhysical pa)
  | _ => .next s

/-! ## The fault buffer (R347) -/

/-- The slot has the message's key. -/
def FSlot.same (x : FSlot) (m : FaultMsg) : Bool := x.valid && x.dctx == m.dctx && x.vpn == m.vpn && x.notice == m.notice

/-- A message is recorded: the die, and whether its doorbell rings (R347, R350). -/
def Die.record (d : Die) (m : FaultMsg) : Die × Bool :=
  match (List.range 8).find? (fun i => (SMap.get d.slots {} i).same m) with
  | some i =>
    let x := SMap.get d.slots {} i
    ({ d with slots := SMap.put d.slots i { x with count := min 255 (x.count + 1), access := x.access ||| m.access } }, false)
  | none =>
    match (List.range 8).find? (fun i => !(SMap.get d.slots {} i).valid) with
    | some i => ({ d with slots := SMap.put d.slots i ⟨true, false, m.notice, m.dctx, m.vpn, 1, m.access, m.x, m.y, m.k⟩ }, true)
    | none => if m.notice then ({ d with ndrop := true }, !d.ndrop) else ({ d with dropped := true }, !d.dropped)

/-- The die's doorbell (R350): `stf` of `fbstat` into the designated core's word, or the driver's MSI-X vector. -/
def State.ring (s : State) (dn : Nat) : State :=
  let d := s.die dn
  let v := d.fbsvc
  if v.getLsbD 63 then
    let h := handleOf (bits v 39 32) (bits v 47 40)
    let off := 8 * bits v 16 3
    match (s.tagSettle h off).tagTry h off (.stf d.fbstat) with
    | some (t, _) => t.tagSettle h off
    | none => s.tagSettle h off
  else s.emit (.msix dn)

/-- FAULT_RECORD (R347): the oldest message on its way to die d's fault buffer. -/
def execEvFaultRecord (d : Nat) (s : State) : Out :=
  .next (match (s.die d).faultIn with
    | [] => s
    | m :: rest =>
      let (e, bell) := (s.die d).record m
      let s1 := s.modDie d (fun _ => { e with faultIn := rest })
      if bell then s1.ring d else s1)

/-! ## Replay (R315, R349) -/

/-- A context of die d that is PARKED: it takes PAGE_FATAL, once nothing of it is outstanding (R219), when a slot of its page is marked
fatal, and is READY otherwise; `id` is the serial number of its instruction. -/
def Die.wake (d : Die) (dctx id : Nat) (tvec : Word) (c : Ctx) : Ctx :=
  let fatal := (List.range 8).any (fun i =>
    let x := SMap.get d.slots {} i
    x.valid && x.fatal && x.dctx == dctx && x.vpn == c.faddr.toNat / 65536)
  if fatal then (c.pend ⟨id, Cause.pageFatal.code, c.pc, c.pc, c.faddr, c.finfo &&& ~~~0xF000#64 ||| 0x2000#64⟩).enterPending tvec
  else { c with state := .ready }

/-- Every context that is PARKED on die d is woken, in the images of its choruses too, and the slots marked fatal are freed. -/
def State.replayDie (s : State) (d : Nat) : State :=
  let e := s.die d
  ({ s with ctxs := s.ctxs.map (fun p =>
      let h := p.1 / 16
      if hdie h = d ∧ p.2.state = .parked then (p.1, e.wake (s.dctxOf h) s.serial (s.core h).tvec p.2) else p) } : State).modDie d
    (fun x => { x with slots := x.slots.map (fun p => if p.2.valid && p.2.fatal then (p.1, {}) else p) })

/-! ## Dropping translations (R316, R344) -/

/-- The entry is one that a `tlbinv` of context `dc` drops: all of the context's, or those that cover an address. -/
def TlbEntry.dropped (t : TlbEntry) (dc : Nat) (va : Option Nat) : Bool :=
  t.dctx == dc && (match va with | some a => t.covers dc a | none => true)

/-- The frames of the entries that would be dropped on a device's dies, and of those that have left a TLB: location key and length. -/
def State.droppedFrames (s : State) (dev dc : Nat) (va : Option Nat) : List (Nat × Nat) :=
  let of (ts : List TlbEntry) : List (Nat × Nat) :=
    (ts.filter (fun t => t.dropped dc va)).map (fun t => (leafKey t.pte t.level 0, leafSpan t.level))
  (s.cores.filter (fun p => s.devOf (hdie p.1) == dev)).flatMap (fun p => of p.2.tlb)
    ++ (s.dies.filter (fun p => s.devOf p.1 == dev)).flatMap (fun p => of p.2.tlb ++ of p.2.old)

/-- The entries are dropped from every TLB of a device. -/
def State.dropTlb (s : State) (dev dc : Nat) (va : Option Nat) : State :=
  let keep (ts : List TlbEntry) : List TlbEntry := ts.filter (fun t => !t.dropped dc va)
  { s with
    cores := s.cores.map (fun p => if s.devOf (hdie p.1) = dev then (p.1, { p.2 with tlb := keep p.2.tlb }) else p)
    dies := s.dies.map (fun p => if s.devOf p.1 = dev then (p.1, { p.2 with tlb := keep p.2.tlb, old := keep p.2.old }) else p) }

/-- No access of the device that may have been translated through one of the frames is still to perform (R344). -/
def State.framesQuiet (s : State) (dev : Nat) (fs : List (Nat × Nat)) : Bool :=
  let hit (a n : Nat) : Bool := fs.any (fun f => overlap a n f.1 f.2)
  s.ctxs.all (fun p => s.devOf (hdie (p.1 / 16)) != dev || p.2.post.all (fun e => e.ranges.all (fun r => !hit r.1 r.2)))
    && s.cores.all (fun p => s.devOf (hdie p.1) != dev || p.2.path.all (fun w => !hit w.loc.at_ w.b.length)
      && p.2.pf.all (fun l => !hit l.at_ 64))
    && s.reqs.all (fun r => r.parts.all (fun p => s.devOf (hdie p.h) != dev || (p.op.ranges r.loc.at_).all (fun x => !hit x.1 x.2)))
    && (s.dels.flatMap (fun d => d.todo.flatten) ++ s.jobs.flatMap (fun j => j.open_.flatten) ++ s.chans.flatMap (fun c => c.2.landing)).all
      (fun x => x.src.all (fun l => !hit l.1.at_ l.2) && !hit x.dst.at_ 8)

end Sys2Proof.Machine
end

