-- ==== Sys2Proof/Machine/Owner.lean ====
section
/-! DEFINITION. Who may write control space (R419, R423, R436), and the registers of the dispatcher's block (R358 .. R360). -/

namespace Sys2Proof.Machine

/-! ## The management block -/

/-- The address of a management register. -/
def mgmt (off : Nat) : Nat := 0x0_F000_0C00_0000 + off
/-- `startst` and `owner`. -/
def State.startst (s : State) : Word := s.ctlReg (mgmt 8)
def State.ownerReg (s : State) : Word := s.ctlReg (mgmt 0x10)
/-- The state of the start: 0 starting, 1 ready, 2 failed (R421). -/
def State.startState (s : State) : Nat := bits s.startst 1 0
/-- An owner holds the panel. -/
def State.owned (s : State) : Bool := s.ownerReg.getLsbD 4
/-- The link is the owner's. -/
def State.isOwner (s : State) (link : Nat) : Bool := s.owned && bits s.ownerReg 3 0 == link

/-- The source number of a link's I/O die (R426); the management controller's is that of I/O die 0. -/
def linkSource (link : Nat) : Nat := 96 + link % 8

/-- A write that a rule makes nothing of: a record of type 12 (R436). -/
def State.discard (s : State) (link addr : Nat) : State := s.logEvent 12 (linkSource link) (BitVec.ofNat 64 addr) 0
/-- A non-owner's write: a record of type 9 (R423). -/
def State.notOwner (s : State) (link addr : Nat) : State := s.logEvent 9 (linkSource link) (BitVec.ofNat 64 addr) 0

/-- A write by the owner with its effect, none where the register's rule is broken; while a start has failed only the management
block answers (R421, R423, R436). -/
def State.ownerWrite (s : State) (link addr : Nat) (r : Option State) : State :=
  if !s.isOwner link then s.notOwner link addr
  else if s.startState = 2 ∧ addr < mgmt 0 then s
  else match r with
    | some t => t
    | none => s.discard link addr

/-! ## Queues (R359) -/

/-- The block of queue q. -/
def qAt (dev q : Nat) : Nat := dispBlock dev + 0x1000 + 0x40 * q
/-- The number of queues of a device. -/
def State.queueCount (s : State) : Nat :=
  match s.pmode with
  | 0 => 64
  | 1 => 32
  | _ => 4
/-- Its registers. -/
def State.qbase (s : State) (dev q : Nat) : Nat := (s.ctlReg (qAt dev q)).toNat
def State.qctl (s : State) (dev q : Nat) : Word := s.ctlReg (qAt dev q + 8)
def State.qwrite (s : State) (dev q : Nat) : Nat := (s.ctlReg (qAt dev q + 0x10)).toNat
def State.qread (s : State) (dev q : Nat) : Nat := (s.ctlReg (qAt dev q + 0x18)).toNat
/-- The number of its slots. -/
def State.qSlots (s : State) (dev q : Nat) : Nat := 2 ^ bits (s.qctl dev q) 11 8
/-- Its ring has a size. -/
def State.qSized (s : State) (dev q : Nat) : Bool := decide (4 ≤ bits (s.qctl dev q) 11 8 ∧ bits (s.qctl dev q) 11 8 ≤ 12)
/-- It is enabled. -/
def State.qEnabled (s : State) (dev q : Nat) : Bool := (s.qctl dev q).getLsbD 0 && s.qSized dev q
/-- Its device context. -/
def State.qDctx (s : State) (dev q : Nat) : Nat := bits (s.qctl dev q) 31 16
/-- The packets it holds. -/
def State.qHeld (s : State) (dev q : Nat) : Nat := (s.qwrite dev q + 2 ^ 32 - s.qread dev q) % 2 ^ 32
/-- The address of slot i. -/
def State.qSlot (s : State) (dev q i : Nat) : Nat := s.qbase dev q + i % s.qSlots dev q * 128
/-- A count written. -/
def State.setQwrite (s : State) (dev q n : Nat) : State := s.setCtl (qAt dev q + 0x10) (BitVec.ofNat 64 (n % 2 ^ 32))
def State.setQread (s : State) (dev q n : Nat) : State := s.setCtl (qAt dev q + 0x18) (BitVec.ofNat 64 (n % 2 ^ 32))
/-- err set. -/
def State.qErr (s : State) (dev q : Nat) : State := s.setCtl (qAt dev q + 8) (s.qctl dev q ||| 2#64)
/-- en cleared. -/
def State.qOff (s : State) (dev q : Nat) : State := s.setCtl (qAt dev q + 8) (s.qctl dev q &&& ~~~1#64)

/-- The words of a device-context record. -/
def State.dctxTvec (s : State) (dev c : Nat) : Word := s.ctlReg (dctxRec dev c + 8)
def State.dctxImg (s : State) (dev c : Nat) : Nat := (s.ctlReg (dctxRec dev c + 0x10)).toNat
/-- A device context's state set. -/
def State.setDctxState (s : State) (dev c x : Nat) : State := s.setCtl (dctxRec dev c + 0x18) (BitVec.ofNat 64 x)
/-- The dispatcher's input arbiter (R369): within a cycle it takes teardowns (1), then appends (2), then doorbells by queue (3 + q). An
input that comes before the latest one taken belongs to the next cycle, a tick later (DESIGN CHOICE, log entry 42). -/
def State.arbitrate (s : State) (dev lvl : Nat) : State :=
  let next := decide (lvl < SMap.get s.arbiter 0 dev)
  { s with
    dclk := if next then SMap.put s.dclk dev (SMap.get s.dclk 0#64 dev + 1#64) else s.dclk
    handled := if next then SMap.del s.handled dev else s.handled
    arbiter := SMap.put s.arbiter dev lvl }

/-- No device context of the device is live or tearing down. -/
def State.devFree (s : State) (dev : Nat) : Bool := (List.range 256).all (fun c => s.ctlReg (dctxRec dev c + 0x18) == 0#64)
/-- Nor of any device. -/
def State.allFree (s : State) : Bool := (List.range s.devices).all s.devFree

end Sys2Proof.Machine
end

