-- ==== Sys2Proof/Machine/Dispatcher.lean ====
section
/-! DEFINITION. Launches (R301, R358 .. R374): `launch`, doorbells, selection, dispatch, pre-emption and restore, completion and
teardown. -/

namespace Sys2Proof.Machine

/-! ## Appending (R301, R359, R369) -/

/-- What a launch packet's operand needs: 128 bytes in own local memory, or a global address to read. -/
def State.packetAt (s : State) (va : Nat) : Except Stop (Loc × State) :=
  let rd : Need := { rd := true }
  if NW ≤ va then do
    let off ← s.ownRange va 128 true false
    .ok (s.ownLoc off, s)
  else do
    let loc ← s.global va rd
    s.checkData va loc 128 false
    .ok (loc, s.used va rd)

/-- The append, with the doorbell (R301): 1 when it succeeds, 0 when the queue is full. An append for a context that is being torn
down is discarded and counted (R369). -/
def State.append (s : State) (dev q : Nat) (bs : List Byte) : State × Word :=
  let c := s.qDctx dev q
  if s.dctxState dev c = 2 then
    ({ s with tears := s.tears.map (fun t => if t.dev = dev ∧ t.dctx = c then { t with a := t.a + 1 } else t) }, 1#64)
  else if !s.qSized dev q || decide (s.qSlots dev q ≤ s.qHeld dev q) then (s, 0#64)
  else ((s.putPoc (.device 1) (s.qSlot dev q (s.qwrite dev q)) bs).setQwrite dev q (s.qwrite dev q + 1), 1#64)

/-- The append would write a slot of its ring that cannot be reached: MCHK at the first such byte, by its physical address, since the
ring has no other (R409; DEDUCED, log entry 38). -/
def State.ringReached (s : State) (dev q : Nat) : Except Stop Unit :=
  let a := s.qSlot dev q (s.qwrite dev q)
  if s.dctxState dev (s.qDctx dev q) = 2 ∨ !s.qSized dev q ∨ s.qSlots dev q ≤ s.qHeld dev q then .ok ()
  else match s.lostByte dev ⟨.device 1, a⟩ 128 with
    | some i => .error (.trap .mchk (BitVec.ofNat 64 (a + i)) 3#64)
    | none => .ok ()

/-- `launch gd, [ga], gb` (R301). -/
def execLaunch (o : L3) (s : State) : Out :=
  let a := s.g o.a
  let va := a.toNat
  let q := (s.g o.b).toNat
  s.run (do
    must (va % 128 == 0) (misalign a 0 7)
    must (decide (q < s.queueCount)) (illegal11 0)
    let (loc, s1) ← s.packetAt va
    must ((s.qctl s.myDev q).getLsbD 2) (.trap .perm a (pageInfo 0 7 0 0))
    s.afterRelease sysScope
    s.mayLoad [(loc, 128)]
    s.ringReached s.myDev q
    let (t, r) := (s1.arbitrate s.myDev 2).append s.myDev q (s.look loc 128)
    .ok (t.endLong o.l [.g o.d r]))

/-- QUEUE_DOORBELL (R359): a write to `qwrite` by the driver. -/
def execEvQueueDoorbell (link dev q : Nat) (w : Word) (s : State) : Out :=
  let n := w.toNat
  let ahead := (n + 2 ^ 32 - s.qread dev q) % 2 ^ 32
  .next (s.ownerWrite link (qAt dev q + 0x10)
    (if s.devices ≤ dev ∨ s.queueCount ≤ q ∨ 2 ^ 32 ≤ n then none
     else if s.qHeld dev q ≤ ahead ∧ ahead ≤ s.qSlots dev q then some ((s.arbitrate dev (3 + q)).setQwrite dev q n)
     else some ((s.arbitrate dev (3 + q)).qErr dev q)))

/-- DCTX_STATE_WRITE (R360): a write to a record's state; only 1 to a free record takes effect. -/
def execEvDctxStateWrite (link dev c : Nat) (w : Word) (s : State) : Out :=
  .next (s.ownerWrite link (dctxRec dev c + 0x18)
    (if dev < s.devices ∧ c < 256 ∧ s.dctxState dev c = 0 ∧ w = 1#64 then some (s.setDctxState dev c 1) else none))

/-! ## Packets (R361 .. R363) -/

/-- A field of a word list. -/
def Launch.word (l : Launch) (i : Nat) : Word := l.packet.getD i 0#64

/-- The key (R366) of a deadline and queue. -/
def edfKey (deadline : Word) (q : Nat) : Nat := (if deadline = 0#64 then 2 ^ 64 else deadline.toNat) * 256 + q
/-- A launch's key. -/
def Launch.key (l : Launch) : Nat := edfKey (l.word 4) l.queue

/-- The choruses of a device's live dies, ascending. -/
def State.chorusesOf (s : State) (dev : Nat) : List Nat :=
  ((s.diesOf dev).filter s.dieLive).flatMap (fun d => (List.range 32).map (fun y => d * 32 + y))
/-- A launch holds the chorus. -/
def State.chorusBusy (s : State) (c : Nat) : Bool := s.launches.any (fun l => l.chor.contains c && !l.outs.contains c)
/-- The free ones (R364). -/
def State.freeChoruses (s : State) (dev : Nat) : List Nat := (s.chorusesOf dev).filter (fun c => !s.chorusBusy c)

/-- Level j of a packet breaks R362 by itself. -/
def levelBad (w : Word) : Bool := bits w 63 17 != 0 || bits w 15 11 != 0 || bits w 7 3 != 0 || decide (4 < bits w 10 8) || decide (5 < bits w 2 0)

/-- The packet breaks R363. -/
def State.launchBad (s : State) (dev : Nat) (p : List Word) : Bool :=
  let w (i : Nat) : Word := p.getD i 0#64
  let n := bits (w 0) 19 16
  let doms := (List.range n).map (fun j => bits (w (8 + j)) 2 0)
  bits (w 0) 7 0 != 1 || (w 0).getLsbD 31 || bits (w 0) 15 11 != 0 || (w 0).getLsbD 8 || decide (n = 0 ∨ 8 < n)
    || (List.range n).any (fun j => levelBad (w (8 + j))) || (List.range (8 - n)).any (fun j => w (8 + n + j) != 0#64)
    || !(doms.zip (doms.drop 1)).all (fun p => decide (p.1 < p.2))
    || decide (1 < ((List.range n).filter (fun j => (w (8 + j)).getLsbD 16)).length)
    || (w 1).getLsbD 0 || decide (NW ≤ (w 1).toNat)
    || !(scopeKind (w 7) == 3 || scopeKind (w 7) == 4) || bits (w 7) 63 35 != 0
    || decide ((s.chorusesOf dev).length < bits (w 0) 30 20 + 1)

/-- The record's place, none when word 5 is 0; an error when it is unusable. -/
def State.recordAt (s : State) (dev c : Nat) (w5 : Word) : Except Unit (Option Loc) :=
  if w5 = 0#64 then .ok none
  else if w5.toNat % 32 ≠ 0 then .error ()
  else match s.unitWalk dev c w5.toNat { wr := true } with
    | .ok l => if s.writeLost dev l 32 then .error () else .ok (some l)
    | .error _ => .error ()

/-- A completion record (R368): words 1 .. 3, then word 0. An unusable address sets err in `qctl`. -/
def State.writeRecord (s : State) (dev c q : Nat) (p : List Word) (status late tasks events start : Nat) : State :=
  let cap (x : Nat) : Nat := min x (2 ^ 32 - 1)
  match s.recordAt dev c (p.getD 5 0#64) with
  | .ok none => s
  | .error _ => s.qErr dev q
  | .ok (some l) =>
    let t := s.putPoc l.space.owner (l.at_ + 8)
      (leBytes 8 (status * 2 ^ 56 + cap late) ++ leBytes 8 (cap tasks * 2 ^ 32 + cap events) ++ leBytes 8 start)
    t.putPoc l.space.owner l.at_ (leBytes 8 (p.getD 6 0#64).toNat)

/-! ## Dispatch (R10, R362, R364) -/

/-- The smallest rectangle that holds cores. -/
def rectOf (hs : List Nat) : Word :=
  let lo (f : Nat → Nat) : Nat := (hs.map f).foldl min 255
  let hi (f : Nat → Nat) : Nat := (hs.map f).foldl max 0
  BitVec.ofNat 64 (lo hx + lo hy * 2 ^ 8 + hi hx * 2 ^ 16 + hi hy * 2 ^ 24)

/-- `dscope` at the start of core h: the dflt level's scope (R362), or the reset value. -/
def Launch.startScope (l : Launch) (h : Nat) : Word :=
  match (List.range l.nlev).find? (fun j => (l.level j).getLsbD 16) with
  | none => ({} : Core).dscope
  | some j =>
    match bits (l.level j) 10 8 with
    | 0 => rectOf (l.cores.filter (fun c => instKey (l.domain j) c == instKey (l.domain j) h))
    | k => BitVec.ofNat 64 (k * 2 ^ 32)

/-- An address lies in core h's local memory. -/
def inLocal (h a : Nat) : Bool := decide (localKey h 0 ≤ a) && decide (a < localKey (h + 1) 0)

/-- The bytes of a core's local memory leave, with the errors that they hold. -/
def State.clearLocal (s : State) (h : Nat) : State :=
  { s with mem := s.mem.filter (fun p => !inLocal h p.1), poison := s.poison.filter (fun p => !inLocal h (8 * p.1)) }

/-- Every context of core h forgotten. -/
def State.clearCtxs (s : State) (h : Nat) : State := { s with ctxs := s.ctxs.filter (fun p => p.1 / 16 != h) }

/-- What a core keeps that no launch owns: its instruction cache, its TLB and its cycle count (R214); a launch starts with an empty L1
(DEDUCED from R404, log entry 37). -/
def Core.shell (c : Core) : Core := { icache := c.icache, tlb := c.tlb, cycle := c.cycle }

/-- Core h starts its part in a launch (R364). -/
def State.startCore (s : State) (l : Launch) (h : Nat) : State :=
  let c : Core := { (s.core h).shell with
    launch := some l.serial
    launchid := BitVec.ofNat 64 (bits (l.word 0) 63 32)
    dscope := l.startScope h
    tvec := BitVec.ofNat 64 (bits (s.dctxTvec l.dev l.dctx) 51 1 * 2) }
  (((s.clearLocal h).clearCtxs h).setCore h c).begin h 0 (l.word 1) (l.word 2) (l.word 3) 0#64 false none

/-- The supervisor CSRs of the dies of a launch (R348). -/
def State.setRoots (s : State) (l : Launch) : State :=
  (firsts (l.chor.map (· / 32))).foldl (fun t d => t.modDie d (fun e => { e with
    ptroot := s.ctlReg (dctxRec l.dev l.dctx), dctx := BitVec.ofNat 64 l.dctx })) s

/-- A launch takes its choruses, and every control context starts at the entry. -/
def State.dispatch (s : State) (dev q : Nat) (p : List Word) : State :=
  let w4 := (p.getD 4 0#64).toNat
  let now := (SMap.get s.dclk 0#64 dev).toNat
  let isLate := decide (w4 ≠ 0 ∧ w4 < now)
  let l : Launch :=
    { serial := s.serial, dev := dev, dctx := s.qDctx dev q, queue := q, packet := p
      chor := (s.freeChoruses dev).take (bits (p.getD 0 0#64) 30 20 + 1), start := now
      status := if isLate then 1 else 0, late := if isLate then now - w4 else 0 }
  let s1 : State := { s with launches := s.launches ++ [l], serial := s.serial + 1 }
  (l.cores.foldl (fun t h => t.startCore l h) (s1.setRoots l)).setQread dev q (s.qread dev q + 1)

/-! ## Selection (R366, R370) -/

/-- What the dispatcher may select. -/
inductive Entry where
  | head (q : Nat) (p : List Word)
  | restore (l : Launch)
  deriving DecidableEq, Repr

/-- The head packet of a queue. -/
def State.headOf (s : State) (dev q : Nat) : List Word :=
  let a := s.qSlot dev q (s.qread dev q)
  (List.range 16).map (fun i => BitVec.ofNat 64 (leNat (s.rawBytes (a + 8 * i) 8)))

/-- The key of an entry; a restore goes before a head of its own queue with its deadline. -/
def Entry.key : Entry → Nat
  | .head q p => edfKey (p.getD 4 0#64) q * 2 + 1
  | .restore l => l.key * 2

/-- The words of a queue's head packet may be read: a queue whose head holds an error or cannot be reached offers nothing (R409, R425;
DEDUCED, log entry 38). -/
def State.headReads (s : State) (dev q : Nat) : Bool := (s.dataError dev ⟨.device 1, s.qSlot dev q (s.qread dev q)⟩ 128 false).isNone

/-- A queue offers its head packet (R366). -/
def State.offers (s : State) (dev q : Nat) : Bool :=
  s.qEnabled dev q && s.dctxState dev (s.qDctx dev q) == 1 && s.qHeld dev q != 0 && s.headReads dev q

/-- The entries of a device. -/
def State.entries (s : State) (dev : Nat) : List Entry :=
  ((s.launches.filter (fun l => l.dev == dev && !l.torn && !l.outs.isEmpty)).map Entry.restore)
    ++ ((List.range s.queueCount).filter (s.offers dev)).map (fun q => .head q (s.headOf dev q))

/-- The entry with the smallest key. -/
def State.selected (s : State) (dev : Nat) : Option Entry :=
  (s.entries dev).foldl (fun acc e => match acc with
    | none => some e
    | some a => if e.key < a.key then some e else some a) none

/-- The victims for `n` choruses and a key (R370): choruses of running launches of a larger key, the largest key first, in a launch
the highest number first. -/
def State.victimsFor (s : State) (dev key : Nat) : List (Nat × Nat) :=
  let ls := inOrder (fun a b => decide (b.key ≤ a.key)) (s.launches.filter (fun l => l.dev == dev && !l.torn && decide (key < l.key)))
  ls.flatMap (fun l => (l.chor.reverse.filter (fun c => !l.outs.contains c && !l.stops.contains c)).map (fun c => (l.serial, c)))

/-- Choruses are asked to stop. -/
def State.askStop (s : State) (vs : List (Nat × Nat)) : State :=
  { s with launches := s.launches.map (fun l =>
      { l with stops := l.stops ++ (vs.filter (fun v => v.1 == l.serial)).map Prod.snd }) }

/-- The choruses of a device that have been asked to stop and are not free yet. -/
def State.stopping (s : State) (dev : Nat) : Nat := ((s.launches.filter (fun l => l.dev == dev)).map (fun l => l.stops.length)).sum

/-- A head packet that passes R363 is handled (R366). -/
def State.handleHead (s : State) (dev q : Nat) (p : List Word) : State :=
  let w4 := (p.getD 4 0#64).toNat
  let need := bits (p.getD 0 0#64) 30 20 + 1
  let free := (s.freeChoruses dev).length
  if (p.getD 0 0#64).getLsbD 9 ∧ w4 ≠ 0 ∧ w4 < (SMap.get s.dclk 0#64 dev).toNat then
    (s.writeRecord dev (s.qDctx dev q) q p 2 0 0 0 0).setQread dev q (s.qread dev q + 1)
  else if need ≤ free then s.dispatch dev q p
  else if (p.getD 0 0#64).getLsbD 10 then
    let vs := s.victimsFor dev (edfKey (p.getD 4 0#64) q)
    let more := need - free - s.stopping dev
    if vs.length < more then s else s.askStop (vs.take more)
  else s

/-- A selected head packet (R363, R366): it is checked when it is first selected. -/
def State.selectHead (s : State) (dev q : Nat) (p : List Word) : State :=
  let c := s.qDctx dev q
  if SMap.get s.checked 0 (dev * 64 + q) = s.qread dev q + 1 then s.handleHead dev q p
  else match s.recordAt dev c (p.getD 5 0#64) with
    | .error _ => (s.qErr dev q).setQread dev q (s.qread dev q + 1)
    | .ok _ =>
      if s.launchBad dev p then (s.writeRecord dev c q p 3 0 0 0 0).setQread dev q (s.qread dev q + 1)
      else ({ s with checked := SMap.put s.checked (dev * 64 + q) (s.qread dev q + 1) } : State).handleHead dev q p

/-- The dispatcher of a device may handle an entry: none has been handled in its present cycle (R366). -/
def State.mayHandle (s : State) (dev : Nat) : Bool := decide (dev < s.devices) && s.startState == 1 && !SMap.has s.handled dev

/-- An entry is handled, which changes the state to t: the dispatcher's cycle is used up, when that changes anything (R366). -/
def State.handledTo (s : State) (dev : Nat) (t : State) : State := if t = s then s else { t with handled := SMap.put t.handled dev true }

/-- DISPATCHER_SELECT (R366): device `dev`. A selected restore proceeds by CHORUS_RESTORE. -/
def execEvDispatcherSelect (dev : Nat) (s : State) : Out :=
  .next (if !s.mayHandle dev then s
    else match s.selected dev with
      | some (.head q p) => s.handledTo dev (s.selectHead dev q p)
      | _ => s)

/-- PECMD_WRITE (R370): the driver pre-empts a chorus. -/
def execEvPecmdWrite (link dev : Nat) (w : Word) (s : State) : Out :=
  .next (s.ownerWrite link (dispBlock dev + 0x200)
    (if s.devices ≤ dev ∨ 2 ^ 11 ≤ w.toNat then none
     else
       let vs := (s.launches.filter (fun l => l.dev == dev && !l.torn && l.chor.contains w.toNat && !l.outs.contains w.toNat
         && !l.stops.contains w.toNat)).map (fun l => (l.serial, w.toNat))
       some (s.askStop vs)))

/-! ## Pre-emption (R152, R371) -/

/-- Entry n of a post queue cannot take its step. -/
def State.stuckEntry (s : State) (h k n : Nat) (e : PEntry) : Bool :=
  let c := s.core h
  let es := (s.ctx h k).before n
  match e.kind with
  | .load _ none => !loadReady es e
  | .load _ (some _) => true
  | .store _ => !s.mayLeave h k e
  | .atomic _ _ => !stepReady es (c.pathOf k) c.path e
  | .sent _ _ | .acked _ _ => false
  | .tagged _ =>
    !stepReady es (c.pathOf k) c.path e || (match e.loc.space with
      | .local_ g => (s.core g).tagWait.any (fun w => w.h == h && w.k == k && w.id == e.id)
      | _ => false)
  | .fence => !fenceReady (olderThan e.id es) (c.pathOf k) e.sem e.scope
  | .later _ | .bacq => true
  | .sparse _ _ _ => !loadReady es e

/-- An outstanding instruction that an image may hold. -/
def Ctx.keeps (x : Ctx) (o : Outst) : Bool :=
  match o.pend with
  | .bacq _ | .events => true
  | .pennants _ => !x.post.isEmpty
  | .planes => false
  | _ => x.post.any (fun e => e.id == o.id)

/-- A context waits in a redundant `mdrain`. -/
def Ctx.drains (x : Ctx) : Bool := match x.state with | .waiting (.drain _ _ _ _) => true | _ => false

/-- The redundant `mdrain` in which context k of core h waits has its partner (R108). -/
def State.drainMeets (s : State) (h k : Nat) : Bool :=
  (s.ctx h k).drains && (List.range 11).any (fun j => (s.ctx (partnerOf h) j).drains)

/-- Context k of core h is at rest: nothing of it but what waits for others is under way (R268). -/
def State.restCtx (s : State) (h k : Nat) : Bool :=
  let x := s.ctx h k
  !s.drainMeets h k && (x.post.zipIdx.all (fun p => s.stuckEntry h k p.2 p.1)) && x.out.all x.keeps && !(x.trap.isSome && x.out.isEmpty)

/-- Core h is at rest: of its gangs, none that is complete has yet to run (R110). -/
def State.restCore (s : State) (h : Nat) : Bool :=
  (s.core h).path.all (fun w => w.loc.space.held) && (List.range 11).all (s.restCtx h)
    && s.gangs.all (fun g => !g.members.any (fun m => m.h == h) || (g.turn.isNone && (s.gangStep g).isNone))

/-- A location follows its core when the core moves between its place and its image. -/
def Loc.follow (l : Loc) (a b : Nat) : Loc :=
  match l.space with
  | .local_ h => if h = a then ⟨.local_ b, localKey b (l.at_ % 2 ^ 17)⟩ else l
  | _ => l

/-- A range of location keys follows its core. -/
def keyFollow (a b : Nat) (r : Nat × Nat) : Nat × Nat :=
  if localKey a 0 ≤ r.1 ∧ r.1 < localKey (a + 1) 0 then (localKey b (r.1 % 2 ^ 17), r.2) else r

/-- The local addresses of an atomic's further lines stay: `post` and `nbctl` do not reach local memory. -/
def PEntry.follow (e : PEntry) (a b : Nat) : PEntry :=
  { e with
    loc := e.loc.follow a b
    kind := match e.kind with | .sparse wr n more => .sparse wr n (more.map (keyFollow a b)) | x => x }

/-- A context as its image holds it: a withdrawn `mma` or `mdrain` issues again, and a walk is made again (R110). -/
def Ctx.saved (x : Ctx) : Ctx :=
  match x.state with
  | .waiting .gang | .waiting (.drain _ _ _ _) | .waiting (.walk _ _) => { x.shut with state := .ready }
  | _ => x.shut

/-- A granule of an engine's piece that is read from local memory follows its core. -/
def Granule.follow (x : Granule) (a b : Nat) : Granule := { x with src := x.src.map (fun p => (p.1.follow a b, p.2)) }

/-- Core a, its contexts and its local memory move to handle b; every access aimed at it follows. -/
def State.moveCore (s : State) (a b : Nat) : State :=
  let c := s.core a
  let s1 := (s.mem.filter (fun p => inLocal a p.1)).foldl
    (fun t p => { t with mem := t.mem.setByte (localKey b (p.1 % 2 ^ 17)) p.2 }) ((s.clearLocal a).clearLocal b)
  let s2 := (List.range 11).foldl (fun t k =>
    if SMap.has s.ctxs (ctxKey a k) then t.setCtx b k (s.ctx a k) else t) ((s1.clearCtxs a).clearCtxs b)
  { s2.setCore b c with
    ctxs := (s2.setCore b c).ctxs.map (fun p => (p.1, { p.2 with post := p.2.post.map (fun e => e.follow a b) }))
    cores := (s2.setCore b c).cores.map (fun p => (p.1, { p.2 with path := p.2.path.map (fun w => { w with loc := w.loc.follow a b }) }))
    reqs := s2.reqs.map (fun r => { r with
      loc := r.loc.follow a b, parts := r.parts.map (fun p => if p.h = a then { p with h := b } else p) })
    jobs := s2.jobs.map (fun j => { j with open_ := j.open_.map (fun g => g.map (fun x => x.follow a b)) })
    poison := (s.poison.filter (fun p => inLocal a (8 * p.1))).foldl
      (fun m p => SMap.put m (localKey b 0 / 8 + p.1 % 2 ^ 14) true) s2.poison }

/-- Waiting tagged operations of core h leave their words' lists (R289). -/
def State.unwaitTags (s : State) (h : Nat) : State :=
  { s with cores := s.cores.map (fun p => (p.1, { p.2 with tagWait := p.2.tagWait.filter (fun w => w.h != h) })) }

/-- The contexts of core h leave the gangs that are forming. -/
def State.unjoin (s : State) (h : Nat) : State := (List.range 11).foldl (fun t k => t.leaveGang h k) s

/-- The handle of a core's image in a launch. -/
def imageHandle (serial h : Nat) : Nat := (serial + 1) * 65536 + h % 65536

/-- Core h goes out. -/
def State.outCore (s : State) (serial h : Nat) : State :=
  let b := imageHandle serial h
  let shell := (s.core h).shell
  let s1 := ((((s.barrierStep h).unwaitTags h).unjoin h).moveCore h b).modCore b (fun c => { c with
    l1 := [], icache := [], tlb := [], pf := [], stepped := false, acted := false })
  let s2 := (List.range 11).foldl (fun t k => if SMap.has t.ctxs (ctxKey b k) then t.modCtx b k Ctx.saved else t) s1
  s2.setCore h { shell with l1 := [] }

/-- The slot of a chorus image (R373), and core h's part of it. -/
def State.imageSlot (s : State) (l : Launch) (c : Nat) : Nat := s.dctxImg l.dev l.dctx + c * 0x80_0000
def State.imagePart (s : State) (l : Launch) (h : Nat) : Nat := s.imageSlot l (chorusOf h) + hx h % 32 * 0x4_0000

/-- What an image of core h holds. -/
def State.imageOf (s : State) (h : Nat) (vers : SMap Nat) : CoreImage where
  core := s.core h
  ctxs := (List.range 11).filterMap (fun k => if SMap.has s.ctxs (ctxKey h k) then some (k, s.ctx h k) else none)
  cells := (s.mem.filter (fun p => inLocal h p.1)).map (fun p => (p.1 - localKey h 0, p.2))
  vers := vers

/-- The units whose form in an image is the implementation's. -/
def freeUnits : List Nat := (List.range 11).map (· + 33) ++ [70, 71, 72, 73, 74]

/-- Units of core h are written to its part of the slot at `a`; with `us` none, every unit (R374). -/
def State.writeUnits (s : State) (a h : Nat) (us : Option (List Nat)) : State :=
  let old := (SMap.get s.images {} a).vers
  let hit (u : Nat) : Bool := us.elim true (fun l => l.contains u)
  { s with
    mem := s.mem.filter (fun p => !(partOf p.1 == a && hit (unitAt (p.1 - a))))
    images := SMap.put s.images a (s.imageOf h (freeUnits.map (fun u => (u, if hit u then s.serial else SMap.get old 0 u)))) }

/-- The slot's header word equals the value that the dispatcher last wrote there (R374). -/
def State.headerStands (s : State) (slot : Nat) : Bool :=
  SMap.has s.heads slot && leNat (s.rawBytes slot 8) == (SMap.get s.heads 0#64 slot).toNat

/-- The image of a core that has just gone out is written (R374): its dirty units, or every one. -/
def State.saveCore (s : State) (l : Launch) (full : Bool) (h : Nat) : State :=
  let b := imageHandle l.serial h
  let c := s.core b
  (s.writeUnits (s.imagePart l h) b (if full ∨ !c.saved then none else some c.dirty)).modCore b
    (fun x => { x with saved := true, dirty := [] })

/-- The image of a chorus is taken: its cores are out, its image is written with its header word, and the chorus is free. -/
def State.takeImage (s : State) (l : Launch) (c : Nat) : State :=
  let hs := (List.range 32).map (chorusCore c)
  let slot := s.imageSlot l c
  let full := !s.headerStands slot
  let s1 := hs.foldl (fun t h => (t.outCore l.serial h).saveCore l full h) s
  let w := Config.imageHeader s.serial
  let s2 := s1.putPoc (.device 1) slot (leBytes 8 w.toNat)
  { s2 with
    serial := s2.serial + 1
    heads := SMap.put s2.heads slot w
    launches := s2.launches.map (fun x => if x.serial = l.serial then
      { x with stops := x.stops.filter (fun y => y != c), outs := x.outs ++ [c] } else x) }

/-- The image of a core out of the machine is read from its slot before it comes back: units whose bytes another agent has changed. -/
def State.loadImage (s : State) (l : Launch) (h : Nat) : State :=
  let b := imageHandle l.serial h
  let a := s.imagePart l h
  let us := (((s.mem.filter (fun p => partOf p.1 == a)).map (fun p => unitAt (p.1 - a))).eraseDups).filter (fun u => (unitSpan u).isSome)
  let m := us.foldl (fun m u =>
    let (o, n) := (unitSpan u).getD (0, 0)
    m.load u (s.rawBytes (a + o) n) (s.rawByte (a + 0x800 + (u - 100)))) (s.imageOf b [])
  let s1 := m.ctxs.foldl (fun t p => t.setCtx b p.1 p.2) (s.setCore b m.core)
  let s2 := (m.cells.filter (fun p => us.contains (100 + p.1 / 64))).foldl
    (fun t p => { t with mem := t.mem.setByte (localKey b p.1) p.2 }) s1
  if us = [] then s else s2.writeUnits a b (some us)

/-- The launch whose chorus has been asked to stop. -/
def State.stopLaunch (s : State) (c : Nat) : Option Launch := s.launches.find? (fun l => l.stops.contains c && !l.torn)

/-- CHORUS_PREEMPT (R371): chorus c, once its cores are at rest. -/
def execEvChorusPreempt (c : Nat) (s : State) : Out :=
  .next (match s.stopLaunch c with
    | some l => if ((List.range 32).map (chorusCore c)).all s.restCore then s.takeImage l c else s
    | none => s)

/-- Core h comes back (R61, R225, R372): phase completions take effect, its counter has run on, and no unit of it is dirty. -/
def State.inCore (s : State) (serial h : Nat) : State :=
  let shell := (s.core h).shell
  ((s.moveCore (imageHandle serial h) h).catchUp h).modCore h (fun c =>
    { c with dirty := [], l1 := [], newer := [], icache := shell.icache, tlb := shell.tlb, cycle := shell.cycle })

/-- The cores of an image are no longer listed under its handle. -/
def State.dropCore (s : State) (h : Nat) : State := { (s.clearLocal h).clearCtxs h with cores := s.cores.filter (fun p => p.1 != h) }

/-- The images of a launch are restored onto their choruses (R372). -/
def State.restoreImages (s : State) (l : Launch) : State :=
  let hs := l.outs.flatMap (fun c => (List.range 32).map (chorusCore c))
  let s1 := hs.foldl (fun t h => ((t.loadImage l h).inCore l.serial h).dropCore (imageHandle l.serial h)) s
  ({ s1 with launches := s1.launches.map (fun x => if x.serial = l.serial then { x with outs := [] } else x) } : State).setRoots l

/-- CHORUS_RESTORE (R372): the restore that the dispatcher of device `dev` selects, once each of its choruses is free. -/
def execEvChorusRestore (dev : Nat) (s : State) : Out :=
  .next (if !s.mayHandle dev then s
    else match s.selected dev with
      | some (.restore l) => if l.outs.all (fun c => !s.chorusBusy c) then s.handledTo dev (s.restoreImages l) else s
      | _ => s)

/-! ## Completion (R368) -/

/-- The handles of a launch's cores as they stand. -/
def Launch.handles (l : Launch) : List Nat := l.cores.map l.handle

/-- Every core of a launch has ended its part, or the launch is torn down. -/
def State.launchOver (s : State) (l : Launch) : Bool := l.torn || l.handles.all (fun h => (s.core h).ended)

/-- No write of the launch's cores is still to perform. -/
def State.launchQuiet (s : State) (l : Launch) : Bool :=
  l.handles.all s.restCore && s.dels.all (fun d => d.launch != l.serial || d.h.isSome)
    && s.reqs.all (fun r => r.parts.all (fun p => !l.handles.contains p.h))
    && (l.torn || l.handles.all (fun h => (s.core h).path.isEmpty && (List.range 11).all (fun k => (s.ctx h k).post.isEmpty)))

/-- A launch completes: its record is written and its choruses are free; what was still on its way to its cores is gone. -/
def State.finishLaunch (s : State) (l : Launch) : State :=
  let sum (f : Core → Nat) : Nat := (l.handles.map (fun h => f (s.core h))).sum
  let s1 := s.writeRecord l.dev l.dctx l.queue l.packet (if l.torn then 4 else l.status) (if l.torn then 0 else l.late)
    (sum Core.lostTasks) (sum Core.lostEvents) l.start
  let shells (t : State) (h : Nat) : State :=
    if h < 65536 then (((t.unwaitTags h).unjoin h).clearLocal h |>.clearCtxs h).setCore h (t.core h).shell else t.dropCore h
  let s2 := l.handles.foldl shells s1
  { s2 with
    launches := s2.launches.filter (fun x => x.serial != l.serial)
    ops := s2.ops.filter (fun o => o.launch != l.serial)
    dels := s2.dels.filter (fun d => d.launch != l.serial)
    arrivals := s2.arrivals.filter (fun a => a.launch != l.serial)
    msgs := s2.msgs.filter (fun m => m.launch != l.serial) }

/-- LAUNCH_COMPLETION (R368): the launch with a serial number. -/
def execEvLaunchCompletion (n : Nat) (s : State) : Out :=
  .next (match s.launchOf n with
    | some l => if s.launchOver l && s.launchQuiet l then s.finishLaunch l else s
    | none => s)

/-! ## Teardown (R369, R375) -/

/-- A device context is torn down: its queues are off and empty, its launches stop, its images are dropped, and its copy queues and
channels are off. -/
def State.tearDown (s : State) (dev c : Nat) : State :=
  let qs := (List.range s.queueCount).filter (fun q => s.qDctx dev q == c)
  let lost := (qs.map (s.qHeld dev)).sum
  let n := (s.launches.filter (fun l => l.dev == dev && l.dctx == c)).length
  let s1 := qs.foldl (fun t q => (t.qOff dev q).setQread dev q (t.qwrite dev q)) ((s.arbitrate dev 1).setDctxState dev c 2)
  let binds := (List.range 128).flatMap (fun e => (List.range 16).map (fun b => (e, bindAt e b + 8)))
  let bound := binds.filter (fun p => (s1.ctlReg p.2).getLsbD 0 && s.boundTo p.1 (bits (s1.ctlReg p.2) 63 48) == some (dev, c))
  let s2 := bound.foldl (fun t p => t.setCtl p.2 (t.ctlReg p.2 &&& ~~~1#64)) s1
  let s3 : State := { s2 with
    launches := s2.launches.map (fun l => if l.dev = dev ∧ l.dctx = c then { l with torn := true, stops := [] } else l)
    jobs := (s2.jobs.filter (fun j => !(j.dev == dev && j.dctx == c) || (!j.open_.isEmpty && j.status.isNone && (!j.dloc || j.checked)))).map
      (fun j => if j.dev = dev ∧ j.dctx = c then { j with halt := true } else j)
    tears := s2.tears ++ [⟨dev, c, lost, 0, n⟩] }
  { s3 with ctl := s3.ctl.map (fun p =>
      let off := p.1 - chanRec 0 0
      let n := off / 0x4000
      if chanRec 0 0 ≤ p.1 ∧ n < 128 ∧ off % 64 = 0x10 ∧ s.boundTo n (bits p.2 63 48) = some (dev, c) then
        (p.1, p.2 &&& ~~~0x1_0000_0000#64) else p) }

/-- TDCMD_WRITE (R369): the driver tears a live device context down. -/
def execEvTdcmdWrite (link dev : Nat) (w : Word) (s : State) : Out :=
  .next (s.ownerWrite link (dispBlock dev + 0x100)
    (if dev < s.devices ∧ w.toNat < 256 ∧ s.dctxState dev w.toNat = 1 then some (s.tearDown dev w.toNat) else none))

/-- TEARDOWN_COMPLETE (R369): nothing of context c of device `dev` runs. -/
def execEvTeardownComplete (dev c : Nat) (s : State) : Out :=
  .next (match s.tears.find? (fun t => t.dev == dev && t.dctx == c) with
    | none => s
    | some t =>
      if s.launches.any (fun l => l.dev == dev && l.dctx == c) ∨ s.jobs.any (fun j => j.dev == dev && j.dctx == c) then s
      else
        let b := dispBlock dev
        let s1 := ((s.setCtl (b + 0x108) (BitVec.ofNat 64 t.q)).setCtl (b + 0x110) (BitVec.ofNat 64 t.a)).setCtl (b + 0x118) (BitVec.ofNat 64 t.n)
        (({ s1 with tears := s1.tears.filter (fun x => !(x.dev == dev && x.dctx == c)) } : State).setDctxState dev c 0).emit (.msix (64 + dev)))

end Sys2Proof.Machine
end

