-- ==== Sys2Proof/Machine/Fabric.lean ====
section
/-! DEFINITION. Stolrus links (R378 .. R383): receiving packets, requests of peers, replies to this panel's own requests,
retransmission and loss of lanes. A request of this panel and its reply are one step of the ordering machine
unless a reply event below completes it. -/

namespace Sys2Proof.Machine

/-- A record of a refusal (R379), with the link's spine as its source. -/
def State.logRefusal (s : State) (l : Nat) (h : PktHdr) (type : Nat) : State := s.logEvent type (80 + l / 8) (BitVec.ofNat 64 h.addr) 0

/-- A packet is received on a link that is up: when its tag passes it acts. When it fails, it and every later packet are discarded
until the packet of the sequence number that was expected is sent again (R381, R382). `early` is what a failing packet may already have
done. -/
def State.receive (s : State) (l : Nat) (hdr : BitVec 128) (payload : List Byte) (tag : BitVec 64) (early : State → State)
    (act : PktHdr → State → State) : State :=
  let k := s.link l
  let h := readHdr hdr
  if k.lanes = 0 ∨ (k.bad ∧ h.seq ≠ k.expect) then s
  else if tagPasses hdr payload tag then act h (s.setLink l { k with expect := (h.seq + 1) % 256, bad := false })
  else early (s.setLink l { k with bad := true })

/-- A reply, an acknowledgement or a refusal is received: one that bears another panel's number is discarded and logged as a refusal
(R379). -/
def State.receiveReply (s : State) (l : Nat) (hdr : BitVec 128) (payload : List Byte) (tag : BitVec 64)
    (act : PktHdr → State → State) : State :=
  s.receive l hdr payload tag id (fun h t => if t.myPeer = some h.dpeer then act h t else t.logRefusal l h 8)

/-! ## Requests of peers (R378, R379, R381) -/

/-- Why a request of a peer is not served: it is for another panel, or it is refused. -/
inductive Gate where
  | ok | other | refused
  deriving DecidableEq, Repr

/-- The gate for a request. -/
def State.gate (s : State) (h : PktHdr) (atomic : Bool) : Gate :=
  let r := s.ctlReg (routeAddr h.speer)
  match s.myPeer with
  | none => .refused
  | some id =>
    if h.dpeer ≠ id then .other
    else if !r.getLsbD 6 || (atomic && !r.getLsbD 7) || h.speer == id then .refused
    else .ok

/-- The space of a physical address, for requests from outside; none where the panel has no memory. -/
def State.outsideSpace (s : State) (a n : Nat) : Option Space :=
  if s.physical a && s.physical (a + n - 1) then some (if a < 2 ^ 43 then .device 1 else .near 1) else none

/-- A request that is not served: answered with a refusal, and logged where R378 and R379 say. -/
def State.turnAway (s : State) (l : Nat) (h : PktHdr) (write : Bool) (g : Gate) : State :=
  let s1 := if g = .other then s.logRefusal l h 8 else if write then s.logRefusal l h 1 else s
  s1.respond h 7 []

/-- The home die of a line that a request of a peer reaches. -/
def State.outsideHome (s : State) (loc : Loc) : Nat := s.locHome (s.outsideDev loc.at_) loc

/-- No earlier request of a peer to a home of one of these bytes has yet to be performed: they arrive in the order they were sent
(R377). -/
def State.peerClear (s : State) (p : Nat) (loc : Loc) (n : Nat) : Bool :=
  let homes := (List.range ((loc.at_ + n - 1) / 64 - loc.at_ / 64 + 1)).map (fun i => s.outsideHome ⟨loc.space, (loc.at_ / 64 + i) * 64⟩)
  s.reqs.all (fun r => r.parts.all (fun q => q.source != 2 ^ 32 + p) || !(s.reqDest r).any homes.contains)
    && s.inwrites.all (fun w => !w.whole || (readHdr w.hdr).speer != p || w.todo.all (fun x => !homes.contains (s.outsideHome x.dst)))

/-- A request of a peer on n bytes acts where the panel has memory, every line of it can be reached, and no earlier request of the peer
is on its way there: until then it has not arrived. -/
def State.peerRequest (s : State) (l : Nat) (hdr : BitVec 128) (payload : List Byte) (tag : BitVec 64) (a n : Nat) (early : State → State)
    (act : PktHdr → State → State) : State :=
  match s.outsideSpace a n with
  | some sp => if s.peerClear (readHdr hdr).speer ⟨sp, a⟩ n then s.receive l hdr payload tag early act else s
  | none => s.receive l hdr payload tag early act

/-- A write of a peer begins: its granules perform one by one (R139). `whole` tells that its tag has passed. -/
def State.beginWrite (s : State) (l : Nat) (hdr : BitVec 128) (loc : Loc) (bs : List Byte) (whole : Bool) : State :=
  let gs : List Granule := (deal (granules (loc, bs.length)) bs).map (fun p => ⟨none, p.2, p.1⟩)
  { s with inwrites := s.inwrites ++ [⟨s.serial, l, hdr, whole, if bs = [] then [] else gs⟩], serial := s.serial + 1 }

/-- What a link has written early of packets whose tags failed ends there: their retransmission writes every byte (R381). -/
def State.endEarly (s : State) (l : Nat) : State := { s with inwrites := s.inwrites.filter (fun w => w.whole || w.link != l) }

/-- STOLRUS_WRITE (R381): on link l; its granules perform by ENGINE_PIECE. With `early` bytes of a relaxed write whose tag fails may be
written before it is sent again. -/
def execEvStolrusWrite (l : Nat) (hdr : BitVec 128) (payload : List Byte) (tag : BitVec 64) (early : Bool) (s : State) : Out :=
  let n := max 1 payload.length
  let a := (readHdr hdr).addr
  let place (t : State) : Option Loc :=
    (t.outsideSpace a n).bind (fun sp => if t.writeLost (t.outsideDev a) ⟨sp, a⟩ n then none else some ⟨sp, a⟩)
  .next (if (readHdr hdr).type ≠ 1 then s
    else s.peerRequest l hdr payload tag a n
      (fun t => if early && (readHdr hdr).sem == 0 && t.gate (readHdr hdr) false == .ok then
        ((place t).map (fun loc => t.beginWrite l hdr loc payload false)).getD t else t)
      (fun h t => match t.gate h false with
        | .ok => (match place t with
          | some loc => if payload = [] then t.respond h 6 [] else (t.endEarly l).beginWrite l hdr loc payload true
          | none => t.turnAway l h true .refused)
        | g => t.turnAway l h true g))

/-- STOLRUS_READ_REQUEST (R380): the reply holds the 64-byte line of the address. -/
def execEvStolrusReadRequest (l : Nat) (hdr : BitVec 128) (payload : List Byte) (tag : BitVec 64) (s : State) : Out :=
  .next (if (readHdr hdr).type ≠ 2 then s
    else s.peerRequest l hdr payload tag ((readHdr hdr).addr / 64 * 64) 64 id
      (fun h t =>
        let a := h.addr / 64 * 64
        match t.gate h false, t.outsideSpace a 64 with
        | .ok, some sp =>
          if (t.dataError (t.outsideDev a) ⟨sp, a⟩ 64 false).isSome then t.turnAway l h false .refused
          else t.respond h 3 (t.pocBytes sp a 64)
        | .ok, none => t.turnAway l h false .refused
        | g, _ => t.turnAway l h false g))

/-- The operation of an atomic request, from its op field and payload (R380): operand in bytes 0 .. 7, a second one in 8 .. 15. -/
def requestOp (h : PktHdr) (payload : List Byte) : Option AtomicOp :=
  let b := BitVec.ofNat 64 (bytesAt payload 0 8)
  let x := BitVec.ofNat 64 (bytesAt payload 8 8)
  let f := h.op / 32 % 8
  let m := h.op % 32
  let w := if m % 2 = 1 then 4 else 8
  let a := h.addr
  match h.op / 256 with
  | 0 => some (.rmw ([RmwOp.add, .and, .or, .xor, .min, .max, .minn, .maxn].getD f .add) w b)
  | 1 =>
    match f with
    | 0 => some (.rmw .swap w b)
    | 1 => some (.rmw (.cas x) w b)
    | 2 | 4 => some (.rmw .fadd 4 b)
    | 3 => some (.rmw (redOp (m / 2)) w b)
    | 5 => some (.post (bits b 9 0) (bits b 63 32) x (a + 64) (a + 128) (a + 192 + 8 * bits b 9 0))
    | 6 => some (.nbctl b (a + 64) (a + 128))
    | _ => none
  | _ => none

/-- STOLRUS_ATOMIC_REQUEST (R376, R381): the request goes on to its home, where ATOMIC_PERFORM performs it and answers the peer. -/
def execEvStolrusAtomicRequest (l : Nat) (hdr : BitVec 128) (payload : List Byte) (tag : BitVec 64) (s : State) : Out :=
  .next (if (readHdr hdr).type ≠ 4 then s
    else s.peerRequest l hdr payload tag (readHdr hdr).addr 8 id
      (fun h t => match t.gate h true, requestOp h payload, t.outsideSpace h.addr 8 with
        | .ok, some op, some sp => t.sendIn ⟨0, 0, 0, op, 0#64, .peer l hdr⟩ ⟨sp, h.addr⟩
        | .ok, _, _ => t.turnAway l h false .refused
        | g, _, _ => t.turnAway l h false g))

/-! ## Replies to this panel's requests (R378, R381) -/

/-- The request identifier of an instruction's request to a peer (R380). -/
def requestTag (id : Nat) : Nat := id % 4096

/-- The location lies in peer p's memory. -/
def Loc.atPeer (l : Loc) (p : Nat) : Bool := match l.space with | .peer _ _ => locPeer l.at_ == p | _ => false

/-- The post-queue entry of a request to peer p with a tag: core, context and position. -/
def State.requestOf (s : State) (p tag : Nat) : Option (Nat × Nat × Nat) :=
  s.ctxs.findSome? (fun c =>
    (c.2.post.zipIdx.find? (fun e => requestTag e.1.id == tag && e.1.loc.atPeer p &&
      (match e.1.kind with | .load _ none | .atomic _ _ | .sent _ _ => true | _ => false))).map (fun e => (c.1 / 16, c.1 % 16, e.2)))

/-- The core path's write to peer p with a tag: core and position. -/
def State.writeOf (s : State) (p tag : Nat) : Option (Nat × Nat) :=
  s.cores.findSome? (fun c =>
    (c.2.path.zipIdx.find? (fun w => requestTag w.1.id == tag && w.1.loc.atPeer p)).map (fun w => (c.1, w.2)))

/-- The request in the fabric to which an entry of a core's post queue belongs, alone or merged. -/
def State.looseOf (s : State) (c k id : Nat) : Option Req :=
  s.reqs.find? (fun r => r.parts.any (fun p => p.from_ == .core && p.h == c && p.k == k && p.id == id))

/-- What a peer's memory holds at a location is what its reply says. -/
def State.learn (s : State) (a : Nat) (bs : List Byte) : State := s.setRaws a bs

/-- STOLRUS_READ_REPLY (R381): the 64-byte line of a load's address. -/
def execEvStolrusReadReply (l : Nat) (hdr : BitVec 128) (payload : List Byte) (tag : BitVec 64) (s : State) : Out :=
  .next (if (readHdr hdr).type ≠ 3 then s
    else s.receiveReply l hdr payload tag
      (fun h t => match t.requestOf h.speer h.tag with
        | some (c, k, n) =>
          match (t.ctx c k).post[n]? with
          | some e => if payload.length = 64 then (t.learn (e.loc.at_ / 64 * 64) payload).loadStep c k n 0 else t
          | none => t
        | none => t))

/-- STOLRUS_ATOMIC_REPLY (R381): the old value of an atomic's bytes; it completes a `post` and an `nbctl` as well, and a request that is on
its own in the fabric. -/
def execEvStolrusAtomicReply (l : Nat) (hdr : BitVec 128) (payload : List Byte) (tag : BitVec 64) (s : State) : Out :=
  .next (if (readHdr hdr).type ≠ 5 then s
    else s.receiveReply l hdr payload tag
      (fun h t => match t.requestOf h.speer h.tag with
        | some (c, k, n) =>
          match (t.ctx c k).post[n]? with
          | some e =>
            (match e.kind with
              | .atomic (.rmw _ w _) rep =>
                if rep = .none then t.performEntry c k n false else (t.learn e.loc.at_ (payload.take w)).performEntry c k n false
              | .atomic _ _ => t.performEntry c k n false
              | .sent op _ =>
                (match t.looseOf c k e.id with
                | some r => (match op with | .rmw _ w _ => t.learn e.loc.at_ (payload.take w) | _ => t).performLoose r.id
                | none => t)
              | _ => t)
          | none => t
        | none => t))

/-- STOLRUS_WRITE_ACKNOWLEDGEMENT (R381): the write has performed at the peer. -/
def execEvStolrusWriteAcknowledgement (l : Nat) (hdr : BitVec 128) (payload : List Byte) (tag : BitVec 64) (s : State) : Out :=
  .next (if (readHdr hdr).type ≠ 6 then s
    else s.receiveReply l hdr payload tag
      (fun h t => match t.writeOf h.speer h.tag with
        | some (c, n) => t.pathPerform c n
        | none => t))

/-- STOLRUS_REFUSAL (R378): a load or atomic takes MCHK, each constituent of a merged one; a store is discarded. -/
def execEvStolrusRefusal (l : Nat) (hdr : BitVec 128) (payload : List Byte) (tag : BitVec 64) (s : State) : Out :=
  .next (if (readHdr hdr).type ≠ 7 then s
    else s.receiveReply l hdr payload tag
      (fun h t => match t.requestOf h.speer h.tag, t.writeOf h.speer h.tag with
        | some (c, k, n), _ =>
          match (t.ctx c k).post[n]? with
          | some e =>
            (match e.kind, t.looseOf c k e.id with
            | .sent _ _, some r => ({ t with reqs := t.reqs.filter (fun x => x.id != r.id) } : State).failReq r 5 e.loc.at_
            | .sent _ _, none => t
            | _, _ => t.killOut c k e.id (BitVec.ofNat 64 (t.backVa c e.loc)) 5#64)
          | none => t
        | none, some (c, n) =>
          match (t.core c).path[n]? with
          | some w => (t.modCore c (fun y => { y with path := y.path.eraseIdx n })).refusedWrite c w.k w.loc
          | none => t
        | none, none => t))

/-- STOLRUS_UNKNOWN_TYPE (R380): discarded and logged. -/
def execEvStolrusUnknownType (l : Nat) (hdr : BitVec 128) (payload : List Byte) (tag : BitVec 64) (s : State) : Out :=
  .next (if 1 ≤ (readHdr hdr).type ∧ (readHdr hdr).type ≤ 7 then s
    else s.receive l hdr payload tag id (fun h t => t.logRefusal l h 8))

/-! ## Retransmission and loss of lanes (R382, R383) -/

/-- The first n unacknowledged packets of link l are acknowledged, and packets that waited are sent in their place. -/
def State.ackPackets (s : State) (l n : Nat) : State :=
  let k := s.link l
  let un := k.unacked.drop n
  let more := k.held.take (256 - un.length)
  more.foldl (fun t b => t.emit (.packet l b)) (s.setLink l { k with unacked := un ++ more, held := k.held.drop more.length })

/-- STOLRUS_RETRANSMIT (R382): the receiver on link l has acknowledged n packets; the others are sent again in order. -/
def execEvStolrusRetransmit (l n : Nat) (s : State) : Out :=
  let k := s.link l
  .next (if k.lanes = 0 then s
    else ((k.unacked.drop n).foldl (fun t b => t.emit (.packet l b)) s).ackPackets l n)

/-- The width code of `rsum` (R424). -/
def widthCode (lanes : Nat) : Nat :=
  match lanes with
  | 16 => 3
  | 8 => 2
  | 4 => 1
  | _ => 0

/-- A bandwidth-change event goes to every dispatcher and to the log (R383, R426). -/
def State.bandwidth (s : State) (l lanes : Nat) : State :=
  let w := BitVec.ofNat 64 (l + widthCode lanes * 256)
  { s.logEvent (if lanes = 0 then 7 else 6) (80 + l / 8) 0 w with bwevents := s.bwevents ++ [w] }

/-- A packet that was sent, on another link: with that link's next sequence number, and its tag over the new header (R380, R383). -/
def State.sendAgain (s : State) (b : List Byte) : State :=
  s.sendPacket (readHdr (BitVec.ofNat 128 (leNat (b.take 16)))) ((b.take (b.length - 8)).drop 16)

/-- A link is down: its packets are sent again, in order, over the alternate link of their peers, where there is one. -/
def State.linkDown (s : State) (l : Nat) : State :=
  let k := s.link l
  (k.unacked ++ k.held).foldl State.sendAgain (s.setLink l { seq := k.seq, expect := k.expect })

/-- LINK_LANE_LOSS (R383): a lane of link l fails. -/
def execEvLinkLaneLoss (l : Nat) (s : State) : Out :=
  let k := s.link l
  .next (match k.lanes with
    | 0 => s
    | 16 => (s.setLink l { k with lanes := 8 }).bandwidth l 8
    | 8 => (s.setLink l { k with lanes := 4 }).bandwidth l 4
    | _ => (s.linkDown l).bandwidth l 0)

end Sys2Proof.Machine
end

