-- ==== Sys2Proof/Machine/Datagrams.lean ====
section
/-! DEFINITION. The receiving side of scale-out, acknowledgements and timers (R415 .. R418), and host accesses by CXL.mem (R413). -/

namespace Sys2Proof.Machine

/-! ## Receiving DATA (R418) -/

/-- Where a part of a segment is written, or the NAK code of its failure: 2 translation, 3 permission, 4 uncorrectable error. -/
def State.segmentPart (s : State) (dev c : Nat) (p : Nat × Nat) : Except Nat (Loc × Nat) :=
  match (if NW ≤ p.1 then Walk.fatal 0 0#64 else s.walk dev (s.ctlReg (dctxRec dev c)).toNat p.1) with
  | .leaf e lvl =>
    let l : Loc := ⟨leafSpace dev e, leafKey e lvl p.1⟩
    if permReason e { wr := true } false ≠ 0 then .error 3
    else if s.writeLost dev l p.2 then .error 4 else .ok (l, p.2)
  | .mchk _ => .error 4
  | _ => .error 2

/-- Where a segment is written, or the code of its first failure. -/
def State.segmentAt (s : State) (dev c va n : Nat) : Except Nat (List (Loc × Nat)) := (pageParts va n).mapM (s.segmentPart dev c)

/-- Every segment's place with its bytes, or the first failure's code. -/
def State.segmentsAt (s : State) (dev c : Nat) : List (Nat × List Byte) → Except Nat (List (Loc × List Byte))
  | [] => .ok []
  | x :: xs => do
    let ps ← s.segmentAt dev c x.1 x.2.length
    let rest ← s.segmentsAt dev c xs
    .ok (deal ps x.2 ++ rest)

/-- A DATA datagram of the expected number (R416, R418): its granules land one by one (R146). One that fails is reported before its
number is passed over, so that the NAK names the highest psn performed; the rest of its SEND is dropped and acknowledged. -/
def State.performDg (s : State) (n c : Nat) (h : DgHdr) (segs : List (Nat × List Byte)) : State :=
  let ch := s.chan n c
  let first := h.flags % 2 == 1
  if ch.drop && !first then s.acceptDg n c
  else
    let s0 := s.setChan n c { ch with drop := false }
    let places : Except Nat (List (Loc × List Byte)) := match s.boundTo n (s.chanDctx n c) with
      | some (dev, dc) => s0.segmentsAt dev dc segs
      | none => .error 2
    match places with
    | .ok ps =>
      let s0 : State := match s.boundTo n (s.chanDctx n c) with
        | some (dev, dc) => s0.unitUsed dev dc (segs.flatMap (fun x => [x.1, x.1 + x.2.length - 1]))
        | none => s0
      s0.setChan n c { s0.chan n c with
        landing := ps.flatMap (fun p => (deal (granules (p.1, p.2.length)) p.2).map (fun q => ⟨none, q.2, q.1⟩)) }
    | .error code =>
      let s1 := s0.reply n c 3 code h.piece
      (s1.setPsn n c (s1.sendPsn n c) (s1.recvPsn n c + 1)).setChan n c
        { s1.chan n c with drop := decide (h.flags / 2 % 2 = 0), gap := false }

/-- A received datagram's header and segments: its frame is for the engine that it names, its UDP checksum passes, and it has the
type (R415, R417). -/
def State.received (s : State) (type : Nat) (f : InFrame) (udpOk : Bool) : Option (DgHdr × List (Nat × List Byte)) :=
  (readDg f.frame.payload).filter (fun x =>
    udpOk && x.1.type == type && decide (x.1.deng < 128) && s.frameFor f.port x.1.deng f.frame)

/-- DATAGRAM_DATA (R418): a frame at a scale-out port, with whether its UDP checksum passes. A datagram that the channel still performs
is performed whole first. -/
def execEvDatagramData (f : InFrame) (udpOk : Bool) (s : State) : Out :=
  .next (match s.received 1 f udpOk with
    | some (h, segs) =>
      let n := h.deng
      let c := h.dchan
      let s := s.landAll n c
      if !s.chanEn n c then s.reply n c 3 5 0
      else if h.psn = s.recvPsn n c then s.performDg n c h segs
      else if (h.psn + 2 ^ 24 - s.recvPsn n c) % 2 ^ 24 < 2 ^ 23 ∧ (s.chan n c).gap = false then
        (s.setChan n c { s.chan n c with gap := true }).reply n c 3 1 0
      else s
    | none => s)

/-! ## Acknowledgements (R418) -/

/-- The datagrams up to a number are acknowledged: that is progress, from which the resends of the others count, and datagrams that wait
are sent in their place (R418). -/
def State.acked (s : State) (n c ack : Nat) : State :=
  let ch := s.chan n c
  let left := ch.unacked.filter (fun d => !decide ((ack + 2 ^ 24 - d.psn) % 2 ^ 24 < 2 ^ 23))
  (s.setChan n c { ch with
    unacked := if left.length = ch.unacked.length then left else left.map (fun d => { d with tries := 0 }) }).pump n c

/-- DATAGRAM_ACK (R418). -/
def execEvDatagramAck (f : InFrame) (udpOk : Bool) (s : State) : Out :=
  .next (match s.received 2 f udpOk with
    | some (h, _) => s.acked h.deng h.dchan h.ack
    | none => s)

/-- Every packet of a channel that has not finished ends NETFAIL, at the first piece not wholly acknowledged. -/
def State.endSends (s : State) (n c : Nat) : State :=
  let ch := s.chan n c
  let un := ch.unacked.map (fun d => (d.job, d.piece)) ++ ch.waiting.map (fun d => (d.job, d.piece))
  { s with jobs := s.jobs.map (fun j =>
      if j.engine = n ∧ j.chan = c ∧ j.code = 3 ∧ (j.status.isNone ∨ un.any (fun d => d.1 == j.id)) then
        { j with status := some (7, ((un.filter (fun d => d.1 == j.id)).map Prod.snd).foldl min j.piece) }
      else j) }

/-- A channel fails. -/
def State.channelFails (s : State) (n c : Nat) : State :=
  let w := s.chanWord n c
  ((s.endSends n c).setCtl (chanRec n c + 0x10) ((w &&& ~~~0x1_0000_0000#64) ||| 0x4_0000_0000#64)).setChan n c
    { s.chan n c with unacked := [], waiting := [] }

/-- Everything unacknowledged is sent again, or the channel fails after sixteen resends of its oldest datagram without progress. -/
def State.retry (s : State) (n c : Nat) : State :=
  match (s.chan n c).unacked with
  | [] => s
  | d :: _ => if 16 ≤ d.tries then s.channelFails n c else s.resend n c

/-- The SEND whose datagram failed, the one after the highest that was performed, ends at the piece that the NAK names, and that
datagram is not sent again. -/
def State.sendFails (s : State) (n c ack status piece : Nat) : State :=
  match (s.chan n c).unacked.find? (fun d => d.psn == (ack + 1) % 2 ^ 24) with
  | none => s
  | some d =>
    let ch := s.chan n c
    let s1 := (s.setChan n c { ch with waiting := ch.waiting.filter (fun x => x.job != d.job) }).acked n c ((ack + 1) % 2 ^ 24)
    { s1 with jobs := s1.jobs.map (fun j => if j.id = d.job then { j with status := some (status, piece) } else j) }

/-- DATAGRAM_NAK (R418). -/
def execEvDatagramNak (f : InFrame) (udpOk : Bool) (s : State) : Out :=
  .next (match s.received 3 f udpOk with
    | some (h, _) =>
      match h.code with
      | 1 => (s.acked h.deng h.dchan h.ack).retry h.deng h.dchan
      | 2 | 3 => s.sendFails h.deng h.dchan h.ack 1 h.piece
      | 4 => s.sendFails h.deng h.dchan h.ack 6 h.piece
      | _ => s.channelFails h.deng h.dchan
    | none => s)

/-- SCALEOUT_ACK_TIMER (R418): channel c of engine n has owed an acknowledgement for 10,000 ticks. -/
def execEvScaleoutAckTimer (n c : Nat) (s : State) : Out :=
  let ch := s.chan n c
  .next (if ch.owed ≠ 0 ∧ 10000 ≤ s.ticksSince n ch.since then (s.setChan n c { ch with owed := 0 }).reply n c 2 0 0 else s)

/-- SCALEOUT_RESEND_TIMER (R418): the oldest datagram of channel c of engine n has waited 100,000 ticks. -/
def execEvScaleoutResendTimer (n c : Nat) (s : State) : Out :=
  .next (match (s.chan n c).unacked with
    | d :: _ => if 100000 ≤ s.ticksSince n d.time then s.retry n c else s
    | [] => s)

/-- A word of a channel record is written, which clears the state and the fail bit (R415); a SEND that is not wholly acknowledged then
ends NETFAIL (DESIGN CHOICE, log entry 56). -/
def State.writeChannel (s : State) (n c off : Nat) (w : Word) : Option State :=
  let a := chanRec n c + off
  let bad := match off with
    | 0x10 => bits w 39 35 != 0 || bits w 47 40 != 0 || w.getLsbD 34 || decide (128 ≤ bits w 23 16)
    | 0x00 | 0x08 => false
    | _ => w != 0#64
  if bad then none
  else
    let s1 := if off = 0x18 ∨ 0x20 ≤ off then s.endSends n c else (s.endSends n c).setCtl a w
    some (((s1.setCtl (chanRec n c + 0x18) 0).setCtl (chanRec n c + 0x10) (s1.chanWord n c &&& ~~~0x4_0000_0000#64)).setChan n c {})

/-- CHANNEL_RECORD_WRITE (R415): the owner writes the word at an offset of the record of channel c of engine n. -/
def execEvChannelRecordWrite (link n c off : Nat) (w : Word) (s : State) : Out :=
  .next (s.ownerWrite link (chanRec n c + off)
    (if n < 128 ∧ c < 256 ∧ off % 8 = 0 ∧ off < 0x40 then s.writeChannel n c off w else none))

/-- CXL_MEM_HOST_ACCESS (R413): the host writes bytes of device memory, or reads (no bytes), at the line's home; after a failed start
nothing answers (R421), and a write that cannot reach its home is discarded (R409; DESIGN CHOICE, log entry 36). -/
def execEvCxlMemHostAccess (a : Nat) (b : List (BitVec 8)) (s : State) : Out :=
  .next (if s.startState ≠ 2 ∧ a + b.length ≤ 2 ^ 43 ∧ (s.lostByte (s.outsideDev a) ⟨.device 1, a⟩ b.length).isNone then
    s.putPoc (.device 1) a b else s)

end Sys2Proof.Machine
end

