-- ==== Sys2Proof/Machine/Management.lean ====
section
/-! DEFINITION. Starting, owning and recovering the panel (R419 .. R428), partition modes and near store (R406 .. R411), and writes
to control space (R436). -/

namespace Sys2Proof.Machine

/-! ## Starts (R420, R421) -/

/-- `startst` with these fields. -/
def startWord (state step kind wfail live : Nat) : Word :=
  BitVec.ofNat 64 (live * 2 ^ 16 + wfail * 2 ^ 10 + kind * 2 ^ 8 + step * 2 ^ 4 + state)
/-- Its fields. -/
def State.startKind (s : State) : Nat := bits s.startst 9 8
def State.wfail (s : State) : Nat := bits s.startst 11 10

/-- The live C-dies of the die map. -/
def State.liveDies (s : State) : Nat := ((List.range 64).filter s.dieLive).length
/-- The step that runs, or that failed. -/
def State.startStepNo (s : State) : Nat := bits s.startst 7 4

/-- The contents of some of the panel's memories are lost. -/
def State.loseParts (s : State) (ds : List Nat) : State :=
  { s with nsEra := ds.foldl (fun m d => SMap.put m d (SMap.get m 0 d + 1)) s.nsEra }

/-- The registers that a start keeps: the management block, and on a warm start the mode, the near-store sizes and the panel's
number. -/
def startKeeps (warm : Bool) (a : Nat) : Bool :=
  decide (mgmt 0 ≤ a ∧ a < mgmt 0x10_0000)
    || (warm && (a == pmodeAddr || a == peeridAddr || (List.range 64).any (fun d => a == dieBlock d + 0x920)))

/-- A start begins: everything of the panel but its memories, its management block and, when it is warm, its clock and die map is at
reset; the die map is empty until step 2 of a cold start has made it. Host and peer memory are not the panel's. -/
def State.begun (s : State) (warm : Bool) : State :=
  let r := State.reset
  { r with
    mem := s.mem.filter (fun p => decide (p.1 < 2 ^ 70))
    poison := if warm then s.poison.filter (fun p => decide (p.1 < 2 ^ 67)) else s.poison.filter (fun p => (memPart (8 * p.1)).isNone)
    nsEra := s.nsEra
    dies := if warm then (s.dies.filter (fun p => p.2.dead)).map (fun p => (p.1, { dead := true }))
      else (List.range 64).map (fun d => (d, { dead := true }))
    images := if warm then s.images else []
    flash := s.flash, flashMc := s.flashMc
    ctl := s.ctl.filter (fun p => startKeeps warm p.1)
    log := s.log, logw := s.logw, failed := s.failed, errC := s.errC, errU := s.errU, captures := s.captures
    attq := s.attq, attrep := s.attrep, outputs := s.outputs, peerDeny := s.peerDeny, agenda := s.agenda, serial := s.serial
    dclk := if warm then s.dclk else []
    ports := s.ports }

/-- Every memory of the panel. -/
def allParts : List Nat := List.range 65

/-- A cold start begins (R420); only its result changes wfail (R421). -/
def State.cold (s : State) : State := ((s.begun false).loseParts allParts).setCtl (mgmt 8) (startWord 0 1 1 s.wfail 0)

/-- POWER_ON (R420): a cold start of a panel that holds nothing. -/
def execEvPowerOn (s : State) : Out :=
  let r := State.reset
  .next (({ r with
    mem := s.mem.filter (fun p => (memPart p.1).isNone && decide (p.1 < 2 ^ 70)), nsEra := s.nsEra, outputs := s.outputs
    dies := (List.range 64).map (fun d => (d, { dead := true })), flash := s.flash, flashMc := s.flashMc
    peerDeny := s.peerDeny, agenda := s.agenda, serial := s.serial } : State).loseParts allParts |>.setCtl (mgmt 8) (startWord 0 1 1 0 0))

/-- A `startcmd` write by the owner (R419, R421): none while a start runs. -/
def State.startCmd (s : State) (w : Word) : Option State :=
  if s.startState = 0 then none
  else if w = 1#64 then some s.cold
  else if w = 2#64 then
    if s.wfail = 2 then some s.cold
    else some ((s.begun true).setCtl (mgmt 8) (startWord 0 1 2 s.wfail (s.begun true).liveDies))
  else none

/-- COLD_START (R420). -/
def execEvColdStart (link : Nat) (s : State) : Out := .next (s.ownerWrite link (mgmt 0) (s.startCmd 1#64))
/-- WARM_START (R420, R421). -/
def execEvWarmStart (link : Nat) (s : State) : Out := .next (s.ownerWrite link (mgmt 0) (s.startCmd 2#64))

/-- The remap entry of die slot p (R410), for a device's dies and its live ones. -/
def remapEntry (ds live : List Nat) (p : Nat) : Word :=
  let m := live.length
  let j := ((ds.take (ds.idxOf p)).filter (fun d => !live.contains d)).length
  let at_ (i : Nat) : Nat := live.getD (i % m) 0
  if live.contains p then BitVec.ofNat 64 p
  else if 2 ^ Nat.log2 m = m then BitVec.ofNat 64 (at_ j)
  else BitVec.ofNat 64 (2 ^ 16 + at_ (2 * j + 1) * 2 ^ 8 + at_ (2 * j))

/-- Firmware's hash and remap setup (R408 .. R410): the masks are firmware's own choice, each cut to its field. -/
def State.setHash (s : State) (masks : List Word) (dev : Nat) : State :=
  let ds := s.diesOf dev
  let live := ds.filter s.dieLive
  let top := match s.pmode with | 0 => 10 | 1 => 9 | _ => 4
  let cut (i : Nat) : Word := if i < top ∨ i = 10 then BitVec.ofNat 64 (bits (masks.getD i 0#64) 51 6 * 64) else 0#64
  let s1 := (List.range 11).foldl (fun t i => t.setCtl (hashBlock dev + 8 * i) (cut i)) s
  if live = [] then s1
  else (ds.zipIdx).foldl (fun t p => t.setCtl (hashBlock dev + 0x100 + 8 * p.2) (remapEntry ds live p.1)) s1

/-- The dies that a failed die or switch die takes with it (R420). -/
def diesUnder (x : Nat) : List Nat :=
  if x < 64 then [x] else if x < 80 then (List.range 64).filter (fun d => 64 + leafOf d == x) else []

/-- The dies that a start marks dead: those that a cold start's tests find, those of the die map that a warm start has saved, and those
that failed at run time. -/
def State.deadDies (s : State) (dead : BitVec 64) : List Nat :=
  (List.range 64).filter (fun d =>
    (if s.startKind = 2 then (s.die d).dead else dead.getLsbD d) || (s.failed.flatMap diesUnder).contains d)

/-- The die map with these dies dead. -/
def State.setMap (s : State) (ds : List Nat) : State :=
  { s with dies := (List.range 64).filterMap (fun d => if ds.contains d then some (d, { dead := true }) else none) }

/-- An image is accepted (R422). -/
def Firmware.accepted (f : Firmware) : Bool :=
  f.keySha == Config.keyHash && f.digest == f.sha && f.signed && decide (Config.minVersion ≤ f.version)

/-- Step 5 accepts the images that it finds. -/
def State.imagesOk (s : State) : Bool := s.flash.accepted && s.flashMc.accepted

/-- A spine switch die or an I/O die has failed: the start fails (R420). -/
def State.spineFailed (s : State) : Bool := s.failed.any (fun x => decide (80 ≤ x))

/-- The tests of step 2 fail the start: a spine or an I/O die has failed, or no C-die is live. -/
def State.testsFail (s : State) (ds : List Nat) : Bool := s.spineFailed || ds.length == 64

/-- Firmware's hash and remap setup for every device (step 6). -/
def State.setHashes (s : State) (masks : List Word) : State := (List.range s.devices).foldl (fun t k => t.setHash masks k) s

/-- `startst` names the next step, with the live dies of the map. -/
def State.nextStepWord (s : State) (n : Nat) : State :=
  s.setCtl (mgmt 8) (startWord 0 (n + 1) s.startKind s.wfail (if n = 1 ∧ s.startKind ≠ 2 then 0 else s.liveDies))

/-- The step ends and the next one runs: step 2 makes the die map from what its tests found, and step 6 sets the hash and the remap. A
failure of step 2's tests and refused images hold the start at steps 2 and 5, where it then only fails. -/
def State.nextStep (s : State) (dead : BitVec 64) (masks : List Word) : State :=
  let n := s.startStepNo
  let ds := s.deadDies dead
  if s.startState ≠ 0 ∨ n = 0 ∨ 7 ≤ n ∨ (n = 2 ∧ s.testsFail ds) ∨ (n = 5 ∧ !s.imagesOk) then s
  else (if n = 2 then s.setMap ds else if n = 6 then s.setHashes masks else s).nextStepWord n

/-- The link is up: a port that has trained, or the management controller's sideband. -/
def State.linkUp (s : State) (link : Nat) : Bool := link == 8 || SMap.get s.ports 0 link != 0

/-- The owner changes: to a link, or to none. -/
def State.setOwner (s : State) (link : Option Nat) : State :=
  let e := (bits s.ownerReg 15 8 + 1) % 256
  let s1 := s.setCtl (mgmt 0x10) (BitVec.ofNat 64 (e * 256 + (match link with | some l => 16 + l | none => 0)))
  s1.logEvent 10 (linkSource (link.getD (bits s.ownerReg 3 0))) 0 0

/-- The owner's link no longer holds: the panel has no owner when that link is a port that is down (R423). -/
def State.checkOwner (s : State) : State :=
  if s.owned && !s.linkUp (bits s.ownerReg 3 0) then s.setOwner none else s

/-- A start is ready. -/
def State.startReady (s : State) (lanes ports : List Nat) : State :=
  let width (x : Nat) : Nat := if x = 16 ∨ x = 8 ∨ x = 4 then x else 0
  let s1 : State := { s with
    links := (List.range 32).map (fun l => (l, { lanes := width (lanes.getD l 0) }))
    ports := (List.range 8).map (fun i => (i, width (ports.getD i 0)))
    booted := s.flash, bootedMc := s.flashMc
    failed := [] }
  (s1.setCtl (mgmt 8) (startWord 1 7 (max 1 s.startKind) 0 s1.liveDies)).checkOwner

/-- A start fails at the step that runs, with its die map: at step 2 what the tests found. -/
def State.startFails (s : State) (ds : List Nat) : State :=
  let s1 := if s.startStepNo = 2 then s.setMap ds else s
  s1.setCtl (mgmt 8) (startWord 2 s.startStepNo (max 1 s.startKind) (if s.startKind = 2 then s.wfail + 1 else 0)
    (if s.startStepNo = 1 ∧ s.startKind ≠ 2 then 0 else s1.liveDies))

/-- START_FINISH (R420, R421): the start that runs fails at a step, or after step 7 is ready with the widths to which the links and ports
trained. `dead` is what the tests of a start that fails at step 2 found; a failed spine or I/O die or no live die is a failure there, and
images that are refused one at step 5. The map and the hash of a start that is ready were set by its steps 2 and 6, so that `masks` has no
part (DEDUCED, log entry 3). -/
def execEvStartFinish (fail : Nat) (dead : BitVec 64) (_masks : List (BitVec 64)) (lanes ports : List Nat) (s : State) : Out :=
  let ds := s.deadDies dead
  let n := s.startStepNo
  .next (if s.startState ≠ 0 then s
    else if fail ≠ 0 then (if fail = n then s.startFails ds else s)
    else if n = 2 ∧ s.testsFail ds ∨ n = 5 ∧ !s.imagesOk then s.startFails ds
    else if n = 7 then s.startReady lanes ports
    else s)

/-! ## Ownership (R423) -/

/-- OWNCLAIM (R423): claims with the word w taken in one cycle from these links. -/
def execEvOwnclaim (links : List Nat) (w : Word) (s : State) : Out :=
  let up := links.filter (fun l => decide (l ≤ 8) && s.linkUp l)
  .next (match up with
    | [] => s
    | l :: ls =>
      if w ≠ 0xC1A1_0000_0000_0000#64 then s.discard (ls.foldl min l) (mgmt 0x18)
      else if s.owned then s
      else s.setOwner (some (ls.foldl min l)))

/-- OWNXFER (R423); to the owner's own link nothing changes. -/
def execEvOwnxfer (link : Nat) (w : Word) (s : State) : Out :=
  .next (s.ownerWrite link (mgmt 0x20)
    (if 8 < w.toNat then none
      else if w.toNat = link then some s
      else some (s.setOwner (if s.linkUp w.toNat then some w.toNat else none))))

/-- OWNER_LINK_DOWN (R423): a port that is the owner's link goes down. -/
def execEvOwnerLinkDown (s : State) : Out :=
  let l := bits s.ownerReg 3 0
  .next (if s.owned then ({ s with ports := SMap.del s.ports l } : State).setOwner none else s)

/-! ## The resync summary (R424) -/

/-- Device contexts that are live, over all devices. -/
def State.liveContexts (s : State) : Nat :=
  ((List.range s.devices).map (fun d => ((List.range 256).filter (fun c => s.dctxState d c == 1)).length)).sum

/-- The summary's words from seq on. -/
def State.summary (s : State) : List Word :=
  let sum (n : Nat) (f : Nat → Nat) : Word := BitVec.ofNat 64 ((List.range n).foldl (fun a i => a + f i) 0)
  [BitVec.ofNat 64 s.captures, s.ownerReg, s.startst, s.ctlReg pmodeAddr, sum 64 (fun d => if s.dieLive d then 2 ^ d else 0),
   sum 32 (fun l => widthCode (s.lanesOf l) * 4 ^ l), sum 8 (fun i => widthCode (SMap.get s.ports 0 i) * 4 ^ i),
   BitVec.ofNat 64 s.liveContexts, BitVec.ofNat 64 (s.logw % 2 ^ 32),
   BitVec.ofNat 64 (min s.errC (2 ^ 32 - 1) * 2 ^ 32 + min s.errU (2 ^ 32 - 1))]

/-- RESYNC (R424): a write to `resync`; 1 captures the summary. -/
def execEvResync (link : Nat) (w : Word) (s : State) : Out :=
  .next (if w ≠ 1#64 then s.discard link (mgmt 0x28)
    else
      let s1 : State := { s with captures := s.captures + 1 }
      (s1.summary.zipIdx).foldl (fun t p => t.setCtl (mgmt (0x100 + 8 * p.2)) p.1) s1)

/-! ## Attestation (R427, R428) -/

/-- ATTESTATION_REQUEST (R427): the last word of a nonce is written. -/
def execEvAttestationRequest (nonce : List (BitVec 64)) (s : State) : Out :=
  .next (if nonce.length = 8 then
    { (nonce.zipIdx).foldl (fun t p => t.setCtl (mgmt (0x2_0000 + 8 * p.2)) p.1) s with attq := s.attq ++ [nonce] } else s)

/-- Word i of the nonce is written by any master; the last one requests a report (R419). -/
def State.attnWrite (s : State) (i : Nat) (w : Word) : State :=
  let s1 := s.setCtl (mgmt (0x2_0000 + 8 * i)) w
  if i = 7 then { s1 with attq := s1.attq ++ [(List.range 8).map (fun j => s1.ctlReg (mgmt (0x2_0000 + 8 * j)))] } else s1

/-- The bytes of a report that are fixed in the part: its identity and key; `i` counts from the report's start. -/
def fusedByte (i : Nat) : Byte := Config.fused i
/-- A run of them. -/
def fused (at_ n : Nat) : List Byte := (List.range n).map (fun i => fusedByte (at_ + i))

/-- The part of a report that is signed (R428). -/
def State.reportBody (s : State) (nonce : List Word) : List Byte :=
  nonce.flatMap (fun w => leBytes 8 w.toNat) ++ leBytes 64 s.booted.sha.toNat ++ leBytes 64 s.bootedMc.sha.toNat
    ++ fused 0xC0 32 ++ leBytes 8 s.booted.version ++ leBytes 8 ((List.range 64).foldl (fun a d => a + if s.dieLive d then 2 ^ d else 0) 0)
    ++ leBytes 8 (s.ctlReg pmodeAddr).toNat ++ leBytes 8 s.ownerReg.toNat ++ fused 0x100 2592

/-- A report without the zeros at its end. -/
def State.report (s : State) (nonce : List Word) : List Byte :=
  let b := s.reportBody nonce
  b ++ (List.range 4627).map (Config.sign b)

/-- ATTESTATION_REPORT_READY (R427): the report over the oldest nonce is whole. -/
def execEvAttestationReportReady (s : State) : Out :=
  .next (match s.attq with
    | n :: rest => { s with attq := rest, attrep := s.report n }
    | [] => s)

/-! ## Errors (R425) -/

/-- CORRECTABLE_ERROR (R425): at a unit and an address. -/
def execEvCorrectableError (source : Nat) (a : Word) (s : State) : Out :=
  .next (({ s with errC := s.errC + 1 } : State).logEvent 2 source a 0)

/-- UNCORRECTABLE_NOT_CONSUMED (R425): the granule of a location holds an error. -/
def execEvUncorrectableNotConsumed (source loc : Nat) (s : State) : Out :=
  .next (({ s with errU := s.errU + 1, poison := SMap.put s.poison (loc / 8) true } : State).logEvent 3 source
    (BitVec.ofNat 64 (loc % 2 ^ 52)) 0)

/-- The dies that a failing die or switch die serves: a spine serves all, an I/O die none. -/
def diesServed (x : Nat) : List Nat := if 80 ≤ x ∧ x < 84 then List.range 64 else diesUnder x

/-- A launch has a core on one of the dies, or its device a home line there. -/
def State.touches (s : State) (l : Launch) (ds : List Nat) : Bool :=
  l.chor.any (fun c => ds.contains (c / 32)) ||
    (List.range 64).any (fun i =>
      let e := s.ctlReg (hashBlock l.dev + 0x100 + 8 * i)
      i < (s.diesOf l.dev).length && (ds.contains (bits e 5 0) || (e.getLsbD 16 && ds.contains (bits e 13 8))))

/-- DIE_FAILURE (R425): a die, or a switch die or I/O die by its source number, fails at run time. -/
def execEvDieFailure (x : Nat) (s : State) : Out :=
  let ds := diesServed x
  .next (if (84 ≤ x ∧ x < 96) ∨ 104 ≤ x then s
    else ({ s with
      failed := s.failed ++ [x]
      launches := s.launches.map (fun l => if s.touches l ds then { l with torn := true, stops := [] } else l) } : State).logEvent 11 x 0 0)

/-! ## Partition mode, near store, numbers (R379, R393, R406, R411) -/

/-- Lines whose LLC contents are lost: their bytes are undefined. -/
def State.loseLines (s : State) (lines : List Nat) : State :=
  lines.foldl (fun t n => t.setRaws (n * 64) ((List.range 64).map (fun i => Config.lostByte s.serial (n * 64 + i)))) s

/-- The die whose LLC slice holds a location's line: a device's memory, or its mode-10 copies of host and peer lines (R128). -/
def State.cacheHome (s : State) (dev a : Nat) : Nat := if 2 ^ 52 ≤ a then s.homeDie dev (a % 2 ^ 52) else s.lineHome dev (a / 64)

/-- The LLC contents of the dies that `gone` names are discarded: mode-10 copies, and errors that lay there. -/
def State.dropLlc (s : State) (gone : Nat → Bool) : State :=
  { s with
    devLines := s.devLines.filter (fun p => !gone (s.cacheHome (p.1 / 2 ^ 64) (p.1 % 2 ^ 64 * 64)))
    poison := s.poison.filter (fun p => !(decide (llcKey 0 ≤ 8 * p.1) && decide (8 * p.1 < l1Key 0 0)
      && (List.range s.devices).any (fun dev => gone (s.cacheHome dev (8 * p.1 - llcKey 0))))) }

/-- A context of the device is live. -/
def State.devLive (s : State) (dev : Nat) : Bool := (List.range 256).any (fun c => s.dctxState dev c == 1)

/-- A change of mode loses what the LLC had not written back, and its copies; `lost` are lines of device memory. -/
def State.writePmode (s : State) (w : Word) (lost : List Nat) : State :=
  if s.allFree && decide (w.toNat < 3) then
    if w.toNat = s.pmode then s
    else ({ ((s.loseLines (lost.filter (fun n => decide (n < 2 ^ 37)))).dropLlc (fun _ => true)) with serial := s.serial + 1 } : State).setCtl pmodeAddr
      ((s.ctlReg pmodeAddr &&& 4#64) ||| w)
  else s.setCtl pmodeAddr (s.ctlReg pmodeAddr ||| 4#64)

/-- PMODE_WRITE (R406). -/
def execEvPmodeWrite (link : Nat) (w : Word) (lost : List Nat) (s : State) : Out :=
  .next (s.ownerWrite link pmodeAddr (if bits w 63 2 ≠ 0 then none else some (s.writePmode w lost)))

/-- A change of a die's carve loses its near store and its LLC contents, what was not written back too: `lost` are lines that it
homes. -/
def State.writeNscarve (s : State) (d : Nat) (w : Word) (lost : List Nat) : Option State :=
  let a := dieBlock d + 0x920
  if bits w 63 2 ≠ 0 ∨ 64 ≤ d ∨ s.devLive (s.devOf d) then none
  else if w = s.ctlReg a then some s
  else
    let mine := lost.filter (fun n => decide (n < 2 ^ 37) && s.homeDie (s.devOf d) (n * 64) == d)
    some ((({ ((s.loseLines mine).dropLlc (fun x => x == d)) with serial := s.serial + 1 } : State).loseParts [d]).setCtl a w)

/-- NSCARVE_WRITE (R411). -/
def execEvNscarveWrite (link d : Nat) (w : Word) (lost : List Nat) (s : State) : Out :=
  .next (s.ownerWrite link (dieBlock d + 0x920) (s.writeNscarve d w lost))

/-- PEERID_WRITE (R379). -/
def execEvPeeridWrite (link : Nat) (w : Word) (s : State) : Out :=
  .next (s.ownerWrite link peeridAddr (if bits w 63 9 = 0 ∧ !(List.range s.devices).any s.devLive then some (s.setCtl peeridAddr w) else none))

/-- A write to a die's overflow registers: the home state that it holds, in its engine and in the old area, is dropped first with every
sync copy of its lines, as it must be while the die runs a device context and may be at any time (R142, R392, R393). -/
def State.writeOverflow (s : State) (d off : Nat) (w : Word) : Option State :=
  let ok := if off = 0x900 then bits w 63 52 == 0 && bits w 15 0 == 0 else bits w 63 16 == 0
  if !ok || decide (64 ≤ d) then none
  else
    let s1 := ((s.die d).homes.map Prod.fst ++ (s.die d).ovf).foldl (fun t n => t.dropAll n) s
    some (((s1.setCtl (dieBlock d + off) w)).modDie d (fun e => { e with homes := [], ovf := [] }))

/-- SYNC_OVERFLOW_WRITE (R393): `sovbase`, or `sovsize` when `size` holds. -/
def execEvSyncOverflowWrite (link d : Nat) (size : Bool) (w : Word) (s : State) : Out :=
  let off := if size then 0x908 else 0x900
  .next (s.ownerWrite link (dieBlock d + off) (s.writeOverflow d off w))

/-! ## Writes to a die's supervisor registers (R348, R349) -/

/-- FBCLR_WRITE (R348): by the host. -/
def execEvFbclrWrite (link d : Nat) (w : Word) (s : State) : Out :=
  .next (s.ownerWrite link (dieBlock d + 0xA0) (if 64 ≤ d then none else ((s.die d).fbclr w).map (fun e => s.modDie d (fun _ => e))))

/-- CS_REPLAY_WRITE (R349). -/
def execEvCsReplayWrite (link d : Nat) (_w : Word) (s : State) : Out :=
  .next (s.ownerWrite link (dieBlock d + 0x800) (if 64 ≤ d then none else some (s.replayDie d)))

/-- A `tlbinv` from control space, for the die's running context; the address is the one at offset 0x808. It acts only when no access
translated through a dropped entry is still to perform (R344): until then the write waits, and nothing happens. -/
def State.csTlbinv (s : State) (d : Nat) (w : Word) : Option State :=
  let a := s.ctlReg (dieBlock d + 0x808)
  let dev := s.devOf d
  let dc := (s.die d).dctx.toNat
  let va : Option Nat := if w = 0#64 then some (a.toNat % 2 ^ 52) else none
  if 64 ≤ d ∨ !(w == 0#64 || (w == 1#64 && a == 0#64)) then none
  else if s.framesQuiet dev (s.droppedFrames dev dc va) then some (s.dropTlb dev dc va) else some s

/-- CS_TLBINV_WRITE (R349): the operation register. -/
def execEvCsTlbinvWrite (link d : Nat) (w : Word) (s : State) : Out :=
  .next (s.ownerWrite link (dieBlock d + 0x810) (s.csTlbinv d w))

/-! ## Other control-space writes (R436) -/

/-- A plain register, stored when no bit outside its mask is set. -/
def State.plain (s : State) (a : Nat) (mask w : Word) : Option State := if w &&& ~~~mask = 0#64 then some (s.setCtl a w) else none

/-- A die's block: the fault buffer's selector and thresholds, the service designation, and the address for `tlbinv`. -/
def State.writeDieBlock (s : State) (d off : Nat) (w : Word) : Option State :=
  let a := dieBlock d + off
  if off = 0x88 then (if bits w 63 3 = 0 then some (s.modDie d (fun e => { e with fbsel := w.toNat })) else none)
  else if off = 0xA8 then
    (if w &&& ~~~0x8000_FFFF_0F01_FFF8#64 = 0#64 ∧ bits w 27 24 ≤ 10 then some (s.modDie d (fun e => { e with fbsvc := w })) else none)
  else if 0xC0 ≤ off ∧ off < 0x100 then
    (if bits w 63 32 = 0 then some (s.modDie d (fun e => { e with mthr := SMap.put e.mthr ((off - 0xC0) / 8) w })) else none)
  else if off = 0x808 then some (s.setCtl a w)
  else none

/-- A dispatcher's block: queue registers and the words of free device-context records. -/
def State.writeDispBlock (s : State) (dev off : Nat) (w : Word) : Option State :=
  let a := dispBlock dev + off
  if s.devices ≤ dev then none
  else if 0x1000 ≤ off ∧ off < 0x1000 + 0x40 * s.queueCount then
    match off % 0x40 with
    | 0 => s.plain a (BitVec.ofNat 64 (2 ^ 43 - 2 ^ 12)) w
    | 8 => s.plain a 0xFFFF_0F07#64 w
    | _ => none
  else if 0x8_0000 ≤ off ∧ off < 0x8_0000 + 0x40 * 256 then
    let c := (off - 0x8_0000) / 0x40
    if s.dctxState dev c ≠ 0 then none
    else match off % 0x40 with
      | 0 => s.plain a (BitVec.ofNat 64 (2 ^ 52 - 2 ^ 16)) w
      | 8 => s.plain a (BitVec.ofNat 64 (2 ^ 52 - 2)) w
      | 16 => s.plain a (BitVec.ofNat 64 (2 ^ 43 - 2 ^ 34)) w
      | _ => none
  else none

/-- A hash block (R408), under the same condition as `pmode`. -/
def State.writeHash (s : State) (dev off : Nat) (w : Word) : Option State :=
  let a := hashBlock dev + off
  if s.devices ≤ dev ∨ !s.allFree then none
  else if off ≤ 0x50 then s.plain a (BitVec.ofNat 64 (2 ^ 52 - 2 ^ 6)) w
  else if 0x100 ≤ off ∧ off < 0x300 then s.plain a 0x1_3F3F#64 w
  else none

/-- The owner's write to a register with no event of its own: none where no rule names the address or the rule is broken. -/
def State.writePlain (s : State) (a : Nat) (w : Word) : Option State :=
  let r (lo : Nat) : Nat := a - lo
  if a % 8 ≠ 0 then none
  else if dieBlock 0 ≤ a ∧ a < dieBlock 64 then s.writeDieBlock (r (dieBlock 0) / 0x1_0000) (r (dieBlock 0) % 0x1_0000) w
  else if dispBlock 0 ≤ a ∧ a < dispBlock 64 then s.writeDispBlock (r (dispBlock 0) / 0x10_0000) (r (dispBlock 0) % 0x10_0000) w
  else if bindAt 0 0 ≤ a ∧ a < bindAt 128 0 then
    if 0x100 ≤ r (bindAt 0 0) % 0x1000 then none
    else if a % 16 = 0 then s.plain a (BitVec.ofNat 64 (2 ^ 52 - 2 ^ 6)) w
    else if w &&& ~~~0xFFFF_0000_0000_0001#64 = 0#64 then some (s.setCtl a w) else none
  else if routeAddr 0 ≤ a ∧ a < routeAddr 256 then s.plain a 0x9FFF#64 w
  else if hashBlock 0 ≤ a ∧ a < hashBlock 64 then s.writeHash (r (hashBlock 0) / 0x1000) (r (hashBlock 0) % 0x1000) w
  else if 0x0_F000_0A80_0000 ≤ a ∧ a < 0x0_F000_0A80_0000 + 0x1000 then
    match r 0x0_F000_0A80_0000 % 0x100 with
    | 0 | 0x10 | 0x18 => some (s.setCtl a w)
    | 8 => s.plain a 0xFFFF_FFFF#64 w
    | 0x20 => s.plain a 0xFFFF#64 w
    | 0x28 | 0x30 | 0x38 => s.plain a 0#64 w
    | _ => none
  else none

/-- CONTROL_SPACE_WRITE (R436): a write over a link to an address of control space that has no event of its own; a word of `attn` by any
master (R423). -/
def execEvControlSpaceWrite (link a : Nat) (w : Word) (s : State) : Out :=
  .next (if a % 8 = 0 ∧ mgmt 0x2_0000 ≤ a ∧ a < mgmt 0x2_0040 then s.attnWrite ((a - mgmt 0x2_0000) / 8) w
    else s.ownerWrite link a (s.writePlain a w))

/-! ## Reads of control space

No event of the table reads control space and no read changes anything (R436), so what a link reads is a function of the state. -/

/-- A die's block, from the fault buffer's registers to the carve of the near store; none for a write-only register whose reading no
rule gives. -/
def State.readDieBlock (s : State) (d off : Nat) : Option Word :=
  if off < 0x100 then some (s.readCsr (chorusCore (32 * d) 0) 0 (0x100 + off / 8))
  else if off = 0x800 ∨ off = 0x810 then none
  else some (s.ctlReg (dieBlock d + off))

/-- A dispatcher's block, of a device that exists (R358 .. R360). -/
def State.readDispBlock (s : State) (dev off : Nat) : Option Word :=
  let inQueue : Bool := decide (0x1000 ≤ off ∧ off < 0x1000 + 0x40 * s.queueCount)
  let inRecord : Bool := decide (0x8_0000 ≤ off ∧ off < 0x8_0000 + 0x40 * 256)
  if s.devices ≤ dev then some 0#64
  else if off = 0 then some (SMap.get s.dclk 0#64 dev)
  else if off = 0x100 ∨ off = 0x200 then none
  else if (0x108 ≤ off ∧ off ≤ 0x118) ∨ inQueue ∨ inRecord then some (s.ctlReg (dispBlock dev + off))
  else some 0#64

/-- Eight bytes of the report, whose unlisted bytes are zero (R428). -/
def State.readReport (s : State) (i : Nat) : Word := BitVec.ofNat 64 (leNat ((List.range 8).map (fun j => s.attrep.getD (i + j) 0#8)))

/-- The management block (R419). -/
def State.readMgmt (s : State) (off : Nat) : Option Word :=
  if off = 0 ∨ off = 0x18 ∨ off = 0x20 ∨ off = 0x28 ∨ (0x2_0000 ≤ off ∧ off < 0x2_0040) then none
  else if off = 0x200 then some (BitVec.ofNat 64 (s.logw % 2 ^ 32))
  else if 0x1_0000 ≤ off ∧ off < 0x1_8000 then
    some (match s.log.find? (fun p => p.1 == (off - 0x1_0000) / 32) with
      | some (_, r) => [r.w0, r.w1, r.w2, r.w3].getD (off / 8 % 4) 0#64
      | none => 0#64)
  else if 0x3_0000 ≤ off ∧ off < 0x4_4000 then some (s.readReport (off - 0x3_0000))
  else some (s.ctlReg (mgmt off))

/-- What a link reads at an aligned address of control space (R436): zero where no rule names a register; none where the panel does
not answer (after a failed start, outside the management block, R421) or no rule says how a write-only register reads. -/
def State.readControl (s : State) (a : Nat) : Option Word :=
  if mgmt 0 ≤ a then (if a < mgmt 0x10_0000 then s.readMgmt (a - mgmt 0) else some 0#64)
  else if s.startState = 2 then none
  else if dieBlock 0 ≤ a ∧ a < dieBlock 64 then s.readDieBlock ((a - dieBlock 0) / 0x1_0000) ((a - dieBlock 0) % 0x1_0000)
  else if dispBlock 0 ≤ a ∧ a < dispBlock 64 then s.readDispBlock ((a - dispBlock 0) / 0x10_0000) ((a - dispBlock 0) % 0x10_0000)
  else if hashBlock 0 ≤ a ∧ a < hashBlock 64 ∧ s.devices ≤ (a - hashBlock 0) / 0x1000 then some 0#64
  else some (s.ctlReg a)

/-! ## Instructions that are not begun (R175, R176) -/

/-- ENCODING_NOT_AN_INSTRUCTION (R176, R177): ILLEGAL for the word at an index of the executing instruction, with its reason. -/
def execEvEncodingNotAnInstruction (w : IWord) (index reason : Nat) (s : State) : Out :=
  .next (s.raise .illegal (s.cur.pc + BitVec.ofNat 64 (2 * index)) (BitVec.ofNat 64 (w.toNat * 65536 + index * 256 + reason)))

/-- The halfword of a fetch is in the core's instruction cache, or its data may be consumed (R24, R425). -/
def State.checkFetch (s : State) (va : Nat) (loc : Loc) : Except Stop Unit :=
  if SMap.has s.me.icache (loc.at_ / 2) then .ok () else s.checkData va loc 2 false

/-- FETCH_REFUSED (R175): the word at `va` is not fetched: PERM at or above NW, else what its translation gives, else MCHK. -/
def execEvFetchRefused (va : Nat) (s : State) : Out :=
  if NW ≤ va then .next (s.raise .perm (BitVec.ofNat 64 va) (pageInfo 0 3 0 4))
  else match s.global va { fetch := true } with
    | .error e => s.stop e
    | .ok loc => s.run (do s.checkFetch va loc; .ok s)

end Sys2Proof.Machine
end

