-- ==== Sys2Proof/Machine/Supervisor.lean ====
section
/-! DEFINITION. Supervisor instructions: `sret`, `replay`, `tlbinv`, `icinv` (R314 .. R317). -/

namespace Sys2Proof.Machine

/-- PRIV in user mode (R192). -/
def State.supervisorOnly (s : State) : Except Stop Unit := must s.cur.supervisor (s.privTrap false 0)

/-- `sret ga` (R314). -/
def execSret (o : LA) (s : State) : Out :=
  let t := s.g o.a
  s.run (do
    s.supervisorOnly
    must (s.cur.out == []) (.wait .retry)
    must (!t.getLsbD 0) (misalign t 3 1)
    .ok (s.modCur (fun c => c.leave t)))

/-- `replay ga` (R315, R349). -/
def execReplay (o : LA) (s : State) : Out :=
  let d := (s.g o.a).toNat
  s.run (do
    s.supervisorOnly
    must (decide (d < 64) && s.devOf d == s.myDev && s.dieLive d) (illegal11 0)
    s.afterRelease sysScope
    .ok ((s.replayDie d).endLong o.l []))

/-- `tlbinv ga, gb` (R316, R344): it completes when no access that was translated through a dropped entry is still to perform. -/
def execTlbinv (o : LAB) (s : State) : Out :=
  let a := s.g o.a
  let b := s.g o.b
  let va : Option Nat := if b = 0#64 then some (a.toNat % 2 ^ 52) else none
  let dc := s.dctxOf s.now.h
  s.run (do
    s.supervisorOnly
    must (b == 0#64 || (b == 1#64 && a == 0#64)) (illegal11 0)
    must (s.framesQuiet s.myDev (s.droppedFrames s.myDev dc va)) (.wait .retry)
    .ok ((s.dropTlb s.myDev dc va).endLong o.l []))

/-- A halfword of the instruction cache was fetched at an address in [a, a + n) of the device context, on one of its lines. -/
def cachedIn (dc a n tag : Nat) : Bool :=
  tag / 2 ^ 52 == dc && decide (a / 64 ≤ tag % 2 ^ 52 / 64) && decide (tag % 2 ^ 52 / 64 ≤ (a + n - 1) / 64)

/-- `icinv ga, gb` (R317): the range leaves the instruction cache of every core of the device: what was fetched at its addresses, and
what its pages map now. -/
def execIcinv (o : LAB) (s : State) : Out :=
  let a := s.g o.a
  let n := s.g o.b
  s.run (do
    s.supervisorOnly
    if n = 0#64 then .ok (s.endLong o.l [])
    else do
      must (decide (a.toNat + n.toNat ≤ NW)) (windowAt a)
      must (decide (n.toNat ≤ 2 ^ 26)) (illegal11 0)
      s.afterRelease sysScope
      let rs := s.lineRuns a.toNat n.toNat
      let dc := s.dctxOf s.now.h
      .ok (({ s with cores := s.cores.map (fun p =>
        if s.devOf (hdie p.1) = s.myDev then
          (p.1, { p.2 with icache := p.2.icache.filter (fun q => !inRuns rs (q.1 / 32) && !cachedIn dc a.toNat n.toNat q.2.2) })
        else p) } : State).endLong o.l []))

end Sys2Proof.Machine
end

