-- ==== Sys2Proof/Machine/Dispatch.lean ====
section
/-! DEFINITION. What each instruction and event of spec/opcode_table.json does: one arm per constructor, each a direct call of its
meaning. -/

namespace Sys2Proof.Machine

def exec (i : Instr) (s : State) : Host.Outcome State Fault Refusal :=
  match i with
  | .add o => Sys2Proof.Machine.execAdd o s
  | .sub o => Sys2Proof.Machine.execSub o s
  | .and o => Sys2Proof.Machine.execAnd o s
  | .or o => Sys2Proof.Machine.execOr o s
  | .xor o => Sys2Proof.Machine.execXor o s
  | .andn o => Sys2Proof.Machine.execAndn o s
  | .sll o => Sys2Proof.Machine.execSll o s
  | .srl o => Sys2Proof.Machine.execSrl o s
  | .sra o => Sys2Proof.Machine.execSra o s
  | .rol o => Sys2Proof.Machine.execRol o s
  | .min o => Sys2Proof.Machine.execMin o s
  | .max o => Sys2Proof.Machine.execMax o s
  | .minn o => Sys2Proof.Machine.execMinn o s
  | .maxn o => Sys2Proof.Machine.execMaxn o s
  | .mul o => Sys2Proof.Machine.execMul o s
  | .sel o => Sys2Proof.Machine.execSel o s
  | .cmpEq o => Sys2Proof.Machine.execCmpEq o s
  | .cmpNe o => Sys2Proof.Machine.execCmpNe o s
  | .cmpLt o => Sys2Proof.Machine.execCmpLt o s
  | .cmpGe o => Sys2Proof.Machine.execCmpGe o s
  | .cmpLtn o => Sys2Proof.Machine.execCmpLtn o s
  | .cmpGen o => Sys2Proof.Machine.execCmpGen o s
  | .tst o => Sys2Proof.Machine.execTst o s
  | .mov o => Sys2Proof.Machine.execMov o s
  | .clz o => Sys2Proof.Machine.execClz o s
  | .ctz o => Sys2Proof.Machine.execCtz o s
  | .popc o => Sys2Proof.Machine.execPopc o s
  | .sext o => Sys2Proof.Machine.execSext o s
  | .zext o => Sys2Proof.Machine.execZext o s
  | .brev o => Sys2Proof.Machine.execBrev o s
  | .bswap o => Sys2Proof.Machine.execBswap o s
  | .neg o => Sys2Proof.Machine.execNeg o s
  | .addi o => Sys2Proof.Machine.execAddi o s
  | .andi o => Sys2Proof.Machine.execAndi o s
  | .ori o => Sys2Proof.Machine.execOri o s
  | .xori o => Sys2Proof.Machine.execXori o s
  | .slli o => Sys2Proof.Machine.execSlli o s
  | .srli o => Sys2Proof.Machine.execSrli o s
  | .srai o => Sys2Proof.Machine.execSrai o s
  | .li o => Sys2Proof.Machine.execLi o s
  | .bz o => Sys2Proof.Machine.execBz o s
  | .bnz o => Sys2Proof.Machine.execBnz o s
  | .jmp o => Sys2Proof.Machine.execJmp o s
  | .call o => Sys2Proof.Machine.execCall o s
  | .jr o => Sys2Proof.Machine.execJr o s
  | .ret => Sys2Proof.Machine.execRet s
  | .nop => Sys2Proof.Machine.execNop s
  | .done => Sys2Proof.Machine.execDone s
  | .yield => Sys2Proof.Machine.execYield s
  | .brk o => Sys2Proof.Machine.execBrk o s
  | .mulh o => Sys2Proof.Machine.execMulh o s
  | .mulhn o => Sys2Proof.Machine.execMulhn o s
  | .div o => Sys2Proof.Machine.execDiv o s
  | .divn o => Sys2Proof.Machine.execDivn o s
  | .rem o => Sys2Proof.Machine.execRem o s
  | .remn o => Sys2Proof.Machine.execRemn o s
  | .fadd o => Sys2Proof.Machine.execFadd o s
  | .fsub o => Sys2Proof.Machine.execFsub o s
  | .fmul o => Sys2Proof.Machine.execFmul o s
  | .fdiv o => Sys2Proof.Machine.execFdiv o s
  | .fmin o => Sys2Proof.Machine.execFmin o s
  | .fmax o => Sys2Proof.Machine.execFmax o s
  | .fsqrt o => Sys2Proof.Machine.execFsqrt o s
  | .ffma o => Sys2Proof.Machine.execFfma o s
  | .fcmp o => Sys2Proof.Machine.execFcmp o s
  | .fclass o => Sys2Proof.Machine.execFclass o s
  | .fsgn o => Sys2Proof.Machine.execFsgn o s
  | .fcvt o => Sys2Proof.Machine.execFcvt o s
  | .fmov o => Sys2Proof.Machine.execFmov o s
  | .fli o => Sys2Proof.Machine.execFli o s
  | .lea o => Sys2Proof.Machine.execLea o s
  | .coord o => Sys2Proof.Machine.execCoord o s
  | .rect o => Sys2Proof.Machine.execRect o s
  | .inrect o => Sys2Proof.Machine.execInrect o s
  | .myid o => Sys2Proof.Machine.execMyid o s
  | .hashq o => Sys2Proof.Machine.execHashq o s
  | .rdcyc o => Sys2Proof.Machine.execRdcyc o s
  | .csrrd o => Sys2Proof.Machine.execCsrrd o s
  | .csrwr o => Sys2Proof.Machine.execCsrwr o s
  | .start o => Sys2Proof.Machine.execStart o s
  | .join o => Sys2Proof.Machine.execJoin o s
  | .ctxq o => Sys2Proof.Machine.execCtxq o s
  | .sys o => Sys2Proof.Machine.execSys o s
  | .ldB o => Sys2Proof.Machine.execLdB o s
  | .ldH o => Sys2Proof.Machine.execLdH o s
  | .ldW o => Sys2Proof.Machine.execLdW o s
  | .ldD o => Sys2Proof.Machine.execLdD o s
  | .ldBs o => Sys2Proof.Machine.execLdBs o s
  | .ldHs o => Sys2Proof.Machine.execLdHs o s
  | .ldWs o => Sys2Proof.Machine.execLdWs o s
  | .stB o => Sys2Proof.Machine.execStB o s
  | .stH o => Sys2Proof.Machine.execStH o s
  | .stW o => Sys2Proof.Machine.execStW o s
  | .stD o => Sys2Proof.Machine.execStD o s
  | .ldf o => Sys2Proof.Machine.execLdf o s
  | .ldfTake o => Sys2Proof.Machine.execLdfTake o s
  | .ste o => Sys2Proof.Machine.execSte o s
  | .stf o => Sys2Proof.Machine.execStf o s
  | .tagclr o => Sys2Proof.Machine.execTagclr o s
  | .tagrd o => Sys2Proof.Machine.execTagrd o s
  | .fld o => Sys2Proof.Machine.execFld o s
  | .fst o => Sys2Proof.Machine.execFst o s
  | .pf o => Sys2Proof.Machine.execPf o s
  | .cinv o => Sys2Proof.Machine.execCinv o s
  | .cwb o => Sys2Proof.Machine.execCwb o s
  | .amoAdd o => Sys2Proof.Machine.execAmoAdd o s
  | .amoAnd o => Sys2Proof.Machine.execAmoAnd o s
  | .amoOr o => Sys2Proof.Machine.execAmoOr o s
  | .amoXor o => Sys2Proof.Machine.execAmoXor o s
  | .amoMin o => Sys2Proof.Machine.execAmoMin o s
  | .amoMax o => Sys2Proof.Machine.execAmoMax o s
  | .amoMinn o => Sys2Proof.Machine.execAmoMinn o s
  | .amoMaxn o => Sys2Proof.Machine.execAmoMaxn o s
  | .swap o => Sys2Proof.Machine.execSwap o s
  | .cas o => Sys2Proof.Machine.execCas o s
  | .famoAdd o => Sys2Proof.Machine.execFamoAdd o s
  | .red o => Sys2Proof.Machine.execRed o s
  | .fredAdd o => Sys2Proof.Machine.execFredAdd o s
  | .post o => Sys2Proof.Machine.execPost o s
  | .nbctl o => Sys2Proof.Machine.execNbctl o s
  | .fence o => Sys2Proof.Machine.execFence o s
  | .vadd o => Sys2Proof.Machine.execVadd o s
  | .vsub o => Sys2Proof.Machine.execVsub o s
  | .vmul o => Sys2Proof.Machine.execVmul o s
  | .vmin o => Sys2Proof.Machine.execVmin o s
  | .vmax o => Sys2Proof.Machine.execVmax o s
  | .vand o => Sys2Proof.Machine.execVand o s
  | .vor o => Sys2Proof.Machine.execVor o s
  | .vxor o => Sys2Proof.Machine.execVxor o s
  | .vshl o => Sys2Proof.Machine.execVshl o s
  | .vshr o => Sys2Proof.Machine.execVshr o s
  | .vsha o => Sys2Proof.Machine.execVsha o s
  | .vcmp o => Sys2Proof.Machine.execVcmp o s
  | .vsel o => Sys2Proof.Machine.execVsel o s
  | .vabs o => Sys2Proof.Machine.execVabs o s
  | .vmac o => Sys2Proof.Machine.execVmac o s
  | .vsplat o => Sys2Proof.Machine.execVsplat o s
  | .vfadd o => Sys2Proof.Machine.execVfadd o s
  | .vfsub o => Sys2Proof.Machine.execVfsub o s
  | .vfmul o => Sys2Proof.Machine.execVfmul o s
  | .vffma o => Sys2Proof.Machine.execVffma o s
  | .vfmin o => Sys2Proof.Machine.execVfmin o s
  | .vfmax o => Sys2Proof.Machine.execVfmax o s
  | .vfcmp o => Sys2Proof.Machine.execVfcmp o s
  | .vfcvt o => Sys2Proof.Machine.execVfcvt o s
  | .vqmx o => Sys2Proof.Machine.execVqmx o s
  | .vdqmx o => Sys2Proof.Machine.execVdqmx o s
  | .vcode o => Sys2Proof.Machine.execVcode o s
  | .vdecode o => Sys2Proof.Machine.execVdecode o s
  | .vexp2 o => Sys2Proof.Machine.execVexp2 o s
  | .vrcp o => Sys2Proof.Machine.execVrcp o s
  | .vrsq o => Sys2Proof.Machine.execVrsq o s
  | .vld o => Sys2Proof.Machine.execVld o s
  | .vst o => Sys2Proof.Machine.execVst o s
  | .vldx o => Sys2Proof.Machine.execVldx o s
  | .vstx o => Sys2Proof.Machine.execVstx o s
  | .vldb o => Sys2Proof.Machine.execVldb o s
  | .vstm o => Sys2Proof.Machine.execVstm o s
  | .vspst o => Sys2Proof.Machine.execVspst o s
  | .vspld o => Sys2Proof.Machine.execVspld o s
  | .vred o => Sys2Proof.Machine.execVred o s
  | .vperm o => Sys2Proof.Machine.execVperm o s
  | .vins o => Sys2Proof.Machine.execVins o s
  | .vext o => Sys2Proof.Machine.execVext o s
  | .vscma o => Sys2Proof.Machine.execVscma o s
  | .sdenc o => Sys2Proof.Machine.execSdenc o s
  | .tld o => Sys2Proof.Machine.execTld o s
  | .tstTile o => Sys2Proof.Machine.execTstTile o s
  | .tget o => Sys2Proof.Machine.execTget o s
  | .tset o => Sys2Proof.Machine.execTset o s
  | .tzeroT o => Sys2Proof.Machine.execTzeroT o s
  | .tzeroAcc o => Sys2Proof.Machine.execTzeroAcc o s
  | .tzeroX o => Sys2Proof.Machine.execTzeroX o s
  | .mcld o => Sys2Proof.Machine.execMcld o s
  | .mctab o => Sys2Proof.Machine.execMctab o s
  | .mdrain o => Sys2Proof.Machine.execMdrain o s
  | .mmaI8c o => Sys2Proof.Machine.execMmaI8c o s
  | .mmaI4c o => Sys2Proof.Machine.execMmaI4c o s
  | .mmaBfc o => Sys2Proof.Machine.execMmaBfc o s
  | .mmaE2x o => Sys2Proof.Machine.execMmaE2x o s
  | .mmaE4x o => Sys2Proof.Machine.execMmaE4x o s
  | .mmaE5x o => Sys2Proof.Machine.execMmaE5x o s
  | .mmaI8i8 o => Sys2Proof.Machine.execMmaI8i8 o s
  | .xacc o => Sys2Proof.Machine.execXacc o s
  | .xadd o => Sys2Proof.Machine.execXadd o s
  | .xrnd o => Sys2Proof.Machine.execXrnd o s
  | .bdecl o => Sys2Proof.Machine.execBdecl o s
  | .bacq o => Sys2Proof.Machine.execBacq o s
  | .brel o => Sys2Proof.Machine.execBrel o s
  | .bstat o => Sys2Proof.Machine.execBstat o s
  | .spawn o => Sys2Proof.Machine.execSpawn o s
  | .evpop o => Sys2Proof.Machine.execEvpop o s
  | .evtab o => Sys2Proof.Machine.execEvtab o s
  | .pennant o => Sys2Proof.Machine.execPennant o s
  | .launch o => Sys2Proof.Machine.execLaunch o s
  | .evadv o => Sys2Proof.Machine.execEvadv o s
  | .shape o => Sys2Proof.Machine.execShape o s
  | .cpt o => Sys2Proof.Machine.execCpt o s
  | .cptIn o => Sys2Proof.Machine.execCptIn o s
  | .cptOut o => Sys2Proof.Machine.execCptOut o s
  | .cpm o => Sys2Proof.Machine.execCpm o s
  | .qput o => Sys2Proof.Machine.execQput o s
  | .batch o => Sys2Proof.Machine.execBatch o s
  | .waitb o => Sys2Proof.Machine.execWaitb o s
  | .inbox o => Sys2Proof.Machine.execInbox o s
  | .inboxq o => Sys2Proof.Machine.execInboxq o s
  | .xbinit o => Sys2Proof.Machine.execXbinit o s
  | .xbarr o => Sys2Proof.Machine.execXbarr o s
  | .xbwait o => Sys2Proof.Machine.execXbwait o s
  | .xbtry o => Sys2Proof.Machine.execXbtry o s
  | .sret o => Sys2Proof.Machine.execSret o s
  | .replay o => Sys2Proof.Machine.execReplay o s
  | .tlbinv o => Sys2Proof.Machine.execTlbinv o s
  | .icinv o => Sys2Proof.Machine.execIcinv o s
  | .evInstructionComplete c k ki => Sys2Proof.Machine.execEvInstructionComplete c k ki s
  | .evTrapEntry c k => Sys2Proof.Machine.execEvTrapEntry c k s
  | .evTaskStart c => Sys2Proof.Machine.execEvTaskStart c s
  | .evStealRequest c => Sys2Proof.Machine.execEvStealRequest c s
  | .evStealVictimAnswer c => Sys2Proof.Machine.execEvStealVictimAnswer c s
  | .evStealAnswerArrival c => Sys2Proof.Machine.execEvStealAnswerArrival c s
  | .evStealRoundWaitExpiry c => Sys2Proof.Machine.execEvStealRoundWaitExpiry c s
  | .evLaunchPartEnd c => Sys2Proof.Machine.execEvLaunchPartEnd c s
  | .evEftDone c k => Sys2Proof.Machine.execEvEftDone c k s
  | .evEventArrival c x => Sys2Proof.Machine.execEvEventArrival c x s
  | .evNackResendTimer c x => Sys2Proof.Machine.execEvNackResendTimer c x s
  | .evSpillRefill c => Sys2Proof.Machine.execEvSpillRefill c s
  | .evSpillbaseSwitch c => Sys2Proof.Machine.execEvSpillbaseSwitch c s
  | .evHandlerTaskCreate c l => Sys2Proof.Machine.execEvHandlerTaskCreate c l s
  | .evGangComplete g => Sys2Proof.Machine.execEvGangComplete g s
  | .evMmaPlanesStart g => Sys2Proof.Machine.execEvMmaPlanesStart g s
  | .evRedundantDrainCompare c k k2 => Sys2Proof.Machine.execEvRedundantDrainCompare c k k2 s
  | .evCopyDeliveryCheck ki => Sys2Proof.Machine.execEvCopyDeliveryCheck ki s
  | .evDeliverySectorCredit ki n rd => Sys2Proof.Machine.execEvDeliverySectorCredit ki n rd s
  | .evBarrierArrival ki => Sys2Proof.Machine.execEvBarrierArrival ki s
  | .evBacqGrant c ki => Sys2Proof.Machine.execEvBacqGrant c ki s
  | .evXbwaitWake c k => Sys2Proof.Machine.execEvXbwaitWake c k s
  | .evTagWaiterPerform h off => Sys2Proof.Machine.execEvTagWaiterPerform h off s
  | .evClusterPeerRequest c k n => Sys2Proof.Machine.execEvClusterPeerRequest c k n s
  | .evJoinWake c k => Sys2Proof.Machine.execEvJoinWake c k s
  | .evEvadvStepEnd c k => Sys2Proof.Machine.execEvEvadvStepEnd c k s
  | .evInboxMessageTaken c => Sys2Proof.Machine.execEvInboxMessageTaken c s
  | .evWaitbSatisfied c k => Sys2Proof.Machine.execEvWaitbSatisfied c k s
  | .evBatchSlotFree c k => Sys2Proof.Machine.execEvBatchSlotFree c k s
  | .evQputRingRoom c k => Sys2Proof.Machine.execEvQputRingRoom c k s
  | .evEngineSlotFetch n e => Sys2Proof.Machine.execEvEngineSlotFetch n e s
  | .evEnginePiece ki first => Sys2Proof.Machine.execEvEnginePiece ki first s
  | .evPacketCompletion ki => Sys2Proof.Machine.execEvPacketCompletion ki s
  | .evCompletionMessageDeliver ki => Sys2Proof.Machine.execEvCompletionMessageDeliver ki s
  | .evCopyOperationEnd ki => Sys2Proof.Machine.execEvCopyOperationEnd ki s
  | .evWriteLeavePostQueue c k n => Sys2Proof.Machine.execEvWriteLeavePostQueue c k n s
  | .evWritePerform c n => Sys2Proof.Machine.execEvWritePerform c n s
  | .evLoadSatisfy c k n src => Sys2Proof.Machine.execEvLoadSatisfy c k n src s
  | .evL1LineDrop c line => Sys2Proof.Machine.execEvL1LineDrop c line s
  | .evPrefetchFill c n => Sys2Proof.Machine.execEvPrefetchFill c n s
  | .evAtomicPerform w lag => Sys2Proof.Machine.execEvAtomicPerform w lag s
  | .evSyncCopyDrop d line => Sys2Proof.Machine.execEvSyncCopyDrop d line s
  | .evSyncHomeEvict d line => Sys2Proof.Machine.execEvSyncHomeEvict d line s
  | .evCombineMerge sw a b => Sys2Proof.Machine.execEvCombineMerge sw a b s
  | .evDecombineReply m lost => Sys2Proof.Machine.execEvDecombineReply m lost s
  | .evAtomicWatchdogRetire c k n => Sys2Proof.Machine.execEvAtomicWatchdogRetire c k n s
  | .evPageWalk c k => Sys2Proof.Machine.execEvPageWalk c k s
  | .evFaultRecord d => Sys2Proof.Machine.execEvFaultRecord d s
  | .evFbclrWrite link d w => Sys2Proof.Machine.execEvFbclrWrite link d w s
  | .evCsReplayWrite link d w => Sys2Proof.Machine.execEvCsReplayWrite link d w s
  | .evCsTlbinvWrite link d w => Sys2Proof.Machine.execEvCsTlbinvWrite link d w s
  | .evQueueDoorbell link dev q w => Sys2Proof.Machine.execEvQueueDoorbell link dev q w s
  | .evDctxStateWrite link dev c w => Sys2Proof.Machine.execEvDctxStateWrite link dev c w s
  | .evDispatcherSelect dev => Sys2Proof.Machine.execEvDispatcherSelect dev s
  | .evPecmdWrite link dev w => Sys2Proof.Machine.execEvPecmdWrite link dev w s
  | .evChorusPreempt c => Sys2Proof.Machine.execEvChorusPreempt c s
  | .evChorusRestore dev => Sys2Proof.Machine.execEvChorusRestore dev s
  | .evLaunchCompletion n => Sys2Proof.Machine.execEvLaunchCompletion n s
  | .evTdcmdWrite link dev w => Sys2Proof.Machine.execEvTdcmdWrite link dev w s
  | .evTeardownComplete dev c => Sys2Proof.Machine.execEvTeardownComplete dev c s
  | .evStolrusWrite l hdr payload tag early => Sys2Proof.Machine.execEvStolrusWrite l hdr payload tag early s
  | .evStolrusReadRequest l hdr payload tag => Sys2Proof.Machine.execEvStolrusReadRequest l hdr payload tag s
  | .evStolrusReadReply l hdr payload tag => Sys2Proof.Machine.execEvStolrusReadReply l hdr payload tag s
  | .evStolrusAtomicRequest l hdr payload tag => Sys2Proof.Machine.execEvStolrusAtomicRequest l hdr payload tag s
  | .evStolrusAtomicReply l hdr payload tag => Sys2Proof.Machine.execEvStolrusAtomicReply l hdr payload tag s
  | .evStolrusWriteAcknowledgement l hdr payload tag => Sys2Proof.Machine.execEvStolrusWriteAcknowledgement l hdr payload tag s
  | .evStolrusRefusal l hdr payload tag => Sys2Proof.Machine.execEvStolrusRefusal l hdr payload tag s
  | .evStolrusRetransmit l n => Sys2Proof.Machine.execEvStolrusRetransmit l n s
  | .evLinkLaneLoss l => Sys2Proof.Machine.execEvLinkLaneLoss l s
  | .evPeeridWrite link w => Sys2Proof.Machine.execEvPeeridWrite link w s
  | .evSyncOverflowWrite link d size w => Sys2Proof.Machine.execEvSyncOverflowWrite link d size w s
  | .evPmodeWrite link w lost => Sys2Proof.Machine.execEvPmodeWrite link w lost s
  | .evNscarveWrite link d w lost => Sys2Proof.Machine.execEvNscarveWrite link d w lost s
  | .evChannelRecordWrite link n c off w => Sys2Proof.Machine.execEvChannelRecordWrite link n c off w s
  | .evDatagramData f udpOk => Sys2Proof.Machine.execEvDatagramData f udpOk s
  | .evDatagramAck f udpOk => Sys2Proof.Machine.execEvDatagramAck f udpOk s
  | .evDatagramNak f udpOk => Sys2Proof.Machine.execEvDatagramNak f udpOk s
  | .evScaleoutAckTimer n c => Sys2Proof.Machine.execEvScaleoutAckTimer n c s
  | .evScaleoutResendTimer n c => Sys2Proof.Machine.execEvScaleoutResendTimer n c s
  | .evCxlMemHostAccess a b => Sys2Proof.Machine.execEvCxlMemHostAccess a b s
  | .evPowerOn => Sys2Proof.Machine.execEvPowerOn s
  | .evColdStart link => Sys2Proof.Machine.execEvColdStart link s
  | .evWarmStart link => Sys2Proof.Machine.execEvWarmStart link s
  | .evStartFinish fail dead masks lanes ports => Sys2Proof.Machine.execEvStartFinish fail dead masks lanes ports s
  | .evOwnclaim links w => Sys2Proof.Machine.execEvOwnclaim links w s
  | .evOwnxfer link w => Sys2Proof.Machine.execEvOwnxfer link w s
  | .evOwnerLinkDown => Sys2Proof.Machine.execEvOwnerLinkDown s
  | .evResync link w => Sys2Proof.Machine.execEvResync link w s
  | .evAttestationRequest nonce => Sys2Proof.Machine.execEvAttestationRequest nonce s
  | .evAttestationReportReady => Sys2Proof.Machine.execEvAttestationReportReady s
  | .evCorrectableError source a => Sys2Proof.Machine.execEvCorrectableError source a s
  | .evUncorrectableNotConsumed source loc => Sys2Proof.Machine.execEvUncorrectableNotConsumed source loc s
  | .evDieFailure x => Sys2Proof.Machine.execEvDieFailure x s
  | .evControlSpaceWrite link a w => Sys2Proof.Machine.execEvControlSpaceWrite link a w s
  | .evEncodingNotAnInstruction w index reason => Sys2Proof.Machine.execEvEncodingNotAnInstruction w index reason s
  | .evFetchRefused va => Sys2Proof.Machine.execEvFetchRefused va s
  | .evStolrusUnknownType l hdr payload tag => Sys2Proof.Machine.execEvStolrusUnknownType l hdr payload tag s

end Sys2Proof.Machine
end

