-- ==== Sys2Proof/Machine/Uses.lean ====
section
/-! DEFINITION. The registers an instruction uses, in the order d, a, b, c, XS, implicit (R70, R178), with the tiles, banks and
accumulators that R14 interlocks; its lookahead (R69); and the instructions that only supervisor mode may run (R175). -/

namespace Sys2Proof.Machine

/-- A register read, written, or both. -/
def rd (c : RClass) (n : Nat) : RegUse := ⟨c, n, true, false⟩
def wr (c : RClass) (n : Nat) : RegUse := ⟨c, n, false, true⟩
def rw (c : RClass) (n : Nat) : RegUse := ⟨c, n, true, true⟩

/-- The classes of the operands of `fcvt` and `fmov`, by their codes (R232, R233). -/
def fcvtDst (k : BitVec 3) : RClass := if k.toNat < 3 then .g else .f
def fcvtSrc (k : BitVec 3) : RClass := if k = 3#3 ∨ k = 4#3 then .g else .f
def fmovDst (k : BitVec 3) : RClass := if k = 1#3 ∨ k = 5#3 ∨ k = 6#3 then .g else .f
def fmovSrc (k : BitVec 3) : RClass := if k = 2#3 ∨ k = 3#3 ∨ k = 4#3 then .g else .f

/-- A `vfcvt` that narrows keeps other lanes of d, so it reads d (R238). -/
def narrows (code : Nat) : Bool := [0, 1, 6, 7, 10, 11].contains code

/-- The registers that an instruction uses. -/
def regUses : Instr → List RegUse
  | .add o | .sub o | .and o | .or o | .xor o | .andn o | .sll o | .srl o | .sra o | .rol o | .min o | .max o | .minn o
    | .maxn o | .mul o => [wr .g o.d.toNat, rd .g o.a.toNat, rd .g o.b.toNat]
  | .sel o => [wr .g o.d.toNat, rd .g o.a.toNat, rd .g o.b.toNat, rd .g (cReg o.c).toNat]
  | .cmpEq o | .cmpNe o | .cmpLt o | .cmpGe o | .cmpLtn o | .cmpGen o | .tst o =>
      [wr .g o.d.toNat, rd .g o.a.toNat, rd .g o.b.toNat]
  | .mov o | .clz o | .ctz o | .popc o | .brev o | .bswap o | .neg o => [wr .g o.d.toNat, rd .g o.a.toNat]
  | .sext o | .zext o => [wr .g o.d.toNat, rd .g o.a.toNat]
  | .addi o | .andi o | .ori o | .xori o => [wr .g o.d.toNat, rd .g o.a.toNat]
  | .slli o | .srli o | .srai o => [wr .g o.d.toNat, rd .g o.a.toNat]
  | .li o => [wr .g o.d.toNat]
  | .bz o | .bnz o => [rd .g o.s.toNat]
  | .jmp _ => []
  | .call _ => [wr .g 1]
  | .jr o => [rd .g o.a.toNat]
  | .ret => [rd .g 1]
  | .nop | .done | .yield | .brk _ => []
  | .mulh o | .mulhn o | .div o | .divn o | .rem o | .remn o => [wr .g o.d.toNat, rd .g o.a.toNat, rd .g o.b.toNat]
  | .fadd o | .fsub o | .fmul o | .fdiv o | .fmin o | .fmax o => [wr .f o.d.toNat, rd .f o.a.toNat, rd .f o.b.toNat]
  | .fsqrt o => [wr .f o.d.toNat, rd .f o.a.toNat]
  | .ffma o => [wr .f o.d.toNat, rd .f o.a.toNat, rd .f o.b.toNat, rd .f (cReg o.c).toNat]
  | .fcmp o => [wr .g o.d.toNat, rd .f o.a.toNat, rd .f o.b.toNat]
  | .fclass o => [wr .g o.d.toNat, rd .f o.a.toNat]
  | .fsgn o => [wr .f o.d.toNat, rd .f o.a.toNat, rd .f o.b.toNat]
  | .fcvt o => [wr (fcvtDst o.k) o.d.toNat, rd (fcvtSrc o.k) o.a.toNat]
  | .fmov o => [wr (fmovDst o.k) o.d.toNat, rd (fmovSrc o.k) o.a.toNat]
  | .fli o => [wr .f o.d.toNat]
  | .lea o => [wr .g o.d.toNat, rd .g o.a.toNat, rd .g o.b.toNat]
  | .coord o => [wr .g o.d.toNat, rd .g o.a.toNat]
  | .rect o | .inrect o => [wr .g o.d.toNat, rd .g o.a.toNat, rd .g o.b.toNat]
  | .myid o | .hashq o => [wr .g o.d.toNat, rd .g o.a.toNat]
  | .rdcyc o => [wr .g o.d.toNat]
  | .csrrd o => [wr .g o.d.toNat]
  | .csrwr o => [rd .g o.d.toNat]
  | .start o => [wr .g o.d.toNat, rd .g o.a.toNat, rd .g o.b.toNat, rd .g (cReg o.c).toNat]
  | .join o | .ctxq o => [wr .g o.d.toNat, rd .g o.a.toNat]
  | .sys _ => []
  | .ldB o | .ldH o | .ldW o | .ldD o | .ldBs o | .ldHs o | .ldWs o => [wr .g o.d.toNat, rd .g o.a.toNat, rd .g o.xs.toNat]
  | .stB o | .stH o | .stW o | .stD o => [rd .g o.d.toNat, rd .g o.a.toNat, rd .g o.xs.toNat]
  | .ldf o | .ldfTake o => [wr .g o.d.toNat, rd .g o.a.toNat, rd .g o.xs.toNat]
  | .ste o | .stf o => [rd .g o.d.toNat, rd .g o.a.toNat, rd .g o.xs.toNat]
  | .tagclr o => [rd .g o.a.toNat, rd .g o.xs.toNat]
  | .tagrd o => [wr .g o.d.toNat, rd .g o.a.toNat, rd .g o.xs.toNat]
  | .fld o => [wr .f o.d.toNat, rd .g o.a.toNat, rd .g o.xs.toNat]
  | .fst o => [rd .f o.d.toNat, rd .g o.a.toNat, rd .g o.xs.toNat]
  | .pf o => [rd .g o.a.toNat]
  | .cinv o | .cwb o => [rd .g o.a.toNat, rd .g o.b.toNat, rd .g o.xs.toNat]
  | .amoAdd o | .amoAnd o | .amoOr o | .amoXor o | .amoMin o | .amoMax o | .amoMinn o | .amoMaxn o | .swap o =>
      [rw .g o.d.toNat, rd .g o.a.toNat, rd .g o.b.toNat, rd .g o.xs.toNat]
  | .cas o => [rw .g o.d.toNat, rd .g o.a.toNat, rd .g o.b.toNat, rd .g (cReg o.c).toNat, rd .g o.xs.toNat]
  | .famoAdd o => [rw .f o.d.toNat, rd .g o.a.toNat, rd .f o.b.toNat, rd .g o.xs.toNat]
  | .red o => [rd .g o.a.toNat, rd .g o.b.toNat, rd .g o.xs.toNat]
  | .fredAdd o => [rd .g o.a.toNat, rd .f o.b.toNat, rd .g o.xs.toNat]
  | .post o => [rw .v o.d.toNat, rd .g o.a.toNat, rd .g o.b.toNat, rd .g (cReg o.c).toNat, rd .g o.xs.toNat]
  | .nbctl o => [rw .g o.d.toNat, rd .g o.a.toNat, rd .g o.b.toNat, rd .g o.xs.toNat]
  | .fence o => [rd .g o.xs.toNat]
  | .vadd o | .vsub o | .vmul o | .vmin o | .vmax o | .vand o | .vor o | .vxor o | .vshl o | .vshr o | .vsha o =>
      [wr .v o.d.toNat, rd .v o.a.toNat, rd .v o.b.toNat]
  | .vcmp o => [wr .v o.d.toNat, rd .v o.a.toNat, rd .v o.b.toNat]
  | .vsel o => [wr .v o.d.toNat, rd .v o.a.toNat, rd .v o.b.toNat, rd .v o.c.toNat]
  | .vabs o => [wr .v o.d.toNat, rd .v o.a.toNat]
  | .vmac o => [rw .v o.d.toNat, rd .v o.a.toNat, rd .v o.b.toNat]
  | .vsplat o => [wr .v o.d.toNat, rd .g o.a.toNat]
  | .vfadd o | .vfsub o | .vfmul o => [wr .v o.d.toNat, rd .v o.a.toNat, rd .v o.b.toNat]
  | .vffma o => [wr .v o.d.toNat, rd .v o.a.toNat, rd .v o.b.toNat, rd .v o.c.toNat]
  | .vfmin o | .vfmax o => [wr .v o.d.toNat, rd .v o.a.toNat, rd .v o.b.toNat]
  | .vfcmp o => [wr .v o.d.toNat, rd .v o.a.toNat, rd .v o.b.toNat]
  | .vfcvt o => [⟨.v, o.d.toNat, narrows o.code.toNat, true⟩, rd .v o.a.toNat]
  | .vqmx o | .vdqmx o => [wr .v o.d.toNat, rd .v o.a.toNat]
  | .vcode o => [rw .v o.d.toNat, rd .v o.a.toNat, rd .v o.b.toNat]
  | .vdecode o => [wr .v o.d.toNat, rd .v o.a.toNat, rd .v o.b.toNat]
  | .vexp2 o | .vrcp o | .vrsq o => [wr .v o.d.toNat, rd .v o.a.toNat]
  | .vld o => [wr .v o.d.toNat, rd .g o.a.toNat, rd .g o.xs.toNat]
  | .vst o => [rd .v o.d.toNat, rd .g o.a.toNat, rd .g o.xs.toNat]
  | .vldx o => [wr .v o.d.toNat, rd .g o.a.toNat, rd .v o.c.toNat, rd .g o.xs.toNat]
  | .vstx o => [rd .v o.d.toNat, rd .g o.a.toNat, rd .v o.c.toNat, rd .g o.xs.toNat]
  | .vldb o => [wr .v o.d.toNat, rd .g o.a.toNat, rd .g o.xs.toNat]
  | .vstm o => [rd .v o.d.toNat, rd .g o.a.toNat, rd .v o.c.toNat, rd .g o.xs.toNat]
  | .vspst o => [rd .v o.d.toNat, rd .g o.a.toNat, rd .g (cReg o.c).toNat, rd .g o.xs.toNat]
  | .vspld o => [wr .v o.d.toNat, rd .g o.a.toNat, rd .g (cReg o.c).toNat, rd .g o.xs.toNat]
  | .vred o => [wr (if isFp o.ty then .f else .g) o.d.toNat, rd .v o.a.toNat]
  | .vperm o => [wr .v o.d.toNat, rd .v o.a.toNat, rd .v o.b.toNat]
  | .vins o => [rw .v o.d.toNat, rd .g o.a.toNat, rd .g o.b.toNat]
  | .vext o => [wr .g o.d.toNat, rd .v o.a.toNat, rd .g o.b.toNat]
  | .vscma o => [rw .v o.d.toNat, rd .g o.a.toNat, rd .g o.b.toNat, ⟨.v, o.c.toNat, !o.i8 && o.c != 0, false⟩]
  | .sdenc o => [rd .v o.d.toNat, rd .g o.a.toNat, rd .g o.b.toNat, rd .g (cReg o.c).toNat]
  | .tld o => [wr .t o.d.toNat, rd .g o.a.toNat, rd .g o.b.toNat]
  | .tstTile o => [rd .t o.d.toNat, rd .g o.a.toNat, rd .g o.b.toNat]
  | .tget o => [wr .v o.d.toNat, rd .t o.a.toNat, rd .g o.b.toNat]
  | .tset o => [rw .t o.d.toNat, rd .v o.a.toNat, rd .g o.b.toNat]
  | .tzeroT o => [wr .t o.d.toNat, rd .g o.b.toNat]
  | .tzeroAcc o => [wr .x 0, rd .g o.b.toNat]
  | .tzeroX o => [rd .g o.a.toNat, rd .g o.b.toNat]
  | .mcld o => [wr .m o.d.toNat, rd .g o.a.toNat]
  | .mctab o => [wr .m o.d.toNat, rd .v o.a.toNat]
  | .mdrain o => [wr .t o.d.toNat, rd .x 0]
  | .mmaI8c o | .mmaI4c o => [rd .t o.a.toNat, rd .m o.b.toNat, rd .v o.c.toNat, rd .g o.xs.toNat, rw .x 0]
  | .mmaBfc o => [rd .t o.a.toNat, rd .t (o.a.toNat + 1), rd .m o.b.toNat, rd .v o.c.toNat, rd .g o.xs.toNat, rw .x 0]
  | .mmaE2x o | .mmaE4x o | .mmaE5x o => [rd .t o.a.toNat, rd .m o.b.toNat, rd .v o.c.toNat, rd .g o.xs.toNat, rw .x 0]
  | .mmaI8i8 o => [rd .t o.a.toNat, rd .m 0, rd .m 1, rd .v o.c.toNat, rd .g o.xs.toNat, rw .x 0]
  | .xacc o => [rd .g o.a.toNat, rd .x 0]
  | .xadd o => [rd .g o.a.toNat, rd .g o.b.toNat, rd .g (cReg o.c).toNat]
  | .xrnd o => [wr .t o.d.toNat, rd .g o.a.toNat, rd .g o.b.toNat]
  | .bdecl o => [rd .g o.a.toNat, rd .g o.b.toNat]
  | .bacq o | .brel o => [rd .g o.a.toNat]
  | .bstat o | .spawn o => [wr .g o.d.toNat, rd .g o.a.toNat]
  | .evpop o => [wr .g o.d.toNat]
  | .evtab o => [rd .g o.a.toNat, rd .g o.b.toNat]
  | .pennant o => [rd .g o.a.toNat]
  | .launch o => [wr .g o.d.toNat, rd .g o.a.toNat, rd .g o.b.toNat]
  | .evadv _ => []
  | .shape o => [rd .g o.a.toNat, rd .g o.b.toNat]
  | .cpt o => [rd .g o.a.toNat, rd .t o.b.toNat, rd .g (cReg o.c).toNat]
  | .cptIn o | .cptOut o => [rd .g o.a.toNat, rd .g o.b.toNat, rd .g (cReg o.c).toNat]
  | .cpm o => [rd .g o.d.toNat, rd .g o.a.toNat, rd .t o.b.toNat, rd .g (cReg o.c).toNat]
  | .qput o => [wr .g o.d.toNat, rd .g o.a.toNat, rd .g o.b.toNat]
  | .batch _ | .waitb _ => []
  | .inbox o | .inboxq o => [wr .g o.d.toNat]
  | .xbinit o => [rd .g o.a.toNat, rd .g o.b.toNat]
  | .xbarr o | .xbwait o => [rd .g o.a.toNat, rd .g o.b.toNat, rd .g o.xs.toNat]
  | .xbtry o => [wr .g o.d.toNat, rd .g o.a.toNat, rd .g o.b.toNat, rd .g o.xs.toNat]
  | .sret o | .replay o => [rd .g o.a.toNat]
  | .tlbinv o | .icinv o => [rd .g o.a.toNat, rd .g o.b.toNat]
  | .evInstructionComplete _ _ _ | .evTrapEntry _ _ | .evTaskStart _ | .evStealRequest _ | .evStealVictimAnswer _
    | .evStealAnswerArrival _ | .evStealRoundWaitExpiry _ | .evLaunchPartEnd _ | .evEftDone _ _ | .evEventArrival _ _
    | .evNackResendTimer _ _ | .evSpillRefill _ | .evSpillbaseSwitch _ | .evHandlerTaskCreate _ _ | .evGangComplete _
    | .evMmaPlanesStart _ | .evRedundantDrainCompare _ _ _ | .evCopyDeliveryCheck _ | .evDeliverySectorCredit _ _ _
    | .evBarrierArrival _ | .evBacqGrant _ _ | .evXbwaitWake _ _ | .evTagWaiterPerform _ _ | .evClusterPeerRequest _ _ _
    | .evJoinWake _ _ | .evEvadvStepEnd _ _ | .evInboxMessageTaken _ | .evWaitbSatisfied _ _ | .evBatchSlotFree _ _
    | .evQputRingRoom _ _ | .evEngineSlotFetch _ _ | .evEnginePiece _ _ | .evPacketCompletion _ | .evCompletionMessageDeliver _
    | .evCopyOperationEnd _ | .evWriteLeavePostQueue _ _ _ | .evWritePerform _ _ | .evLoadSatisfy _ _ _ _ | .evL1LineDrop _ _
    | .evPrefetchFill _ _ | .evAtomicPerform _ _ | .evSyncCopyDrop _ _ | .evSyncHomeEvict _ _ | .evCombineMerge _ _ _
    | .evDecombineReply _ _ | .evAtomicWatchdogRetire _ _ _ | .evPageWalk _ _ | .evFaultRecord _ | .evFbclrWrite _ _ _
    | .evCsReplayWrite _ _ _ | .evCsTlbinvWrite _ _ _ | .evQueueDoorbell _ _ _ _ | .evDctxStateWrite _ _ _ _
    | .evDispatcherSelect _ | .evPecmdWrite _ _ _ | .evChorusPreempt _ | .evChorusRestore _ | .evLaunchCompletion _
    | .evTdcmdWrite _ _ _ | .evTeardownComplete _ _ | .evStolrusWrite _ _ _ _ _ | .evStolrusReadRequest _ _ _ _
    | .evStolrusReadReply _ _ _ _ | .evStolrusAtomicRequest _ _ _ _ | .evStolrusAtomicReply _ _ _ _
    | .evStolrusWriteAcknowledgement _ _ _ _ | .evStolrusRefusal _ _ _ _ | .evStolrusRetransmit _ _ | .evLinkLaneLoss _
    | .evPeeridWrite _ _ | .evSyncOverflowWrite _ _ _ _ | .evPmodeWrite _ _ _ | .evNscarveWrite _ _ _ _
    | .evChannelRecordWrite _ _ _ _ _ | .evDatagramData _ _ | .evDatagramAck _ _ | .evDatagramNak _ _ | .evScaleoutAckTimer _ _
    | .evScaleoutResendTimer _ _ | .evCxlMemHostAccess _ _ | .evPowerOn | .evColdStart _ | .evWarmStart _
    | .evStartFinish _ _ _ _ _ | .evOwnclaim _ _ | .evOwnxfer _ _ | .evOwnerLinkDown | .evResync _ _ | .evAttestationRequest _
    | .evAttestationReportReady | .evCorrectableError _ _ | .evUncorrectableNotConsumed _ _ | .evDieFailure _
    | .evControlSpaceWrite _ _ _ | .evEncodingNotAnInstruction _ _ _ | .evFetchRefused _ | .evStolrusUnknownType _ _ _ _ => []

/-- The lookahead of a long-latency instruction; none for page 0 (R69, R180). -/
def lookahead (i : Instr) : Option (BitVec 4) := ((toRaw i).bind Raw.xp).map XP.l

/-- The registers that an instruction of context k uses beyond its fields: `done` of an eft copies `g2` (R203); `mcld.i8` writes both
banks, and another `mcld` ends a pair of kind `i8`, which changes the other bank's kind (R96, R97). -/
def Core.usesOf (c : Core) (k : Nat) (i : Instr) : List RegUse :=
  regUses i ++
    (match i with
      | .done => if k = 0 then [] else [rd .g 2]
      | .mcld o => if o.kind = 2#2 ∨ (c.bankOf (~~~o.d)).kind = 3 then [wr .m (~~~o.d).toNat] else []
      | _ => [])

/-- The units that may be busy with an instruction while others issue (R13); the scalar pipe and the memory pipe hand on what they
take at once. -/
inductive CoreUnit where
  | tilePort | macro_ | vector
  deriving DecidableEq, Repr

/-- The unit that an instruction is handed to (R188 .. R191). -/
def unitOf (i : Instr) : Option CoreUnit :=
  match i with
  | .tld _ | .tstTile _ | .tget _ | .tset _ | .tzeroT _ | .tzeroX _ | .xadd _ | .xrnd _ | .cpt _ | .cptIn _ | .cptOut _ | .cpm _ =>
    some .tilePort
  | .mcld _ | .mctab _ | .mdrain _ | .mmaI8c _ | .mmaI4c _ | .mmaBfc _ | .mmaE2x _ | .mmaE4x _ | .mmaE5x _ | .mmaI8i8 _
    | .tzeroAcc _ | .xacc _ => some .macro_
  | _ =>
    match ((toRaw i).bind Raw.xp).map (fun x => x.page.toNat) with
    | some 5 | some 6 | some 7 | some 8 => some .vector
    | _ => none

/-- The unit that still works on an outstanding instruction: it reads what it needs piece by piece, or waits for it. R13 does not say how
long a vector load occupies the vector unit: a `vld`, `vldb`, `vldx`, `vspld` or `vspst` whose accesses are outstanding or held does not keep
it busy, and a `vscma` that still reads its column does (DESIGN CHOICE, log entry 9). -/
def Pend.unit : Pend → Option CoreUnit
  | .loads d =>
    (match d with
      | .tile _ _ | .rounded _ _ _ _ _ => some .tilePort
      | .elems _ _ accs => some (if accs = [] then .tilePort else .macro_)
      | .bank _ _ => some .macro_
      | .column _ _ _ _ _ _ => some .vector
      | _ => none)
  | .planes => some .macro_
  | _ => none

/-- The units of core h that are busy with an instruction of some context: an outstanding one, an `mma` of a gang, or a waiting
`mdrain` (R13, R100, R108). -/
def State.busyUnits (s : State) (h : Nat) : List CoreUnit :=
  (List.range 11).flatMap (fun k =>
    let c := s.ctx h k
    c.out.filterMap (fun o => o.pend.unit) ++ (match c.state with | .waiting (.drain _ _ _ _) | .waiting .gang => [.macro_] | _ => []))

/-- The instruction raises PRIV outside supervisor mode, before lookahead is checked (R175). -/
def privileged (i : Instr) : Bool :=
  match i with
  | .sret _ | .replay _ | .tlbinv _ | .icinv _ => true
  | .csrrd o => csrPrivileged o.n.toNat false
  | .csrwr o => csrPrivileged o.n.toNat true
  | _ => false

end Sys2Proof.Machine
end

