-- ==== Sys2Proof/Machine/Issue.lean ====
section
/-! DEFINITION. How an instruction comes to be executed: fetch and decoding (R24, R165, R175), the checks before it issues (R13,
R14, R69, R70), arbitration (R68, R204), and the turns that the agenda holds; what happens when the agenda is empty; and how a
word is laid out as the next instruction. -/

namespace Sys2Proof.Machine

/-! ## Fetch (R24, R175) -/

/-- A byte of an instruction word: of the halfword that the instruction cache holds, else at its point of coherence. -/
def State.fetchByte (s : State) (h : Nat) (loc : Loc) : Byte :=
  let c := s.core h
  if SMap.has c.icache (loc.at_ / 2) then ((SMap.get c.icache (0#16, 0) (loc.at_ / 2)).1.toNat / 2 ^ (8 * (loc.at_ % 2))) else
    (s.pocByte loc.space loc.at_).toNat

/-- Where the word at `va` lies, when it may be fetched by the executing context. -/
def State.fetchLoc (s : State) (va : Nat) : Except Stop Loc := do
  let loc ← s.global va { fetch := true }
  s.checkFetch va loc
  .ok loc

/-- The instruction word at `va`; none when its fetch is refused. -/
def State.fetchWord (s : State) (va : Nat) : Option IWord :=
  if NW ≤ va then none
  else match s.fetchLoc va with
    | .error _ => none
    | .ok loc =>
      some (BitVec.ofNat 16 ((s.fetchByte s.now.h loc).toNat + 256 * (s.fetchByte s.now.h { loc with at_ := loc.at_ + 1 }).toNat))

/-- What fetching and decoding give. -/
inductive Fetched where
  /-- The fetch of the word at an address is refused. -/
  | refused (va : Nat)
  /-- A word that no instruction has there: the words read, and why. -/
  | bad (ws : List IWord) (e : DecodeErr)
  /-- An instruction and its words. -/
  | instr (ws : List IWord) (i : Instr)
  deriving DecidableEq, Repr

/-- Words are read one after another until they are an instruction or cannot be one (R175). -/
def State.fetchFrom (s : State) (va : Nat) (ws : List IWord) : Nat → Fetched
  | 0 => .refused va
  | fuel + 1 =>
    match s.fetchWord va with
    | none => .refused va
    | some w =>
      match decode (ws ++ [w]) with
      | .more => s.fetchFrom (va + 2) (ws ++ [w]) fuel
      | .bad e => .bad (ws ++ [w]) e
      | .ok i _ => .instr (ws ++ [w]) i

/-- The instruction at the executing context's pc: at most four prefixes and a base word (R172). -/
def State.fetch (s : State) : Fetched := s.fetchFrom s.cur.pc.toNat [] 6

/-- The translations that a fetch of n words uses, counted once for each fetch (R343, R352). -/
def State.fetchUsed (s : State) (n : Nat) : State :=
  let a := s.cur.pc.toNat
  let b := a + 2 * n - 1
  let s1 := s.noteUse s.now.h s.now.k a 4
  (if a / 65536 = b / 65536 ∨ NW ≤ b then s1 else s1.noteUse s.now.h s.now.k b 4).modCur (fun c => { c with fetched := true })

/-! ## Before an instruction issues (R13, R14, R69, R70) -/

/-- The class code of LOOKAHEAD's `finfo`; tiles, banks and accumulators are interlocked instead. -/
def RClass.code : RClass → Option Nat
  | .g => some 0
  | .f => some 1
  | .v => some 2
  | .t | .m | .x => none

/-- Both uses name one register, and `g0` is none. -/
def RegUse.meets (u o : RegUse) : Bool := u.cls == o.cls && u.n == o.n && !(u.cls == .g && u.n == 0)

/-- Use `u` of an instruction is a hazard against an outstanding instruction (R70). -/
def Outst.bars (o : Outst) (u : RegUse) : Bool :=
  u.cls.code.isSome && o.uses.any (fun x => u.meets x && (u.wr || (u.rd && x.wr)))

/-- `finfo` of LOOKAHEAD (R220): the register, and whether the instruction writes it. -/
def lookInfo (us : List RegUse) (u : RegUse) : Word :=
  BitVec.ofNat 64 ((if us.any (fun x => x.meets u && x.wr) then 128 else 0) + (u.cls.code.getD 0) * 32 + u.n)

/-- The first register use, in the order of the fields, that is a hazard against an open window; `faddr` is the pc of the
oldest outstanding instruction that has a hazard (R70, R178, R220). -/
def hazard (out : List Outst) (us : List RegUse) : Option Stop :=
  let ws := out.filter (fun o => o.left != 0)
  match ws.find? (fun o => us.any o.bars), us.find? (fun u => ws.any (fun o => o.bars u)) with
  | some o, some u => some (.trap .lookahead o.pc (lookInfo us u))
  | _, _ => none

/-- Two uses of one tile, bank or accumulator of which one is a write (R14). -/
def RegUse.clash (u o : RegUse) : Bool := u.cls.code.isNone && u.cls == o.cls && u.n == o.n && (u.wr || o.wr)

/-- The uses of every instruction of core h that has issued and not completed (R14). -/
def State.usesOn (s : State) (h : Nat) : List RegUse :=
  (List.range 11).flatMap (fun k =>
    let c := s.ctx h k
    c.out.flatMap (fun o => o.uses) ++ (match c.state with | .waiting (.drain _ _ _ _) => c.wuses | _ => []))
  ++ (s.gangs.flatMap (fun g => if g.turn.isSome then [] else g.members)).flatMap (fun m => if m.h = h then m.uses else [])

/-- The executing context may issue an instruction: in order, LOOKAHEAD against open windows, the windows that are full, a fifth
long-latency instruction, the interlock, and the unit it is for. A privileged instruction in user mode raises PRIV first (R175). -/
def State.issueGate (s : State) (i : Instr) : Except Stop Unit :=
  if privileged i && !s.cur.supervisor then .ok ()
  else
    let out := s.cur.out
    let us := s.now.uses
    match hazard out us with
    | some e => .error e
    | none => do
      must (out.all (fun o => o.left != 0)) (.wait .window)
      must ((lookahead i).isNone || decide (out.length < 4)) (.wait .retry)
      must (us.all (fun u => (s.usesOn s.now.h).all (fun o => !u.clash o))) (.wait .retry)
      must ((unitOf i).all (fun u => !(s.busyUnits s.now.h).contains u)) (.wait .retry)

/-! ## One attempt -/

/-- Context k of core h becomes the executing one, with an instruction's words. -/
def State.takeUp (s : State) (h k : Nat) (defer : Bool) (ws : List IWord) (us : List RegUse) : State :=
  { s.modCtx h k (fun c => { c with state := .ready }) with now := ⟨h, k, defer, ws, us⟩ }

/-- Context k of core h tries its next instruction. -/
def State.attempt (s : State) (h k : Nat) (defer : Bool) : Out :=
  let s0 := s.takeUp h k defer [] []
  match s0.fetch with
  | .refused va => execEvFetchRefused va s0
  | .bad ws e => execEvEncodingNotAnInstruction e.word e.index e.reason (s.takeUp h k defer ws [])
  | .instr ws i =>
    let s1 := s.takeUp h k defer ws ((s.core h).usesOf k i)
    let s2 := if (s.ctx h k).fetched then s1 else s1.fetchUsed ws.length
    match s2.issueGate i with
    | .ok _ => exec i s2
    | .error e => s2.stop e

/-- The context has not issued: it waits at issue, or for a walk. -/
def CtxState.stalled : CtxState → Bool
  | .waiting .retry | .waiting .window | .waiting (.walk _ _) => true
  | _ => false

/-- The windows of the context are full: it waits (R12, R57, R64, R69). -/
def Ctx.holdFull (c : Ctx) : Ctx :=
  if c.state = .ready ∧ c.out.any (fun o => o.left == 0) ∧ c.trap = none then { c with state := .waiting .window } else c

/-- The bookkeeping after context k of core h has issued (R68, R69, R204): the windows of its earlier instructions, with serial
numbers below `id`, have room for one fewer, unless the context is PARKED and will issue the instruction again. -/
def State.noteIssue (s : State) (h k id : Nat) : State :=
  let n := (s.core h).issues + 1
  let s1 := (s.modCore h (fun c => { c with issues := n })).modCtx h k (fun c => { c with fetched := false })
  if (s1.ctx h k).state = .parked then s1
  else
    let s2 := s1.modCtx h k (fun c => ({ c with
      last := n, out := c.out.map (fun o => if o.id < id then { o with left := o.left - 1 } else o) } : Ctx).holdFull)
    { s2 with ctxs := s2.ctxs.map (fun p => if p.1 / 16 = h ∧ p.2.yields ≠ [] then (p.1, { p.2 with yields := p.2.yields.erase k }) else p) }

/-! ## Arbitration (R68, R204) -/

/-- A context that may be chosen: READY, or waiting at issue for a condition that is tried again. -/
def CtxState.tries : CtxState → Bool
  | .ready | .waiting .retry => true
  | _ => false

/-- Arbitration passes over context k after its `yield`: another that it deferred to has been READY since and has not issued. -/
def State.passedOver (s : State) (h k : Nat) : Bool := (s.ctx h k).yields != []

/-- A context inserted by the time of its last issue, earliest first, after those of the same time. -/
def insertBy (last : Nat → Nat) (k : Nat) : List Nat → List Nat
  | [] => [k]
  | j :: js => if last k < last j then k :: j :: js else j :: insertBy last k js

/-- The contexts of core h in the order in which arbitration considers them. -/
def State.ranked (s : State) (h : Nat) : List Nat :=
  ((List.range 11).filter (fun k => (s.ctx h k).state.tries && !s.passedOver h k)).foldl
    (fun l k => insertBy (fun j => (s.ctx h j).last) k l) []

/-- The first context of the list that can issue does. -/
def State.tryList (s : State) (h : Nat) (defer : Bool) : List Nat → Out
  | [] => .next s
  | k :: ks =>
    match s.attempt h k defer with
    | .next t => if (t.ctx h k).state.stalled then t.tryList h defer ks else .next (t.noteIssue h k s.serial)
    | .fault f => .fault f
    | .refused r => .refused r

/-- Core h may issue: it is live in a launch that runs, and its chorus is not stopping (R369 .. R371). -/
def State.mayIssue (s : State) (h : Nat) : Bool :=
  decide (h < 65536) && s.dieLive (hdie h) &&
    (match (s.core h).launch.bind s.launchOf with
      | some l => !l.torn && !l.stops.contains (chorusOf h)
      | none => false)

/-- What a core cycle that has issued ends with: the rest of R58's order, and the count. -/
def State.closeCycle (h : Nat) : Out → Out
  | .next t => .next (t.idleCycle h)
  | o => o

/-- One core cycle of core h (R58, R68, R74): the barrier step, one instruction, then the `bacq`s, the dispatcher and the `join`s. -/
def State.cycleOf (s : State) (h : Nat) (defer : Bool) : Out :=
  if s.mayIssue h then
    let t := s.openCycle h
    State.closeCycle h (t.tryList h defer (t.ranked h))
  else .next s

/-- n core cycles of core h in which it issues nothing, each with every step of R58 (R74); once one of them changes nothing but the count,
so do those after it. -/
def State.idleCycles (s : State) (h : Nat) : Nat → State
  | 0 => s
  | n + 1 =>
    let t := s.idleCycle h
    if t = s.modCore h (fun c => c.ticked 1) then t.modCore h (fun c => c.ticked n) else t.idleCycles h n

/-- n such cycles pass for a core that is not out. -/
def State.idleFor (s : State) (h n : Nat) : State := if 65536 ≤ h then s else s.idleCycles h n

/-! ## Turns -/

/-- The instruction cache of core h takes the halfword at an address that its tables map. -/
def State.icFill (s : State) (h va : Nat) : State :=
  match s.translate h va with
  | .leaf e lvl =>
    let sp := leafSpace (s.devOf (hdie h)) e
    let a := leafKey e lvl va
    if NW ≤ va ∨ (s.dataError (s.devOf (hdie h)) ⟨sp, a⟩ 2 false).isSome then s
    else s.modCore h (fun c => { c with
      icache := SMap.put c.icache (a / 2) (BitVec.ofNat 16 (leNat (s.pocBytes sp a 2)), s.dctxOf h * 2 ^ 52 + va) })
  | _ => s

/-- Bytes written by another agent: granules that are replaced whole hold no error. A write to the panel's memory is discarded after a failed
start, when that memory does not answer (R421), and when a line of device memory cannot be reached (R409; DESIGN CHOICE, log entry 36). -/
def State.extWrite (s : State) (loc : Nat) (b : List Byte) : State :=
  let lost := (memPart loc).isSome &&
    (s.startState == 2 || (memPart loc == some 64 && (s.lostByte (s.outsideDev loc) ⟨.device 1, loc⟩ b.length).isSome))
  if lost then s else (s.setRaws loc b).unpoison loc b.length

/-- Ticks of a device's dispatcher clock pass (R365): its dispatcher's cycle is over (R366, R369). -/
def State.clockTicks (s : State) (dev n : Nat) : State :=
  if n = 0 then s
  else { s with
    dclk := SMap.put s.dclk dev (SMap.get s.dclk 0#64 dev + BitVec.ofNat 64 n), arbiter := SMap.put s.arbiter dev 0
    handled := SMap.del s.handled dev }

/-- The host of a device sends a FetchAdd, Swap or CAS on panel memory (R412): it goes to its home, where ATOMIC_PERFORM performs it. -/
def State.hostAtomic (s : State) (dev : Nat) (op : RmwOp) (w : Nat) (b : Word) (a : Nat) : State :=
  let known : Bool := match op with | .add | .swap | .cas _ => true | _ => false
  match s.outsideSpace a w with
  | some sp =>
    if known ∧ (w = 4 ∨ w = 8) ∧ a % w = 0 ∧ dev < s.devices ∧ s.startState ≠ 2 then
      s.sendIn ⟨0, 0, 0, .rmw op w b, 0#64, .host dev⟩ ⟨sp, a⟩
    else s
  | none => s

/-- An event that may take place between instructions: what has no encoding, but for the two fates of a fetch, which happen where
an instruction would. -/
def Instr.outside (i : Instr) : Bool :=
  match i with
  | .evEncodingNotAnInstruction _ _ _ | .evFetchRefused _ => false
  | _ => (toRaw i).isNone

/-- A turn of the agenda. -/
def State.turn (s : State) : Turn → Out
  | .issue h defer => s.cycleOf h defer
  | .event i => if Instr.outside i then exec i s else .next s
  | .tick h n => .next (s.idleFor h n)
  | .dtick dev n => .next (s.clockTicks dev n)
  | .extWrite loc b => .next (s.extWrite loc b)
  | .extAtomic dev op w b a => .next (s.hostAtomic dev op w b a)
  | .enqueue sw w => .next (s.enterQueue sw w)
  | .startStep dead masks => .next (s.nextStep dead masks)
  | .flash mc f => .next (if mc then { s with flashMc := f } else { s with flash := f })
  | .icFill h va => .next (s.icFill h (va / 2 * 2))
  | .icDrop h half => .next (s.modCore h (fun c => { c with icache := SMap.del c.icache half }))
  | .tlbDrop h i =>
    .next ((s.modCore h (fun c => { c with tlb := c.tlb.eraseIdx i })).modDie (hdie h) (fun e => e.retired (s.core h).tlb[i]?.toList))
  | .dieTlbDrop d i => .next (s.modDie d (fun e => { e.retired e.tlb[i]?.toList with tlb := e.tlb.eraseIdx i }))

/-! ## What happens when the agenda is empty

One way for time to pass among those that the rules allow (DESIGN CHOICE, log entry 6): the first internal event of a fixed list
that changes the state, else a core cycle of the core that has the fewest, else a tick of every clock. -/

/-- The events of context k of core h; a window that is open stays open while its context can issue. -/
def State.ctxEvents (s : State) (h k : Nat) : List (State → Out) :=
  let c := s.ctx h k
  (c.out.filter (fun o => o.left == 0 || c.state != .ready)).map (fun o => execEvInstructionComplete h k o.id)
    ++ (List.range c.post.length).map (fun n => execEvAtomicWatchdogRetire h k n)
    ++ (List.range c.post.length).flatMap (fun n =>
      [execEvClusterPeerRequest h k n, execEvLoadSatisfy h k n 0, execEvWriteLeavePostQueue h k n, execEvAtomicPerform (.entry h k n) false])
    ++ [execEvTrapEntry h k, execEvPageWalk h k, execEvEftDone h k, execEvJoinWake h k, execEvEvadvStepEnd h k, execEvXbwaitWake h k,
      execEvWaitbSatisfied h k, execEvBatchSlotFree h k, execEvQputRingRoom h k]
    ++ (List.range 11).map (fun k2 => execEvRedundantDrainCompare h k k2)

/-- The events of core h. -/
def State.coreEvents (s : State) (h : Nat) : List (State → Out) :=
  let c := s.core h
  (List.range 11).flatMap (s.ctxEvents h)
    ++ (List.range c.path.length).map (fun n => execEvWritePerform h n)
    ++ (List.range 32).map (fun i => execEvBacqGrant h i)
    ++ c.tagWait.map (fun w => execEvTagWaiterPerform h w.off)
    ++ c.sendq.flatMap (fun e => [execEvEventArrival h (evDst e.w), execEvNackResendTimer h (evDst e.w)])
    ++ c.layers.map (fun l => execEvHandlerTaskCreate h l.1)
    ++ [execEvTaskStart h, execEvSpillRefill h, execEvSpillbaseSwitch h, execEvInboxMessageTaken h, execEvPrefetchFill h 0, execEvLaunchPartEnd h,
      execEvStealRequest h, execEvStealVictimAnswer h, execEvStealAnswerArrival h, execEvStealRoundWaitExpiry h]

/-- The events of what lies between cores and engines. -/
def State.globalEvents (s : State) : List (State → Out) :=
  s.gangs.flatMap (fun g => [execEvGangComplete g.id, execEvMmaPlanesStart g.id])
    ++ s.reqs.map (fun r => execEvAtomicPerform (.req r.id) false)
    ++ s.recs.map (fun r => execEvDecombineReply r.m false)
    ++ s.arrivals.map (fun a => execEvBarrierArrival a.id)
    ++ s.dels.flatMap (fun d => [execEvCopyDeliveryCheck d.id, execEvDeliverySectorCredit d.id 0 false])
    ++ s.chans.map (fun p => execEvEnginePiece (2 ^ 64 + p.1) [])
    ++ s.jobs.flatMap (fun j =>
      [execEvCopyDeliveryCheck j.id, execEvEnginePiece j.id [], execEvDeliverySectorCredit j.id 0 false, execEvPacketCompletion j.id])
    ++ s.ops.map (fun o => execEvCopyOperationEnd o.id)
    ++ (List.range s.msgs.length).map (fun i => execEvCompletionMessageDeliver i)
    ++ s.dies.map (fun d => execEvFaultRecord d.1)
    ++ s.inwrites.map (fun w => execEvEnginePiece (2 ^ 65 + w.id) [])
    ++ (s.dies.filter (fun d => !d.2.syncFits 1)).flatMap (fun d =>
      ((d.2.recent.filter (fun n => SMap.has d.2.sync n || SMap.has d.2.homes n)).take 1).map (fun n =>
        if SMap.has d.2.homes n then execEvSyncHomeEvict d.1 n else execEvSyncCopyDrop d.1 n))
    ++ s.launches.flatMap (fun l => execEvLaunchCompletion l.serial :: l.stops.map (fun c => execEvChorusPreempt c))

/-- The internal events that the default schedule considers. -/
def State.internal (s : State) : List (State → Out) :=
  s.cores.flatMap (fun p => s.coreEvents p.1) ++ s.globalEvents
    ++ (List.range 64).flatMap (fun d => [execEvChorusRestore d, execEvDispatcherSelect d])
    ++ s.tears.map (fun t => execEvTeardownComplete t.dev t.dctx)
    ++ (List.range 128).flatMap (fun n => (List.range 16).map (fun e => execEvEngineSlotFetch n e))

/-- The event changes the state or stops the machine. -/
def State.acts (s : State) (e : State → Out) : Bool :=
  match e s with
  | .next t => decide (t ≠ s)
  | _ => true

/-- The core that issues next: one with a context to try, of the fewest cycles. -/
def State.nextCore (s : State) : Option Nat :=
  (s.cores.filter (fun p => s.mayIssue p.1 && !(s.ranked p.1).isEmpty)).foldl (fun acc p => match acc with
    | none => some p.1
    | some a => if p.2.cycle.toNat < (s.core a).cycle.toNat then some p.1 else some a) none

/-- The default schedule's step. -/
def State.default (s : State) : Out :=
  match s.internal.find? s.acts with
  | some e => e s
  | none =>
    if s.handled ≠ [] then .next (s.handled.foldl (fun t p => t.clockTicks p.1 1) s)
    else match s.nextCore with
    | some h => s.cycleOf h false
    | none =>
      .next ((List.range s.devices).foldl (fun t d => t.clockTicks d 1) (((s.cores.map Prod.fst).filter (fun h => decide (h < 65536))).foldl (fun t h => t.idleCycle h) s))

/-! ## After every turn -/

/-- A context that has deferred waits for no other that is not READY any more (R204). -/
def State.keepYields (s : State) : State :=
  { s with ctxs := s.ctxs.map (fun p =>
      if p.2.yields = [] then p
      else (p.1, { p.2 with yields := p.2.yields.filter (fun j => (s.ctx (p.1 / 16) j).state == .ready) })) }

/-- Units of core h have changed since an image of this launch was taken: they are dirty, or, for a core that is out, its image holds
the change (R371, R374). -/
def State.noteUnits (s : State) (h : Nat) (us : List Nat) : State :=
  if us = [] then s
  else if h < 65536 then s.modCore h (fun c => { c with dirty := (c.dirty ++ us).eraseDups })
  else match s.launchOf (h / 65536 - 1) with
    | some l => s.writeUnits (s.imagePart l (h % 65536)) h (some us)
    | none => s

/-- Every change by any agent is noted for the cores of which an image was taken (R374). -/
def State.noteDirty (old s : State) : State :=
  (s.cores.filter (fun p => p.2.saved && (old.core p.1).saved)).foldl
    (fun t p => t.noteUnits p.1 ((old.imageOf p.1 []).unitsChanged (s.imageOf p.1 []))) s

/-- What follows every turn. -/
def State.conclude (old : State) : Out → Out
  | .next t => .next (old.noteDirty t.keepYields)
  | o => o

/-! ## A word as the next instruction -/

/-- Where `withFetchWord` puts the code, and where its page tables and page lie. -/
def probeVa : Nat := 0x1_0000_0000
/-- An entry that points at a table or a page: valid, and for a leaf readable, writable, executable, user (R340). -/
def probeEntry (frame : Nat) (leaf : Bool) : Word := BitVec.ofNat 64 (frame * 65536 + (if leaf then 0x3F else 1))

/-- The launch of one chorus whose control context stands at the probe's code. -/
def probeLaunch : Launch :=
  { serial := 0, dev := 0, dctx := 0, queue := 0, packet := List.replicate 16 0#64, chor := [0] }

/-- The state with a launch whose control context on core (0, 0) is READY at a page that maps device memory, whose first bytes
are `b`; the next turn is a core cycle of that core (log entry 7). -/
def State.withCode (s : State) (b : List Byte) : State :=
  let put (m : Memory) (a : Nat) (x : Word) : Memory := m.setBytes a (leBytes 8 x.toNat)
  let m1 := put s.mem (0x1_0000 + 8 * vaIndex probeVa 1) (probeEntry 2 false)
  let m2 := put m1 (0x2_0000 + 8 * vaIndex probeVa 2) (probeEntry 3 false)
  let m3 := put m2 (0x3_0000 + 8 * vaIndex probeVa 3) (probeEntry 4 true)
  let s1 : State := { s with
    mem := m3.setBytes 0x4_0000 b
    launches := [probeLaunch]
    serial := 1
    ctl := SMap.put s.ctl (dctxRec 0 0) 0x1_0000#64
    agenda := [.issue 0 false] }
  ((s1.modDie 0 (fun d => { d with ptroot := 0x1_0000#64 })).setCore 0 { s1.core 0 with launch := some 0 }).begin 0 0
    (BitVec.ofNat 64 probeVa) 0#64 0#64 0#64 false none

end Sys2Proof.Machine
end

