-- ==== Sys2Proof/Machine/Step.lean ====
section
/-! DEFINITION. One step of the panel: the next turn of its agenda, or of the default schedule when the agenda is empty. -/

namespace Sys2Proof.Machine

/-- One thing that happens (R127). -/
def step (s : State) : Host.Outcome State Fault Refusal :=
  s.conclude (match s.agenda with
    | [] => s.default
    | t :: rest => ({ s with agenda := rest } : State).turn t)

/-- The instruction whose bits are `w`, laid out where the next step fetches it, the first word lowest, each little-endian. -/
def State.withFetchWord (s : State) (nbits w : Nat) : State :=
  s.withCode ((tableWords nbits w ++ [0#16, 0#16, 0#16]).flatMap (fun x => leBytes 2 x.toNat))

end Sys2Proof.Machine
end

