-- ==== Sys2Proof/Safety.lean ====
section
/-! DEFINITION. What the claims are stated in: runs that go on, the canonical form of memory, what an instruction leaves alone, how
its result appears, and tables of results written from the rules in terms of integers, bits and real numbers. -/

namespace Sys2Proof.Safety

open Sys2Proof.Machine

/-! ## Outcomes and runs -/

/-- The outcome is a next state. -/
def goesOn (o : Out) : Bool :=
  match o with
  | .next _ => true
  | _ => false

/-- The outcome has a next state with the property; a fault or a refusal has none. -/
def Leads (o : Out) (p : State → Prop) : Prop := ∃ t, o = .next t ∧ p t

/-- A run of n steps in which nothing stops the machine. -/
def runs : Nat → State → Prop
  | 0, _ => True
  | n + 1, s => Leads (step s) (runs n)

/-- Memory is in its canonical form. -/
def MemCanonical (s : State) : Prop := s.mem.wf = true

/-! ## What an instruction leaves alone -/

/-- Every byte of memory reads as before, at its point of coherence. -/
def SameBytes (s t : State) : Prop := ∀ sp a, t.pocByte sp a = s.pocByte sp a

/-- Every context but the executing one is as before. -/
def OthersSame (s t : State) : Prop := ∀ h k, ctxKey h k ≠ ctxKey s.now.h s.now.k → t.ctx h k = s.ctx h k

/-- Every core but the executing one is as before. -/
def CoresSame (s t : State) : Prop := ∀ h, h ≠ s.now.h → t.core h = s.core h

/-- Of the whole machine only the executing context may differ; every byte of memory reads as before. -/
def OnlyCur (s t : State) : Prop := t = { s with ctxs := t.ctxs } ∧ OthersSame s t ∧ SameBytes s t

/-- Of the whole machine only the executing context and its core may differ; every byte of memory reads as before. -/
def OnlyCore (s t : State) : Prop :=
  t = { s with ctxs := t.ctxs, cores := t.cores, serial := t.serial } ∧ OthersSame s t ∧ CoresSame s t ∧ SameBytes s t

/-! ## How an instruction ends -/

/-- Only the pc of the executing context differs. -/
def GoesTo (s t : State) (pc : Word) : Prop := OnlyCur s t ∧ t.cur = { s.cur with pc := pc }

/-- `gd` takes the value, unless it is `g0`; the pc is that of the next instruction in sequence; nothing else differs. -/
def WritesG (s t : State) (d : Reg) (x : Word) : Prop :=
  OnlyCur s t ∧ t.cur = { s.cur with g := t.cur.g, pc := s.cur.pc + s.len } ∧
    ∀ r, t.g r = if r = d ∧ r ≠ 0#5 then x else s.g r

/-- A long-latency instruction with lookahead l ends with these writes (R69, R180): with no window, and unless the turn leaves its
completion to an event, they are made now; else the instruction is outstanding with them. The next instruction follows. -/
def Ended (s t : State) (l : BitVec 4) (ws : List RegWrite) : Prop :=
  OthersSame s t ∧ CoresSame s t ∧ SameBytes s t ∧
  if s.now.defer = true ∨ l ≠ 0#4 then
    t = { s with ctxs := t.ctxs, serial := s.serial + 1 } ∧
      t.cur = { s.cur with
        pc := s.cur.pc + s.len
        out := s.cur.out ++ [⟨s.serial, s.cur.pc, l.toNat, s.now.uses, ws, .ready⟩] }
  else
    t = { s with ctxs := t.ctxs, cores := t.cores } ∧ t.cur = { s.cur.writes ws with pc := s.cur.pc + s.len } ∧
      t.me = ws.foldl Core.write s.me

/-- The instruction answers a next state in which it has ended with these writes. -/
def Ends (i : Instr) (s : State) (l : BitVec 4) (ws : List RegWrite) : Prop := Leads (exec i s) (fun t => Ended s t l ws)

/-- The instruction traps (R219): with nothing of the context outstanding the trap is entered, its registers saved, the mode
supervisor with the old mode beside it, and the pc at `tvec`; with instructions outstanding the context waits with the
trap pending, and of two pending traps the earlier instruction's stays. Nothing else differs. -/
def Trapped (s t : State) (code : Nat) (addr info : Word) : Prop :=
  OnlyCur s t ∧
  if s.cur.out = [] then
    t.cur = { s.cur with
      cause := BitVec.ofNat 64 code, fpc := s.cur.pc, rpc := s.cur.pc, faddr := addr, finfo := info
      tstat := t.cur.tstat, pc := s.me.tvec, state := .ready, trap := none, fetched := false } ∧
    t.cur.tstat.getLsbD 0 = true ∧ t.cur.tstat.getLsbD 1 = s.cur.tstat.getLsbD 0 ∧
    ∀ i, 2 ≤ i → t.cur.tstat.getLsbD i = s.cur.tstat.getLsbD i
  else
    t.cur = { s.cur with
      state := .waiting .trap
      trap := match s.cur.trap with
        | some u => if u.id < s.serial then some u else some ⟨s.serial, code, s.cur.pc, s.cur.pc, addr, info⟩
        | none => some ⟨s.serial, code, s.cur.pc, s.cur.pc, addr, info⟩ }

/-- The instruction answers a next state in which it has trapped. -/
def Traps (i : Instr) (s : State) (code : Nat) (addr info : Word) : Prop :=
  Leads (exec i s) (fun t => Trapped s t code addr info)

/-! ## Results of the scalar integer instructions -/

/-- R196: the destination and what its new value satisfies. -/
def rrSpec (i : Instr) (s : State) : Option (Reg × (Word → Prop)) :=
  match i with
  | .add o => some (o.d, fun x => x.toNat = ((s.g o.a).toNat + (s.g o.b).toNat) % 2 ^ 64)
  | .sub o => some (o.d, fun x => (x.toNat + (s.g o.b).toNat) % 2 ^ 64 = (s.g o.a).toNat)
  | .and o => some (o.d, fun x => ∀ j < 64, x.getLsbD j = ((s.g o.a).getLsbD j && (s.g o.b).getLsbD j))
  | .or o => some (o.d, fun x => ∀ j < 64, x.getLsbD j = ((s.g o.a).getLsbD j || (s.g o.b).getLsbD j))
  | .xor o => some (o.d, fun x => ∀ j < 64, x.getLsbD j = ((s.g o.a).getLsbD j != (s.g o.b).getLsbD j))
  | .andn o => some (o.d, fun x => ∀ j < 64, x.getLsbD j = ((s.g o.a).getLsbD j && !(s.g o.b).getLsbD j))
  | .sll o => some (o.d, fun x => x.toNat = (s.g o.a).toNat * 2 ^ ((s.g o.b).toNat % 64) % 2 ^ 64)
  | .srl o => some (o.d, fun x => x.toNat = (s.g o.a).toNat / 2 ^ ((s.g o.b).toNat % 64))
  | .sra o => some (o.d, fun x => x.toInt = (s.g o.a).toInt / 2 ^ ((s.g o.b).toNat % 64))
  | .rol o => some (o.d, fun x => ∀ j < 64, x.getLsbD ((j + (s.g o.b).toNat % 64) % 64) = (s.g o.a).getLsbD j)
  | .min o => some (o.d, fun x => x.toInt = Min.min (s.g o.a).toInt (s.g o.b).toInt)
  | .max o => some (o.d, fun x => x.toInt = Max.max (s.g o.a).toInt (s.g o.b).toInt)
  | .minn o => some (o.d, fun x => x.toNat = Min.min (s.g o.a).toNat (s.g o.b).toNat)
  | .maxn o => some (o.d, fun x => x.toNat = Max.max (s.g o.a).toNat (s.g o.b).toNat)
  | .mul o => some (o.d, fun x => x.toNat = (s.g o.a).toNat * (s.g o.b).toNat % 2 ^ 64)
  | .sel o => some (o.d, fun x => (s.g (cReg o.c) ≠ 0 → x = s.g o.a) ∧ (s.g (cReg o.c) = 0 → x = s.g o.b))
  | _ => none

/-- 1 when the condition holds, else 0. -/
def IsFlag (x : Word) (p : Prop) : Prop := (p → x = 1) ∧ (¬p → x = 0)

/-- R197. -/
def cmpSpec (i : Instr) (s : State) : Option (Reg × (Word → Prop)) :=
  match i with
  | .cmpEq o => some (o.d, fun x => IsFlag x (s.g o.a = s.g o.b))
  | .cmpNe o => some (o.d, fun x => IsFlag x (s.g o.a ≠ s.g o.b))
  | .cmpLt o => some (o.d, fun x => IsFlag x ((s.g o.a).toInt < (s.g o.b).toInt))
  | .cmpGe o => some (o.d, fun x => IsFlag x ((s.g o.a).toInt ≥ (s.g o.b).toInt))
  | .cmpLtn o => some (o.d, fun x => IsFlag x ((s.g o.a).toNat < (s.g o.b).toNat))
  | .cmpGen o => some (o.d, fun x => IsFlag x ((s.g o.a).toNat ≥ (s.g o.b).toNat))
  | .tst o => some (o.d, fun x => IsFlag x (∃ j, (s.g o.a).getLsbD j = true ∧ (s.g o.b).getLsbD j = true))
  | .mov o => some (o.d, fun x => x = s.g o.a)
  | _ => none

/-- R198: the six instructions without a width, and the two with widths 8, 16 and 32. -/
def unarySpec (i : Instr) (s : State) : Option (Reg × (Word → Prop)) :=
  match i with
  | .clz o => some (o.d, fun x => x.toNat ≤ 64 ∧ (s.g o.a).toNat < 2 ^ (64 - x.toNat) ∧
      (x.toNat < 64 → 2 ^ (63 - x.toNat) ≤ (s.g o.a).toNat))
  | .ctz o => some (o.d, fun x => x.toNat ≤ 64 ∧ (∀ j < x.toNat, (s.g o.a).getLsbD j = false) ∧
      (x.toNat < 64 → (s.g o.a).getLsbD x.toNat = true))
  | .popc o => some (o.d, fun x => x.toNat = ((List.range 64).filter (fun j => (s.g o.a).getLsbD j)).length)
  | .sext o =>
    if o.w.toNat < 3 then
      some (o.d, fun x => ∀ j < 64, x.getLsbD j = (s.g o.a).getLsbD (if j < 8 * 2 ^ o.w.toNat then j else 8 * 2 ^ o.w.toNat - 1))
    else none
  | .zext o => if o.w.toNat < 3 then some (o.d, fun x => x.toNat = (s.g o.a).toNat % 2 ^ (8 * 2 ^ o.w.toNat)) else none
  | .brev o => some (o.d, fun x => ∀ j < 64, x.getLsbD j = (s.g o.a).getLsbD (63 - j))
  | .bswap o => some (o.d, fun x => ∀ j < 8, x.extractLsb' (8 * j) 8 = (s.g o.a).extractLsb' (8 * (7 - j)) 8)
  | .neg o => some (o.d, fun x => (x.toNat + (s.g o.a).toNat) % 2 ^ 64 = 0)
  | _ => none

/-- R199 and R200. -/
def immSpec (i : Instr) (s : State) : Option (Reg × (Word → Prop)) :=
  match i with
  | .addi o => some (o.d, fun x => x.toNat = ((s.g o.a).toNat + o.imm.toNat) % 2 ^ 64)
  | .andi o => some (o.d, fun x => ∀ j < 64, x.getLsbD j = ((s.g o.a).getLsbD j && o.imm.getLsbD j))
  | .ori o => some (o.d, fun x => ∀ j < 64, x.getLsbD j = ((s.g o.a).getLsbD j || o.imm.getLsbD j))
  | .xori o => some (o.d, fun x => ∀ j < 64, x.getLsbD j = ((s.g o.a).getLsbD j != o.imm.getLsbD j))
  | .slli o => some (o.d, fun x => x.toNat = (s.g o.a).toNat * 2 ^ o.n.toNat % 2 ^ 64)
  | .srli o => some (o.d, fun x => x.toNat = (s.g o.a).toNat / 2 ^ o.n.toNat)
  | .srai o => some (o.d, fun x => x.toInt = (s.g o.a).toInt / 2 ^ o.n.toNat)
  | .li o => some (o.d, fun x => x = o.imm)
  | _ => none

/-- Truncated division with remainder on integers: a = b × q + r, with r smaller than b in magnitude and zero or of a's sign. -/
def TruncDiv (a b q r : Int) : Prop := a = b * q + r ∧ r.natAbs < b.natAbs ∧ (r = 0 ∨ (r < 0 ↔ a < 0))

/-- R206: lookahead, destination, and what the result satisfies. -/
def longSpec (i : Instr) (s : State) : Option (BitVec 4 × Reg × (Word → Prop)) :=
  match i with
  | .mulh o => some (o.l, o.d, fun x => ∃ lo : Nat, lo < 2 ^ 64 ∧ (s.g o.a).toInt * (s.g o.b).toInt = x.toInt * 2 ^ 64 + lo)
  | .mulhn o => some (o.l, o.d, fun x => ∃ lo : Nat, lo < 2 ^ 64 ∧ (s.g o.a).toNat * (s.g o.b).toNat = x.toNat * 2 ^ 64 + lo)
  | .div o => some (o.l, o.d, fun x =>
      (s.g o.b = 0 → x.toNat = 2 ^ 64 - 1) ∧
      (s.g o.b ≠ 0 → (s.g o.a).toInt = -(2 ^ 63) → (s.g o.b).toInt = -1 → x.toInt = -(2 ^ 63)) ∧
      (s.g o.b ≠ 0 → ¬((s.g o.a).toInt = -(2 ^ 63) ∧ (s.g o.b).toInt = -1) →
        ∃ r, TruncDiv (s.g o.a).toInt (s.g o.b).toInt x.toInt r))
  | .divn o => some (o.l, o.d, fun x =>
      (s.g o.b = 0 → x.toNat = 2 ^ 64 - 1) ∧
      (s.g o.b ≠ 0 → ∃ r, r < (s.g o.b).toNat ∧ (s.g o.a).toNat = (s.g o.b).toNat * x.toNat + r))
  | .rem o => some (o.l, o.d, fun x =>
      (s.g o.b = 0 → x = s.g o.a) ∧
      (s.g o.b ≠ 0 → ∃ q, TruncDiv (s.g o.a).toInt (s.g o.b).toInt q x.toInt))
  | .remn o => some (o.l, o.d, fun x =>
      (s.g o.b = 0 → x = s.g o.a) ∧
      (s.g o.b ≠ 0 → x.toNat < (s.g o.b).toNat ∧ ∃ q, (s.g o.a).toNat = (s.g o.b).toNat * q + x.toNat))
  | _ => none

/-! ## Floating point: real values and one rounding (R27, R33, R43 .. R46) -/

/-- The real value of a decoded finite number. -/
def Val (a : FVal) (x : ℝ) : Prop := ∃ s m e, a = .fin s m e ∧ x = (if s = true then -1 else 1) * (m : ℝ) * (2 : ℝ) ^ e

/-- A non-negative real rounded to an integer in a mode, `neg` telling the sign of the number it is the magnitude of (R44). -/
def RoundsInt (mode : RMode) (neg : Bool) (y : ℝ) (q : Nat) : Prop :=
  match mode, neg with
  | .rne, _ => |(q : ℝ) - y| ≤ 1 / 2 ∧ (|(q : ℝ) - y| = 1 / 2 → q % 2 = 0)
  | .rna, _ => |(q : ℝ) - y| ≤ 1 / 2 ∧ (|(q : ℝ) - y| = 1 / 2 → y < q)
  | .rtz, _ | .rdn, false | .rup, true => (q : ℝ) ≤ y ∧ y < q + 1
  | .rdn, true | .rup, false => y ≤ q ∧ (q : ℝ) < y + 1

/-- What a rounded value beyond the largest finite one becomes (R33): an infinity or the largest finite value by the mode; a format
without infinities has its largest finite value in their place. -/
def overflowOf (f : Fmt) (mode : RMode) (neg : Bool) : Nat :=
  match mode, neg with
  | .rne, _ | .rna, _ | .rdn, true | .rup, false => f.inf neg
  | .rtz, _ | .rdn, false | .rup, true => f.maxFin neg

/-- A non-zero real rounded once to a format (R43): to the format's number of significant bits, or to its smallest subnormal's
grid; NX when the value changes, UF when it changes and lies below the smallest normal, OF and NX beyond the largest finite
value (R46). -/
def RoundsIn (f : Fmt) (mode : RMode) (x : ℝ) (r : Nat × Flags) : Prop :=
  ∃ (neg : Bool) (u : ℤ) (q : Nat), (neg = true ↔ x < 0) ∧
    f.emin - f.m ≤ u ∧ |x| < (2 : ℝ) ^ (u + f.m + 1) ∧ (u = f.emin - f.m ∨ (2 : ℝ) ^ (u + f.m) ≤ |x|) ∧
    RoundsInt mode neg (|x| / (2 : ℝ) ^ u) q ∧
    ((q : ℝ) * (2 : ℝ) ^ u ≤ (f.qmax : ℝ) * (2 : ℝ) ^ f.umax →
      r.1 < 2 ^ f.width ∧ f.neg? r.1 = neg ∧ Val (f.decode r.1) ((if neg = true then -1 else 1) * (q : ℝ) * (2 : ℝ) ^ u) ∧
      r.2.nv = false ∧ r.2.dz = false ∧ r.2.of_ = false ∧
      (r.2.nx = true ↔ (q : ℝ) * (2 : ℝ) ^ u ≠ |x|) ∧
      (r.2.uf = true ↔ (q : ℝ) * (2 : ℝ) ^ u ≠ |x| ∧ |x| < (2 : ℝ) ^ f.emin)) ∧
    ((f.qmax : ℝ) * (2 : ℝ) ^ f.umax < (q : ℝ) * (2 : ℝ) ^ u →
      r = (overflowOf f mode neg, { of_ := true, nx := true }))

/-- The sum of two values, rounded once; the special cases of R227 and the zeros of R43. -/
def SumOf (f : Fmt) (a b : FVal) (r : Nat × Flags) : Prop :=
  ((a = .nan ∨ b = .nan) → r = (f.nan, {})) ∧
  (∀ s, a = .inf s → b = .inf s → r = (f.inf s, {})) ∧
  (∀ s, a = .inf s → b = .inf (!s) → r = (f.nan, { nv := true })) ∧
  (∀ s t m e, a = .inf s → b = .fin t m e → r = (f.inf s, {})) ∧
  (∀ s t m e, a = .fin t m e → b = .inf s → r = (f.inf s, {})) ∧
  (∀ s t m n d e, a = .fin s m d → b = .fin t n e → ∀ x y, Val a x → Val b y →
    (x + y = 0 → r = (f.signed (s && t) 0, {})) ∧ (x + y ≠ 0 → RoundsIn f .rne (x + y) r))

/-- The product (R227). -/
def ProductOf (f : Fmt) (a b : FVal) (r : Nat × Flags) : Prop :=
  ((a = .nan ∨ b = .nan) → r = (f.nan, {})) ∧
  (∀ s t, a = .inf s → b = .inf t → r = (f.inf (s != t), {})) ∧
  (∀ s t m e, (a = .inf s ∧ b = .fin t m e ∨ a = .fin t m e ∧ b = .inf s) →
    (m = 0 → r = (f.nan, { nv := true })) ∧ (m ≠ 0 → r = (f.inf (s != t), {}))) ∧
  (∀ s t m n d e, a = .fin s m d → b = .fin t n e → ∀ x y, Val a x → Val b y →
    (x * y = 0 → r = (f.signed (s != t) 0, {})) ∧ (x * y ≠ 0 → RoundsIn f .rne (x * y) r))

/-- A × B + C with one rounding (R227). -/
def FusedOf (f : Fmt) (a b c : FVal) (r : Nat × Flags) : Prop :=
  ((a = .nan ∨ b = .nan) → r = (f.nan, {})) ∧
  (∀ s t e, (a = .inf s ∧ b = .fin t 0 e ∨ a = .fin t 0 e ∧ b = .inf s) → r = (f.nan, { nv := true })) ∧
  (∀ s t, a = .inf s → b = .inf t → SumOf f (.inf (s != t)) c r) ∧
  (∀ s t m e, m ≠ 0 → (a = .inf s ∧ b = .fin t m e ∨ a = .fin t m e ∧ b = .inf s) → SumOf f (.inf (s != t)) c r) ∧
  (∀ s t m n d e, a = .fin s m d → b = .fin t n e → SumOf f (.fin (s != t) (m * n) (d + e)) c r)

/-- The quotient (R227). -/
def QuotientOf (f : Fmt) (a b : FVal) (r : Nat × Flags) : Prop :=
  ((a = .nan ∨ b = .nan) → r = (f.nan, {})) ∧
  (∀ s t, a = .inf s → b = .inf t → r = (f.nan, { nv := true })) ∧
  (∀ s t m e, a = .inf s → b = .fin t m e → r = (f.inf (s != t), {})) ∧
  (∀ s t m e, a = .fin t m e → b = .inf s → r = (f.signed (s != t) 0, {})) ∧
  (∀ s t m n d e, a = .fin s m d → b = .fin t n e → ∀ x y, Val a x → Val b y →
    (x = 0 → y = 0 → r = (f.nan, { nv := true })) ∧ (x ≠ 0 → y = 0 → r = (f.inf (s != t), { dz := true })) ∧
    (x = 0 → y ≠ 0 → r = (f.signed (s != t) 0, {})) ∧ (x ≠ 0 → y ≠ 0 → RoundsIn f .rne (x / y) r))

/-- The square root (R227). -/
def RootOf (f : Fmt) (a : FVal) (r : Nat × Flags) : Prop :=
  (a = .nan → r = (f.nan, {})) ∧ (a = .inf false → r = (f.inf false, {})) ∧ (a = .inf true → r = (f.nan, { nv := true })) ∧
  (∀ s m e, a = .fin s m e → ∀ x, Val a x →
    (x = 0 → r = (f.signed s 0, {})) ∧ (x < 0 → r = (f.nan, { nv := true })) ∧
    (0 < x → ∀ y, 0 < y → y * y = x → RoundsIn f .rne y r))

/-- 1 / A (R243). -/
def ReciprocalOf (f : Fmt) (a : FVal) (r : Nat × Flags) : Prop :=
  (a = .nan → r = (f.nan, {})) ∧ (∀ s, a = .inf s → r = (f.signed s 0, {})) ∧
  (∀ s m e, a = .fin s m e → ∀ x, Val a x →
    (x = 0 → r = (f.inf s, { dz := true })) ∧ (x ≠ 0 → RoundsIn f .rne (1 / x) r))

/-- 1 / √A (R243). -/
def ReciprocalRootOf (f : Fmt) (a : FVal) (r : Nat × Flags) : Prop :=
  (a = .nan → r = (f.nan, {})) ∧ (a = .inf false → r = (f.signed false 0, {})) ∧
  (a = .inf true → r = (f.nan, { nv := true })) ∧
  (∀ s m e, a = .fin s m e → ∀ x, Val a x →
    (x = 0 → r = (f.inf s, { dz := true })) ∧ (x < 0 → r = (f.nan, { nv := true })) ∧
    (0 < x → ∀ y, 0 < y → y * y * x = 1 → RoundsIn f .rne y r))

/-- 2^A where R243's table or an integer A makes it exact. -/
def PowerOf (f : Fmt) (a : FVal) (r : Nat × Flags) : Prop :=
  (a = .nan → r = (f.nan, {})) ∧ (a = .inf false → r = (f.inf false, {})) ∧ (a = .inf true → r = (f.signed false 0, {})) ∧
  (∀ n : ℤ, Val a n → f.emin ≤ n → n ≤ f.bias → Val (f.decode r.1) ((2 : ℝ) ^ n) ∧ r.2 = {})

/-- A conversion between formats in a mode (R33, R45). -/
def ConvertsTo (dst : Fmt) (mode : RMode) (a : FVal) (r : Nat × Flags) : Prop :=
  (a = .nan → r = (dst.nan, {})) ∧
  (∀ s, a = .inf s → r = (dst.inf s, { of_ := decide (dst.kind ≠ .ieee) })) ∧
  (∀ s e, a = .fin s 0 e → r = (dst.signed s 0, {})) ∧
  (∀ x, Val a x → x ≠ 0 → RoundsIn dst mode x r)

/-- A conversion to an integer in [lo, hi] (R45). -/
def ConvertsInt (mode : RMode) (lo hi : Int) (a : FVal) (r : Int × Flags) : Prop :=
  (a = .nan → r = (0, { nv := true })) ∧ (a = .inf true → r = (lo, { nv := true })) ∧ (a = .inf false → r = (hi, { nv := true })) ∧
  (∀ s m e x, a = .fin s m e → Val a x → ∃ q : Nat, RoundsInt mode s |x| q ∧
    let n : Int := if s = true then -(q : Int) else q
    (n < lo → r = (lo, { nv := true })) ∧ (hi < n → r = (hi, { nv := true })) ∧
    (lo ≤ n → n ≤ hi → r.1 = n ∧ r.2.nv = false ∧ r.2.dz = false ∧ r.2.of_ = false ∧ r.2.uf = false ∧
      (r.2.nx = true ↔ (n : ℝ) ≠ x)))

/-- R228: the smaller (`lo`) or larger of two operands; −0 lies below +0. -/
def SelectsOf (f : Fmt) (lo : Bool) (a b r : Nat) : Prop :=
  (f.decode a = .nan → f.decode b = .nan → r = f.nan) ∧
  (f.decode a = .nan → f.decode b ≠ .nan → r = b) ∧ (f.decode a ≠ .nan → f.decode b = .nan → r = a) ∧
  (f.decode a ≠ .nan → f.decode b ≠ .nan → (r = a ∨ r = b) ∧
    (f.neg? a = true → f.neg? b = false → r = if lo = true then a else b) ∧
    (f.neg? a = false → f.neg? b = true → r = if lo = true then b else a) ∧
    (f.neg? a = false → f.neg? b = false → r = if lo = true then Nat.min a b else Nat.max a b) ∧
    (f.neg? a = true → f.neg? b = true → r = if lo = true then Nat.max a b else Nat.min a b))

/-- R229: the four conditions. -/
def FpCond (c : Nat) (a b : FVal) : Prop :=
  let lt (p q : FVal) : Prop :=
    (∃ x y, Val p x ∧ Val q y ∧ x < y) ∨ (∃ x, Val p x) ∧ q = .inf false ∨ p = .inf true ∧ (∃ x, Val q x) ∨ p = .inf true ∧ q = .inf false
  let eq : Prop := (∃ x, Val a x ∧ Val b x) ∨ ∃ s, a = .inf s ∧ b = .inf s
  match c with
  | 0 => eq
  | 1 => lt a b
  | 2 => lt a b ∨ eq
  | _ => a = .nan ∨ b = .nan

/-- The five modes in the order of R44. -/
def modeOf (n : Nat) : RMode := [.rne, .rtz, .rdn, .rup, .rna].getD n .rna

/-! ## Results of the scalar floating-point instructions -/

/-- The decoded FP32 operand in an `f` register. -/
def fv (s : State) (r : Reg) : FVal := Fmt.fp32.decode (s.f r).toNat

/-- R227, R228, R231: lookahead, destination, and what the FP32 encoding and the flags satisfy. -/
def fpSpec (i : Instr) (s : State) : Option (BitVec 4 × Reg × (Nat × Flags → Prop)) :=
  match i with
  | .fadd o => some (o.l, o.d, SumOf .fp32 (fv s o.a) (fv s o.b))
  | .fsub o => some (o.l, o.d, SumOf .fp32 (fv s o.a) (fv s o.b).neg)
  | .fmul o => some (o.l, o.d, ProductOf .fp32 (fv s o.a) (fv s o.b))
  | .fdiv o => some (o.l, o.d, QuotientOf .fp32 (fv s o.a) (fv s o.b))
  | .fsqrt o => some (o.l, o.d, RootOf .fp32 (fv s o.a))
  | .ffma o => some (o.l, o.d, FusedOf .fp32 (fv s o.a) (fv s o.b) (fv s (cReg o.c)))
  | _ => none

/-- R230: the class of an operand, as the number of its bit. -/
def ClassOf (a : FVal) (k : Nat) : Prop :=
  (a = .nan → k = 8) ∧ (a = .inf true → k = 0) ∧ (a = .inf false → k = 7) ∧
  (∀ s e, a = .fin s 0 e → k = if s = true then 3 else 4) ∧
  (∀ s m e x, a = .fin s m e → Val a x → x ≠ 0 →
    (|x| < (2 : ℝ) ^ (-126 : ℤ) → k = if s = true then 2 else 5) ∧ ((2 : ℝ) ^ (-126 : ℤ) ≤ |x| → k = if s = true then 1 else 6))

/-- R232, code 7: to an integral value; infinities and zeros unchanged. -/
def IntegralOf (mode : RMode) (a : Nat) (r : Nat × Flags) : Prop :=
  (Fmt.fp32.decode a = .nan → r = (Fmt.fp32.nan, {})) ∧ (∀ s, Fmt.fp32.decode a = .inf s → r = (a, {})) ∧
  (∀ s m e x, Fmt.fp32.decode a = .fin s m e → Val (.fin s m e) x → ∃ q : Nat, RoundsInt mode s |x| q ∧
    ((q : ℝ) = |x| → r = (a, {})) ∧
    ((q : ℝ) ≠ |x| → Val (Fmt.fp32.decode r.1) ((if s = true then -1 else 1) * (q : ℝ)) ∧ Fmt.fp32.neg? r.1 = s ∧
      r.2 = { nx := true }))

/-- A value rounded to a narrower format and held widened (R232). -/
def NarrowsTo (f : Fmt) (mode : RMode) (a : FVal) (r : Nat × Flags) : Prop :=
  ∃ x fl, ConvertsTo f mode a x ∧ r.2 = x.2 ∧ ConvertsTo .fp32 .rne (f.decode x.1) (r.1, fl)

/-- The completing writes of an FP32 result and its flags. -/
def FpResult (d : Reg) (r : Nat × Flags) : List RegWrite := .f d (BitVec.ofNat 32 r.1) :: r.2.write

/-- R228 .. R234: lookahead, and what the completing writes satisfy. -/
def fpMoreSpec (i : Instr) (s : State) : Option (BitVec 4 × (List RegWrite → Prop)) :=
  match i with
  | .fmin o => some (o.l, fun ws => ∃ x : BitVec 32, ws = [.f o.d x] ∧
      SelectsOf .fp32 true (s.f o.a).toNat (s.f o.b).toNat x.toNat)
  | .fmax o => some (o.l, fun ws => ∃ x : BitVec 32, ws = [.f o.d x] ∧
      SelectsOf .fp32 false (s.f o.a).toNat (s.f o.b).toNat x.toNat)
  | .fcmp o => some (o.l, fun ws => ∃ x, ws = [.g o.d x] ∧ IsFlag x (FpCond o.cond.toNat (fv s o.a) (fv s o.b)))
  | .fclass o => some (o.l, fun ws => ∃ k, ws = [.g o.d (BitVec.ofNat 64 (2 ^ k))] ∧ ClassOf (fv s o.a) k)
  | .fsgn o => some (o.l, fun ws => ∃ x : BitVec 32, ws = [.f o.d x] ∧
      (fv s o.a = .nan → x = 0x7FC00000#32) ∧
      (fv s o.a ≠ .nan → (∀ j < 31, x.getLsbD j = (s.f o.a).getLsbD j) ∧
        x.getLsbD 31 = ((s.f o.a).getLsbD 31 != (s.f o.b).getLsbD 31)))
  | .fcvt o =>
    let m := modeOf o.mode.toNat
    let toG (lo hi : Int) : List RegWrite → Prop := fun ws => ∃ r, ConvertsInt m lo hi (fv s o.a) r ∧
      ws = .g o.d (BitVec.ofInt 64 r.1) :: r.2.write
    let ofInt (n : Int) : List RegWrite → Prop := fun ws => ∃ r, ws = FpResult o.d r ∧
      (n = 0 → r = (0, {})) ∧ (n ≠ 0 → RoundsIn .fp32 m (n : ℝ) r)
    if o.mode.toNat < 5 then
      some (o.l, match o.k.toNat with
        | 0 => toG (-(2 ^ 63)) (2 ^ 63 - 1)
        | 1 => toG 0 (2 ^ 64 - 1)
        | 2 => toG (-(2 ^ 31)) (2 ^ 31 - 1)
        | 3 => ofInt (s.g o.a).toInt
        | 4 => ofInt (s.g o.a).toNat
        | 5 => fun ws => ∃ r, ws = FpResult o.d r ∧ NarrowsTo .bf16 m (fv s o.a) r
        | 6 => fun ws => ∃ r, ws = FpResult o.d r ∧ NarrowsTo .fp16 m (fv s o.a) r
        | _ => fun ws => ∃ r, ws = FpResult o.d r ∧ IntegralOf m (s.f o.a).toNat r)
    else none
  | .fmov o =>
    let half := bits (s.g o.a) 15 0
    if o.k.toNat < 7 then
      some (o.l, match o.k.toNat with
        | 0 => fun ws => ws = [.f o.d (s.f o.a)]
        | 1 => fun ws => ∃ x : Word, ws = [.g o.d x] ∧ x.toNat = (s.f o.a).toNat
        | 2 => fun ws => ∃ x : BitVec 32, ws = [.f o.d x] ∧ x.toNat = (s.g o.a).toNat % 2 ^ 32
        | 3 => fun ws => ∃ x : BitVec 32, ws = [.f o.d x] ∧ x.toNat = half * 2 ^ 16
        | 4 => fun ws => ∃ x : BitVec 32, ws = [.f o.d x] ∧
            (Fmt.fp16.decode half ≠ .nan → ConvertsTo .fp32 .rne (Fmt.fp16.decode half) (x.toNat, {})) ∧
            (Fmt.fp16.decode half = .nan →
              x.toNat = half / 2 ^ 15 * 2 ^ 31 + 255 * 2 ^ 23 + half % 2 ^ 10 * 2 ^ 13)
        | 5 => fun ws => ∃ r, ConvertsTo .bf16 .rne (fv s o.a) r ∧ ws = .g o.d (BitVec.ofNat 64 r.1) :: r.2.write
        | _ => fun ws => ∃ r, ConvertsTo .fp16 .rne (fv s o.a) r ∧ ws = .g o.d (BitVec.ofNat 64 r.1) :: r.2.write)
    else none
  | .fli o =>
    if o.k.toNat = 3 ∧ 2 ^ 32 ≤ o.imm.toNat then none
    else
      let x := match o.k.toNat with
        | 0 => o.imm.toNat % 2 ^ 6 * 2 ^ 26
        | 1 => o.imm.toNat % 2 ^ 16 * 2 ^ 16
        | 2 => o.imm.toNat % 2 ^ 26 * 2 ^ 6
        | _ => o.imm.toNat
      some (o.l, fun ws => ws = [.f o.d (BitVec.ofNat 32 (if Fmt.fp32.decode x = .nan then 0x7FC00000 else x))])
  | _ => none

/-! ## Results of the vector instructions -/

/-- Lane j of w bits of a register. -/
def laneAt (w : Nat) (v : Vec) (j : Nat) : Nat := v.toNat / 2 ^ (w * j) % 2 ^ w

/-- The signed reading of w bits. -/
def lint (w x : Nat) : Int := if x < 2 ^ (w - 1) then (x : Int) else (x : Int) - 2 ^ w

/-- The width of an integer type code (R171): i32, i8, i16, i64. -/
def intWidth (ty : BitVec 3) : Nat := [32, 8, 16, 64].getD ty.toNat 0

/-- The lane `x` for the exact integer y: modulo 2^w, or clamped and the clamp told (R26). -/
def Fits (w : Nat) (sat : Bool) (y : Int) (x : Nat) (c : Bool) : Prop :=
  (sat = false → (x : Int) = y % 2 ^ w ∧ c = false) ∧
  (sat = true →
    (y < -(2 ^ (w - 1)) → lint w x = -(2 ^ (w - 1)) ∧ c = true) ∧
    (2 ^ (w - 1) - 1 < y → lint w x = 2 ^ (w - 1) - 1 ∧ c = true) ∧
    (-(2 ^ (w - 1)) ≤ y → y ≤ 2 ^ (w - 1) - 1 → lint w x = y ∧ c = false))

/-- All ones or all zeros. -/
def IsMask (w x : Nat) (p : Prop) : Prop := (p → x = 2 ^ w - 1) ∧ (¬p → x = 0)

/-- R235, R236: lookahead, destination, lane width, and what lane j and its clamping satisfy. -/
def viSpec (i : Instr) (s : State) : Option (BitVec 4 × VReg × Nat × (Nat → Nat → Bool → Prop)) :=
  let two (o : VIOps) (p : Nat → Nat → Nat → Nat → Bool → Prop) : Option (BitVec 4 × VReg × Nat × (Nat → Nat → Bool → Prop)) :=
    let w := intWidth o.ty
    some (o.l, o.d, w, fun j x c => p w (laneAt w (s.v o.a) j) (laneAt w (s.v o.b) j) x c)
  if i.wellFormed = false then none
  else match i with
  | .vadd o => two o (fun w a b x c => Fits w o.sat (lint w a + lint w b) x c)
  | .vsub o => two o (fun w a b x c => Fits w o.sat (lint w a - lint w b) x c)
  | .vmul o => two o (fun w a b x c => Fits w o.sat (lint w a * lint w b) x c)
  | .vmin o => two o (fun w a b x c => lint w x = Min.min (lint w a) (lint w b) ∧ c = false)
  | .vmax o => two o (fun w a b x c => lint w x = Max.max (lint w a) (lint w b) ∧ c = false)
  | .vand o => two o (fun _ a b x c => x = a &&& b ∧ c = false)
  | .vor o => two o (fun _ a b x c => x = a ||| b ∧ c = false)
  | .vxor o => two o (fun _ a b x c => x = a ^^^ b ∧ c = false)
  | .vshl o => two o (fun w a b x c => Fits w o.sat (lint w a * 2 ^ (b % w)) x c)
  | .vshr o => two o (fun w a b x c => x = a / 2 ^ (b % w) ∧ c = false)
  | .vsha o => two o (fun w a b x c => lint w x = lint w a / 2 ^ (b % w) ∧ c = false)
  | .vcmp o =>
    let w := intWidth o.ty
    some (o.l, o.d, w, fun j x c =>
      let a := laneAt w (s.v o.a) j
      let b := laneAt w (s.v o.b) j
      c = false ∧ IsMask w x (match o.cond.toNat with
        | 0 => a = b
        | 1 => a ≠ b
        | 2 => lint w a < lint w b
        | 3 => lint w a ≥ lint w b
        | 4 => a < b
        | _ => a ≥ b))
  | .vsel o =>
    let w := intWidth o.ty
    some (o.l, o.d, w, fun j x c => c = false ∧
      x = if (laneAt w (s.v o.c) j).testBit (w - 1) = true then laneAt w (s.v o.a) j else laneAt w (s.v o.b) j)
  | .vabs o =>
    let w := intWidth o.ty
    some (o.l, o.d, w, fun j x c => Fits w o.sat |lint w (laneAt w (s.v o.a) j)| x c)
  | .vmac o =>
    let w := intWidth o.ty
    some (o.l, o.d, w, fun j x c =>
      Fits w o.sat (lint w (laneAt w (s.v o.d) j) + lint w (laneAt w (s.v o.a) j) * lint w (laneAt w (s.v o.b) j)) x c)
  | .vsplat o => some (o.l, o.d, intWidth o.ty, fun _ x c => x = (s.g o.a).toNat % 2 ^ intWidth o.ty ∧ c = false)
  | _ => none

/-- The width and format of an FP type code (R171): fp32 4, bf16 5, fp16 6. -/
def fpOf (ty : BitVec 3) : Fmt := if ty.toNat = 5 then .bf16 else if ty.toNat = 6 then .fp16 else .fp32

/-- Flags of n lanes ORed together. -/
def Ored (n : Nat) (fl : Nat → Flags) (f : Flags) : Prop :=
  (f.nv = true ↔ ∃ j < n, (fl j).nv = true) ∧ (f.dz = true ↔ ∃ j < n, (fl j).dz = true) ∧
  (f.of_ = true ↔ ∃ j < n, (fl j).of_ = true) ∧ (f.uf = true ↔ ∃ j < n, (fl j).uf = true) ∧
  (f.nx = true ↔ ∃ j < n, (fl j).nx = true)

/-- R237, R243: lookahead, destination, format, and what lane j and its flags satisfy. -/
def vfSpec (i : Instr) (s : State) : Option (BitVec 4 × VReg × Fmt × (Nat → Nat × Flags → Prop)) :=
  let two (o : VTOps) (p : Fmt → Nat → Nat → Nat × Flags → Prop) : Option (BitVec 4 × VReg × Fmt × (Nat → Nat × Flags → Prop)) :=
    let f := fpOf o.ty
    some (o.l, o.d, f, fun j r => p f (laneAt f.width (s.v o.a) j) (laneAt f.width (s.v o.b) j) r)
  let one (o : V2Ops) (p : FVal → Nat × Flags → Prop) : Option (BitVec 4 × VReg × Fmt × (Nat → Nat × Flags → Prop)) :=
    some (o.l, o.d, .fp32, fun j r => p (Fmt.fp32.decode (laneAt 32 (s.v o.a) j)) r)
  if i.wellFormed = false then none
  else match i with
  | .vfadd o => two o (fun f a b r => SumOf f (f.decode a) (f.decode b) r)
  | .vfsub o => two o (fun f a b r => SumOf f (f.decode a) (f.decode b).neg r)
  | .vfmul o => two o (fun f a b r => ProductOf f (f.decode a) (f.decode b) r)
  | .vfmin o => two o (fun f a b r => SelectsOf f true a b r.1 ∧ r.2 = {})
  | .vfmax o => two o (fun f a b r => SelectsOf f false a b r.1 ∧ r.2 = {})
  | .vffma o =>
    let f := fpOf o.ty
    some (o.l, o.d, f, fun j r => FusedOf f (f.decode (laneAt f.width (s.v o.a) j)) (f.decode (laneAt f.width (s.v o.b) j))
      (f.decode (laneAt f.width (s.v o.c) j)) r)
  | .vfcmp o =>
    let f := fpOf o.ty
    some (o.l, o.d, f, fun j r => r.2 = {} ∧ IsMask f.width r.1
      (FpCond o.cond.toNat (f.decode (laneAt f.width (s.v o.a) j)) (f.decode (laneAt f.width (s.v o.b) j))))
  | .vexp2 o => one o (PowerOf .fp32)
  | .vrcp o => one o (ReciprocalOf .fp32)
  | .vrsq o => one o (ReciprocalRootOf .fp32)
  | _ => none

/-- R238: the lane widths and the lane conversion of a code in a mode. -/
def cvtSpec (code : Nat) (m : RMode) : Nat × Nat × (Nat → Nat × Flags → Prop) :=
  let c (a b : Fmt) : Nat × Nat × (Nat → Nat × Flags → Prop) := (a.width, b.width, fun x r => ConvertsTo b m (a.decode x) r)
  match code with
  | 0 => c .fp32 .bf16
  | 1 => c .fp32 .fp16
  | 2 => c .bf16 .fp32
  | 3 => c .fp16 .fp32
  | 4 => (32, 32, fun x r => ∃ q, ConvertsInt m (-(2 ^ 31)) (2 ^ 31 - 1) (Fmt.fp32.decode x) q ∧ lint 32 r.1 = q.1 ∧ r.2 = q.2)
  | 5 => (32, 32, fun x r => (x = 0 → r = (0, {})) ∧ (x ≠ 0 → RoundsIn .fp32 m (lint 32 x : ℝ) r))
  | 6 => c .fp32 .e4m3
  | 7 => c .fp32 .e5m2
  | 8 => c .e4m3 .fp32
  | 9 => c .e5m2 .fp32
  | 10 => c .bf16 .e4m3
  | 11 => c .bf16 .e5m2
  | 12 => c .e4m3 .bf16
  | 13 => c .e5m2 .bf16
  | 14 => c .bf16 .fp16
  | _ => c .fp16 .bf16

/-- The MX target formats of R240, the exponent of each one's largest finite value, and the bits of a code. -/
def mxSpec (fmt : Nat) : Fmt × Int × Nat := if fmt = 0 then (.e2m1, 2, 4) else if fmt = 1 then (.e4m3, 8, 8) else (.e5m2, 15, 8)

/-- R240: one block of 32 values quantised: its scale, its codes and their flags. -/
def Quantises (fmt : Nat) (x : Nat → FVal) (sc : Nat) (r : Nat → Nat × Flags) : Prop :=
  let (f, emt, _) := mxSpec fmt
  ((fmt = 0 ∧ ∃ j < 32, x j = .nan) → sc = 0x1FF ∧ ∀ j < 32, r j = (0, {})) ∧
  (¬(fmt = 0 ∧ ∃ j < 32, x j = .nan) →
    ((∀ j < 32, ∀ y, Val (x j) y → y = 0) → sc = 0x100) ∧
    (∀ k : ℤ, (∀ j < 32, ∀ y, Val (x j) y → |y| < (2 : ℝ) ^ (k + 1)) → (∃ j < 32, ∃ y, Val (x j) y ∧ (2 : ℝ) ^ k ≤ |y|) →
      (sc : ℤ) = Min.min (Max.max (k - emt + 256) 0) 0x1FE) ∧
    ∀ j < 32, ConvertsTo f .rne ((x j).scaled (256 - (sc : ℤ))) (r j))

/-- The number that a table distance takes a value for (R242): infinities count as ±2^128. -/
def TableVal (a : FVal) (y : ℝ) : Prop := Val a y ∨ a = .inf false ∧ y = 2 ^ 128 ∨ a = .inf true ∧ y = -(2 ^ 128)

/-- R242: the code chosen for a value from the sixteen entries of a table. -/
def CodeOf (x : FVal) (e : Nat → FVal) (c : Nat) (fl : Flags) : Prop :=
  ((x = .nan ∨ ∀ k < 16, e k = .nan) → c = 0 ∧ fl = { nv := true }) ∧
  (x ≠ .nan → (∃ k < 16, e k ≠ .nan) →
    c < 16 ∧ fl = { nx := fl.nx } ∧ (fl.nx = true ↔ ¬FpCond 0 x (e c)) ∧
    ∃ y z, TableVal x y ∧ TableVal (e c) z ∧ ∀ k < 16, ∀ t, TableVal (e k) t → |y - z| ≤ |y - t| ∧ (k < c → |y - z| < |y - t|))

/-- R248: the integer reductions of n lanes of w bits. -/
def Reduces (op w n : Nat) (v : Vec) (x : Word) : Prop :=
  match op with
  | 0 => x = BitVec.ofInt 64 ((Finset.range n).sum (fun j => lint w (laneAt w v j)))
  | 1 => (∃ j < n, x.toInt = lint w (laneAt w v j)) ∧ ∀ j < n, x.toInt ≤ lint w (laneAt w v j)
  | 2 => (∃ j < n, x.toInt = lint w (laneAt w v j)) ∧ ∀ j < n, lint w (laneAt w v j) ≤ x.toInt
  | 3 => (∃ j < n, x.toNat = laneAt w v j) ∧ ∀ j < n, x.toNat ≤ laneAt w v j
  | 4 => (∃ j < n, x.toNat = laneAt w v j) ∧ ∀ j < n, laneAt w v j ≤ x.toNat
  | 5 => ∀ b, x.getLsbD b = true ↔ ∀ j < n, (laneAt w v j).testBit b = true
  | 6 => ∀ b, x.getLsbD b = true ↔ ∃ j < n, (laneAt w v j).testBit b = true
  | _ => ∀ b, x.getLsbD b = true ↔ ((List.range n).filter (fun j => (laneAt w v j).testBit b)).length % 2 = 1

/-- R248: the FP sum of n values, before it is widened. -/
def FpSumOf (f : Fmt) (n : Nat) (x : Nat → FVal) (r : Nat × Flags) : Prop :=
  ((∃ j < n, x j = .nan) → r = (f.nan, {})) ∧
  ((∀ j < n, x j ≠ .nan) → (∃ j < n, x j = .inf false) → (∃ j < n, x j = .inf true) → r = (f.nan, { nv := true })) ∧
  (∀ s, (∀ j < n, x j ≠ .nan) → (∃ j < n, x j = .inf s) → (∀ j < n, x j ≠ .inf (!s)) → r = (f.inf s, {})) ∧
  (∀ y : Nat → ℝ, (∀ j < n, Val (x j) (y j)) →
    ((Finset.range n).sum y = 0 → (∀ j < n, ∃ e, x j = .fin true 0 e) → r = (f.signed true 0, {})) ∧
    ((Finset.range n).sum y = 0 → (∃ j < n, ∀ e, x j ≠ .fin true 0 e) → r = (0, {})) ∧
    ((Finset.range n).sum y ≠ 0 → RoundsIn f .rne ((Finset.range n).sum y) r))

/-- R248: the FP reductions of the n lanes of a register, held widened. -/
def FpReduces (op : Nat) (f : Fmt) (n : Nat) (v : Vec) (r : Nat × Flags) : Prop :=
  ∃ q, ConvertsTo .fp32 .rne (f.decode q) (r.1, {}) ∧
  match op with
  | 0 => FpSumOf f n (fun j => f.decode (laneAt f.width v j)) (q, r.2)
  | _ => r.2 = {} ∧ ((∀ j < n, f.decode (laneAt f.width v j) = .nan) → q = f.nan) ∧
      ((∃ j < n, f.decode (laneAt f.width v j) ≠ .nan) → (∃ j < n, q = laneAt f.width v j) ∧ f.decode q ≠ .nan ∧
        ∀ j < n, SelectsOf f (decide (op = 1)) q (laneAt f.width v j) q)

/-! ## Contexts and cores that an event or an instruction acts on -/

/-- Of the whole machine only context k of core h may differ. -/
def OnlyCtx (s t : State) (h k : Nat) : Prop :=
  t = { s with ctxs := t.ctxs } ∧ (∀ h' k', ctxKey h' k' ≠ ctxKey h k → t.ctx h' k' = s.ctx h' k') ∧ SameBytes s t

/-- Of the whole machine only core h may differ. -/
def OnlyCoreOf (s t : State) (h : Nat) : Prop :=
  t = { s with cores := t.cores } ∧ (∀ h', h' ≠ h → t.core h' = s.core h') ∧ SameBytes s t

/-- Of the whole machine only context k of core h and that core may differ. -/
def OnlyCtxCore (s t : State) (h k : Nat) : Prop :=
  t = { s with ctxs := t.ctxs, cores := t.cores } ∧ (∀ h' k', ctxKey h' k' ≠ ctxKey h k → t.ctx h' k' = s.ctx h' k') ∧
    (∀ h', h' ≠ h → t.core h' = s.core h') ∧ SameBytes s t

/-- Context e of core h starts (R10): the registers zero but for `g2`, `g3`, `g28` (the top of its stack slice) and `g30`; the trap,
flag and other per-context CSRs zero, user mode unless it is the designated context; READY at the entry. Accesses of its former life
that have not performed, and its result word, are kept; a handler keeps its layer's vector table entry (R297). -/
def Started (s u : State) (h e : Nat) (entry g2 g3 g30 : Word) (byStart : Bool) (layer : Option Nat) : Prop :=
  OnlyCtx s u h e ∧
  u.ctx h e = { ({} : Ctx) with
    g := (u.ctx h e).g, pc := entry, state := .ready, post := (s.ctx h e).post, result := (s.ctx h e).result
    byStart := byStart, layer := layer, hentry := match layer with | some i => ((s.core h).layer i).entry | none => 0
    tstat := if s.designated h e = true then 1#64 else 0#64 } ∧
  ∀ r, (u.ctx h e).gr r =
    if r = 2#5 then g2 else if r = 3#5 then g3 else if r = 30#5 then g30
    else if r = 28#5 then BitVec.ofNat 64 NW + (s.core h).stackbase + BitVec.ofNat 64 (e + 1) * (s.core h).stacksize else 0#64

/-- An eft that ends (R78, R203): its buffers are released, `g2` becomes its result word, and it is IDLE. -/
def EftEnds (s t : State) (h k : Nat) : Prop :=
  OnlyCtxCore s t h k ∧
  t.ctx h k = { s.ctx h k with state := .idle, result := (s.ctx h k).gr 2#5, layer := none, hentry := 0, byStart := false } ∧
  t.core h = { s.core h with bufs := (t.core h).bufs } ∧
  ∀ i, (t.core h).buf i =
    if (((s.core h).buf i).state = 1 ∨ ((s.core h).buf i).state = 4) ∧ ((s.core h).buf i).owner = k then
      { (s.core h).buf i with state := 1, owner := 0x1F } else (s.core h).buf i

/-- Writes complete in context k of core h, whose other fields are as `c`. -/
def CompletesWith (s t : State) (h k : Nat) (c : Ctx) (ws : List RegWrite) : Prop :=
  OnlyCtxCore s t h k ∧ t.ctx h k = c.writes ws ∧ t.core h = ws.foldl Core.write (s.core h)

/-- The values that `csrwr` can give a CSR (R217 and the tables it names): its number, and the mask of the bits it holds. -/
def csrMasks : List (Nat × Nat) :=
  [(0x008, 2 ^ 35 - 1), (0x010, 0xFF), (0x011, 2 ^ 64 - 1), (0x012, 2 ^ 64 - 1), (0x013, 2 ^ 64 - 1), (0x014, 2 ^ 52 - 2),
   (0x015, 3), (0x016, 2 ^ 64 - 1), (0x017, 2 ^ 64 - 1), (0x020, 0x1F), (0x021, 0xF), (0x022, 3), (0x030, 2 ^ 52 - 2),
   (0x031, 0x1FFC0), (0x040, 0x1FFC0), (0x041, 0x1FFC0), (0x050, 7), (0x058, 2 ^ 64 - 1), (0x111, 7), (0x118, 2 ^ 32 - 1),
   (0x119, 2 ^ 32 - 1), (0x11A, 2 ^ 32 - 1), (0x11B, 2 ^ 32 - 1), (0x11C, 2 ^ 32 - 1), (0x11D, 2 ^ 32 - 1), (0x11E, 2 ^ 32 - 1),
   (0x11F, 2 ^ 32 - 1)]

/-- A CSR access that the mode permits and that no earlier flag update holds up (R215, R216). -/
def CsrMay (s : State) (n : Nat) (wr : Bool) : Prop :=
  (s.cur.supervisor = true ∨ csrPrivileged n wr = false) ∧ s.csrWaits n = false

/-! ## Memory -/

/-- Only memory, its copies in L1s, sync engines and devices, TLBs, counts of accesses, tags, and what contexts have read differ. -/
def MemoryOnly (s u : State) : Prop :=
  u = { s with mem := u.mem, devLines := u.devLines, poison := u.poison, cores := u.cores, dies := u.dies } ∧
  (∀ h, u.core h = { s.core h with
    l1 := (u.core h).l1, tlb := (u.core h).tlb, tags := (u.core h).tags, seen := (u.core h).seen, newer := (u.core h).newer }) ∧
  ∀ d, u.die d = { s.die d with
    tlb := (u.die d).tlb, old := (u.die d).old, faultIn := (u.die d).faultIn, sync := (u.die d).sync, homes := (u.die d).homes
    recent := (u.die d).recent }

/-- Only copies and translations differ: every byte reads as before, and outside the L1s uncorrectable errors stand as before. -/
def CachesOnly (s u : State) : Prop :=
  MemoryOnly s u ∧ u.mem = s.mem ∧ (∀ g < 2 ^ 97, SMap.get u.poison false g = SMap.get s.poison false g) ∧ SameBytes s u

/-- The bytes stand at a location, and every other byte reads as before. -/
def StoredAt (s u : State) (loc : Loc) (bs : List Byte) : Prop :=
  (∀ j b, bs[j]? = some b → u.pocByte loc.space (loc.at_ + j) = b) ∧
  ∀ sp a, a < loc.at_ ∨ loc.at_ + bs.length ≤ a → u.pocByte sp a = s.pocByte sp a

/-- Writes performed one after another: each byte stands where no later one covers it, and every other byte reads as before. -/
def WritesStand (s t : State) (ws : List CWrite) : Prop :=
  (∀ (i : Nat) (w : CWrite) (j : Nat) (b : Byte), ws[i]? = some w → w.b[j]? = some b →
    (∀ (i' : Nat) (w' : CWrite), i < i' → ws[i']? = some w' →
      w.loc.at_ + j < w'.loc.at_ ∨ w'.loc.at_ + w'.b.length ≤ w.loc.at_ + j) → t.pocByte w.loc.space (w.loc.at_ + j) = b) ∧
  ∀ sp a, (∀ w ∈ ws, a < w.loc.at_ ∨ w.loc.at_ + w.b.length ≤ a) → t.pocByte sp a = s.pocByte sp a

/-- The byte lies in the mask of an entry that a line's home state has in a die's overflow area (R393). -/
def MaskByte (s : State) (line a : Nat) : Prop :=
  ∃ p ∈ s.dies, line ∈ p.2.ovf ∧ s.sovbase p.1 + 16 * p.2.ovf.idxOf line + 8 ≤ a ∧ a < s.sovbase p.1 + 16 * p.2.ovf.idxOf line + 16

/-- Sync copies of a line may be dropped: its home forgets them, in the mask of an overflow entry too (R142, R392). -/
def Forgets (s m : State) (line : Nat) : Prop := MemoryOnly s m ∧ ∀ sp a, ¬MaskByte s line a → m.pocByte sp a = s.pocByte sp a

/-- Only the translations that dies remember for accesses on their way differ (R344). -/
def Retained (s u : State) : Prop := u = { s with dies := u.dies } ∧ ∀ d, u.die d = { s.die d with old := (u.die d).old }

/-- The executing context's instruction stays outstanding, lacking p, with entries of its own in the post queue; the next
instruction follows. -/
def Queued (s t : State) (l : BitVec 4) (es : List PEntry) (ws : List RegWrite) (p : Pend) : Prop :=
  t = { s with ctxs := t.ctxs, serial := s.serial + 1 } ∧ OthersSame s t ∧ SameBytes s t ∧
  t.cur = { s.cur with
    pc := s.cur.pc + s.len, post := s.cur.post ++ es
    out := s.cur.out ++ [⟨s.serial, s.cur.pc, l.toNat, s.now.uses, ws, p⟩] }

/-- R271: operands, bytes, sign extension, and whether the destination is an `f` register. -/
def loadForm (i : Instr) : Option (MemOps × Nat × Bool × Bool) :=
  match i with
  | .ldB o => some (o, 1, false, false)
  | .ldH o => some (o, 2, false, false)
  | .ldW o => some (o, 4, false, false)
  | .ldD o => some (o, 8, false, false)
  | .ldBs o => some (o, 1, true, false)
  | .ldHs o => some (o, 2, true, false)
  | .ldWs o => some (o, 4, true, false)
  | .fld o => some (o, 4, false, true)
  | _ => none

/-- The write that a load of bytes makes (R271). -/
def LoadWrite (o : MemOps) (sgn isF : Bool) (bs : List Byte) (w : RegWrite) : Prop :=
  if isF = true then ∃ x : BitVec 32, w = .f o.d x ∧ x.toNat = leNat bs
  else ∃ x : Word, w = .g o.d x ∧ if sgn = true then x.toInt = lint (8 * bs.length) (leNat bs) else x.toNat = leNat bs

/-- R271: operands, bytes, and the value stored. -/
def storeForm (i : Instr) (s : State) : Option (MemOps × Nat × Nat) :=
  match i with
  | .stB o => some (o, 1, (s.g o.d).toNat)
  | .stH o => some (o, 2, (s.g o.d).toNat)
  | .stW o => some (o, 4, (s.g o.d).toNat)
  | .stD o => some (o, 8, (s.g o.d).toNat)
  | .fst o => some (o, 4, (s.f o.d).toNat)
  | _ => none

/-- The address of an MI instruction (R269). -/
def miAddr (s : State) (o : MemOps) (n : Nat) : Nat := ((s.g o.a).toNat + o.imm.toNat * n) % 2 ^ 52

/-- A write of the core to a line of the runs, or another access of the context to one, has not performed (R278). -/
def LinesBusy (s : State) (cs : List (Space × Nat × Nat)) : Prop :=
  (∃ e ∈ s.cur.post, ∃ r ∈ e.ranges, ∃ x ∈ cs, overlap r.1 r.2 (x.2.1 * 64) ((x.2.2 - x.2.1 + 1) * 64) = true) ∨
    ∃ w ∈ s.me.path, ∃ x ∈ cs, overlap w.loc.at_ w.b.length (x.2.1 * 64) ((x.2.2 - x.2.1 + 1) * 64) = true

/-- A write to this location ends as a refusal: this panel has no number, or the line is no device copy and its peer refuses (R378, R379). -/
def Refused (s : State) (loc : Loc) : Prop :=
  ∃ m d, loc.space = .peer m d ∧ ((s.ctlReg peeridAddr).getLsbD 8 = false ∨
    s.devCopy loc.space loc.at_ = none ∧ s.peerRefuses (locPeer loc.at_) false = true)

/-- A unit's write of n bytes at a location cannot be made (R378, R409). -/
def Unwritable (s : State) (dev : Nat) (loc : Loc) (n : Nat) : Prop := s.lostByte dev loc n ≠ none ∨ Refused s loc

/-- The operation on w bytes of an atomic (R280 .. R282): the old value and the operand give the new value, or none for a `cas` that
fails, and the flags of an FP sum. -/
def RmwResult (op : RmwOp) (w old b : Nat) (new : Option Nat) (fl : Word) : Prop :=
  match op with
  | .add => new = some ((old + b) % 2 ^ (8 * w)) ∧ fl = 0
  | .and => new = some (old &&& b) ∧ fl = 0
  | .or => new = some (old ||| b) ∧ fl = 0
  | .xor => new = some (old ^^^ b) ∧ fl = 0
  | .min => fl = 0 ∧ ∃ x < 2 ^ (8 * w), new = some x ∧ lint (8 * w) x = Min.min (lint (8 * w) old) (lint (8 * w) b)
  | .max => fl = 0 ∧ ∃ x < 2 ^ (8 * w), new = some x ∧ lint (8 * w) x = Max.max (lint (8 * w) old) (lint (8 * w) b)
  | .minn => new = some (Nat.min old b) ∧ fl = 0
  | .maxn => new = some (Nat.max old b) ∧ fl = 0
  | .swap => new = some b ∧ fl = 0
  | .cas x => fl = 0 ∧ new = if old = b then some (x.toNat % 2 ^ (8 * w)) else none
  | .fadd => ∃ r, SumOf .fp32 (Fmt.fp32.decode old) (Fmt.fp32.decode b) r ∧ new = some r.1 ∧ fl = r.2.word

/-- An atomic of page 4 (R280 .. R283): lookahead, sem, scope register, address register, bytes, whether a host page permits it,
operation, operand and the destination of its reply. -/
structure AtomForm where
  l      : BitVec 4
  sem    : BitVec 2
  xs     : Reg
  a      : Reg
  w      : Nat
  hostOk : Bool
  op     : RmwOp
  b      : Word
  reply  : Reply

/-- The atomics and their operands. -/
def atomForm (i : Instr) (s : State) : Option AtomForm :=
  let amo (o : AmoOps) (op : RmwOp) (hostOk : Bool) : Option AtomForm :=
    some ⟨o.l, o.sem, o.xs, o.a, if o.w32 = true then 4 else 8, hostOk, op, s.g o.b, .g o.d⟩
  match i with
  | .amoAdd o => amo o .add true
  | .amoAnd o => amo o .and false
  | .amoOr o => amo o .or false
  | .amoXor o => amo o .xor false
  | .amoMin o => amo o .min false
  | .amoMax o => amo o .max false
  | .amoMinn o => amo o .minn false
  | .amoMaxn o => amo o .maxn false
  | .swap o => amo o .swap true
  | .cas o => some ⟨o.l, o.sem, o.xs, o.a, if o.w32 = true then 4 else 8, true, .cas (s.g (cReg o.c)), s.g o.b, .g o.d⟩
  | .famoAdd o => some ⟨o.l, o.sem, o.xs, o.a, 4, false, .fadd, (s.f o.b).setWidth 64, .f o.d⟩
  | .fredAdd o => some ⟨o.l, o.sem, o.xs, o.a, 4, false, .fadd, (s.f o.b).setWidth 64, .none⟩
  | .red o => some ⟨o.l, o.sem, o.xs, o.a, if o.w32 = true then 4 else 8, false,
      ([.add, .and, .or, .xor, .min, .max, .minn, .maxn] : List RmwOp).getD o.op.toNat .add, s.g o.b, .none⟩
  | _ => none

/-- The writes of a reply (R280 .. R284). -/
def ReplyWrites (r : Reply) (w old : Nat) (fl : Word) (ws : List RegWrite) : Prop :=
  match r with
  | .g n => ∃ x : Word, ws = [.g n x] ∧ x.toInt = lint (8 * w) old
  | .f n => ∃ x : BitVec 32, ws = [.f n x, .fflags fl] ∧ x.toNat = old
  | _ => ws = []

/-- A pick that names a context, if it names a post-queue entry. -/
def PickOk : Pick → Prop
  | .entry _ k _ => k ≤ 10
  | .req _ => True

/-- A request that a pick names was sent after z, so that it follows z where they have one way (R377). -/
def SentBefore (s : State) (z : Req) (p : Pick) : Prop :=
  z ∈ s.reqs ∧ ∀ i, p = .req i → z ∈ s.reqs.takeWhile (fun r => r.id != i)

/-- A picked request is in the queue of a switch die already. -/
def InQueue (s : State) (sw : Nat) (p : Pick) (x : Req) : Prop := (∃ i, p = .req i) ∧ s.queueOf x = some sw

/-- Two requests, picked as a and b, may merge at a switch die beyond fitting (R377, R384, R387, R394): each enters the queue there or is a
candidate in it, the combining table has room, no request that arrives before one of them has yet to come there, x stands before y, and no
`nbctl` of the line is in the fabric. -/
def MayMerge (s : State) (sw : Nat) (a b : Pick) (x y : Req) : Prop :=
  PickOk a ∧ PickOk b ∧ s.tableUsed sw + 2 ≤ 4096 ∧ (∀ r ∈ s.reqs, r.id < s.serial ∧ r.came < s.serial) ∧ (s.reqs.map Req.id).Nodup ∧
    (InQueue s sw a x → x.cand = true) ∧ (InQueue s sw b y → y.cand = true ∧ InQueue s sw a x ∧ x.came < y.came) ∧
    (∀ r ∈ s.reqs, r.isNbctl = true → r.loc.at_ / 64 ≠ x.loc.at_ / 64) ∧
    (¬InQueue s sw a x → ∀ z, SentBefore s z a → s.precedes z x = true → s.shortOf z sw = false) ∧
    (¬InQueue s sw b y → ∀ z, SentBefore s z b → s.precedes z y = true → s.shortOf z sw = true → a = .req z.id)

/-- A tagged operation (R274): lookahead, sem, scope register, address and offset, access, need, operation, destination. -/
structure TagForm where
  l    : BitVec 4
  sem  : BitVec 2
  xs   : Reg
  a    : Reg
  imm  : Word
  acc  : Nat
  need : Need
  op   : TagOp
  dest : Option Reg

/-- The six tagged instructions. -/
def tagForm (i : Instr) (s : State) : Option TagForm :=
  match i with
  | .ldf o => some ⟨o.l, o.sem, o.xs, o.a, o.imm, 0, { rd := true }, .ldf, some o.d⟩
  | .ldfTake o => some ⟨o.l, o.sem, o.xs, o.a, o.imm, 2, { rd := true, wr := true }, .take, some o.d⟩
  | .ste o => some ⟨o.l, o.sem, o.xs, o.a, o.imm, 1, { wr := true }, .ste (s.g o.d), none⟩
  | .stf o => some ⟨o.l, o.sem, o.xs, o.a, o.imm, 1, { wr := true }, .stf (s.g o.d), none⟩
  | .tagclr o => some ⟨o.l, o.sem, o.xs, o.a, o.imm, 1, { wr := true }, .clr, none⟩
  | .tagrd o => some ⟨o.l, o.sem, o.xs, o.a, o.imm, 0, { rd := true }, .rd, some o.d⟩
  | _ => none

/-- A tagged operation needs this state of its word's tag, if it needs any (R63). -/
def tagNeeds : TagOp → Option Bool
  | .ldf | .take => some true
  | .ste _ => some false
  | .stf _ | .clr | .rd => none

/-- What a tagged operation leaves in the tag (R63). -/
def tagLeaves (op : TagOp) (full : Bool) : Bool :=
  match op with
  | .ldf | .rd => full
  | .take | .clr => false
  | .ste _ | .stf _ => true

/-- The word that a tagged operation writes. -/
def tagStores : TagOp → Option Word
  | .ste x | .stf x => some x
  | _ => none

/-- The step of a tagged operation at offset `off` of core h (R63): the word, if it writes one, and the tag. -/
def TagStep (s u : State) (h off : Nat) (op : TagOp) : Prop :=
  MemoryOnly s u ∧ (∀ h', h' ≠ h → (u.core h').tags = (s.core h').tags) ∧
  (∀ j, (u.core h).tagFull j = if j = off / 8 then tagLeaves op ((s.core h).tagFull (off / 8)) else (s.core h).tagFull j) ∧
  match tagStores op with
  | some x => StoredAt s u ⟨.local_ h, localKey h off⟩ (leBytes 8 x.toNat)
  | none => SameBytes s u

/-- The value a tagged operation returns. -/
def tagValue (s : State) (h off : Nat) (op : TagOp) : Word :=
  match op with
  | .rd => if (s.core h).tagFull (off / 8) = true then 1 else 0
  | _ => BitVec.ofNat 64 (leNat (s.pocBytes (.local_ h) (localKey h off) 8))

/-! ## Vector memory -/

/-- Byte b of a register. -/
def vByte (v : Vec) (b : Nat) : Byte := v.extractLsb' (8 * b) 8

/-- The byte that the executing context sees at a virtual address, where a read of it passes its checks. -/
def Sees (s : State) (va : Nat) (b : Byte) : Prop :=
  ∀ loc, s.locate va 1 { rd := true } = .ok loc → s.seeByte s.now.h s.cur.post loc.space loc.at_ = b

/-- Bytes written at virtual addresses in order, and no byte elsewhere: where two of them have one location the later stands. -/
def Wrote (s u : State) (ws : List (Nat × Byte)) : Prop :=
  (∀ (i va : Nat) (b : Byte) (loc : Loc), ws[i]? = some (va, b) → s.locate va 1 { wr := true } = .ok loc →
    (∀ (j va' : Nat) (b' : Byte) (loc' : Loc), i < j → ws[j]? = some (va', b') → s.locate va' 1 { wr := true } = .ok loc' → loc'.at_ ≠ loc.at_) →
    u.pocByte loc.space loc.at_ = b) ∧
  ∀ sp a, (∀ x ∈ ws, ∀ loc, s.locate x.1 1 { wr := true } = .ok loc → loc.at_ ≠ a) → u.pocByte sp a = s.pocByte sp a

/-- The address of a page 7 instruction (R244). -/
def vAddr (s : State) (a : Reg) (imm : Word) : Nat := ((s.g a).toNat + imm.toNat * 128) % 2 ^ 52

/-- The address of lane j of `vldx` and `vstx` (R246). -/
def vxAddr (s : State) (o : VMemXOps) (j : Nat) : Nat :=
  (((vAddr s o.a o.imm : Int) + lint 32 (laneAt 32 (s.v o.c) j)) % 2 ^ 52).toNat

/-- A vector transfer (R244 .. R246): lookahead, sem, scope register, alignment, the aligned addresses, and the pieces accessed. -/
structure VForm where
  l   : BitVec 4
  sem : BitVec 2
  xs  : Reg
  n   : Nat
  as  : List Nat
  ps  : List (Nat × Nat)

/-- The loads: with the register, and the address that byte b of it comes from. -/
def vLoadForm (i : Instr) (s : State) : Option (VForm × VReg × (Nat → Nat)) :=
  if i.wellFormed = false then none
  else match i with
  | .vld o =>
    let a := vAddr s o.a o.imm
    some (⟨o.l, o.sem, o.xs, 8, [a], [(a, 128)]⟩, o.d, fun b => a + b)
  | .vldb o =>
    let a := vAddr s o.a o.imm
    let n := tyWidth o.ty / 8
    some (⟨o.l, o.sem, o.xs, n, [a], [(a, n)]⟩, o.d, fun b => a + b % n)
  | .vldx o =>
    let n := tyWidth o.ty / 8
    let as := (List.range (128 / n)).map (vxAddr s o)
    some (⟨o.l, o.sem, o.xs, n, as, as.map (fun a => (a, n))⟩, o.d, fun b => vxAddr s o (b / n) + b % n)
  | _ => none

/-- The stores: with the bytes written, in order. -/
def vStoreForm (i : Instr) (s : State) : Option (VForm × List (Nat × Byte)) :=
  if i.wellFormed = false then none
  else match i with
  | .vst o =>
    let a := vAddr s o.a o.imm
    some (⟨o.l, o.sem, o.xs, 8, [a], [(a, 128)]⟩, (List.range 128).map (fun b => (a + b, vByte (s.v o.d) b)))
  | .vstx o =>
    let n := tyWidth o.ty / 8
    let as := (List.range (128 / n)).map (vxAddr s o)
    some (⟨o.l, o.sem, o.xs, n, as, as.map (fun a => (a, n))⟩,
      (List.range 128).map (fun b => (vxAddr s o (b / n) + b % n, vByte (s.v o.d) b)))
  | .vstm o =>
    let w := tyWidth o.ty
    let n := w / 8
    let a := vAddr s o.a o.imm
    let sel (j : Nat) : Bool := (laneAt w (s.v o.c) j).testBit (w - 1)
    let lane (j : Nat) : Nat := (a + n * j) % 2 ^ 52
    some (⟨o.l, o.sem, o.xs, n, [a], ((List.range (128 / n)).filter sel).map (fun j => (lane j, n))⟩,
      ((List.range 128).filter (fun b => sel (b / n))).map (fun b => (lane (b / n) + b % n, vByte (s.v o.d) b)))
  | _ => none

/-- The header of a compressed block can be read, and is h (R66, R67, R247). -/
def SpHeader (s : State) (o : VSpOps) (need : Need) (h : Word) : Prop :=
  let a := vAddr s o.a o.imm
  (o.sem = 0#2 ∨ s.scopeOk s.myDev (s.scopeOf o.xs) = true) ∧ a % 8 = 0 ∧
    (∃ hp, s.spread need [(a, 8)] = .ok hp ∧ ∀ p ∈ hp, s.canLoad p.1 p.2 = true) ∧ ∀ k < 8, Sees s (a + k) (h.extractLsb' (8 * k) 8)

/-- The header describes a block (R67), for an element index (R247). -/
def SpGood (h : Word) : Prop :=
  bits h 55 48 < 4 ∧ bits h 15 0 ≠ 0 ∧ bits h 15 0 % 64 = 0 ∧ bits h 31 16 ≤ bits h 15 0 ∧ bits h 31 16 ≤ bits h 47 32

/-! ## Tiles and the chorus -/

/-- A row run (R254): its first row and how many rows, inside the tile. -/
def RunIs (g : Word) (first n : Nat) : Prop := bits g 63 8 = 0 ∧ first = bits g 3 0 ∧ n = 16 - bits g 7 4 ∧ first + n ≤ 16

/-- Row 0's address lies in no skew-mode buffer of the own local memory (R51). -/
def NoSkew (s : State) (va : Nat) : Prop := ∀ off, s.nearLoc va 1 = .ok (s.now.h, off) → s.me.skewBuf off = none

/-- The address of row 0 of a tile (R255), and whether it is stored in skew mode. -/
def TileAt (s : State) (va : Nat) (skew : Bool) : Prop :=
  NoSkew s va ∧ va % 128 = 0 ∧ skew = false ∨
    ∃ off b, s.nearLoc va 1 = .ok (s.now.h, off) ∧ s.me.skewBuf off = some b ∧ (off - b.first) % 2048 = 0 ∧ skew = true

/-- The offset of byte b of word w of row r of a tile, when row `first` stands at an offset (R51, R255). -/
def rowByte (off first : Nat) (skew : Bool) (r w b : Nat) : Nat :=
  off + 128 * (r - first) + (w + if skew = true then r else 0) % 16 * 8 + b

/-- The same when row 0 stands there. -/
def tileByte (off : Nat) (skew : Bool) (r w b : Nat) : Nat := rowByte off 0 skew r w b

/-- The byte that the executing context sees at an offset of core h's local memory. -/
def seesLocal (s : State) (h off : Nat) : Byte := s.seeByte s.now.h s.cur.post (.local_ h) (localKey h off)

/-- Rows of a tile register as completing writes. -/
def rowWrites (d : TReg) (first n : Nat) (rows : Nat → BitVec 1024) : List RegWrite :=
  (List.range n).map (fun i => .tile d (first + i) (rows i))

/-- An access of own local memory passes its checks (R253). -/
def OwnAccess (s : State) (va n off : Nat) (rd wr : Bool) : Prop :=
  s.nearLoc va n = .ok (s.now.h, off) ∧ s.checkBuf s.now.h off n va wr = .ok () ∧
    (rd = true → s.checkData va ⟨.local_ s.now.h, localKey s.now.h off⟩ n false = .ok ())

/-- The location of an offset of own local memory. -/
def ownAt (s : State) (off : Nat) : Loc := ⟨.local_ s.now.h, localKey s.now.h off⟩

/-- The eight granules of an element as entries of the executing instruction (R253). -/
def elemEntries (s : State) (kind : PKind) (at_ : Loc) : List PEntry :=
  (List.range 8).map (fun j => ⟨s.serial, 0, 0, ⟨at_.space, at_.at_ + 8 * j⟩, kind, 0⟩)

/-- The code of B element (k, n) in an image of `c` or `x` codes (R96). -/
def imageCode (img : List Byte) (k n : Nat) : Nat := (img.getD (16 * k + n / 2) 0).toNat / 16 ^ (n % 2) % 16

/-- The scale of column n and K block j in an image whose scales start at `base` (R30, R96). -/
def imageScale (img : List Byte) (base n j : Nat) : Nat := leNat ((img.drop (base + 2 * (4 * n + j))).take 2) % 512

/-- A scale of a bank. -/
def bankScale (b : Bank) (n j : Nat) : Nat := (SMap.get b.scales 0x100#16 (4 * n + j)).toNat % 512

/-- The value and status that 64 bytes hold (R38). -/
def ElemOf (x : Nat) (a : Acc) : Prop :=
  a.v = lint 384 (x % 2 ^ 384) ∧ a.sticky = x.testBit 384 ∧ a.ovfp = x.testBit 385 ∧ a.ovfn = x.testBit 386 ∧ a.nan = x.testBit 387

/-- AccAdd (R40). -/
def AccSum (a : Acc) (c : Int) (nan ovfn ovfp sticky : Bool) (r : Acc) : Prop :=
  let m : Int := 2 ^ 383 - 1
  (m < a.v + c → r.v = m) ∧ (a.v + c < -m → r.v = -m) ∧ (-m ≤ a.v + c → a.v + c ≤ m → r.v = a.v + c) ∧
  (r.nan = true ↔ a.nan = true ∨ nan = true) ∧ (r.sticky = true ↔ a.sticky = true ∨ sticky = true) ∧
  (r.ovfp = true ↔ a.ovfp = true ∨ ovfp = true ∨ m < a.v + c) ∧ (r.ovfn = true ↔ a.ovfn = true ∨ ovfn = true ∨ a.v + c < -m)

/-- Drain (R42): a set sticky bit puts the exact value beyond V, away from zero. -/
def DrainsTo (f : Fmt) (a : Acc) (r : Nat × Flags) : Prop :=
  ((a.nan = true ∨ a.ovfp = true ∧ a.ovfn = true) → r = (f.nan, { nv := true })) ∧
  (a.nan = false → a.ovfp = true → a.ovfn = false → r = (f.inf false, { of_ := true, nx := true })) ∧
  (a.nan = false → a.ovfp = false → a.ovfn = true → r = (f.inf true, { of_ := true, nx := true })) ∧
  (a.nan = false → a.ovfp = false → a.ovfn = false →
    (a.v = 0 → r = (0, { uf := a.sticky, nx := a.sticky })) ∧
    (a.v ≠ 0 → RoundsIn f .rne
      (((a.v : ℝ) + (if a.sticky = true then (if a.v < 0 then -1 / 2 else 1 / 2) else 0)) * (2 : ℝ) ^ (-192 : ℤ)) r))

/-- The row that drained elements make (R105). -/
def DrainRow (fmt : Nat) (hi : Bool) (old new : BitVec 1024) (x : Nat → Nat) : Prop :=
  if fmt = 0 then ∀ n < 32, laneAt 32 new n = x n
  else ∀ n < 32, laneAt 16 new (n + if hi = true then 32 else 0) = x n ∧
    laneAt 16 new (n + if hi = true then 0 else 32) = laneAt 16 old (n + if hi = true then 0 else 32)

/-- The format of a drain (R262). -/
def drainOf (fmt : Nat) : Fmt := [Fmt.fp32, .bf16].getD fmt .fp16

/-- The writes of a drain of m rows of 32 elements (R47, R105, R262): rows, flags, and the elements' status bits. -/
def DrainWrites (d : TReg) (fmt : Nat) (hi : Bool) (first m : Nat) (old : Nat → BitVec 1024) (e : Nat → Acc) (ws : List RegWrite) : Prop :=
  ∃ (rows : Nat → BitVec 1024) (r : Nat → Nat × Flags) (g : Flags) (af : Word),
    ws = rowWrites d first m rows ++ g.write ++ (if af = 0 then [] else [.aflags af]) ∧
    (∀ j < 32 * m, DrainsTo (drainOf fmt) (e j) (r j)) ∧
    (∀ i < m, DrainRow fmt hi (old i) (rows i) (fun n => (r (32 * i + n)).1)) ∧ Ored (32 * m) (fun j => (r j).2) g ∧
    af.toNat < 16 ∧ (af.getLsbD 3 = true ↔ ∃ j < 32 * m, (e j).nan = true) ∧ (af.getLsbD 2 = true ↔ ∃ j < 32 * m, (e j).ovfn = true) ∧
    (af.getLsbD 1 = true ↔ ∃ j < 32 * m, (e j).ovfp = true) ∧ (af.getLsbD 0 = true ↔ ∃ j < 32 * m, (e j).sticky = true)

/-- The elements of A: row i of K block j, element k, from a row of the tile and of the next tile (R36, R98): an integer, or the decoded
number of a format. -/
def aElem (pair : Nat) (t u : BitVec 1024) (q : Nat) : Int ⊕ FVal :=
  match pair with
  | 0 | 6 => .inl (lint 8 (laneAt 8 t q))
  | 1 => .inl (lint 4 (laneAt 4 t q))
  | 2 => .inr (Fmt.bf16.decode (if q < 64 then laneAt 16 t q else laneAt 16 u (q - 64)))
  | 3 => .inr (Fmt.e2m1.decode (laneAt 4 t q))
  | 4 => .inr (Fmt.e4m3.decode (laneAt 8 t q))
  | _ => .inr (Fmt.e5m2.decode (laneAt 8 t q))

/-- The A values of a block of 32 elements that a product takes (R36, R37): a BF16 block is aligned to its largest exponent. -/
def AVals (pair : Nat) (x : Nat → Int ⊕ FVal) (bad : Bool) (a : Nat → ℝ) : Prop :=
  (bad = true ↔ ∃ k < 32, ∃ v, x k = .inr v ∧ ∀ y, ¬Val v y) ∧
  (∀ k < 32, ∀ n, x k = .inl n → a k = n) ∧
  if pair = 2 then
    ∃ emax : ℤ, -126 ≤ emax ∧ (∀ k < 32, ∀ v y, x k = .inr v → Val v y → |y| < (2 : ℝ) ^ (emax + 1)) ∧
      (emax = -126 ∨ ∃ k < 32, ∃ v y, x k = .inr v ∧ Val v y ∧ (2 : ℝ) ^ emax ≤ |y|) ∧
      ∀ k < 32, ∀ v y, x k = .inr v → Val v y → ∃ q : Nat, RoundsInt .rne (decide (y < 0)) (|y| * (2 : ℝ) ^ (22 - emax)) q ∧
        a k = (if y < 0 then -1 else 1) * (q : ℝ) * (2 : ℝ) ^ (emax - 22)
  else ∀ k < 32, ∀ v y, x k = .inr v → Val v y → a k = y

/-- A code of a bank (R95). -/
def bankCode (b : Bank) (k n : Nat) : Nat := (SMap.get b.codes 0#128 k).toNat / 16 ^ n % 16

/-- The B values of a column in a K block (R34, R36), by format pair. -/
def BVals (pair : Nat) (c : Core) (m : MReg) (n j : Nat) (bad : Bool) (b : Nat → ℝ) : Prop :=
  let code (k : Nat) : Nat := bankCode (c.bankOf m) (32 * j + k) n
  match pair with
  | 0 | 1 | 2 =>
    let e (k : Nat) : FVal := Fmt.bf16.decode (laneAt 16 ((c.bankOf m).table.setWidth 1024) (code k))
    (bad = true ↔ ∃ k < 32, ∀ y, ¬Val (e k) y) ∧ ∀ k < 32, ∀ y, Val (e k) y → b k = y
  | 6 => bad = false ∧ ∀ k < 32, b k = 16 * lint 4 (bankCode c.bank1 (32 * j + k) n) + bankCode c.bank0 (32 * j + k) n
  | _ => bad = false ∧ ∀ k < 32, Val (Fmt.e2m1.decode (code k)) (b k)

/-- The contribution of a K block (R39): c grid units, truncated toward zero. -/
def Contributes (abad bbad : Bool) (a b : Nat → ℝ) (sa sb : Nat) (c : Int) (nan st : Bool) : Prop :=
  let bad := abad = true ∨ bbad = true ∨ sa = 0x1FF ∨ sb = 0x1FF
  let x := (Finset.range 32).sum (fun k => a k * b k) * (2 : ℝ) ^ ((sa : ℤ) + sb - 512) * (2 : ℝ) ^ (192 : ℤ)
  (bad → c = 0 ∧ nan = true ∧ st = false) ∧
  (¬bad → nan = false ∧ |(c : ℝ)| ≤ |x| ∧ |x| < |(c : ℝ)| + 1 ∧ 0 ≤ (c : ℝ) * x ∧ (st = true ↔ (c : ℝ) ≠ x))

/-- What a member's accumulator (i, n) becomes (R260): the four contributions of the leader's row in ascending K block order. -/
def MmaAcc (pair : Nat) (leader c : Core) (t : TReg) (sc : Vec) (m : MReg) (i n : Nat) (a0 r : Acc) : Prop :=
  ∃ a : Nat → Acc, a 0 = a0 ∧ a 4 = r ∧ ∀ j < 4, ∃ (av bv : Nat → ℝ) (ab bb nan st : Bool) (x : Int),
    AVals pair (fun k => aElem pair (leader.tileRow t i) (leader.tileRow (t + 1) i) (32 * j + k)) ab av ∧ BVals pair c m n j bb bv ∧
    Contributes ab bb av bv (laneAt 16 sc (4 * i + j) % 512) (if pair < 3 then 256 else bankScale (c.bankOf m) n j) x nan st ∧
    AccSum (a j) x nan false false st (a (j + 1))

/-- The seven `mma` instructions, with R261's number of the format pair. -/
def mmaForm (i : Instr) : Option (Nat × MmaOps) :=
  match i with
  | .mmaI8c o => some (0, o)
  | .mmaI4c o => some (1, o)
  | .mmaBfc o => some (2, o)
  | .mmaE2x o => some (3, o)
  | .mmaE4x o => some (4, o)
  | .mmaE5x o => some (5, o)
  | .mmaI8i8 o => some (6, o)
  | _ => none

/-- A gang that is forming in the executing core's chorus and shares a position with a mask (R100). -/
def near (s : State) (mask : BitVec 32) : List Gang :=
  s.gangs.filter (fun g => g.chorus == chorusOf s.now.h && g.turn.isNone && !g.full && (g.mask &&& mask) != 0#32)

/-! ## Declared buffers, tasks and events -/

/-- What `finfo` says of a refused buffer (R56). -/
def bufRefusal (wr : Bool) (b : Buf) (i : Nat) : Word := BitVec.ofNat 64 ((if wr = true then 2048 else 0) + b.state * 256 + i)

/-- A declaration of buffer i by the executing context is legal (R51, R54, R292). -/
def DeclLegal (s : State) (i : Nat) (w : Word) : Prop :=
  let mine := (s.me.buf i).state = 1 ∧ (s.me.buf i).owner = s.now.k
  let first := bits w 35 25 * 64
  let n := (bits w 46 36 + 1) * 64
  if w.getLsbD 3 = true then mine
  else
    ((s.me.buf i).state = 0 ∨ mine) ∧ first + n ≤ 2 ^ 17 ∧ bits w 24 22 < 4 ∧
    (w.getLsbD 21 = true → first % 128 = 0 ∧ n % 2048 = 0) ∧
    (∀ j < 32, j ≠ i → (s.me.buf j).state ≠ 0 →
      first + n ≤ (s.me.buf j).base * 64 ∨ (s.me.buf j).base * 64 + ((s.me.buf j).size + 1) * 64 ≤ first) ∧
    (w.getLsbD 50 = true → 16 * bits w 63 51 + 16 ≤ first ∨ first + n ≤ 16 * bits w 63 51)

/-- A declaration word that R292 refuses. -/
def DeclBad (w : Word) : Prop :=
  bits w 49 47 ≠ 0 ∨ bits w 20 4 ≠ 0 ∨ bits w 2 0 ≠ 0 ∨ w.getLsbD 50 = false ∧ bits w 63 51 ≠ 0 ∨ w.getLsbD 3 = true ∧ w ≠ 8

/-- Only one buffer of a core differs, and the L1 when it is emptied. -/
def BufOnly (s u : State) (h i : Nat) (b : Buf) (empty : Bool) : Prop :=
  OnlyCoreOf s u h ∧ u.core h = { s.core h with bufs := (u.core h).bufs, l1 := if empty = true then [] else (s.core h).l1 } ∧
    ∀ j, (u.core h).buf j = if j = i then b else (s.core h).buf j

/-- The task that `spawn` reads from 32 bytes (R71, R72): evt clear, and pin set when a slot is valid. -/
def TaskOf (bs : List Byte) (t : Task) : Prop :=
  (∀ j < 64, t.w0.getLsbD j =
    if j = 57 then false
    else if j = 56 then ((leNat (bs.take 8)).testBit 56 || (List.range 4).any (fun i => decide (128 ≤ (bs.getD (8 + i) 0).toNat)))
    else (leNat (bs.take 8)).testBit j) ∧
  t.slots.toNat = leNat ((bs.drop 8).take 4) ∧ t.arg0.toNat = leNat ((bs.drop 16).take 8) ∧
  t.arg1.toNat = leNat ((bs.drop 24).take 8) ∧ t.layer = none

/-- A record with a reserved bit, or bit 0 of the entry, set (R72). -/
def TaskBad (bs : List Byte) : Prop :=
  let x := leNat bs
  (∃ j, 58 ≤ j ∧ j < 64 ∧ x.testBit j = true) ∨ (∃ j, 52 ≤ j ∧ j < 56 ∧ x.testBit j = true) ∨ x.testBit 0 = true ∨
    (∃ j, 96 ≤ j ∧ j < 128 ∧ x.testBit j = true) ∨ ∃ i < 4, x.testBit (64 + 8 * i + 5) = true ∨ x.testBit (64 + 8 * i + 6) = true

/-- The ids of the buffers that valid slots name, in slot order (R71). -/
def taskIds (bs : List Byte) : List Nat :=
  (((List.range 4).map (fun i => (bs.getD (8 + i) 0).toNat)).filter (fun x => decide (128 ≤ x))).map (fun x => x % 32)

/-- The core after a task has left where it was held, its buffers DRAINING and eft k's (R74). -/
def TaskLeft (c c' : Core) (t : Task) (k : Nat) : Prop :=
  ∀ j, c'.buf j = if j ∈ t.bufs then { c.buf j with state := 4, owner := k } else c.buf j

/-- Eft k of core h starts a task (R74, R126, R149): its record is copied to its stack slice, its buffers become its own, the L1 is
emptied for a stolen task and for one with a buffer that a phase completed, and it begins with the record's registers. -/
def TaskStarts (s t : State) (h k : Nat) (τ : Task) (stolen : Bool) (layer : Option Nat) (f : Core → Core) : Prop :=
  let at_ := ((s.core h).stackbase + BitVec.ofNat 64 k * (s.core h).stacksize).toNat % 2 ^ 17
  ∃ u : State, u.ctxs = s.ctxs ∧ TaskLeft (s.core h) (u.core h) τ k ∧
    u.core h = { f (s.core h) with
      bufs := (u.core h).bufs
      l1 := if stolen = true ∨ ∃ i ∈ τ.bufs, ((s.core h).buf i).byPhase = true then [] else (s.core h).l1 } ∧
    (∀ h', h' ≠ h → u.core h' = s.core h') ∧
    StoredAt s u ⟨.local_ h, localKey h at_⟩ (leBytes 8 τ.w0.toNat ++ leBytes 8 τ.slots.toNat ++ leBytes 8 τ.arg0.toNat ++ leBytes 8 τ.arg1.toNat) ∧
    Started u t h k (BitVec.ofNat 64 (bits τ.w0 51 0)) τ.arg0 τ.arg1
      (BitVec.ofNat 64 NW + (s.core h).stackbase + BitVec.ofNat 64 k * (s.core h).stacksize) false layer

/-- The lowest IDLE eft of a core is k. -/
def LowestIdle (s : State) (h k : Nat) : Prop :=
  1 ≤ k ∧ k ≤ 10 ∧ (s.ctx h k).state = .idle ∧ ∀ j, 1 ≤ j → j < k → (s.ctx h j).state ≠ .idle

/-- In the cycle of core h that ends now nothing but a start of the dispatcher is due (R58, R222), and it has not acted: no barrier step, no
waiting `bacq` that may be served, no waiting `join`. -/
def OnlyStarts (s : State) (h : Nat) : Prop :=
  (s.core h).acted = false ∧ ((s.core h).stepped = true ∨ (s.core h).due = [] ∧ (s.core h).barq = []) ∧
  (∀ k ≤ 10, ∀ o ∈ (s.ctx h k).out, ∀ i < 32, o.pend = .bacq i →
    ((s.core h).buf i).state ≠ 3 ∧ ¬(((s.core h).buf i).state = 1 ∧ ((s.core h).buf i).owner = 0x1F)) ∧
  ∀ k ≤ 10, ∀ d e, (s.ctx h k).state ≠ .waiting (.join d e)

/-- A wait after a round of refusals ends when the own deque or inbox changes (R77). -/
def stirred (x : Steal) : Steal :=
  match x with
  | .round _ => .next 0
  | y => y

/-- The core takes part in a launch that has not ended for it. -/
def Working (s : State) (h : Nat) : Prop := h < 65536 ∧ (s.core h).launch.isSome = true ∧ (s.core h).ended = false

/-- Every buffer that a valid slot names is FULL (R73). -/
def Ripe (c : Core) (t : Task) : Prop := ∀ i ∈ t.bufs, (c.buf i).state = 3

/-- An event's 64 bits (R81). -/
def eventBits (dst : Nat) (pen : Bool) (step layer : Nat) (delta : Int) (index : Nat) : Word :=
  BitVec.ofNat 64 (dst * 2 ^ 48 + (if pen = true then 2 ^ 40 else 0) + step % 4 * 2 ^ 38 + layer * 2 ^ 32 + (delta % 2 ^ 16).toNat * 2 ^ 16 + index)

/-- A fan-out group in 64 bytes (R91, R92): theta, qmax, step, and the destinations' core, index offset and layer. -/
def GroupIs (bs : List Byte) (theta qmax step : Nat) (ds : List (Nat × Nat × Nat)) : Prop :=
  theta = leNat (bs.take 4) ∧ qmax = leNat ((bs.drop 4).take 4) ∧ step = leNat ((bs.drop 8).take 4) ∧
    ds.length = (bs.getD 12 0).toNat ∧
    ∀ i d, ds[i]? = some d → d = (leNat ((bs.drop (16 + 6 * i)).take 2), leNat ((bs.drop (18 + 6 * i)).take 2), leNat ((bs.drop (20 + 6 * i)).take 2))

/-- A group that R92 accepts, for an index base when there is one. -/
def GroupGood (s : State) (bs : List Byte) (theta qmax : Nat) (ds : List (Nat × Nat × Nat)) (base : Option Nat) : Prop :=
  1 ≤ theta ∧ theta ≤ qmax ∧ qmax ≤ 0x7FFF ∧ ds.length ≤ 8 ∧ leNat ((bs.drop 13).take 3) = 0 ∧
    ∀ d ∈ ds, d.2.2 < 64 ∧ s.liveFor s.me d.1 = true ∧ ∀ b, base = some b → d.2.1 + b + 31 ≤ 0xFFFD

/-- One lane of the encoder (R93): y, prev and acc give the new acc and the emitted q, and whether the sum clamped. -/
def Encodes (sat : Bool) (theta qmax : Nat) (y prev acc acc' q : Int) (c : Bool) : Prop :=
  ∃ x : Nat, Fits 32 sat (acc + (y - prev)) x c ∧
    let a := lint 32 x
    ((a.natAbs < theta → acc' = a ∧ q = 0) ∧
     (theta ≤ a.natAbs → q.natAbs = theta * Nat.min (a.natAbs / theta) (qmax / theta) ∧ (a < 0 → q ≤ 0) ∧ (0 ≤ a → 0 ≤ q) ∧ acc' = a - q))

/-- The inbox entries of layer i's current step, oldest first. -/
def currentEntries (c : Core) (i : Nat) : List InEntry :=
  c.inbox.filter (fun e => decide (e.layer = i ∧ (e.step + 4 - (c.layer i).step.toNat % 4) % 4 = 0))

/-- The step of layer i has ended by a vector table entry (R88): the layer's own, or the one that a running handler keeps (R297). -/
def StepEnded (c : Core) (entry : Word) (i : Nat) : Prop := (c.layer i).p0 = bits entry 31 24 ∧ currentEntries c i = []

/-- An event takes its place in the inbox of a core (R83, R88): a pennant is counted, an event is added to the newest entry of its
layer, step and index where the sum fits 16 bits, and otherwise becomes a new entry. -/
def InboxTakes (c c' : Core) (w : Word) : Prop :=
  let i := bits w 37 32
  let rel := (bits w 39 38 + 4 - (c.layer i).step.toNat % 4) % 4
  let d := lint 16 (bits w 31 16)
  let same (e : InEntry) : Prop := e.layer = i ∧ e.step = bits w 39 38 ∧ e.index = bits w 15 0
  (w.getLsbD 40 = true → c'.inbox = c.inbox ∧ (∀ j, j ≠ i → c'.layer j = c.layer j) ∧
    c'.layer i = { c.layer i with
      p0 := (c.layer i).p0 + (if rel = 0 then 1 else 0), p1 := (c.layer i).p1 + (if rel = 1 then 1 else 0)
      p2 := (c.layer i).p2 + (if rel = 2 then 1 else 0) }) ∧
  (w.getLsbD 40 = false → (∀ j, c'.layer j = c.layer j) ∧
    (∀ a e b, c.inbox = a ++ e :: b → same e → (∀ x ∈ b, ¬same x) →
      c'.inbox = if -32768 ≤ e.delta + d ∧ e.delta + d ≤ 32767 then a ++ { e with delta := e.delta + d } :: b
        else c.inbox ++ [⟨i, bits w 39 38, bits w 15 0, d⟩]) ∧
    ((∀ e ∈ c.inbox, ¬same e) → c'.inbox = c.inbox ++ [⟨i, bits w 39 38, bits w 15 0, d⟩]))

/-! ## Barriers and copies -/

/-- The 128 bits of the barrier at an offset of core h, and its fields (R121): phase, arrivals, sectors, reload. -/
def barrierBits (s : State) (h off : Nat) : Nat := leNat (s.pocBytes (.local_ h) (localKey h off) 16)
def bPhase (n : Nat) : Nat := n % 16
def bArrivals (n : Nat) : Nat := n / 2 ^ 16 % 2 ^ 20
def bSectors (n : Nat) : Nat := n / 2 ^ 36 % 2 ^ 28
def bReload (n : Nat) : Nat := n / 2 ^ 64 % 2 ^ 20

/-- The barrier at an offset of core h holds this phase, these arrivals and sectors, and its reload as before; of the rest of the machine
only that core may differ. -/
def BarrierSet (s t : State) (h off phase a x : Nat) : Prop :=
  let m := barrierBits t h off
  t = { s with mem := t.mem, poison := t.poison, cores := t.cores } ∧
  (∀ sp y, y < localKey h off ∨ localKey h off + 16 ≤ y → t.pocByte sp y = s.pocByte sp y) ∧
  bPhase m = phase ∧ bArrivals m = a ∧ bSectors m = x ∧ bReload m = bReload (barrierBits s h off) ∧ ∀ g, g ≠ h → t.core g = s.core g

/-- A barrier of core h is tested (R122): when arrivals and sectors are both zero, and no arrival found arrivals at zero before, the
phase advances and arrivals is reloaded, and each FILLING buffer bound to the barrier becomes FULL with owner none; otherwise nothing
happens. -/
def PhaseTested (s t : State) (h off : Nat) : Prop :=
  let n := barrierBits s h off
  let full := bArrivals n = 0 ∧ bSectors n = 0 ∧ off ∉ (s.core h).stuck
  (¬full → t = s) ∧
  (full → BarrierSet s t h off ((bPhase n + 1) % 16) (bReload n) 0 ∧
    t.core h = { s.core h with bufs := (t.core h).bufs } ∧ ∀ i, (t.core h).buf i =
      if ((s.core h).buf i).state = 2 ∧ ((s.core h).buf i).bv = true ∧ ((s.core h).buf i).barrier * 16 = off then
        { (s.core h).buf i with state := 3, owner := 0x1F, byPhase := true }
      else (s.core h).buf i)

/-- The arrivals and sectors of a barrier after a change (R122): credits of n sectors, or an arrival that expects n bytes. -/
def ChangedTo (n : Nat) (x : BarChange) (a c : Nat) : Prop :=
  if x.arrival = true then a = (if bArrivals n = 0 then 0xF_FFFF else bArrivals n - 1) ∧ c = (bSectors n + x.n / 32) % 2 ^ 28
  else a = bArrivals n ∧ (c : Int) = ((bSectors n : Int) - x.n) % 2 ^ 28

/-- A credit or an arrival is applied to its barrier of core h (R122): arrivals and sectors change, the barrier is one that the step
tests, and `stuck` tells that the arrival found arrivals at zero. -/
def ChangeApplied (s t : State) (h : Nat) (x : BarChange) : Prop :=
  let c := s.core h
  let n := barrierBits s h x.off
  let more (l : List Nat) : List Nat := l.filter (fun o => o != x.off) ++ [x.off]
  ∃ a b, ChangedTo n x a b ∧ BarrierSet s t h x.off (bPhase n) a b ∧
    t.core h = { c with due := more c.due, stuck := if x.arrival = true ∧ bArrivals n = 0 then more c.stuck else c.stuck }

/-- One relation after another along a list. -/
def Each {α : Type} (r : α → State → State → Prop) : List α → State → State → Prop
  | [], s, t => t = s
  | x :: xs, s, t => ∃ u, r x s u ∧ Each r xs u t

/-- The barrier step of core h (R122): the credits that wait, then the arrivals, then a test of every barrier in use, from its fields as
they stand (R433). Which barriers are in use is the model's reading: log entry 27. -/
def BarriersStepped (s t : State) (h : Nat) : Prop :=
  let q := (s.core h).barq
  ∃ s1 s2 s3, OnlyCoreOf s s1 h ∧ s1.core h = { s.core h with barq := [] } ∧
    Each (fun x a b => ChangeApplied a b h x) (q.filter (fun x => !x.arrival) ++ q.filter (fun x => x.arrival)) s1 s2 ∧
    Each (fun off a b => PhaseTested a b h off) (s2.core h).due s2 s3 ∧
    OnlyCoreOf s3 t h ∧ t.core h = { s3.core h with stepped := true, due := (s3.core h).due.filter (s3.barrierInUse h) }

/-- A credit or an arrival reaches a barrier of core h (R61, R122): it waits for the core's next barrier step; at a core that is out the image
takes it at once, and a phase that it completes completes once the core is restored, what comes after it later still (log entry 27). -/
def BarrierStep (s t : State) (h : Nat) (x : BarChange) : Prop :=
  let c := s.core h
  (h < 65536 ∨ x.off ∈ c.fills → OnlyCoreOf s t h ∧ t.core h = { c with barq := c.barq ++ [x] }) ∧
  (65536 ≤ h → x.off ∉ c.fills → ∃ u, ChangeApplied s u h x ∧
    let n := barrierBits u h x.off
    let full := bArrivals n = 0 ∧ bSectors n = 0 ∧ x.off ∉ (u.core h).stuck
    (¬full → t = u) ∧ (full → OnlyCoreOf u t h ∧ t.core h = { u.core h with fills := c.fills ++ [x.off] }))

/-- The state when the core cycle of core h has made its barrier step (R58); a core that is out has no cycle. -/
def stepped (s : State) (h : Nat) : State := if h < 65536 then s.openCycle h else s

/-- A live buffer shares a byte with [off, off + n). -/
def Hits (b : Buf) (off n : Nat) : Prop := b.state ≠ 0 ∧ off < b.base * 64 + (b.size + 1) * 64 ∧ b.base * 64 < off + n

/-- A delivery may land on the ranges (R59): every buffer there is FILLING, or EMPTY with a bound barrier. -/
def MayLand (c : Core) (rs : List (Nat × Nat)) : Prop :=
  ∀ i < 32, (∃ r ∈ rs, Hits (c.buf i) r.1 r.2) → (c.buf i).state = 2 ∨ (c.buf i).state = 1 ∧ (c.buf i).bv = true

/-- The core once a delivery on the ranges is accepted (R59): EMPTY buffers there are FILLING, with owner 0x10. -/
def Filling (c c' : Core) (rs : List (Nat × Nat)) : Prop :=
  c' = { c with bufs := c'.bufs } ∧ ∀ i, ((∃ r ∈ rs, Hits (c.buf i) r.1 r.2) → (c.buf i).state = 1 → c'.buf i = { c.buf i with state := 2, owner := 0x10 }) ∧
    ((∀ r ∈ rs, ¬Hits (c.buf i) r.1 r.2) ∨ (c.buf i).state ≠ 1 → c'.buf i = c.buf i)

/-- The refused transfer words (R304). -/
def TransferBad (w : Word) (isLocal : Bool) : Prop := bits w 63 32 ≠ 0 ∨ w.getLsbD 13 = true ∨ w.getLsbD 14 = true ∧ isLocal = false

/-- 64 sectors of four granules each, granule n of which is `good n` (R305). -/
def Granulated (ss : List Sector) (good : Nat → Granule → Prop) : Prop :=
  ss.length = 64 ∧ ∀ n < 256, ∃ y x, ss[n / 4]? = some y ∧ y.length = 4 ∧ y[n % 4]? = some x ∧ good n x

/-- 64 sectors of 2,048 known bytes, byte n of which is `byte n`, and whose granule n goes to `dst n` (R305). -/
def SectorsOf (ss : List Sector) (byte : Nat → Byte) (dst : Nat → Option Loc) : Prop :=
  Granulated ss (fun n x => x.src = none ∧ x.bytes.length = 8 ∧ (∀ b < 8, x.bytes[b]? = some (byte (8 * n + b))) ∧ dst n = some x.dst)

/-- Where granule n of a tile goes in core h's local memory (R51, R52). -/
def tileGranule (h off : Nat) (skew : Bool) (n : Nat) : Option Loc :=
  if n < 256 then some ⟨.local_ h, localKey h (tileByte off skew (n / 16) (n % 16) 0)⟩ else none

/-- A copy has issued with its deliveries (R124, R304): an operation that joins the context's open batch. -/
def CopyIssued (u t : State) (l : BitVec 4) (tw : Word) (global refused : Bool) (left : Nat) (ds : List Delivery) : Prop :=
  ∃ w, w = { u with
      ops := u.ops ++ [⟨u.serial, u.me.launch.getD 0, u.now.h, u.now.k, tw.getLsbD 15, bits tw 31 16, global, left, refused, none⟩]
      dels := u.dels ++ ds, serial := w.serial, ctxs := w.ctxs } ∧ u.serial < w.serial ∧ (∀ d ∈ ds, d.id < w.serial) ∧ OthersSame u w ∧
    w.cur = { u.cur with openB := ⟨u.cur.openB.ops ++ [u.serial], u.cur.openB.global || global⟩ } ∧ Ended w t l []

/-- The operation numbers and delivery numbers in use are below the next. -/
def FreshIds (s : State) : Prop := (∀ p ∈ s.ops, p.id < s.serial) ∧ ∀ d ∈ s.dels, d.id < s.serial

/-- A copy into the own local memory (R59, R305): on its way with its sectors, or refused and ended at once. -/
def CopiesIn (s t : State) (l : BitVec 4) (tw : Word) (off : Nat) (good : List Sector → Prop) : Prop :=
  (MayLand s.me [(off, 2048)] → ∃ u v ss, CachesOnly s u ∧ v = { u with cores := v.cores } ∧
    Filling u.me v.me [(off, 2048)] ∧ (∀ h, h ≠ s.now.h → v.core h = u.core h) ∧ good ss ∧
    CopyIssued v t l tw false false 1 [⟨s.serial + 1, s.serial, s.me.launch.getD 0, some s.now.h, off, true, tw.getLsbD 14, 16 * bits tw 12 0, ss⟩]) ∧
  (¬MayLand s.me [(off, 2048)] → ∃ u, CachesOnly s u ∧ CopyIssued u t l tw false true 0 [])

/-- A copy to global memory (R305): on its way, its bytes known. -/
def CopiesOut (s t : State) (l : BitVec 4) (tw : Word) (byte : Nat → Byte) (dst : Nat → Option Loc) : Prop :=
  ∃ u ss, CachesOnly s u ∧ SectorsOf ss byte dst ∧
    CopyIssued u t l tw true false 1 [⟨s.serial + 1, s.serial, s.me.launch.getD 0, none, 0, true, false, 16 * bits tw 12 0, ss⟩]

/-- The n-th granule of parts. -/
def granuleOf (ps : List (Loc × Nat)) (n : Nat) : Option Loc := ((ps.flatMap granules)[n]?).map Prod.fst

/-- Byte n of a tile register, row by row. -/
def tileRegByte (s : State) (t : TReg) (n : Nat) : Byte := vByte (s.me.tileRow t (n / 128)) (n % 128)

/-- Operation i as the end of a delivery leaves it (R124). -/
def OpEnds (s t : State) (op : Nat) (refused : Bool) : Prop :=
  t.ops = s.ops.map (fun o => if o.id = op then { o with left := o.left - 1, refused := o.refused || refused } else o)

/-- A batch list without one ended operation, closed batches that have ended retired, and whether one of those wrote global memory. -/
def Retired (c c' : Ctx) (i : Nat) : Prop :=
  let out (b : Batch) : Batch := { b with ops := b.ops.filter (fun x => x != i) }
  c' = { c with
    openB := out c.openB
    closed := (c.closed.map out).filter (fun b => !b.ops.isEmpty)
    retGlob := c.retGlob || (c.closed.map out).any (fun b => b.ops.isEmpty && b.global) }

/-! ## Shapes, copy queues and engines -/

/-- A little-endian number of n bytes at a place in a list. -/
def numAt (bs : List Byte) (i n : Nat) : Nat := leNat ((bs.drop i).take n)

/-- The fields of a shape in bytes, dimension d's extent and strides at the given places (R114, R302). -/
def ShapeIs (bs : List Byte) (sh : Machine.Shape) (pe ps pd : Nat → Nat) : Prop :=
  sh.ndim = numAt bs 0 1 ∧ sh.esz = numAt bs 1 1 ∧ sh.gen = numAt bs 2 2 ∧
  (sh.ndim ≤ 8 → sh.ext.length = sh.ndim ∧ sh.sst.length = sh.ndim ∧ sh.dst.length = sh.ndim ∧
    ∀ d < sh.ndim, sh.ext.getD d 0 = numAt bs (pe d) 4 ∧ sh.sst.getD d 0 = lint 64 (numAt bs (ps d) 8) ∧
      sh.dst.getD d 0 = lint 64 (numAt bs (pd d) 8))

/-- A descriptor (R302), and the dimensions with a reserved byte that is not zero, 0 for the bytes before the first. -/
def DescIs (bs : List Byte) (sh : Machine.Shape) (rest : Nat → Prop) : Prop :=
  ShapeIs bs sh (fun d => 8 + 24 * d) (fun d => 16 + 24 * d) (fun d => 24 + 24 * d) ∧
    ∀ d, rest d ↔ d = 0 ∧ numAt bs 4 4 ≠ 0 ∨ sh.ndim ≤ 8 ∧ d < sh.ndim ∧ numAt bs (12 + 24 * d) 4 ≠ 0

/-- A shape record of 192 bytes (R114), and 0 where a reserved byte or an entry beyond ndim is not zero. -/
def RecordIs (bs : List Byte) (sh : Machine.Shape) (rest : Nat → Prop) : Prop :=
  let k := if sh.ndim ≤ 8 then sh.ndim else 0
  ShapeIs bs sh (fun d => 32 + 4 * d) (fun d => 64 + 8 * d) (fun d => 128 + 8 * d) ∧
    ∀ d, rest d ↔ d = 0 ∧ (numAt bs 4 28 ≠ 0 ∨ numAt bs (32 + 4 * k) (32 - 4 * k) ≠ 0 ∨ numAt bs (64 + 8 * k) (64 - 8 * k) ≠ 0 ∨
      numAt bs (128 + 8 * k) (64 - 8 * k) ≠ 0)

/-- The number of elements of a shape. -/
def elemCount (sh : Machine.Shape) : Nat := ∏ d ∈ Finset.range sh.ndim, sh.ext.getD d 0

/-- Rule k of R303 fails, for dimension d where it is about one. -/
def ShapeRule (sh : Machine.Shape) (rest : Nat → Prop) (k d : Nat) : Prop :=
  let size : Int := 2 ^ sh.esz
  k = 1 ∧ d = 0 ∧ (sh.ndim = 0 ∨ 8 < sh.ndim) ∨ k = 2 ∧ d = 0 ∧ 4 < sh.esz ∨ k = 3 ∧ d < sh.ndim ∧ sh.ext.getD d 0 = 0 ∨
  k = 4 ∧ d < sh.ndim ∧ (¬size ∣ sh.sst.getD d 0 ∨ ¬size ∣ sh.dst.getD d 0) ∨ k = 5 ∧ d = 0 ∧ 2 ^ 32 < elemCount sh ∨
  k = 6 ∧ d = 0 ∧ 2 ^ 36 < elemCount sh * 2 ^ sh.esz ∨ k = 7 ∧ rest d

/-- The lowest rule that fails, and its lowest dimension. -/
def LowestRule (sh : Machine.Shape) (rest : Nat → Prop) (k d : Nat) : Prop :=
  ShapeRule sh rest k d ∧ ∀ k' d', ShapeRule sh rest k' d' → k < k' ∨ k = k' ∧ d ≤ d'

/-- The displacement of element e along strides (R115). -/
def Displaced (sh : Machine.Shape) (st : List Int) (e : Nat) (x : Int) : Prop :=
  ∃ idx : Nat → Nat, (∀ d < sh.ndim, idx d < sh.ext.getD d 0) ∧
    e = ∑ d ∈ Finset.range sh.ndim, idx d * ∏ c ∈ Finset.range d, sh.ext.getD c 0 ∧
    x = ∑ d ∈ Finset.range sh.ndim, (idx d : Int) * st.getD d 0

/-- A queue's header may be read for its `read` field, which is x (R307). -/
def RingRead (s : State) (va : Nat) (hdr : Loc) (x : Nat) : Prop :=
  s.global va { rd := true, wr := true } = .ok hdr ∧ s.checkData va hdr 16 false = .ok () ∧ s.canRead hdr 16 = true ∧
    x = s.lookNat ⟨hdr.space, hdr.at_ + 8⟩ 8

/-- The steps of `qput` after its claim have what they need (R307): the header reads, the claim has room, the slot translates, and its
writes may be performed at once. -/
def SlotReady (s : State) (q : Claim) (hdr loc : Loc) : Prop :=
  let slot := (q.slots + q.i % 2 ^ q.lgn * 64) % 2 ^ 52
  (∃ x, RingRead s q.va hdr x ∧ (q.i + 2 ^ 64 - x) % 2 ^ 64 < 2 ^ q.lgn) ∧
    slot + 64 ≤ NW ∧ s.global slot { wr := true } = .ok loc ∧ s.checkHome slot loc 64 = .ok () ∧ (∀ m d, loc.space ≠ .peer m d) ∧
    s.now.defer = false ∧
    (∀ p ∈ granules (loc, 56), s.canWrite p.1 p.2 0#2 0#64 = true) ∧ s.canWrite ⟨loc.space, loc.at_ + 56⟩ 8 2#2 0x3_0000_0000 = true

/-- The packet stands in its slot with the phase of its claim, `read` was acquired at system scope, and the claim is no longer kept
(R112, R307). -/
def SlotFilled (s t : State) (l : BitVec 4) (q : Claim) (loc : Loc) : Prop :=
  ∃ r w u, CachesOnly s r ∧ r.me.l1 = [] ∧ w = { r with ctxs := w.ctxs } ∧ OthersSame r w ∧
    w.cur = { s.cur with claims := SMap.del s.cur.claims s.cur.pc.toNat, state := .ready } ∧
    MemoryOnly w u ∧ StoredAt w u loc (q.img.take 56 ++ leBytes 8 (numAt q.img 61 3 * 2 ^ 40 + q.i / 2 ^ q.lgn % 2 * 2 + 1)) ∧ Ended u t l []

/-- `qput` has made claim q (R307): the header's write index is one higher, `gd` and the context hold the claim, the operation has joined
the open batch, and the read acquired at system scope. -/
def Claimed (s u : State) (d : Reg) (hdr : Loc) (q : Claim) : Prop :=
  let global := !(q.img.getD 2 0).getLsbD 0
  ∃ m0 m, Forgets s m0 (hdr.at_ / 64) ∧ MemoryOnly s m ∧ q.i = leNat (m0.pocBytes hdr.space.owner hdr.at_ 8) ∧
    StoredAt m0 m ⟨hdr.space.owner, hdr.at_⟩ (leBytes 8 (q.i + 1)) ∧ m.me.l1 = [] ∧
    u = { m with
      ctxs := u.ctxs, serial := s.serial + 1
      ops := s.ops ++ [⟨s.serial, s.me.launch.getD 0, s.now.h, s.now.k, false, 0, global, 1, false,
        some ⟨s.myDev, s.dctxOf s.now.h, q.va, hdr.at_, q.i⟩⟩] } ∧ OthersSame s u ∧
    u.cur = { s.cur with
      g := u.cur.g, openB := ⟨s.cur.openB.ops ++ [s.serial], s.cur.openB.global || global⟩
      claims := SMap.put s.cur.claims s.cur.pc.toNat q } ∧
    ∀ r, u.g r = if r = d ∧ r ≠ 0#5 then BitVec.ofNat 64 q.i else s.g r

/-- A packet's word, and whether its destination or source is local. -/
def pw (j : Job) (i : Nat) : Word := j.words.getD i 0#64
def pdl (j : Job) : Bool := (pw j 0).getLsbD 16
def psl (j : Job) : Bool := (pw j 0).getLsbD 17

/-- The packets that R113, R117 and R416 refuse for their words. -/
def PacketBad (s : State) (j : Job) : Prop :=
  let op := bits (pw j 0) 7 0
  let badLocal (x : Word) : Prop := bits x 47 17 ≠ 0 ∨ s.liveIn j.dev j.dctx (bits x 63 48) = false
  op = 0 ∨ 3 < op ∨ bits (pw j 0) 33 28 ≠ 0 ∨ (pw j 0).getLsbD 18 = true ∨ bits (pw j 0) 15 8 ≠ 0 ∨
  op ≠ 3 ∧ bits (pw j 0) 27 20 ≠ 0 ∨ bits (pw j 7) 39 2 ≠ 0 ∨ (pw j 0).getLsbD 34 = true ∧ pdl j = false ∨
  bits (pw j 4) 3 0 ≠ 0 ∨ bits (pw j 3) 5 0 ≠ 0 ∨ pw j 4 = 0 ∧ pw j 6 ≠ 0 ∨
  pw j 4 ≠ 0 ∧ pw j 6 ≠ 0x3_0000_0000 ∧ pw j 6 ≠ 0x4_0000_0000 ∨ op ≠ 2 ∧ psl j = true ∧ badLocal (pw j 1) ∨
  pdl j = true ∧ badLocal (pw j 2) ∨
  op = 3 ∧ (pdl j = true ∨ (pw j 0).getLsbD 34 = true ∨ s.chanEn j.engine (bits (pw j 0) 27 20) = false ∨
    s.boundTo j.engine (s.chanDctx j.engine (bits (pw j 0) 27 20)) ≠ some (j.dev, j.dctx))

/-- A packet with its status, or at its first piece (R20, R116, R117, R120); `new` is the choice of R116 on a record changed in place. -/
def Admitted (u : State) (j : Job) (new : Bool) : Prop :=
  let start := bits (pw j 7) 63 40
  let base (l : Bool) (w : Word) : Nat := if l = true then bits w 16 0 else w.toNat
  (PacketBad u j → j.status = some (3, 0)) ∧
  (¬PacketBad u j →
    (∀ st, u.shapeFor j new = .error st → j.status = some (st, if st = 4 then 0 else start)) ∧
    ∀ bs sh rest, u.shapeFor j new = .ok bs → RecordIs bs sh rest →
      let fails := (∃ k d, ShapeRule sh rest k d) ∨ bits (pw j 0) 7 0 = 2 ∧ 3 < sh.esz
      let odd := bits (pw j 0) 7 0 ≠ 2 ∧ base (psl j) (pw j 1) % 2 ^ sh.esz ≠ 0 ∨ base (pdl j) (pw j 2) % 2 ^ sh.esz ≠ 0 ∨
        (pw j 0).getLsbD 34 = true ∧ elemCount sh * 2 ^ sh.esz % 32 ≠ 0
      let nearWindow := bits (pw j 0) 7 0 ≠ 2 ∧ psl j = false ∧ NW ≤ (pw j 1).toNat ∨ bits (pw j 0) 7 0 ≠ 3 ∧ pdl j = false ∧ NW ≤ (pw j 2).toNat
      (fails → j.status = some (3, 0)) ∧ (¬fails → j.shape = sh ∧ j.piece = start ∧ (odd → j.status = some (2, 0)) ∧
        (¬odd → nearWindow → j.status = some (1, 0)) ∧ (¬odd → ¬nearWindow → j.status = if elemCount sh ≤ start * (4096 / 2 ^ sh.esz) then some (0, 0) else none)))

/-- The address of an element: base and displacement, in a local memory or a virtual address below the near window (R115). -/
def ElemAddr (isLocal : Bool) (w : Word) (x : Int) (n a : Nat) : Prop :=
  (a : Int) = (if isLocal = true then bits w 16 0 else w.toNat : Nat) + x ∧ a + n ≤ if isLocal = true then 2 ^ 17 else NW

/-- Where a local or virtual address of a packet stands: a local one in a core that a launch of its context holds (R430). -/
def EngineLoc (s : State) (j : Job) (isLocal : Bool) (w : Word) (a : Nat) (need : Need) (loc : Loc) : Prop :=
  (isLocal = true → ∃ h, s.standsAt j.dev j.dctx (bits w 63 48) = some h ∧ loc = ⟨.local_ h, localKey h a⟩) ∧ (isLocal = false → s.unitWalk j.dev j.dctx a need = .ok loc)

/-- The place of element e at the source (R115). -/
def SrcAt (s : State) (j : Job) (e : Nat) (loc : Loc) : Prop :=
  ∃ x a, Displaced j.shape j.shape.sst e x ∧ ElemAddr (psl j) (pw j 1) x (2 ^ j.shape.esz) a ∧
    EngineLoc s j (psl j) (pw j 1) a { rd := true } loc ∧ s.dataError j.dev loc (2 ^ j.shape.esz) false = none

/-- The place of element e at the destination (R115). -/
def DstAt (s : State) (j : Job) (e : Nat) (loc : Loc) : Prop :=
  ∃ x a, Displaced j.shape j.shape.dst e x ∧ ElemAddr (pdl j) (pw j 2) x (2 ^ j.shape.esz) a ∧
    EngineLoc s j (pdl j) (pw j 2) a { wr := true } loc ∧ (pdl j = false → ¬Unwritable s j.dev loc (2 ^ j.shape.esz))

/-- Element e fails at its source, or at its destination when its source is good, with a status (R117, R346, R409, R425): the walk's, 6 for
data or a destination that cannot be had, or 1 for a local end that no launch of the context holds (log entry 56). -/
def ElementFails (s : State) (j : Job) (e st : Nat) : Prop :=
  let n := 2 ^ j.shape.esz
  let fill := bits (pw j 0) 7 0 = 2
  (¬fill ∧ ∃ x a, Displaced j.shape j.shape.sst e x ∧ ElemAddr (psl j) (pw j 1) x n a ∧
    (psl j = true ∧ s.standsAt j.dev j.dctx (bits (pw j 1) 63 48) = none ∧ st = 1 ∨ psl j = false ∧ s.unitWalk j.dev j.dctx a { rd := true } = .error st ∨
      ∃ loc, EngineLoc s j (psl j) (pw j 1) a { rd := true } loc ∧ s.dataError j.dev loc n false ≠ none ∧ st = 6)) ∨
  (fill ∨ ∃ l, SrcAt s j e l) ∧ ∃ x a, Displaced j.shape j.shape.dst e x ∧ ElemAddr (pdl j) (pw j 2) x n a ∧
    (pdl j = true ∧ s.standsAt j.dev j.dctx (bits (pw j 2) 63 48) = none ∧ st = 1 ∨
      pdl j = false ∧ (s.unitWalk j.dev j.dctx a { wr := true } = .error st ∨
        ∃ loc, s.unitWalk j.dev j.dctx a { wr := true } = .ok loc ∧ Unwritable s j.dev loc n ∧ st = 6))

/-- Two locations of n bytes share none. -/
def Apart (n : Nat) (l m : Loc) : Prop := l.at_ + n ≤ m.at_ ∨ m.at_ + n ≤ l.at_

/-- A packet stands in the slot that entry e of engine n has next (R112, R375). -/
def HasPacket (s : State) (n e dev dc : Nat) (hdr : Loc) (r : Nat) (slot : Loc) : Prop :=
  let b := s.ctlReg (bindAt n e + 8)
  let va := (s.ctlReg (bindAt n e)).toNat
  let f (l : Loc) (off k : Nat) : Nat := leNat (s.pocBytes l.space (l.at_ + off) k)
  s.boundTo n (bits b 63 48) = some (dev, dc) ∧ b.getLsbD 0 = true ∧ s.dctxState dev dc = 1 ∧ va % 64 = 0 ∧
    s.unitWalk dev dc va { rd := true, wr := true } = .ok hdr ∧ s.dataError dev hdr 32 false = none ∧
    6 ≤ f hdr 24 1 ∧ f hdr 24 1 ≤ 16 ∧ r = f hdr 8 8 ∧
    s.unitWalk dev dc ((f hdr 16 8 + r % 2 ^ f hdr 24 1 * 64) % 2 ^ 52) { rd := true } = .ok slot ∧
    s.dataError dev ⟨slot.space, slot.at_ + 56⟩ 8 false = none ∧ f slot 56 8 % 2 = 1 ∧ f slot 56 8 / 2 % 2 = r / 2 ^ f hdr 24 1 % 2

/-- An operation's slot is claim r of the queue with this header (R124). -/
def ClaimOf (o : CopyOp) (dev dc va : Nat) (hdr : Loc) (r : Nat) : Prop :=
  ∃ q, o.slot = some q ∧ q.claim = r ∧ (q.at_ = hdr.at_ ∨ q.dev = dev ∧ q.dctx = dc ∧ q.va = va)

/-- A source byte of element e lies in a buffer that the engine may not read (R60). -/
def SourceBarred (s : State) (j : Job) (e : Nat) : Prop :=
  bits (pw j 0) 7 0 ≠ 2 ∧ psl j = true ∧ ∃ x a, Displaced j.shape j.shape.sst e x ∧ ElemAddr true (pw j 1) x (2 ^ j.shape.esz) a ∧
    ∃ h, s.standsAt j.dev j.dctx (bits (pw j 1) 63 48) = some h ∧ ∃ i < 32, let b := (s.core h).buf i
      Hits b a (2 ^ j.shape.esz) ∧ b.state ≠ 3 ∧
        ¬((b.state = 1 ∨ b.state = 4) ∧ ∃ o ∈ s.ops, j.op = some o.id ∧ o.h = bits (pw j 1) 63 48 ∧ o.k = b.owner)

/-- The elements of the next piece (R115). -/
def InPiece (j : Job) (e : Nat) : Prop :=
  let per := 4096 / 2 ^ j.shape.esz
  j.piece * per ≤ e ∧ e < (j.piece + 1) * per ∧ e < elemCount j.shape

/-- A shape that the engine accepted. -/
def GoodShape (sh : Machine.Shape) : Prop :=
  1 ≤ sh.ndim ∧ sh.ndim ≤ 8 ∧ sh.ext.length = sh.ndim ∧ sh.sst.length = sh.ndim ∧ sh.dst.length = sh.ndim ∧ sh.esz ≤ 4 ∧
    ∀ d < sh.ndim, sh.ext.getD d 0 ≠ 0

/-! ## Supervisor instructions, faults and control space -/

/-- A record of the event log is written (R426), with the source, address and detail; nothing else differs. -/
def Logged (s t : State) (type source addr : Nat) (detail : Word) : Prop :=
  t = { s with log := t.log, logw := s.logw + 1 } ∧
  (∀ r, SMap.get t.log r (s.logw % 1024) =
    ⟨BitVec.ofNat 64 (source * 2 ^ 32 + s.logw % 2 ^ 24 * 256 + type), BitVec.ofNat 64 addr, detail, SMap.get s.dclk 0#64 0⟩) ∧
  ∀ r n, n ≠ s.logw % 1024 → SMap.get t.log r n = SMap.get s.log r n

/-- A write to control space over a link (R421, R423, R436): a non-owner's is discarded and logged with type 9; while a start has
failed only the management block answers; a write that breaks its register's rule is discarded and logged with type 12. -/
def OwnerWrites (i : Instr) (s : State) (link addr : Nat) (ok : Prop) (p : State → Prop) : Prop :=
  let o := s.ctlReg 0x0_F000_0C00_0010
  let mine := o.getLsbD 4 = true ∧ bits o 3 0 = link
  let silent := bits (s.ctlReg 0x0_F000_0C00_0008) 1 0 = 2 ∧ addr < 0x0_F000_0C00_0000
  (¬mine → Leads (exec i s) (fun t => Logged s t 9 (96 + link % 8) addr 0)) ∧
  (mine → silent → Leads (exec i s) (fun t => t = s)) ∧
  (mine → ¬silent → ¬ok → Leads (exec i s) (fun t => Logged s t 12 (96 + link % 8) addr 0)) ∧
  (mine → ¬silent → ok → Leads (exec i s) p)

/-- A context c that takes a pending trap (R219): the trap's words are in the trap CSRs, the mode is supervisor with the old mode beside
it, and the pc is `tvec`. -/
def Entered (c c' : Ctx) (tvec : Word) (p : PendTrap) : Prop :=
  c' = { c with
    cause := BitVec.ofNat 64 p.code, fpc := p.fpc, rpc := p.rpc, faddr := p.addr, finfo := p.info
    tstat := c'.tstat, pc := tvec, state := .ready, trap := none, fetched := false } ∧
  c'.tstat.getLsbD 0 = true ∧ c'.tstat.getLsbD 1 = c.tstat.getLsbD 0 ∧ ∀ i, 2 ≤ i → c'.tstat.getLsbD i = c.tstat.getLsbD i

/-- A trap on a context c becomes c' (R219): of it and one that is pending, the earlier instruction's is entered once nothing of the
context is outstanding, and until then it is pending. -/
def TakesTrap (c c' : Ctx) (tvec : Word) (p : PendTrap) : Prop :=
  let first := match c.trap with | some u => if u.id < p.id then u else p | none => p
  (c.out = [] → Entered c c' tvec first) ∧ (c.out ≠ [] → c' = { c with state := .waiting .trap, trap := some first })

/-- Context k of core h traps (R219), with the instruction at its pc. -/
def TrappedIn (s t : State) (h k id code : Nat) (addr info : Word) : Prop :=
  OnlyCtx s t h k ∧ TakesTrap (s.ctx h k) (t.ctx h k) (s.core h).tvec ⟨id, code, (s.ctx h k).pc, (s.ctx h k).pc, addr, info⟩

/-- The slot of a die's fault buffer. -/
def slotOf (e : Die) (i : Nat) : FSlot := SMap.get e.slots {} i

/-- A parked context that a replay wakes (R219, R315, R349): it takes PAGE_FATAL, with the reason changed to 2, when a fault slot of its page
is marked fatal, and is READY otherwise. -/
def Woken (s : State) (h : Nat) (c c' : Ctx) : Prop :=
  let fatal := ∃ i < 8, let x := slotOf (s.die (hdie h)) i
    x.valid = true ∧ x.fatal = true ∧ x.dctx = s.dctxOf h ∧ x.vpn = c.faddr.toNat / 65536
  (¬fatal → c' = { c with state := .ready }) ∧
  (fatal → ∃ info, bits info 15 12 = 2 ∧ (∀ j, j < 12 ∨ 16 ≤ j → info.getLsbD j = c.finfo.getLsbD j) ∧
    TakesTrap c c' (s.core h).tvec ⟨s.serial, 5, c.pc, c.pc, c.faddr, info⟩)

/-- A replay of die d (R315, R349): its parked contexts are woken, in images too, and its fatal slots are freed. -/
def Replayed (s u : State) (d : Nat) : Prop :=
  u = { s with ctxs := u.ctxs, dies := u.dies } ∧
  (∀ h k, k ≤ 10 → hdie h = d → (s.ctx h k).state = .parked → Woken s h (s.ctx h k) (u.ctx h k)) ∧
  (∀ h k, k ≤ 10 → hdie h ≠ d ∨ (s.ctx h k).state ≠ .parked → u.ctx h k = s.ctx h k) ∧
  (∀ e, e ≠ d → u.die e = s.die e) ∧ u.die d = { s.die d with slots := (u.die d).slots } ∧
  ∀ i, slotOf (u.die d) i = if (slotOf (s.die d) i).valid = true ∧ (slotOf (s.die d) i).fatal = true then {} else slotOf (s.die d) i

/-- Translations of a device leave every TLB of it, and what it remembers of those that left before (R316, R344): of a context all of
them, or those that cover an address. -/
def TlbDropped (s u : State) (dev dc : Nat) (va : Option Nat) : Prop :=
  let keep (ts : List TlbEntry) : List TlbEntry := ts.filter (fun t => !(t.dctx == dc && va.all (fun a => t.covers dc a)))
  u = { s with cores := u.cores, dies := u.dies } ∧
  (∀ h, u.core h = if s.devOf (hdie h) = dev then { s.core h with tlb := keep (s.core h).tlb } else s.core h) ∧
  ∀ d, u.die d = if s.devOf d = dev then { s.die d with tlb := keep (s.die d).tlb, old := keep (s.die d).old } else s.die d

/-- A line that holds a byte of a range of virtual addresses that translates and may be touched. -/
def RangeLine (s : State) (a n line : Nat) : Prop :=
  ∃ va e lvl, a ≤ va ∧ va < a + n ∧ s.translate s.now.h va = .leaf e lvl ∧ permReason e {} s.cur.supervisor = 0 ∧ line = leafKey e lvl va / 64

/-! ## Launches -/

/-- The registers of queue q of a device (R359): its control, base, and write and read counts, and how many packets it holds. -/
def qAddr (dev q : Nat) : Nat := 0x0_F000_0100_0000 + dev * 0x10_0000 + 0x1000 + 0x40 * q
def qCtl (s : State) (dev q : Nat) : Word := s.ctlReg (qAddr dev q + 8)
def qHolds (s : State) (dev q : Nat) : Nat := ((s.ctlReg (qAddr dev q + 0x10)).toNat + 2 ^ 32 - (s.ctlReg (qAddr dev q + 0x18)).toNat) % 2 ^ 32
def qRoom (s : State) (dev q : Nat) : Nat := 2 ^ bits (qCtl s dev q) 11 8
def qValid (s : State) (dev q : Nat) : Prop := 4 ≤ bits (qCtl s dev q) 11 8 ∧ bits (qCtl s dev q) 11 8 ≤ 12
/-- The address of the slot of count n. -/
def qSlotAt (s : State) (dev q n : Nat) : Nat := (s.ctlReg (qAddr dev q)).toNat + n % qRoom s dev q * 128

/-- A control-space register takes a value; nothing else differs. -/
def CtlSet (s t : State) (a : Nat) (x : Word) : Prop :=
  t = { s with ctl := t.ctl } ∧ ∀ b, t.ctlReg b = if b = a then x else s.ctlReg b

/-- A dispatcher takes an input: a teardown (1), an append (2) or a doorbell of queue q (3 + q). One that its cycle should have taken
earlier is of the next cycle, a tick later (R369; the cycle's length is the model's choice, log entry 42). -/
def Arbitrated (s u : State) (dev lvl : Nat) : Prop :=
  let old := SMap.get s.arbiter 0 dev
  u = { s with dclk := u.dclk, arbiter := u.arbiter, handled := u.handled } ∧
    (∀ d, SMap.get u.arbiter 0 d = if d = dev then lvl else SMap.get s.arbiter 0 d) ∧
    (∀ d, SMap.has u.handled d = if d = dev ∧ lvl < old then false else SMap.has s.handled d) ∧
    ∀ d, SMap.get u.dclk 0#64 d = if d = dev ∧ lvl < old then SMap.get s.dclk 0#64 d + 1 else SMap.get s.dclk 0#64 d

/-- A packet of a queue is appended, or not (R301, R359, R369), with what `launch` returns. -/
def Appended (s u : State) (dev q : Nat) (bs : List Byte) (r : Word) : Prop :=
  let c := bits (qCtl s dev q) 31 16
  let full := ¬qValid s dev q ∨ qRoom s dev q ≤ qHolds s dev q
  let w := (s.ctlReg (qAddr dev q + 0x10)).toNat
  (s.dctxState dev c = 2 → r = 1 ∧ u = { s with tears := s.tears.map (fun t => if t.dev = dev ∧ t.dctx = c then { t with a := t.a + 1 } else t) }) ∧
  (s.dctxState dev c ≠ 2 → full → r = 0 ∧ u = s) ∧
  (s.dctxState dev c ≠ 2 → ¬full → r = 1 ∧ ∃ v, v = { s with mem := v.mem, poison := v.poison } ∧
    StoredAt s v ⟨.device 1, qSlotAt s dev q w⟩ bs ∧ CtlSet v u (qAddr dev q + 0x10) (BitVec.ofNat 64 ((w + 1) % 2 ^ 32)))

/-- Where `launch` reads its packet (R301). -/
def PacketLoc (s : State) (va : Nat) (loc : Loc) : Prop :=
  (NW ≤ va → ∃ off, OwnAccess s va 128 off true false ∧ loc = ownAt s off) ∧
  (va < NW → s.global va { rd := true } = .ok loc ∧ s.checkData va loc 128 false = .ok ())

/-- Word n of a packet. -/
def packetWord (p : List Word) (n : Nat) : Word := p.getD n 0#64

/-- The packets that R362 and R363 refuse. -/
def LaunchBad (s : State) (dev : Nat) (p : List Word) : Prop :=
  let w := packetWord p
  let n := bits (w 0) 19 16
  bits (w 0) 7 0 ≠ 1 ∨ (w 0).getLsbD 31 = true ∨ bits (w 0) 15 11 ≠ 0 ∨ (w 0).getLsbD 8 = true ∨ n = 0 ∨ 8 < n ∨
  (∃ j < n, let x := w (8 + j)
    bits x 63 17 ≠ 0 ∨ bits x 15 11 ≠ 0 ∨ bits x 7 3 ≠ 0 ∨ 4 < bits x 10 8 ∨ 5 < bits x 2 0) ∨
  (∃ j, n ≤ j ∧ j < 8 ∧ w (8 + j) ≠ 0) ∨ (∃ j, j + 1 < n ∧ bits (w (9 + j)) 2 0 ≤ bits (w (8 + j)) 2 0) ∨
  (∃ i j, i < j ∧ j < n ∧ (w (8 + i)).getLsbD 16 = true ∧ (w (8 + j)).getLsbD 16 = true) ∨
  (w 1).getLsbD 0 = true ∨ NW ≤ (w 1).toNat ∨ bits (w 7) 63 35 ≠ 0 ∨ (bits (w 7) 34 32 ≠ 3 ∧ bits (w 7) 34 32 ≠ 4) ∨
  32 * ((List.range 64).filter (fun d => s.devOf d == dev && s.dieLive d)).length < bits (w 0) 30 20 + 1

/-- The record address of a packet: none when word 5 is 0 (R368). -/
def RecordPlace (s : State) (dev c : Nat) (p : List Word) (l : Option Loc) : Prop :=
  let a := (packetWord p 5).toNat
  (a = 0 ∧ l = none) ∨ a ≠ 0 ∧ a % 32 = 0 ∧ ∃ x, l = some x ∧ s.unitWalk dev c a { wr := true } = .ok x ∧ ¬Unwritable s dev x 32

/-- A record address that cannot be used: misaligned, without a translation, or of bytes that cannot be written. -/
def RecordUnusable (s : State) (dev c : Nat) (p : List Word) : Prop :=
  let a := (packetWord p 5).toNat
  a ≠ 0 ∧ (a % 32 ≠ 0 ∨ (∃ e, s.unitWalk dev c a { wr := true } = .error e) ∨
    ∃ x, s.unitWalk dev c a { wr := true } = .ok x ∧ Unwritable s dev x 32)

/-- The completion record of a packet (R368), where it has a place. -/
def Recorded (s t : State) (dev c : Nat) (p : List Word) (status late tasks events start : Nat) : Prop :=
  let cap (x : Nat) : Nat := Nat.min x (2 ^ 32 - 1)
  (packetWord p 5 = 0 → t = s) ∧
  (∀ l, packetWord p 5 ≠ 0 → RecordPlace s dev c p (some l) → t = { s with mem := t.mem, poison := t.poison, devLines := t.devLines } ∧
    StoredAt s t ⟨l.space.owner, l.at_⟩ (leBytes 8 (packetWord p 6).toNat ++ leBytes 8 (status * 2 ^ 56 + cap late) ++
      leBytes 8 (cap tasks * 2 ^ 32 + cap events) ++ leBytes 8 start))

/-- The key of a deadline and queue (R366): earlier deadlines first, none last, ties to the lower queue. -/
def edf (p : List Word) (q : Nat) : Nat := (if packetWord p 4 = 0 then 2 ^ 64 else (packetWord p 4).toNat) * 256 + q

/-- A queue whose head the dispatcher may select; the head's words can be read (R409, R425). -/
def Offers (s : State) (dev q : Nat) : Prop :=
  q < s.queueCount ∧ (qCtl s dev q).getLsbD 0 = true ∧ qValid s dev q ∧ s.dctxState dev (bits (qCtl s dev q) 31 16) = 1 ∧
    qHolds s dev q ≠ 0 ∧ s.dataError dev ⟨.device 1, qSlotAt s dev q (s.ctlReg (qAddr dev q + 0x18)).toNat⟩ 128 false = none

/-- The dispatcher of a device may handle an entry: the panel is ready, and none has been handled in this cycle (R366, R421). -/
def MayHandle (s : State) (dev : Nat) : Prop :=
  dev < s.devices ∧ bits (s.ctlReg 0x0_F000_0C00_0008) 1 0 = 1 ∧ SMap.has s.handled dev = false

/-- The outcome of a dispatcher's cycle that handles an entry, with the state u but for the mark (R366): the cycle is used up when the state
changes. -/
def HandledTo (s u t : State) (dev : Nat) : Prop :=
  (u = s → t = s) ∧ (u ≠ s → t = { u with handled := t.handled } ∧ SMap.has t.handled dev = true ∧
    ∀ d, d ≠ dev → SMap.has t.handled d = SMap.has u.handled d)

/-- A launch that waits to be restored. -/
def Restorable (s : State) (dev : Nat) (l : Launch) : Prop := l ∈ s.launches ∧ l.dev = dev ∧ l.torn = false ∧ l.outs ≠ []

/-- The head of queue q is the dispatcher's choice (R366, R370). -/
def HeadChosen (s : State) (dev q : Nat) : Prop :=
  Offers s dev q ∧ (∀ q', Offers s dev q' → q' ≠ q → edf (s.headOf dev q) q < edf (s.headOf dev q') q') ∧
    ∀ l, Restorable s dev l → edf (s.headOf dev q) q < edf l.packet l.queue

/-- The slot of queue q that an append would write cannot be reached from its byte i on (R409). -/
def RingLost (s : State) (dev q i : Nat) : Prop :=
  s.dctxState dev (bits (qCtl s dev q) 31 16) ≠ 2 ∧ qValid s dev q ∧ qHolds s dev q < qRoom s dev q ∧
    s.lostByte dev ⟨.device 1, qSlotAt s dev q (s.ctlReg (qAddr dev q + 0x10)).toNat⟩ 128 = some i

/-- The choruses that a running launch may be asked to stop for a packet with this key (R370). -/
def Victims (dev key : Nat) (l : Launch) : List Nat :=
  if l.dev = dev ∧ l.torn = false ∧ key < edf l.packet l.queue then l.chor.filter (fun c => !l.outs.contains c && !l.stops.contains c) else []

/-- `pick` chooses n victims (R370): those of the launches of largest key, in a launch those of highest number. -/
def VictimsPicked (s : State) (dev key n : Nat) (pick : Launch → List Nat) : Prop :=
  (s.launches.map (fun l => (pick l).length)).sum = n ∧
  (∀ l ∈ s.launches, (pick l).Pairwise (· > ·) ∧ ∀ c ∈ pick l, c ∈ Victims dev key l) ∧
  ∀ l ∈ s.launches, ∀ c ∈ Victims dev key l, c ∉ pick l → ∀ l' ∈ s.launches, ∀ c' ∈ pick l',
    edf l.packet l.queue ≤ edf l'.packet l'.queue ∧ (l = l' → c < c')

/-- The free choruses of a device, ascending (R364). -/
def FreeChoruses (s : State) (dev : Nat) (cs : List Nat) : Prop :=
  cs.Pairwise (· < ·) ∧ ∀ c, c ∈ cs ↔ c < 2048 ∧ s.devOf (c / 32) = dev ∧ s.dieLive (c / 32) = true ∧
    ∀ l ∈ s.launches, c ∈ l.chor → c ∈ l.outs

/-- Core h begins its part in launch l (R364, R10, R348): reset but for its instruction cache, TLB and cycle count, local memory empty
and without errors, and its control context READY at the packet's entry; its other contexts IDLE. -/
def CoreBegins (s t : State) (l : Launch) (h : Nat) : Prop :=
  let c := s.core h
  t.core h = { ({} : Core) with
    icache := c.icache, tlb := c.tlb, cycle := c.cycle, launch := some l.serial
    launchid := BitVec.ofNat 64 (bits (packetWord l.packet 0) 63 32), dscope := (t.core h).dscope
    tvec := BitVec.ofNat 64 (bits (s.ctlReg (dctxRec l.dev l.dctx + 8)) 51 1 * 2) } ∧
  t.ctx h 0 = { ({} : Ctx) with
    g := (t.ctx h 0).g, pc := packetWord l.packet 1, state := .ready, tstat := if s.designated h 0 = true then 1#64 else 0#64 } ∧
  (∀ r, (t.ctx h 0).gr r = if r = 2#5 then packetWord l.packet 2 else if r = 3#5 then packetWord l.packet 3
    else if r = 28#5 then BitVec.ofNat 64 (NW + 0x1_4000 + 0x1000) else 0#64) ∧
  (∀ k, 1 ≤ k → k ≤ 10 → t.ctx h k = {}) ∧
  ∀ off < 2 ^ 17, t.pocByte (.local_ h) (localKey h off) = Machine.unwritten ∧ SMap.get t.poison false (localKey h off / 8) = false

/-- The scope with which a core of a launch starts (R362): of the default level's instance, or the reset value. -/
def StartScope (l : Launch) (h : Nat) (v : Word) : Prop :=
  let lev (j : Nat) : Word := packetWord l.packet (8 + j)
  let n := bits (packetWord l.packet 0) 19 16
  ((∀ j < n, (lev j).getLsbD 16 = false) → v = 0x3_0000_0000) ∧
  ∀ j < n, (lev j).getLsbD 16 = true → (∀ i < j, (lev i).getLsbD 16 = false) →
    let same (c : Nat) : Prop := c ∈ l.cores ∧ instKey (bits (lev j) 2 0) c = instKey (bits (lev j) 2 0) h
    (bits (lev j) 10 8 ≠ 0 → v = BitVec.ofNat 64 (bits (lev j) 10 8 * 2 ^ 32)) ∧
    (bits (lev j) 10 8 = 0 → bits v 63 32 = 0 ∧
      (∀ c, same c → bits v 7 0 ≤ hx c ∧ hx c ≤ bits v 23 16 ∧ bits v 15 8 ≤ hy c ∧ hy c ≤ bits v 31 24) ∧
      (∃ c, same c ∧ hx c = bits v 7 0) ∧ (∃ c, same c ∧ hx c = bits v 23 16) ∧ (∃ c, same c ∧ hy c = bits v 15 8) ∧
      ∃ c, same c ∧ hy c = bits v 31 24)

/-- The cores of a chorus. -/
def InChorus (c h : Nat) : Prop := h < 65536 ∧ chorusOf h = c

/-- The handle of a core's image in the launch with a serial number. -/
def imageOf (serial h : Nat) : Nat := (serial + 1) * 65536 + h % 65536

/-- A context whose core goes between its place and its image: everything but its posted accesses' locations, and on the way out the open
windows, which are over (R179), and a wait for a gang or a walk, which is made again. -/
def CtxMoves (c c' : Ctx) (out : Bool) : Prop :=
  c' = { c with post := c'.post, state := c'.state, out := if out = true then c.out.map (fun o => { o with left := 0 }) else c.out } ∧ c'.post.length = c.post.length ∧
  (∀ (n : Nat) (e : PEntry), c.post[n]? = some e → ∃ e', c'.post[n]? = some e' ∧ e' = { e with loc := e'.loc, kind := e'.kind } ∧
    ∀ k, k = e.kind → e'.kind = k ∨ ∃ wr m more more', k = .sparse wr m more ∧ e'.kind = .sparse wr m more' ∧ more'.length = more.length) ∧
  (out = false → c'.state = c.state) ∧
  (out = true → ((c.state = .waiting .gang ∨ (∃ a b d e, c.state = .waiting (.drain a b d e)) ∨ ∃ a b, c.state = .waiting (.walk a b)) →
      c'.state = .ready) ∧
    (¬(c.state = .waiting .gang ∨ (∃ a b d e, c.state = .waiting (.drain a b d e)) ∨ ∃ a b, c.state = .waiting (.walk a b)) →
      c'.state = c.state))

/-- What a core keeps that no launch owns. -/
def shellOf (c : Core) : Core := { ({} : Core) with icache := c.icache, tlb := c.tlb, cycle := c.cycle }

/-! ## Links and datagrams -/

/-- One link's state is replaced; nothing else differs. -/
def LinkSet (s t : State) (l : Nat) (x : Link) : Prop := t = { s with links := t.links } ∧ ∀ j, t.link j = if j = l then x else s.link j

/-- A packet of a type arrives on a link (R380 .. R382): on a link that is down, or while the packet that is expected is to be sent again
and it is another, it is discarded; when its tag fails it is to be sent again; when its tag passes it acts on the state in which that need
is over and the next packet is expected. -/
def LinkTakes (i : Instr) (s : State) (l type : Nat) (hdr : BitVec 128) (payload : List Byte) (tag : BitVec 64) (early : Prop)
    (act : State → State → Prop) : Prop :=
  let k := s.link l
  let seq := bits hdr 103 96
  let mine := bits hdr 127 120 = type ∧ k.lanes ≠ 0 ∧ (k.bad = true → seq = k.expect)
  let good := tag = crc64 (leBytes 16 hdr.toNat ++ payload) ∧ payload.length = 32 * bits hdr 95 88 ∧ bits hdr 95 88 ≤ 128
  (¬mine → Leads (exec i s) (fun t => t = s)) ∧
  (mine → ¬good → ¬early → Leads (exec i s) (fun t => LinkSet s t l { k with bad := true })) ∧
  (mine → good → ∃ u, LinkSet s u l { k with expect := (seq + 1) % 256, bad := false } ∧ Leads (exec i s) (act u))

/-- A reply, an acknowledgement or a refusal arrives: one that bears another panel's number is discarded and logged (R379). -/
def ReplyTakes (i : Instr) (s : State) (l type : Nat) (hdr : BitVec 128) (payload : List Byte) (tag : BitVec 64) (act : State → State → Prop) :
    Prop :=
  LinkTakes i s l type hdr payload tag False (fun u t =>
    (s.myPeer = some (bits hdr 119 112) → act u t) ∧
    (s.myPeer ≠ some (bits hdr 119 112) → Logged u t 8 (80 + l / 8) (bits hdr 51 0) 0))

/-- A reply to the sender of a packet (R380, R382), on the sender's link if one is up: numbered, kept until it is acknowledged, and
sent with its tag, or held back while 256 packets wait for their acknowledgement. -/
def Responds (u t : State) (hdr : BitVec 128) (type : Nat) (payload : List Byte) : Prop :=
  let p := bits hdr 111 104
  (u.peerLink p = none → t = u) ∧
  ∀ l, u.peerLink p = some l → ∃ w : BitVec 128,
    let k := u.link l
    let pk := leBytes 16 w.toNat ++ payload ++ leBytes 8 (crc64 (leBytes 16 w.toNat ++ payload)).toNat
    bits w 127 120 = type ∧ bits w 119 112 = p ∧ (∀ id, u.myPeer = some id → bits w 111 104 = id) ∧ bits w 103 96 = k.seq % 256 ∧
    bits w 95 88 = payload.length / 32 ∧ bits w 87 86 = bits hdr 87 86 ∧ bits w 85 76 = 0 ∧ bits w 75 64 = bits hdr 75 64 ∧ bits w 63 52 = 0 ∧
    bits w 51 0 = bits hdr 51 0 ∧
    let room := k.unacked.length < 256 ∧ k.held = []
    (room → ∃ v, LinkSet u v l { k with seq := (k.seq + 1) % 256, unacked := k.unacked ++ [pk] } ∧
      t = { v with outputs := u.outputs ++ [.packet l pk] }) ∧
    (¬room → LinkSet u t l { k with seq := (k.seq + 1) % 256, held := k.held ++ [pk] })

/-- A peer's request is for this panel and its route lets it in (R378, R379). -/
def Served (s : State) (hdr : BitVec 128) (atomic : Bool) : Prop :=
  let p := bits hdr 111 104
  let r := s.ctlReg (routeAddr p)
  ∃ id, s.myPeer = some id ∧ bits hdr 119 112 = id ∧ r.getLsbD 6 = true ∧ (atomic = true → r.getLsbD 7 = true) ∧ p ≠ id

/-- A request that is not served is answered with a refusal, and logged as R378 and R379 say. -/
def TurnedAway (u t : State) (l : Nat) (hdr : BitVec 128) (write wrong : Bool) : Prop :=
  ∃ v, Responds v t hdr 7 [] ∧ (wrong = true → Logged u v 8 (80 + l / 8) (bits hdr 51 0) 0) ∧
    (wrong = false → write = true → Logged u v 1 (80 + l / 8) (bits hdr 51 0) 0) ∧ (wrong = false → write = false → v = u)

/-- The packet names another panel. -/
def WrongPanel (s : State) (hdr : BitVec 128) : Prop := ∃ id, s.myPeer = some id ∧ bits hdr 119 112 ≠ id

/-- Where an address of a request lies (R378): device memory or a die's near store. -/
def OutsideLoc (s : State) (a n : Nat) (loc : Loc) : Prop :=
  s.physical a = true ∧ s.physical (a + n - 1) = true ∧ loc = ⟨if a < 2 ^ 43 then .device 1 else .near 1, a⟩

/-- No earlier request of the packet's sender has yet to act at a home of the n bytes at an address (R377). -/
def PeerClear (s : State) (hdr : BitVec 128) (a n : Nat) : Prop := ∀ loc, OutsideLoc s a n loc → s.peerClear (bits hdr 111 104) loc n = true

/-- Granules that put bytes at a location (R139): ascending, adjacent, each within 8 aligned bytes. -/
def Granules (gs : List Granule) (loc : Loc) (bs : List Byte) : Prop :=
  gs.flatMap Granule.bytes = bs ∧ ∀ (i : Nat) (x : Granule), gs[i]? = some x → x.src = none ∧ x.bytes ≠ [] ∧
    x.dst = ⟨loc.space, loc.at_ + ((gs.take i).flatMap Granule.bytes).length⟩ ∧ (x.dst.at_ + x.bytes.length - 1) / 8 = x.dst.at_ / 8

/-- A write of a peer with a payload begins (R139, R381): its granules are to perform, and it is acknowledged after them if its packet is
whole. -/
def WriteBegins (u t : State) (old : List InWrite) (l : Nat) (hdr : BitVec 128) (loc : Loc) (bs : List Byte) (whole : Bool) : Prop :=
  ∃ gs, Granules gs loc bs ∧ t = { u with inwrites := old ++ [⟨u.serial, l, hdr, whole, gs⟩], serial := u.serial + 1 }

/-- A width of a link changed, with its event and its record (R383, R426). -/
def WidthEvent (s t : State) (l lanes code : Nat) : Prop :=
  let w : Word := BitVec.ofNat 64 (l + code * 256)
  ∃ u, Logged s u (if lanes = 0 then 7 else 6) (80 + l / 8) 0 w ∧ t = { u with bwevents := s.bwevents ++ [w] }

/-- A frame at port p brings engine `h.deng` a datagram of a type (R415, R417): its UDP checksum passes, the engine is the port's, and
the frame is for an address that the port has and for the UDP port that it listens on. -/
def Received (s : State) (p type : Nat) (f : Frame) (udpOk : Bool) (h : DgHdr) (segs : List (Nat × List Byte)) : Prop :=
  udpOk = true ∧ readDg f.payload = some (h, segs) ∧ h.type = type ∧ h.deng < 128 ∧ portOf h.deng = p ∧ f.dst = s.portIp p f.ip6 ∧
    f.dst ≠ 0 ∧ f.dport = s.portUdp p

/-- The address of word 0x10 of a channel's record. -/
def chanAt (n c : Nat) : Nat := 0x0_F000_0A90_0000 + n * 0x4000 + 64 * c + 0x10

/-- The frames that carry payloads of a channel: none when its port has no address of the channel's kind (R415). -/
def framesOf (s : State) (n c : Nat) (bs : List (List Byte)) : List Output :=
  if s.portIp (portOf n) ((s.ctlReg (chanAt n c)).getLsbD 33) = 0 then [] else bs.map (fun b => .datagram (portOf n) (s.frameOf n c b))

/-- A control datagram of a channel is sent (R417): to the other end's engine and channel, with the last number performed. -/
def SendsBack (s t : State) (n c type code piece : Nat) : Prop :=
  let w := s.ctlReg (chanAt n c)
  ∃ bs, t = { s with outputs := s.outputs ++ framesOf s n c [bs] } ∧
    (code ≤ 5 → piece < 2 ^ 32 → (type = 3 ↔ 1 ≤ code) → (piece ≠ 0 → 2 ≤ code ∧ code ≤ 4) →
      type = 2 ∨ type = 3 →
      readDg bs = some (⟨type, bits w 23 16, bits w 31 24, 0, 0, 0, code, piece, (s.recvPsn n c + 2 ^ 24 - 1) % 2 ^ 24⟩, []))

/-- One channel's own state is replaced. -/
def ChanSet (s t : State) (n c : Nat) (x : Chan) : Prop := t = { s with chans := t.chans } ∧ t.chan n c = x ∧
  ∀ m d, m * 256 + d ≠ n * 256 + c → t.chan m d = s.chan m d

/-- The clock of engine n's I/O die (R365, R418), and the ticks since a time that it showed. -/
def ioClock (s : State) (n : Nat) : Nat := (SMap.get s.dclk 0#64 (n / 16)).toNat
def ticksPast (s : State) (n t : Nat) : Nat := (ioClock s n + 2 ^ 64 - t) % 2 ^ 64

/-- The word of a channel's record that holds its sequence numbers, with the next one expected. -/
def nextPsn (s : State) (n c : Nat) : Word := BitVec.ofNat 64 (s.sendPsn n c + (s.recvPsn n c + 1) % 2 ^ 24 * 2 ^ 24)

/-- A datagram has been accepted (R418): the expected number advances; the sixteenth that is owed is acknowledged. -/
def Accepts (s t : State) (n c : Nat) : Prop :=
  let ch := s.chan n c
  ∃ u v, CtlSet s u (chanAt n c + 8) (nextPsn s n c) ∧
    (16 ≤ ch.owed + 1 → ChanSet u v n c { ch with owed := 0, gap := false } ∧ SendsBack v t n c 2 0 0) ∧
    (ch.owed + 1 < 16 → t = v ∧ ChanSet u v n c { ch with
      owed := ch.owed + 1, since := if ch.owed = 0 then ioClock s n else ch.since, gap := false })

/-- An acknowledgement covers a datagram. -/
def Covers (ack : Nat) (d : SentDg) : Bool := decide ((ack + 2 ^ 24 - d.psn) % 2 ^ 24 < 2 ^ 23)

/-- The sequence numbers of a channel's record: the next one to send, and the one that is expected as before. -/
def psnWord (s : State) (n c send : Nat) : Word := BitVec.ofNat 64 (send % 2 ^ 24 + s.recvPsn n c * 2 ^ 24)

/-- A waiting datagram w as it is sent with a sequence number (R417, R418): kept as d, whose bytes carry the packet's piece and segments. -/
def SentAs (s : State) (n c psn : Nat) (w : WaitDg) (d : SentDg) : Prop :=
  let r := s.ctlReg (chanAt n c)
  d = { d with psn := psn, job := w.job, piece := w.piece, tries := 0, time := ioClock s n } ∧
  (w.piece < 2 ^ 32 → w.flags < 4 → 1 ≤ w.segs.length → w.segs.length ≤ 64 →
    (∀ x ∈ w.segs, x.1 < 2 ^ 52 ∧ 1 ≤ x.2.length ∧ x.2.length ≤ 4096) → (w.segs.map (fun x => x.2.length)).sum ≤ 4096 →
    readDg d.data = some (⟨1, bits r 23 16, bits r 31 24, psn, w.segs.length, w.flags, 0, w.piece, 0⟩, w.segs))

/-- Waiting datagrams of a channel go out in order while fewer than 1,024 are unacknowledged (R418). -/
def Pumped (s t : State) (n c : Nat) : Prop :=
  let ch := s.chan n c
  let k := Nat.min ch.waiting.length (1024 - ch.unacked.length)
  ∃ u ds, ChanSet s u n c { ch with unacked := ch.unacked ++ ds, waiting := ch.waiting.drop k } ∧ ds.length = k ∧
    (∀ (i : Nat) (w : WaitDg) (d : SentDg), ch.waiting[i]? = some w → ds[i]? = some d → SentAs s n c ((s.sendPsn n c + i) % 2 ^ 24) w d) ∧
    ∃ v, (k = 0 → v = u) ∧ (k ≠ 0 → CtlSet u v (chanAt n c + 8) (psnWord s n c (s.sendPsn n c + k))) ∧
      t = { v with outputs := s.outputs ++ framesOf s n c (ds.map SentDg.data) }

/-- What a channel has sent is acknowledged up to a number: from that progress the resends of the others count anew, and datagrams that wait
follow. -/
def AckedTo (s t : State) (n c ack : Nat) : Prop :=
  let ch := s.chan n c
  let left := ch.unacked.filter (fun d => !Covers ack d)
  ∃ u, ChanSet s u n c { ch with
    unacked := if left.length = ch.unacked.length then left else left.map (fun d => { d with tries := 0 }) } ∧ Pumped u t n c

/-- The packets and pieces of a channel that are not acknowledged, sent or waiting. -/
def unsettled (s : State) (n c : Nat) : List (Nat × Nat) :=
  (s.chan n c).unacked.map (fun d => (d.job, d.piece)) ++ (s.chan n c).waiting.map (fun d => (d.job, d.piece))

/-- Each packet of a channel that has not finished ends NETFAIL, at its first piece that is not wholly acknowledged (R418). -/
def SendsEnd (s t : State) (n c : Nat) : Prop :=
  let un := unsettled s n c
  t = { s with jobs := t.jobs } ∧ t.jobs.length = s.jobs.length ∧
    ∀ (i : Nat) (j : Job), s.jobs[i]? = some j →
      let open_ := j.engine = n ∧ bits (pw j 0) 27 20 = c ∧ bits (pw j 0) 7 0 = 3 ∧ (j.status = none ∨ ∃ d ∈ un, d.1 = j.id)
      (¬open_ → t.jobs[i]? = some j) ∧
      (open_ → ∃ k, t.jobs[i]? = some { j with status := some (7, k) } ∧ k ≤ j.piece ∧ (∀ d ∈ un, d.1 = j.id → k ≤ d.2) ∧
        (k = j.piece ∨ ∃ d ∈ un, d.1 = j.id ∧ d.2 = k))

/-- A channel fails (R418): its packets end, it is disabled with its fail bit set, and nothing that it sent or was to send is kept. -/
def ChannelFailed (s t : State) (n c : Nat) : Prop :=
  ∃ u v x, SendsEnd s u n c ∧ CtlSet u v (chanAt n c) x ∧ x.getLsbD 32 = false ∧ x.getLsbD 34 = true ∧
    (∀ i, i ≠ 32 → i ≠ 34 → x.getLsbD i = (s.ctlReg (chanAt n c)).getLsbD i) ∧
    ChanSet v t n c { s.chan n c with unacked := [], waiting := [] }

/-- Everything unacknowledged is sent again, or the channel fails after sixteen resends of its oldest datagram without progress (R418). -/
def Retries (s t : State) (n c : Nat) : Prop :=
  let un := (s.chan n c).unacked
  (un = [] → t = s) ∧
  ∀ d r, un = d :: r → (16 ≤ d.tries → ChannelFailed s t n c) ∧
    (d.tries < 16 → ∃ u, ChanSet s u n c { s.chan n c with unacked := un.map (fun x => { x with tries := x.tries + 1, time := ioClock s n }) } ∧
      t = { u with outputs := s.outputs ++ framesOf s n c (un.map SentDg.data) })

/-! ## Management -/

/-- A register of the management block. -/
def mg (off : Nat) : Nat := 0x0_F000_0C00_0000 + off

/-- What a register outside the management block holds at reset: the port's UDP number in an address record (R415), else zero. -/
def ctlAtReset (a : Nat) : Word := if a ∈ (List.range 16).map (fun j => 0x0_F000_0A80_0000 + 0x100 * j) then 0x4D52_0000_0000_0000 else 0

/-- A start has begun (R420): the machine is at reset but for the management block, the log and counts, the images that it will find, host
and peer memory, and on a warm start also device memory, near store, the mode, the carves, the panel's number, the clocks and the dead map;
a cold start leaves device memory and near store undefined, and its dies are not live until it has tested them (R421). -/
def StartBegun (s t : State) (warm : Bool) (kind wfail : Nat) : Prop :=
  t = { State.reset with
    mem := t.mem, poison := t.poison, nsEra := t.nsEra, dies := t.dies, ctl := t.ctl, log := s.log, logw := s.logw, failed := s.failed
    errC := s.errC, errU := s.errU, captures := s.captures, attq := s.attq, attrep := s.attrep, outputs := s.outputs
    peerDeny := s.peerDeny, agenda := s.agenda, serial := s.serial, dclk := t.dclk, ports := s.ports
    images := if warm = true then s.images else [], flash := s.flash, flashMc := s.flashMc } ∧
  bits (t.ctlReg (mg 8)) 1 0 = 0 ∧ bits (t.ctlReg (mg 8)) 7 4 = 1 ∧ bits (t.ctlReg (mg 8)) 9 8 = kind ∧ bits (t.ctlReg (mg 8)) 11 10 = wfail ∧
  bits (t.ctlReg (mg 8)) 23 16 = ((List.range 64).filter (fun d => !(t.die d).dead)).length ∧
  (∀ a, a ≠ mg 8 →
    let kept := mg 0 ≤ a ∧ a < mg 0x10_0000 ∨ warm = true ∧ (a = pmodeAddr ∨ a = peeridAddr ∨ ∃ d < 64, a = dieBlock d + 0x920)
    (kept → t.ctlReg a = s.ctlReg a) ∧ (¬kept → t.ctlReg a = ctlAtReset a)) ∧
  (∀ d, t.die d = if (if warm = true then (s.die d).dead = true else d < 64) then { dead := true } else {}) ∧
  (∀ d, SMap.get t.dclk 0#64 d = if warm = true then SMap.get s.dclk 0#64 d else 0) ∧
  (∀ d < 65, SMap.get t.nsEra 0 d = SMap.get s.nsEra 0 d + if warm = true then 0 else 1) ∧
  (∀ a < 2 ^ 70, warm = true ∨ memPart a = none → t.rawByte a = s.rawByte a) ∧ ∀ a, 2 ^ 70 ≤ a → t.rawByte a = 0

/-- The dies that a start marks dead (R420, R425): those that a cold start's tests find dead, those of the die map that a warm start
keeps, and those that failed at run time, by themselves or under their leaf. -/
def MarkedDead (s : State) (dead : Word) (d : Nat) : Prop :=
  d < 64 ∧ ((if bits (s.ctlReg (mg 8)) 9 8 = 2 then (s.die d).dead = true else dead.getLsbD d = true) ∨ d ∈ s.failed ∨
    ∃ x ∈ s.failed, 64 ≤ x ∧ x < 80 ∧ leafOf d = x - 64)

/-- A spine or an I/O die has failed (R420, R425). -/
def SpineFailed (s : State) : Prop := ∃ x ∈ s.failed, 80 ≤ x

/-- Step 5 accepts both images that it finds (R422): the key that signed each has the fused hash, its own digest is its bytes', its
signature verifies, and its version is not below the fused one. -/
def ImagesAccepted (s : State) : Prop :=
  ∀ f, f = s.flash ∨ f = s.flashMc → f.keySha = Config.keyHash ∧ f.digest = f.sha ∧ f.signed = true ∧ Config.minVersion ≤ f.version

/-- The width that a link or port of a number of lanes has. -/
def trained (x : Nat) : Nat := if x = 16 ∨ x = 8 ∨ x = 4 then x else 0

/-- The code of a width (R424). -/
def codeOfWidth (x : Nat) : Nat := if x = 16 then 3 else if x = 8 then 2 else if x = 4 then 1 else 0

/-- The remap entry of a die slot p of a device with dies ds, of which live are live (R410). -/
def RemapIs (ds live : List Nat) (p : Nat) (e : Word) : Prop :=
  let m := live.length
  let j := (ds.filter (fun d => decide (d < p) && !live.contains d)).length
  (p ∈ live → e = BitVec.ofNat 64 p) ∧
  (p ∉ live → ((∃ k, m = 2 ^ k) → live[j % m]? = some e.toNat) ∧
    ((¬∃ k, m = 2 ^ k) → e.getLsbD 16 = true ∧ live[2 * j % m]? = some (bits e 5 0) ∧ live[(2 * j + 1) % m]? = some (bits e 13 8) ∧
      bits e 63 17 = 0))

/-- Step 2 finds that the start fails (R420): a spine or an I/O die has failed, or no C-die is live. -/
def TestsFail (s : State) (dead : Word) : Prop := SpineFailed s ∨ ∀ d < 64, MarkedDead s dead d

/-- The die map as step 2 makes it: the dies that are marked dead, and every die's other state at reset. -/
def MapMade (s t : State) (dead : Word) : Prop := ∀ d < 64, t.die d = { dead := (t.die d).dead } ∧ ((t.die d).dead = true ↔ MarkedDead s dead d)

/-- The C-dies that the map holds live. -/
def LiveDies (s : State) : Nat := ((List.range 64).filter (fun d => !(s.die d).dead)).length

/-- `startst` with these fields (R421). -/
def StartWord (w : Word) (state step kind wfail live : Nat) : Prop :=
  bits w 1 0 = state ∧ bits w 3 2 = 0 ∧ bits w 7 4 = step ∧ bits w 9 8 = kind ∧ bits w 11 10 = wfail ∧ bits w 15 12 = 0 ∧ bits w 23 16 = live ∧
    bits w 63 24 = 0

/-- The hash masks and remap entries as step 6 sets them for every device (R408 .. R410); no other register changes. -/
def HashSet (s t : State) (masks : List Word) : Prop :=
  (∀ dev < s.devices,
    let top := if s.pmode = 0 then 10 else if s.pmode = 1 then 9 else 4
    (∀ j ≤ 10, t.ctlReg (hashBlock dev + 8 * j) = if j < top ∨ j = 10 then BitVec.ofNat 64 (bits (masks.getD j 0) 51 6 * 64) else 0) ∧
    ∀ (j p : Nat), (s.diesOf dev)[j]? = some p → (∃ d ∈ s.diesOf dev, (s.die d).dead = false) →
      RemapIs (s.diesOf dev) ((s.diesOf dev).filter (fun d => !(s.die d).dead)) p (t.ctlReg (hashBlock dev + 0x100 + 8 * j))) ∧
  ∀ a, (∀ dev < s.devices, ∀ j < 64, a ≠ hashBlock dev + 8 * j ∧ a ≠ hashBlock dev + 0x100 + 8 * j) → t.ctlReg a = s.ctlReg a

/-- A link may carry a claim: a port that has trained, or the sideband (R423). -/
def ClaimLink (s : State) (l : Nat) : Prop := l = 8 ∨ l < 8 ∧ SMap.get s.ports 0 l ≠ 0

/-- The owner changes (R423): the epoch advances, and a record of type 10 is written. -/
def OwnerChanged (s t : State) (to_ : Option Nat) (src : Nat) : Prop :=
  let e := (bits (s.ctlReg (mg 0x10)) 15 8 + 1) % 256
  ∃ u, CtlSet s u (mg 0x10) (BitVec.ofNat 64 (e * 256 + (match to_ with | some l => 16 + l | none => 0))) ∧ Logged u t 10 (96 + src % 8) 0 0

/-- The registers that the owner's plain writes store, with the bits they hold (R436 and the tables it names). -/
def PlainReg (s : State) (a : Nat) (mask : Word) : Prop :=
  (∃ dev q, dev < s.devices ∧ q < s.queueCount ∧
    (a = qAddr dev q ∧ mask = BitVec.ofNat 64 (2 ^ 43 - 2 ^ 12) ∨ a = qAddr dev q + 8 ∧ mask = 0xFFFF_0F07)) ∨
  (∃ dev c, dev < s.devices ∧ c < 256 ∧ s.dctxState dev c = 0 ∧
    (a = dctxRec dev c ∧ mask = BitVec.ofNat 64 (2 ^ 52 - 2 ^ 16) ∨ a = dctxRec dev c + 8 ∧ mask = BitVec.ofNat 64 (2 ^ 52 - 2) ∨
      a = dctxRec dev c + 16 ∧ mask = BitVec.ofNat 64 (2 ^ 43 - 2 ^ 34))) ∨
  (∃ n e, n < 128 ∧ e < 16 ∧
    (a = 0x0_F000_0600_0000 + n * 0x1000 + 16 * e ∧ mask = BitVec.ofNat 64 (2 ^ 52 - 2 ^ 6) ∨
      a = 0x0_F000_0600_0000 + n * 0x1000 + 16 * e + 8 ∧ mask = 0xFFFF_0000_0000_0001)) ∨
  (∃ p, p < 256 ∧ a = routeAddr p ∧ mask = 0x9FFF) ∨
  (∃ dev i, dev < s.devices ∧ s.allFree = true ∧
    (i ≤ 10 ∧ a = hashBlock dev + 8 * i ∧ mask = BitVec.ofNat 64 (2 ^ 52 - 2 ^ 6) ∨ i < 64 ∧ a = hashBlock dev + 0x100 + 8 * i ∧ mask = 0x1_3F3F)) ∨
  (∃ i o, i < 16 ∧ a = 0x0_F000_0A80_0000 + 0x100 * i + o ∧
    ((o = 0 ∨ o = 0x10 ∨ o = 0x18) ∧ mask = BitVec.allOnes 64 ∨ o = 8 ∧ mask = 0xFFFF_FFFF ∨ o = 0x20 ∧ mask = 0xFFFF ∨
      (o = 0x28 ∨ o = 0x30 ∨ o = 0x38) ∧ mask = 0)) ∨
  ∃ d, d < 64 ∧ a = dieBlock d + 0x808 ∧ mask = BitVec.allOnes 64

/-! ## Issue -/

/-- An outstanding instruction makes a register use a hazard (R70): both name one `g`, `f` or `v` register, not `g0`, and one of
the two writes it. -/
def Conflicts (o : Outst) (u : RegUse) : Prop :=
  (u.cls = .g ∨ u.cls = .f ∨ u.cls = .v) ∧ ¬(u.cls = .g ∧ u.n = 0) ∧
    ∃ x ∈ o.uses, x.cls = u.cls ∧ x.n = u.n ∧ (u.wr = true ∨ u.rd = true ∧ x.wr = true)

/-- The outstanding instructions of the executing context whose windows are open. -/
def OpenWindows (s : State) : List Outst := s.cur.out.filter (fun o => o.left != 0)

/-- A tile, a bank or the accumulators are used by an instruction of the core that has not completed, and one of the two writes (R14). -/
def Interlocked (s : State) : Prop :=
  ∃ u ∈ s.now.uses, ∃ o ∈ s.usesOn s.now.h, (u.cls = .t ∨ u.cls = .m ∨ u.cls = .x) ∧ u.cls = o.cls ∧ u.n = o.n ∧ (u.wr = true ∨ o.wr = true)

/-- An access of context k of core h, to an address with a leaf, counts (R352): a mode-11 leaf's counter in the die's TLB goes up by 1, and
at the threshold that the leaf names back to 0, with a MIGRATE notice for the die's fault buffer; a threshold of 0 is never reached. -/
def UseCounted (s t : State) (h k va acc : Nat) : Prop :=
  ∀ e lvl, s.translate h va = .leaf e lvl →
    let d := s.die (hdie h)
    let d' := t.die (hdie h)
    let dc := s.dctxOf h
    let count (x : Die) : Nat := match x.tlb.find? (fun y => y.covers dc va) with | some y => y.count | none => 0
    let thr := (SMap.get d.mthr 0#64 (bits e 13 11)).toNat % 2 ^ 32
    (bits e 7 6 ≠ 3 → d'.faultIn = d.faultIn) ∧
    (bits e 7 6 = 3 → thr ≠ 0 → thr ≤ count d + 1 →
      count d' = 0 ∧ d'.faultIn = d.faultIn ++ [⟨true, dc, va / 65536, acc, hx h, hy h, k⟩]) ∧
    (bits e 7 6 = 3 → thr = 0 ∨ count d + 1 < thr → count d' = count d + 1 ∧ d'.faultIn = d.faultIn)

/-- Entry e of a post queue may leave it (R134, R139, R425): no load of its instruction is open, and each write of its granule may leave,
those of the granule apart. -/
def MayLeave (s : State) (h k : Nat) (e : PEntry) : Prop :=
  let post := (s.ctx h k).post
  (∀ x ∈ post, x.id = e.id → x.openLoad = false) ∧
    ∀ (j : Nat) (x : PEntry), post[j]? = some x → e.mate x = true →
      leaveReady ((post.take j).filter (fun y => !e.mate y)) ((s.core h).pathOf k) x = true

/-- A load, entry e, has its bytes (R135): its instruction's results are known. -/
def LoadGot (s t : State) (h k : Nat) (e : PEntry) (bs : List Byte) : Prop :=
  ∃ u, CachesOnly s u ∧ OnlyCtxCore u t h k ∧
    t.ctx h k = { s.ctx h k with
      post := (s.ctx h k).post.filter (fun x => x.id != e.id)
      out := (s.ctx h k).out.map (fun x => if x.id = e.id then
        (match x.pend with | .loads d => { x with writes := x.writes ++ d.build bs, pend := .ready } | _ => x) else x) }

/-- The data of an outstanding instruction o, whose entry is e, failed at a location (R219, R425): its entries and itself are gone and the
context takes MCHK, with `fpc` its pc, `rpc` the pc of the context, and the address that the location is found back at: log entry 15. -/
def DataFailed (s t : State) (h k : Nat) (e : PEntry) (o : Outst) (loc : Loc) (src : Nat) : Prop :=
  let c := s.ctx h k
  OnlyCtx s t h k ∧
  TakesTrap { c with post := c.post.filter (fun x => x.id != e.id), out := c.out.filter (fun x => x.id != e.id) } (t.ctx h k) (s.core h).tvec
    ⟨e.id, 13, o.pc, c.pc, BitVec.ofNat 64 (s.backVa h loc), BitVec.ofNat 64 src⟩

/-- A 64-bit number with these classes and register (R220). -/
def lookWord (wr : Bool) (c : RClass) (n : Nat) : Word :=
  BitVec.ofNat 64 ((if wr = true then 128 else 0) + (match c with | .f => 32 | .v => 64 | _ => 0) + n)

end Sys2Proof.Safety
end

