-- ==== Sys2Proof/Certificates/Slice0/Obligations.lean ====
section
/-! DEFINITION. The statements for the provers. -/

open Sys2Proof Sys2Proof.Machine Sys2Proof.Safety

/-! ## Scalar integers and control -/

/-- R196 .. R200: the register operations, comparisons, unary operations, operations with an immediate and `li` write `gd` and change
nothing else. -/
def Obligations.ScalarIntegerOperations : Prop :=
  (∀ i s d p, rrSpec i s = some (d, p) → ∃ x, p x ∧ Leads (exec i s) (fun t => WritesG s t d x)) ∧
  (∀ i s d p, cmpSpec i s = some (d, p) → ∃ x, p x ∧ Leads (exec i s) (fun t => WritesG s t d x)) ∧
  (∀ i s d p, unarySpec i s = some (d, p) → ∃ x, p x ∧ Leads (exec i s) (fun t => WritesG s t d x)) ∧
  (∀ i s d p, immSpec i s = some (d, p) → ∃ x, p x ∧ Leads (exec i s) (fun t => WritesG s t d x))

/-- R206: multiply-high, division and remainder, with the cases of a zero divisor and of −2^63 ÷ −1. -/
def Obligations.MultiplyHighAndDivide : Prop :=
  ∀ i s l d p, longSpec i s = some (l, d, p) → ∃ x, p x ∧ Ends i s l [.g d x]

/-- R201, R202: branches and jumps; a register jump to an odd address traps instead. -/
def Obligations.BranchesAndJumps : Prop :=
  (∀ (o : BROps) s, Leads (exec (.bz o) s) (fun t =>
    GoesTo s t (if s.g o.s = 0 then s.cur.pc + 2 * o.off else s.cur.pc + s.len))) ∧
  (∀ (o : BROps) s, Leads (exec (.bnz o) s) (fun t =>
    GoesTo s t (if s.g o.s = 0 then s.cur.pc + s.len else s.cur.pc + 2 * o.off))) ∧
  (∀ (o : JOps) s, Leads (exec (.jmp o) s) (fun t => GoesTo s t (s.cur.pc + 2 * o.off))) ∧
  (∀ (o : JOps) s, Leads (exec (.call o) s) (fun t =>
    OnlyCur s t ∧ t.cur = { s.cur with g := t.cur.g, pc := s.cur.pc + 2 * o.off } ∧
      ∀ r, t.g r = if r = 1#5 then s.cur.pc + s.len else s.g r)) ∧
  (∀ (o : JrOps) s, (s.g o.a).getLsbD 0 = false → Leads (exec (.jr o) s) (fun t => GoesTo s t (s.g o.a))) ∧
  (∀ s, (s.g 1#5).getLsbD 0 = false → Leads (exec .ret s) (fun t => GoesTo s t (s.g 1#5))) ∧
  (∀ (o : JrOps) s, (s.g o.a).getLsbD 0 = true → Traps (.jr o) s 4 (s.g o.a) 0x301#64) ∧
  (∀ s, (s.g 1#5).getLsbD 0 = true → Traps .ret s 4 (s.g 1#5) 0x301#64) ∧
  ∀ s, Leads (exec .nop s) (fun t => GoesTo s t (s.cur.pc + s.len))

/-- R203, R204: what `done` and `yield` do. -/
def Obligations.DoneAndYield : Prop :=
  (∀ s, s.now.k ≠ 0 → s.cur.out = [] → Leads (exec .done s) (fun t => EftEnds s t s.now.h s.now.k)) ∧
  (∀ s, s.now.k ≠ 0 → s.cur.out ≠ [] → Leads (exec .done s) (fun t =>
    OnlyCur s t ∧ t.cur = { s.cur with state := .waiting .done })) ∧
  (∀ s, s.now.k = 0 → s.cur.out = [] → Leads (exec .done s) (fun t =>
    OnlyCtxCore s t s.now.h s.now.k ∧ t.cur = { s.cur with state := .waiting .done } ∧ t.me = { s.me with bufs := t.me.bufs } ∧
      ∀ i, t.me.buf i =
        if ((s.me.buf i).state = 1 ∨ (s.me.buf i).state = 4) ∧ (s.me.buf i).owner = 0 then
          { s.me.buf i with state := 1, owner := 0x1F } else s.me.buf i)) ∧
  (∀ s, s.now.k = 0 → s.cur.out ≠ [] → Leads (exec .done s) (fun t =>
    OnlyCur s t ∧ t.cur = { s.cur with state := .waiting .retry, wlen := s.len, wuses := s.now.uses })) ∧
  (∀ h k s, k ≠ 0 → (s.ctx h k).state = .waiting .done → (s.ctx h k).out = [] →
    Leads (exec (.evEftDone h k) s) (fun t => EftEnds s t h k)) ∧
  ∀ s, Leads (exec .yield s) (fun t =>
    OnlyCur s t ∧ t.cur = { s.cur with yields := t.cur.yields, pc := s.cur.pc + s.len } ∧
      ∀ k, k ∈ t.cur.yields ↔ k ≤ 10 ∧ k ≠ s.now.k ∧ (s.ctx s.now.h k).state = .ready)

/-- R205, R224: `brk` and `sys` trap with causes 0x0F and 0x0E; `brk` is one word and `sys` two, the second 0x3003. -/
def Obligations.BreakAndSystemCall : Prop :=
  (∀ (o : BrkOps) s, Traps (.brk o) s 15 0 (o.k.setWidth 64) ∧ (encode (.brk o)).length = 1) ∧
  ∀ (o : L0) s, Traps (.sys o) s 14 0 0 ∧ (encode (.sys o)).length = 2 ∧ (encode (.sys o))[1]? = some 0x3003#16

/-! ## Addresses, identity, control registers, contexts -/

/-- R208 .. R211: `lea`, `coord`, `rect` and `inrect`, and where they trap. A register that `rect` builds passes the scope check. The
`finfo` of the SCOPE trap of `rect` is the model's choice: log entry 57. -/
def Obligations.AddressesAndCoordinates : Prop :=
  (∀ (o : LeaOps) s, ∃ x : Word, Ends (.lea o) s o.l [.g o.d x] ∧ x.toNat < 2 ^ 52 ∧
    x.toNat = ((s.g o.a).toNat + (s.g o.b).toNat + o.imm.toNat) % 2 ^ 52) ∧
  (∀ (o : L2) s, (s.g o.a).toNat < 2 ^ 16 →
    let x := (s.g o.a).toNat % 256
    let y := (s.g o.a).toNat / 256
    ∃ w : Word, Ends (.coord o) s o.l [.g o.d w] ∧ w.getLsbD 63 = s.liveFor s.me (y * 256 + x) ∧ bits w 62 56 = 0 ∧
      bits w 55 48 = y / 4 * 4 ∧ bits w 47 40 = x / 4 * 4 ∧ bits w 39 38 = 0 ∧ bits w 37 32 = y / 32 * 8 + x / 32 ∧ bits w 31 28 = 0 ∧
      bits w 27 24 = y % 4 * 4 + x % 4 ∧ bits w 23 21 = 0 ∧ bits w 20 16 = x % 32 ∧ bits w 15 8 = y ∧ bits w 7 0 = x) ∧
  (∀ (o : L2) s, 2 ^ 16 ≤ (s.g o.a).toNat → Traps (.coord o) s 1 0 11) ∧
  (∀ (o : L3) s,
    let ax := (s.g o.a).toNat % 256
    let ay := (s.g o.a).toNat / 256
    let bx := (s.g o.b).toNat % 256
    let b_y := (s.g o.b).toNat / 256
    let w := BitVec.ofNat 64 (ax + ay * 2 ^ 8 + bx * 2 ^ 16 + b_y * 2 ^ 24)
    let inside := ax ≤ bx ∧ ay ≤ b_y ∧ s.devOf (dieAt ax ay) = s.myDev ∧ s.devOf (dieAt bx b_y) = s.myDev
    (2 ^ 16 ≤ (s.g o.a).toNat ∨ 2 ^ 16 ≤ (s.g o.b).toNat → Traps (.rect o) s 1 0 11) ∧
    ((s.g o.a).toNat < 2 ^ 16 → (s.g o.b).toNat < 2 ^ 16 →
      (inside → Ends (.rect o) s o.l [.g o.d w] ∧ s.scopeOk s.myDev w = true) ∧ (¬inside → Traps (.rect o) s 16 0 w))) ∧
  ∀ (o : L3) s,
    let v := s.scopeOf o.b
    (s.scopeOk s.myDev v = false → Traps (.inrect o) s 16 0 v) ∧
    (s.scopeOk s.myDev v = true → 2 ^ 16 ≤ (s.g o.a).toNat → Traps (.inrect o) s 1 0 11) ∧
    (s.scopeOk s.myDev v = true → (s.g o.a).toNat < 2 ^ 16 →
      let x := (s.g o.a).toNat % 256
      let y := (s.g o.a).toNat / 256
      ∃ w, Ends (.inrect o) s o.l [.g o.d w] ∧
        (scopeKind v = 0 → IsFlag w (s.liveFor s.me (y * 256 + x) = true ∧
          bits v 7 0 ≤ x ∧ x ≤ bits v 23 16 ∧ bits v 15 8 ≤ y ∧ y ≤ bits v 31 24)) ∧
        (scopeKind v = 1 ∨ scopeKind v = 2 → IsFlag w (y * 256 + x = s.now.h % 65536)) ∧
        (scopeKind v = 3 ∨ scopeKind v = 4 → IsFlag w (s.liveFor s.me (y * 256 + x) = true)))

/-- R212 .. R214: `myid`, `hashq` and `rdcyc`. An instance's index is how many instances come before it in launch order. -/
def Obligations.IdentityHomeAndCycle : Prop :=
  (∀ (o : L2) s, 8 ≤ (s.g o.a).toNat → Traps (.myid o) s 1 0 11) ∧
  (∀ (o : L2) s, (s.g o.a).toNat < 8 →
    let n := (s.g o.a).toNat
    let h := s.now.h % 65536
    ∃ x : Word, Ends (.myid o) s o.l [.g o.d x] ∧
      (s.myLaunch = none → x = 0) ∧
      ∀ l, s.myLaunch = some l →
        (l.nlev ≤ n → x = 0) ∧
        (n < l.nlev → l.domain n = 5 → s.now.k < 16 → bits x 31 0 = s.now.k ∧ bits x 63 32 = 11) ∧
        (n < l.nlev → l.domain n ≠ 5 → l.cores.length < 2 ^ 32 →
          let mine := l.cores.filter (fun c => decide (n = 0 ∨ instKey (l.domain (n - 1)) c = instKey (l.domain (n - 1)) h))
          let keys := mine.map (instKey (l.domain n))
          bits x 63 32 = keys.toFinset.card ∧
            bits x 31 0 = (keys.takeWhile (fun j => j != instKey (l.domain n) h)).toFinset.card)) ∧
  (∀ (o : L2) s, ∃ x : Word, Ends (.hashq o) s o.l [.g o.d x] ∧
    (NW ≤ (s.g o.a).toNat → x = 0) ∧
    ((∀ e lvl, s.translate s.now.h (s.g o.a).toNat ≠ .leaf e lvl) → x = 0) ∧
    ∀ e lvl, (s.g o.a).toNat < NW → s.translate s.now.h (s.g o.a).toNat = .leaf e lvl →
      (¬(pteR e = true ∧ (s.cur.supervisor = true ∨ pteUser e = true)) → x = 0) ∧
      (pteR e = true → (s.cur.supervisor = true ∨ pteUser e = true) →
        let pa := pteFrame e * 65536 + (s.g o.a).toNat % leafSpan lvl
        x.getLsbD 63 = true ∧ bits x 23 22 = pteAp e ∧
        (pteAp e = 0 → bits x 21 16 = s.homeDie s.myDev pa ∧ bits x 9 4 = s.homeSlot s.myDev pa ∧
          bits x 3 0 = s.homeSlice s.myDev pa) ∧
        (pteAp e = 1 → pa < nearBase 64 → bits x 21 16 = (pa - nearBase 0) / 2 ^ 30 ∧ bits x 15 0 = 0) ∧
        (2 ≤ pteAp e → bits x 21 0 = 0))) ∧
  ∀ (o : LD) s, Ends (.rdcyc o) s o.l [.g o.d s.me.cycle]

/-- R215: a CSR read delivers the CSR's value; a write stores the bits that the CSR holds and changes no other CSR; a CSR without a
writable field makes `csrwr` trap. R215, R220: in user mode the privileged accesses raise PRIV, with the CSR number and the base word. The
model's readings in it: log entries 14 and 48. -/
def Obligations.ControlRegisters : Prop :=
  ((∀ (o : CsrOps) s, CsrMay s o.n.toNat false → Ends (.csrrd o) s o.l [.g o.d (s.readCsr s.now.h s.now.k o.n.toNat)]) ∧
  (∀ (o : CsrOps) s m, (o.n.toNat, m) ∈ csrMasks → CsrMay s o.n.toNat true →
    (o.n.toNat = 8 → (s.g o.d).toNat < 2 ^ 35) →
    Leads (exec (.csrwr o) s) (fun t =>
      t.readCsr s.now.h s.now.k o.n.toNat = s.g o.d &&& BitVec.ofNat 64 m ∧
      (∀ n ∈ csrNumbers, n ≠ o.n.toNat → ¬(o.n.toNat = 0x111 ∧ (n = 0x112 ∨ n = 0x113)) →
        t.readCsr s.now.h s.now.k n = s.readCsr s.now.h s.now.k n) ∧
      t.cur.pc = s.cur.pc + s.len ∧ (∀ r, t.g r = s.g r) ∧ SameBytes s t ∧ OthersSame s t)) ∧
  (∀ (o : CsrOps) s, o.n.toNat = 8 → CsrMay s 8 true → 2 ^ 35 ≤ (s.g o.d).toNat → Traps (.csrwr o) s 16 0 (s.g o.d)) ∧
  ∀ (o : CsrOps) s, o.n.toNat ∈ [0x000, 0x001, 0x002, 0x033, 0x060, 0x100, 0x101, 0x110, 0x112, 0x113, 0x115] →
    CsrMay s o.n.toNat true → Traps (.csrwr o) s 1 0 11) ∧
  ((∀ (o : CsrOps) s w, s.cur.supervisor = false → s.now.words.getLast? = some w →
    (0x100 ≤ o.n.toNat ∧ o.n.toNat < 0x200 ∨ o.n.toNat = 0x016) →
    Traps (.csrrd o) s 3 0 (BitVec.ofNat 64 (2 ^ 28 + o.n.toNat * 2 ^ 16 + w.toNat))) ∧
  ∀ (o : CsrOps) s w, s.cur.supervisor = false → s.now.words.getLast? = some w →
    (0x100 ≤ o.n.toNat ∧ o.n.toNat < 0x200 ∨ 0x010 ≤ o.n.toNat ∧ o.n.toNat ≤ 0x017) →
    Traps (.csrwr o) s 3 0 (BitVec.ofNat 64 (2 ^ 28 + o.n.toNat * 2 ^ 16 + w.toNat)))

/-- R221 .. R223: `start` begins the lowest IDLE eft or answers 0; `join` waits for an eft to be IDLE and delivers its result word; `ctxq`
takes a snapshot. The model's readings in it: log entry 13. -/
def Obligations.StartJoinAndSnapshot : Prop :=
  (∀ (o : L4) s e, (s.g o.a).getLsbD 0 = false → (s.g o.a).toNat < NW → s.cur.state = .ready →
    1 ≤ e → e ≤ 10 → (s.ctx s.now.h e).state = .idle → (∀ j, 1 ≤ j → j < e → (s.ctx s.now.h j).state ≠ .idle) →
    Leads (exec (.start o) s) (fun t => ∃ u,
      Started s u s.now.h e (s.g o.a) (s.g o.b) (s.g (cReg o.c)) 0 true none ∧ Ended u t o.l [.g o.d (BitVec.ofNat 64 e)])) ∧
  (∀ (o : L4) s, (s.g o.a).getLsbD 0 = false → (s.g o.a).toNat < NW →
    (∀ j, 1 ≤ j → j ≤ 10 → (s.ctx s.now.h j).state ≠ .idle) → Ends (.start o) s o.l [.g o.d 0]) ∧
  (∀ (o : L4) s, (s.g o.a).getLsbD 0 = true → Traps (.start o) s 4 (s.g o.a) 0x301) ∧
  (∀ (o : L4) s, (s.g o.a).getLsbD 0 = false → NW ≤ (s.g o.a).toNat → Traps (.start o) s 1 0 11) ∧
  (∀ (o : L2) s,
    let e := (s.g o.a).toNat
    (e = 0 ∨ 10 < e ∨ e = s.now.k → Traps (.join o) s 1 0 11) ∧
    (1 ≤ e → e ≤ 10 → e ≠ s.now.k →
      ((s.ctx s.now.h e).state = .idle ∧ s.canStart s.now.h = false →
        Ends (.join o) s o.l [.g o.d (s.ctx s.now.h e).result]) ∧
      (¬((s.ctx s.now.h e).state = .idle ∧ s.canStart s.now.h = false) → Leads (exec (.join o) s) (fun t =>
        OnlyCur s t ∧ t.cur = { s.cur with state := .waiting (.join o.d e), wlen := s.len, wuses := s.now.uses })))) ∧
  (∀ h k d e s, h < 65536 → (s.ctx h k).state = .waiting (.join d e) → (s.ctx h e).state = .idle → s.canStart h = false →
    Leads (exec (.evJoinWake h k) s) (fun t =>
      OnlyCtx s t h k ∧
        t.ctx h k = { s.ctx h k with g := (t.ctx h k).g, state := .ready, pc := (s.ctx h k).pc + (s.ctx h k).wlen } ∧
        ∀ r, (t.ctx h k).gr r = if r = d ∧ r ≠ 0#5 then (s.ctx h e).result else (s.ctx h k).gr r)) ∧
  ∀ (o : L2) s,
    let k := (s.g o.a).toNat
    (10 < k → Traps (.ctxq o) s 1 0 11) ∧
    (k ≤ 10 → ∃ x : Word, Ends (.ctxq o) s o.l [.g o.d x] ∧ bits x 63 4 = 0 ∧
      x.getLsbD 3 = (s.ctx s.now.h k).byStart ∧ x.getLsbD 2 = (s.ctx s.now.h k).layer.isSome ∧
      bits x 1 0 = if k = s.now.k then 1 else (s.ctx s.now.h k).state.code)

/-- R69: an outstanding instruction whose results are known, and none of whose accesses a peer that is out holds (R21), completes: its
writes are made and it leaves, and a context that a full window held may go on once every window has room. R219: a pending trap is entered
when nothing of its context is outstanding. The model's readings in it: log entries 12 and 51. -/
def Obligations.CompletionAndPendingTraps : Prop :=
  ((∀ h k i o s, (s.ctx h k).out.find? (fun x => x.id == i) = some o → o.pend = .ready →
    (∀ e ∈ (s.ctx h k).post, e.id = i → e.loc.space.held = false) →
    let rest := (s.ctx h k).out.filter (fun x => x.id != i)
    Leads (exec (.evInstructionComplete h k i) s) (fun t =>
      OnlyCtxCore s t h k ∧
      t.ctx h k = { (s.ctx h k).writes o.writes with
        out := rest
        state := if (s.ctx h k).state = .waiting .window ∧ ∀ x ∈ rest, x.left ≠ 0 then .ready else (s.ctx h k).state } ∧
      t.core h = o.writes.foldl Core.write (s.core h))) ∧
  (∀ (c : Ctx) (ws : List RegWrite) r, (∀ x, .g r x ∉ ws) → (c.writes ws).gr r = c.gr r) ∧
  (∀ (c : Ctx) (ws : List RegWrite) r x, r ≠ 0#5 → (c.writes (ws ++ [.g r x])).gr r = x) ∧
  (∀ (c : Ctx) (ws : List RegWrite), (c.writes ws).gr 0#5 = 0) ∧
  ∀ (c : Ctx) (ws : List RegWrite) j, (c.writes ws).fflags.getLsbD j = true ↔
    c.fflags.getLsbD j = true ∨ ∃ b, .fflags b ∈ ws ∧ b.getLsbD j = true) ∧
  (∀ h k s p, (s.ctx h k).trap = some p → (s.ctx h k).out = [] →
    Leads (exec (.evTrapEntry h k) s) (fun t => OnlyCtx s t h k ∧ Entered (s.ctx h k) (t.ctx h k) (s.core h).tvec p))

/-! ## Floating point -/

/-- R227, R43, R46: each scalar operation delivers its exact result rounded once, with its flags, and the special cases. R228 .. R234:
minimum, maximum, comparison, class with its selector and zero field, sign, conversions, moves and constants. -/
def Obligations.FpScalar : Prop :=
  (∀ i s l d p, fpSpec i s = some (l, d, p) → ∃ r, p r ∧ Ends i s l (FpResult d r)) ∧
  ((∀ i s l p, fpMoreSpec i s = some (l, p) → ∃ ws, p ws ∧ Ends i s l ws) ∧
  (∀ (o : FliOps) s, o.k.toNat = 3 → 2 ^ 32 ≤ o.imm.toNat → Traps (.fli o) s 1 0 11)) ∧
  ∀ (o : L2), ∃ w, (encode (.fclass o)).getLast? = some w ∧ bits w 2 0 = 1 ∧ bits w 5 3 = 0

/-! ## Vectors in registers -/

/-- R235, R236: every lane of an integer vector instruction, and VSAT when a lane clamped. R237, R243: every lane of a floating-point
vector instruction, and the flags of all lanes. For `vexp2` the statement gives the special cases and the integers only. -/
def Obligations.VectorArithmetic : Prop :=
  (∀ i s l d w p, viSpec i s = some (l, d, w, p) →
    ∃ (v : Vec) (c : Nat → Bool) (b : Bool), (∀ j < 1024 / w, p j (laneAt w v j) (c j)) ∧
      (b = true ↔ ∃ j < 1024 / w, c j = true) ∧ Ends i s l (.v d v :: if b = true then [.satflags 1#64] else [])) ∧
  (∀ i s l d f p, vfSpec i s = some (l, d, f, p) →
    ∃ (v : Vec) (fl : Nat → Flags) (g : Flags), (∀ j < 1024 / f.width, p j (laneAt f.width v j, fl j)) ∧
      Ored (1024 / f.width) fl g ∧ Ends i s l (.v d v :: g.write))

/-- R238: the conversions between lane formats, narrowing into part p and widening from it. R239 .. R241: a block's scale and codes as
`vqmx` writes them, every other byte zero, and `vdqmx`'s elements. R242: the codes that `vcode` chooses and where it writes them, and
the entries that `vdecode` reads. -/
def Obligations.VectorConversions : Prop :=
  (∀ (o : VFcvtOps) s, (Instr.vfcvt o).wellFormed = true →
    let (ws, wd, p) := cvtSpec o.code.toNat (modeOf o.mode.toNat)
    ∃ (v : Vec) (fl : Nat → Flags) (g : Flags), Ored (Nat.min (1024 / ws) (1024 / wd)) fl g ∧
      Ends (.vfcvt o) s o.l (.v o.d v :: g.write) ∧
      if wd < ws then
        (∀ j < 1024 / ws, p (laneAt ws (s.v o.a) j) (laneAt wd v (o.part.toNat * (1024 / ws) + j), fl j)) ∧
          ∀ j < 1024 / wd, j < o.part.toNat * (1024 / ws) ∨ (o.part.toNat + 1) * (1024 / ws) ≤ j →
            laneAt wd v j = laneAt wd (s.v o.d) j
      else ∀ j < 1024 / wd, p (laneAt ws (s.v o.a) (o.part.toNat * (1024 / wd) + j)) (laneAt wd v j, fl j)) ∧
  ((∀ (o : VMxOps) s, (Instr.vqmx o).wellFormed = true →
    let f := fpOf o.ty
    let mb := (mxSpec o.fmt.toNat).2.2
    let nb := 32 / f.width
    let code (v : Vec) (j : Nat) := v.toNat / 2 ^ (mb * j) % 2 ^ mb
    let scale (v : Vec) (b : Nat) := v.toNat / 2 ^ (512 + 16 * b) % 2 ^ 16
    ∃ (v : Vec) (fl : Nat → Flags) (g : Flags), Ored (32 * nb) fl g ∧ Ends (.vqmx o) s o.l (.v o.d v :: g.write) ∧
      (∀ b < nb, Quantises o.fmt.toNat (fun j => f.decode (laneAt f.width (s.v o.a) (32 * b + j))) (scale v b)
        (fun j => (code v (32 * b + j), fl (32 * b + j)))) ∧
      v.toNat < 2 ^ (512 + 16 * nb) ∧ v.toNat % 2 ^ 512 < 2 ^ (mb * 32 * nb)) ∧
  ∀ (o : VMxOps) s, (Instr.vdqmx o).wellFormed = true →
    let f := fpOf o.ty
    let (e, _, mb) := mxSpec o.fmt.toNat
    let sc (j : Nat) : Nat := (s.v o.a).toNat / 2 ^ (512 + 16 * (j / 32)) % 512
    ∃ (v : Vec) (fl : Nat → Flags) (g : Flags), Ored (1024 / f.width) fl g ∧ Ends (.vdqmx o) s o.l (.v o.d v :: g.write) ∧
      ∀ j < 1024 / f.width,
        (sc j = 0x1FF → (laneAt f.width v j, fl j) = (f.nan, {})) ∧
        (sc j ≠ 0x1FF → ConvertsTo f .rne ((e.decode (laneAt mb (s.v o.a) j)).scaled ((sc j : ℤ) - 256)) (laneAt f.width v j, fl j))) ∧
  ((∀ (o : VCodeOps) s, (Instr.vcode o).wellFormed = true →
    let f := fpOf o.ty
    let n := 1024 / f.width
    ∃ (v : Vec) (fl : Nat → Flags) (g : Flags), Ored n fl g ∧ Ends (.vcode o) s o.l (.v o.d v :: g.write) ∧
      (∀ j < n, CodeOf (f.decode (laneAt f.width (s.v o.a) j)) (fun k => Fmt.bf16.decode (laneAt 16 (s.v o.b) k))
        (laneAt 4 v (o.part.toNat * n + j)) (fl j)) ∧
      ∀ j < 256, j < o.part.toNat * n ∨ (o.part.toNat + 1) * n ≤ j → laneAt 4 v j = laneAt 4 (s.v o.d) j) ∧
  ∀ (o : VCodeOps) s, (Instr.vdecode o).wellFormed = true →
    let f := fpOf o.ty
    let n := 1024 / f.width
    let e (j : Nat) := Fmt.bf16.decode (laneAt 16 (s.v o.b) (laneAt 4 (s.v o.a) (o.part.toNat * n + j)))
    ∃ v : Vec, Ends (.vdecode o) s o.l [.v o.d v] ∧
      ∀ j < n, (e j = .nan → laneAt f.width v j = f.nan) ∧ (Val (e j) 0 → laneAt f.width v j = 0) ∧
        (e j ≠ .nan → ¬Val (e j) 0 → ConvertsTo f .rne (e j) (laneAt f.width v j, {})))

/-- R248, R249: reductions of all lanes, permutation, insertion and extraction of a lane; a lane number that is too large traps. -/
def Obligations.ReduceAndMoveLanes : Prop :=
  (∀ (o : VRedOps) s, o.ty.toNat < 4 →
    ∃ x, Reduces o.op.toNat (intWidth o.ty) (1024 / intWidth o.ty) (s.v o.a) x ∧ Ends (.vred o) s o.l [.g o.d x]) ∧
  (∀ (o : VRedOps) s, 4 ≤ o.ty.toNat → o.ty.toNat < 7 → o.op.toNat < 3 →
    ∃ r, FpReduces o.op.toNat (fpOf o.ty) (1024 / (fpOf o.ty).width) (s.v o.a) r ∧ Ends (.vred o) s o.l (FpResult o.d r)) ∧
  (∀ (o : VTOps) s, o.ty ≠ 7#3 →
    let w := tyWidth o.ty
    ∃ v : Vec, Ends (.vperm o) s o.l [.v o.d v] ∧
      ∀ j < 1024 / w, laneAt w v j = laneAt w (s.v o.a) (laneAt w (s.v o.b) j % (1024 / w))) ∧
  (∀ (o : VInsOps) s, o.ty ≠ 7#3 →
    let w := tyWidth o.ty
    ((s.g o.b).toNat < 1024 / w → ∃ v : Vec, Ends (.vins o) s o.l [.v o.d v] ∧
      ∀ j < 1024 / w, laneAt w v j = if j = (s.g o.b).toNat then (s.g o.a).toNat % 2 ^ w else laneAt w (s.v o.d) j) ∧
    (1024 / w ≤ (s.g o.b).toNat → Traps (.vins o) s 1 0 11)) ∧
  ∀ (o : VExtOps) s, o.ty ≠ 7#3 →
    let w := tyWidth o.ty
    ((s.g o.b).toNat < 1024 / w → ∃ x, Ends (.vext o) s o.l [.g o.d x] ∧
      (o.ty.toNat < 4 → x.toInt = lint w (laneAt w (s.v o.a) (s.g o.b).toNat)) ∧
      (4 ≤ o.ty.toNat → x.toNat = laneAt w (s.v o.a) (s.g o.b).toNat)) ∧
    (1024 / w ≤ (s.g o.b).toNat → Traps (.vext o) s 1 0 11)

/-! ## Where an access goes -/

/-- R17 .. R19: the near window: the own row, and the sixteen rows of the cluster peers; an access outside every row, one that leaves
its row, and one that names a peer that is not live raise WINDOW. -/
def Obligations.NearWindowRows : Prop :=
  (∀ (s : State) off n, off + n ≤ 2 ^ 17 → 1 ≤ n → s.nearLoc (NW + off) n = .ok (s.now.h, off)) ∧
  (∀ (s : State) off n, off < 2 ^ 17 → 2 ^ 17 < off + n → s.nearLoc (NW + off) n = .error (windowAt (BitVec.ofNat 64 (NW + 2 ^ 17)))) ∧
  (∀ (s : State) off n, 2 ^ 17 ≤ off → off < 2 ^ 20 ∨ 3 * 2 ^ 20 ≤ off →
    s.nearLoc (NW + off) n = .error (windowAt (BitVec.ofNat 64 (NW + off)))) ∧
  (∀ (s : State) p off n, p < 16 → p ≠ peerNo s.now.h → s.liveFor s.me (peerHandle s.now.h p) = true → off + n ≤ 2 ^ 17 → 1 ≤ n →
    s.nearLoc (NW + 2 ^ 20 + p * 2 ^ 17 + off) n = .ok (s.handleFor s.me (peerHandle s.now.h p), off)) ∧
  (∀ (s : State) p off n, p < 16 → p = peerNo s.now.h → off + n ≤ 2 ^ 17 → 1 ≤ n →
    s.nearLoc (NW + 2 ^ 20 + p * 2 ^ 17 + off) n = .ok (s.now.h, off)) ∧
  (∀ (s : State) p off n, p < 16 → p ≠ peerNo s.now.h → s.liveFor s.me (peerHandle s.now.h p) = false → off < 2 ^ 17 →
    s.nearLoc (NW + 2 ^ 20 + p * 2 ^ 17 + off) n = .error (windowDead (BitVec.ofNat 64 (NW + 2 ^ 20 + p * 2 ^ 17 + off)) p)) ∧
  ∀ (s : State) p off n, p < 16 → (p = peerNo s.now.h ∨ s.liveFor s.me (peerHandle s.now.h p) = true) → off < 2 ^ 17 →
    2 ^ 17 < off + n →
    s.nearLoc (NW + 2 ^ 20 + p * 2 ^ 17 + off) n = .error (windowAt (BitVec.ofNat 64 (NW + 2 ^ 20 + (p + 1) * 2 ^ 17)))

/-- R339 .. R341: a walk reads one 8-byte entry of each level, indexed by twelve bits of the address; a leaf of level 1, 2 or 3 maps 2^40,
2^28 or 2^16 bytes. R270, R345, R346, R351: the checks of a load or store below the near window, in their order: scope, alignment,
translation (parking on a missing page), permission. R352: a load or store through a mode-11 leaf counts, and at the threshold leaves a
MIGRATE notice. The model's readings in it: log entries 18 and 24. -/
def Obligations.WalksAndAccessChecks : Prop :=
  (∀ (s : State) dev root va e1 e2 e3, va < 2 ^ 52 →
    let i1 := va / 2 ^ 40
    let i2 := va / 2 ^ 28 % 4096
    let i3 := va / 2 ^ 16 % 4096
    let t2 := pteFrame e1 * 65536
    let t3 := pteFrame e2 * 65536
    let entry (a : Nat) (e : Word) : Prop :=
      s.physical a = true ∧ SMap.get s.poison false (a / 8) = false ∧ (a < 2 ^ 43 → s.homeLost dev (s.homeDie dev a) = false) ∧ leNat (s.rawBytes a 8) = e.toNat
    entry (root + 8 * i1) e1 →
    (e1.getLsbD 0 = false → s.walk dev root va = .miss 1) ∧
    (e1.getLsbD 0 = true → e1.getLsbD 1 = true → s.walk dev root va = if s.malformed dev e1 1 = true then .fatal 1 e1 else .leaf e1 1) ∧
    (e1.getLsbD 0 = true → e1.getLsbD 1 = false → (bits e1 15 2 ≠ 0 ∨ bits e1 59 52 ≠ 0) → s.walk dev root va = .fatal 1 0) ∧
    (e1.getLsbD 0 = true → e1.getLsbD 1 = false → bits e1 15 2 = 0 → bits e1 59 52 = 0 → entry (t2 + 8 * i2) e2 →
      (e2.getLsbD 0 = false → s.walk dev root va = .miss 2) ∧
      (e2.getLsbD 0 = true → e2.getLsbD 1 = true →
        s.walk dev root va = if s.malformed dev e2 2 = true then .fatal 2 e2 else .leaf e2 2) ∧
      (e2.getLsbD 0 = true → e2.getLsbD 1 = false → bits e2 15 2 = 0 → bits e2 59 52 = 0 → entry (t3 + 8 * i3) e3 →
        (e3.getLsbD 0 = false → s.walk dev root va = .miss 3) ∧
        (e3.getLsbD 0 = true → e3.getLsbD 1 = false → s.walk dev root va = .fatal 3 0) ∧
        (e3.getLsbD 0 = true → e3.getLsbD 1 = true →
          s.walk dev root va = if s.malformed dev e3 3 = true then .fatal 3 e3 else .leaf e3 3)))) ∧
  (∀ i s (o : MemOps) n (wr : Bool),
    ((∃ sg f, loadForm i = some (o, n, sg, f)) ∧ wr = false ∨ (∃ x, storeForm i s = some (o, n, x)) ∧ wr = true) →
    let va := miAddr s o n
    let v := s.scopeOf o.xs
    let acc := if wr = true then 2 else 1
    (o.sem ≠ 0#2 → s.scopeOk s.myDev v = false → Traps i s 16 0 v) ∧
    ((o.sem = 0#2 ∨ s.scopeOk s.myDev v = true) →
      (va % n ≠ 0 → Traps i s 4 (BitVec.ofNat 64 va) (BitVec.ofNat 64 ((if wr = true then 256 else 0) + Nat.log2 n))) ∧
      (va % n = 0 → va < NW → (s.now.defer = false ∨ s.tlbHit s.now.h va = true) →
        (∀ lvl, s.translate s.now.h va = .miss lvl →
          Leads (exec i s) (fun t =>
            t = { s with ctxs := t.ctxs, dies := t.dies } ∧ OthersSame s t ∧ SameBytes s t ∧
            t.cur = { s.cur with
              state := .parked, out := s.cur.out.map (fun x => { x with left := 0 }), cause := 5, fpc := s.cur.pc, faddr := BitVec.ofNat 64 va
              finfo := BitVec.ofNat 64 (lvl * 256 + acc) } ∧
            ∀ d, t.die d = if d = hdie s.now.h then
              { s.die d with faultIn := (s.die d).faultIn ++
                [⟨false, s.dctxOf s.now.h, va / 65536, acc, hx s.now.h, hy s.now.h, s.now.k⟩] } else s.die d)) ∧
        (∀ lvl e, s.translate s.now.h va = .fatal lvl e →
          Traps i s 5 (BitVec.ofNat 64 va) (BitVec.ofNat 64 (e.toNat % 65536 * 65536 + 1 * 4096 + lvl * 256 + acc))) ∧
        (∀ e lvl, s.translate s.now.h va = .leaf e lvl →
          (wr = false → pteR e = false →
            Traps i s 6 (BitVec.ofNat 64 va) (BitVec.ofNat 64 (e.toNat % 65536 * 65536 + 1 * 4096 + lvl * 256 + acc))) ∧
          (wr = true → pteW e = false →
            Traps i s 6 (BitVec.ofNat 64 va) (BitVec.ofNat 64 (e.toNat % 65536 * 65536 + 2 * 4096 + lvl * 256 + acc))) ∧
          ((if wr = true then pteW e else pteR e) = true → pteUser e = false → s.cur.supervisor = false →
            Traps i s 6 (BitVec.ofNat 64 va) (BitVec.ofNat 64 (e.toNat % 65536 * 65536 + 4 * 4096 + lvl * 256 + acc))) ∧
          ((if wr = true then pteW e else pteR e) = true → (pteUser e = true ∨ s.cur.supervisor = true) →
            s.locate va n { rd := !wr, wr := wr } = .ok ⟨leafSpace s.myDev e, leafKey e lvl va⟩))))) ∧
  (∀ i s o n sgn isF loc, loadForm i = some (o, n, sgn, isF) →
    let va := miAddr s o n
    va < NW → s.access o.sem o.xs va n 0 { rd := true } = .ok loc → s.checkData va loc n false = .ok () →
    Leads (exec i s) (fun t => UseCounted s t s.now.h s.now.k va 1)) ∧
  ∀ i s o n x loc, storeForm i s = some (o, n, x) →
    let va := miAddr s o n
    va < NW → s.access o.sem o.xs va n 1 { wr := true } = .ok loc → s.lostByte s.myDev loc n = none →
    Leads (exec i s) (fun t => UseCounted s t s.now.h s.now.k va 2)

/-! ## Loads and stores -/

/-- R269 .. R273: a load whose checks pass delivers the bytes at its address at once where nothing earlier of its context bars it, and
otherwise enters the post queue. R269 .. R273, R378: a store whose checks pass writes the low bytes of its value at its address and
nothing else, at once where nothing earlier bars it, and otherwise from the post queue; a write that its peer refuses is discarded and
sets REFUSED. R409: a store to a line that is homed where it cannot be reached raises MCHK. The model's readings in it: log entries 36 and
51. -/
def Obligations.LoadsAndStores : Prop :=
  (∀ i s o n sgn isF loc, loadForm i = some (o, n, sgn, isF) →
    let va := miAddr s o n
    s.access o.sem o.xs va n 0 { rd := true } = .ok loc → s.checkData va loc n false = .ok () →
    (s.now.defer = false → s.canLoad loc n = true →
      ∃ u w, CachesOnly s u ∧ LoadWrite o sgn isF (s.look loc n) w ∧
        (semAcq o.sem = true → beyondCore (s.scopeOf o.xs) = true → u.me.l1 = []) ∧ Leads (exec i s) (fun t => Ended u t o.l [w])) ∧
    (s.cur.post = [] → s.me.path = [] → ∀ j, j < n → (s.look loc n)[j]? = some (s.pocByte loc.space (loc.at_ + j))) ∧
    (¬(s.now.defer = false ∧ s.canLoad loc n = true) →
      ∃ u d, CachesOnly s u ∧ Leads (exec i s) (fun t =>
        Queued u t o.l [⟨s.serial, o.sem, s.scopeOf o.xs, loc, .load n none, 0⟩] [] (.loads d)) ∧
        ∀ bs : List Byte, bs.length = n → ∃ w, d.build bs = [w] ∧ LoadWrite o sgn isF bs w)) ∧
  (∀ i s o n x loc, storeForm i s = some (o, n, x) →
    let va := miAddr s o n
    s.access o.sem o.xs va n 1 { wr := true } = .ok loc →
    (∀ j, s.lostByte s.myDev loc n = some j → Traps i s 13 (BitVec.ofNat 64 (va + j)) 3) ∧
    (s.lostByte s.myDev loc n = none →
    (s.now.defer = false → s.canWrite loc n o.sem (s.scopeOf o.xs) = true → ¬Refused s loc →
      ∃ u, MemoryOnly s u ∧ StoredAt s u loc (leBytes n x) ∧ Leads (exec i s) (fun t => Ended u t o.l [])) ∧
    (s.now.defer = false → s.canWrite loc n o.sem (s.scopeOf o.xs) = true → Refused s loc →
      Leads (exec i s) (fun t => SameBytes s t ∧ t.cur.atomstat = s.cur.atomstat ||| 4#64 ∧ t.logw = s.logw + 1 ∧
        t.cur.pc = s.cur.pc + s.len ∧ ∀ r, t.g r = s.g r)) ∧
    (¬(s.now.defer = false ∧ s.canWrite loc n o.sem (s.scopeOf o.xs) = true) →
      ∃ u, CachesOnly s u ∧ Leads (exec i s) (fun t =>
        Queued u t o.l [⟨s.serial, o.sem, s.scopeOf o.xs, loc, .store (leBytes n x), 0⟩] [] .ready))))

/-- R22, R128: bytes written at a point of coherence stand there, and every other byte reads as before. R134, R135: a load of the post
queue is satisfied from memory, or from the L1, under the nearer writes; R425: where its data fail its instruction raises MCHK. R134, R139:
a store moves to the core path and is performed from there, with the other writes of its granule. The model's readings in it: log
entries 15, 19, 20 and 51. -/
def Obligations.QueuedWritesPerform : Prop :=
  (∀ (s : State) loc bs, StoredAt s (s.putPoc loc.space loc.at_ bs) loc bs) ∧
  (∀ h k n s e m o, (s.ctx h k).post[n]? = some e → e.kind = .load m none →
    loadReady ((s.ctx h k).post.take n) e = true → (s.ctx h k).out.find? (fun x => x.id == e.id) = some o →
    let a := e.loc.at_
    let near (j : Nat) : Option Byte := s.nearer h ((s.ctx h k).post.take n) (a + j)
    let alone := (∀ j e', (s.ctx h k).post[j]? = some e' → e'.id = e.id → j = n) ∧ ∃ d, o.pend = .loads d ∧ ∀ b sub accs, d ≠ .elems b sub accs
    let got (i : Instr) (byte : Nat → Byte) : Prop := alone →
      ∃ bs : List Byte, bs.length = m ∧ (∀ j b, bs[j]? = some b → b = (near j).getD (byte j)) ∧ Leads (exec i s) (fun t => LoadGot s t h k e bs)
    let fails (i : Instr) (x src : Nat) : Prop := s.gangs = [] → Leads (exec i s) (fun t => DataFailed s t h k e o ⟨e.loc.space, x⟩ src)
    (s.clearFor h e.id e.loc = true → ∀ i, i = .evLoadSatisfy h k n 0 ∨ i = .evLoadSatisfy h k n 1 ∨
        (∃ g, e.loc.space = .local_ g) ∧ i = .evClusterPeerRequest h k n →
      (s.dataError (s.devOf (hdie h)) e.loc m false = none ∨ (∀ j < m, near j ≠ none) → got i (fun j => s.pocByte e.loc.space (a + j))) ∧
      ∀ src x, s.dataError (s.devOf (hdie h)) e.loc m false = some (src, x) → (∃ j < m, near j = none) → fails i x src) ∧
    let i := Instr.evLoadSatisfy h k n 2
    let l1 := (s.core h).l1
    let held := e.loc.space.l1able = true ∧ SMap.has l1 (a / 64) = true ∧ SMap.has l1 ((a + m - 1) / 64) = true ∧
      ∀ p ∈ (s.core h).newer, p.1 = k → p.2 < a ∨ a + m ≤ p.2
    let bad (j : Nat) : Prop := near j = none ∧ SMap.get s.poison false (l1Key h (a + j) / 8) = true
    (¬held → Leads (exec i s) (fun t => t = s)) ∧
    (held → (∀ j < m, ¬bad j) → got i (fun j => lineByte (SMap.get l1 0#512 ((a + j) / 64)) ((a + j) % 64))) ∧
    (held → ∀ j < m, bad j → (∀ i < j, ¬bad i) → fails i (a + j) 2)) ∧
  (∀ h k n s e b, (s.ctx h k).post[n]? = some e → e.kind = .store b → MayLeave s h k e →
    Leads (exec (.evWriteLeavePostQueue h k n) s) (fun t => OnlyCtxCore s t h k ∧
      t.ctx h k = { s.ctx h k with post := (s.ctx h k).post.filter (fun y => !e.mate y) } ∧
      t.core h = { s.core h with path := (s.core h).path ++ (s.ctx h k).leaving k e })) ∧
  (∀ e x : PEntry, e.mate x = true ↔ x.id = e.id ∧ x.loc.space = e.loc.space ∧ x.loc.at_ / 8 = e.loc.at_ / 8 ∧ ∃ b, x.kind = .store b) ∧
  (∀ (c : Ctx) k e (w : CWrite), w ∈ c.leaving k e ↔ ∃ x ∈ c.post, e.mate x = true ∧ x.kind = .store w.b ∧ w = ⟨x.id, k, x.loc, w.b⟩) ∧
  (∀ w x : CWrite, w.mate x = true ↔ x.k = w.k ∧ x.id = w.id ∧ x.loc.space = w.loc.space ∧ x.loc.at_ / 8 = w.loc.at_ / 8) ∧
  (∀ h n s w, let p := (s.core h).path
    p[n]? = some w → w.loc.space.held = false → s.clearFor h w.id w.loc = true →
    (∀ (i : Nat) (x : CWrite), p[i]? = some x → w.mate x = true → ¬Refused s x.loc ∧
      ∀ y ∈ p.take i, w.mate y = false → overlap y.loc.at_ y.b.length x.loc.at_ x.b.length = false) →
    Leads (exec (.evWritePerform h n) s) (fun t => WritesStand s t (p.filter w.mate) ∧ t.ctxs = s.ctxs ∧
      (t.core h).path = p.filter (fun x => !w.mate x))) ∧
  ∀ h k n s e b, (s.ctx h k).post[n]? = some e → e.kind = .store b → (∃ g, e.loc.space = .local_ g) → MayLeave s h k e →
    (∀ x ∈ (s.ctx h k).leaving k e, ∀ w ∈ (s.core h).path, overlap x.loc.at_ x.b.length w.loc.at_ w.b.length = false) →
    Leads (exec (.evClusterPeerRequest h k n) s) (fun t => WritesStand s t ((s.ctx h k).leaving k e) ∧
      (t.ctx h k).post = (s.ctx h k).post.filter (fun y => !e.mate y))

/-- R276, R277: `pf` asks for the line of its address and changes nothing else. R278: `cinv` and `cwb` of no byte end at once; a length, a
range or a scope that is not allowed traps; `cinv` leaves no L1 line of the range, and memory at its owner as it is; `cwb` waits while
writes of its core to those lines are on their way, and else writes the device copies of the range to their owner, granule by granule, at
once where nothing bars it, and otherwise from the post queue. R135, R277: the events that drop and fill L1 lines. The model's readings in
it: log entries 19 and 49. -/
def Obligations.CacheMaintenance : Prop :=
  (∀ (o : LA) s, Leads (exec (.pf o) s) (fun t => ∃ u v, Retained s u ∧ OnlyCoreOf u v s.now.h ∧
    v.me = { s.me with pf := s.me.pf ++ (s.pfLine (s.g o.a).toNat).toList } ∧ Ended v t o.l [])) ∧
  (∀ (o : LineOps) s, s.g o.b = 0 → Ends (.cinv o) s o.l [] ∧ Ends (.cwb o) s o.l []) ∧
  (∀ (o : LineOps) s i, (i = .cinv o ∨ i = .cwb o) → s.g o.b ≠ 0 →
    (2 ^ 26 < (s.g o.b).toNat → Traps i s 1 0 11) ∧
    ((s.g o.b).toNat ≤ 2 ^ 26 → NW < (s.g o.a).toNat + (s.g o.b).toNat → Traps i s 17 (s.g o.a) 0) ∧
    ((s.g o.b).toNat ≤ 2 ^ 26 → (s.g o.a).toNat + (s.g o.b).toNat ≤ NW → s.scopeOk s.myDev (s.scopeOf o.xs) = false →
      Traps i s 16 0 (s.scopeOf o.xs))) ∧
  (∀ (o : LineOps) s, s.g o.b ≠ 0 → (s.g o.b).toNat ≤ 2 ^ 26 → (s.g o.a).toNat + (s.g o.b).toNat ≤ NW →
    s.scopeOk s.myDev (s.scopeOf o.xs) = true →
    Leads (exec (.cinv o) s) (fun t => ∃ u, Ended u t o.l [] ∧ u.mem = s.mem ∧
      ∀ line, SMap.has u.me.l1 line = (SMap.has s.me.l1 line && !inRuns (s.lineRuns (s.g o.a).toNat (s.g o.b).toNat) line))) ∧
  (∀ (o : LineOps) s, s.g o.b ≠ 0 → (s.g o.b).toNat ≤ 2 ^ 26 → (s.g o.a).toNat + (s.g o.b).toNat ≤ NW →
    s.scopeOk s.myDev (s.scopeOf o.xs) = true →
    let v := s.scopeOf o.xs
    let cs := copiedRuns (scopeKind v) (s.lineRuns (s.g o.a).toNat (s.g o.b).toNat)
    let ls := s.copiesIn s.myDev cs
    let parts := ls.flatMap (lineParts s.myDev)
    let free := ∀ x ∈ parts, s.canWrite x.1 8 0 v = true
    (LinesBusy s cs → Leads (exec (.cwb o) s) (fun t =>
      OnlyCur s t ∧ t.cur = { s.cur with state := .waiting .retry, wlen := s.len, wuses := s.now.uses })) ∧
    (¬LinesBusy s cs → s.now.defer = false → free → SMap.sorted s.devLines = true → (∀ x ∈ parts, ¬Refused s x.1) →
      Leads (exec (.cwb o) s) (fun t => ∃ u, MemoryOnly s u ∧ Ended u t o.l [] ∧
        ∀ p ∈ ls, ∀ j < 64, u.rawByte (p.1 * 64 + j) = lineByte p.2 j)) ∧
    (¬LinesBusy s cs → ¬(s.now.defer = false ∧ free) → Leads (exec (.cwb o) s) (fun t => ∃ u, Retained s u ∧
      Queued u t o.l (parts.map (fun x => ⟨s.serial, 0, v, x.1, .store x.2, 0⟩)) [] .writes))) ∧
  (∀ h line s, Leads (exec (.evL1LineDrop h line) s) (fun t => OnlyCoreOf s t h ∧
    t.core h = { s.core h with l1 := (t.core h).l1 } ∧
    ∀ j, SMap.has (t.core h).l1 j = (SMap.has (s.core h).l1 j && j != line))) ∧
  (∀ h n s, (s.core h).pf[n]? = none → Leads (exec (.evPrefetchFill h n) s) (fun t => t = s)) ∧
  (∀ h n s loc, (s.core h).pf[n]? = some loc → s.dataError (s.devOf (hdie h)) loc 64 false ≠ none →
    Leads (exec (.evPrefetchFill h n) s) (fun t => OnlyCoreOf s t h ∧ t.core h = { s.core h with pf := (s.core h).pf.eraseIdx n })) ∧
  ∀ h n s loc, (s.core h).pf[n]? = some loc → loc.space.l1able = true → s.dataError (s.devOf (hdie h)) loc 64 false = none →
    Leads (exec (.evPrefetchFill h n) s) (fun t => SameBytes s t ∧ t.ctxs = s.ctxs ∧ (t.core h).pf = (s.core h).pf.eraseIdx n ∧
      SMap.get (t.core h).l1 0 (loc.at_ / 64) = s.pocLine loc.space (loc.at_ / 64))

/-- R276 .. R278, R135: the cache instructions and their events complete. `pf` always answers a next state, and so do `cinv` and `cwb`
when their length, range and scope are allowed, `cwb` once no write of its core to those lines is on its way; the pc advances, no register
changes, and `cinv` leaves no copy of its range in the L1 or, as its scope says, at its device. A line is dropped, or filled, at any time.
The model's readings in it: log entries 19 and 49. -/
def Obligations.CacheInstructionsComplete : Prop :=
  let advances (s t : State) : Prop := t.cur.pc = s.cur.pc + s.len ∧ ∀ r, t.g r = s.g r
  let allowed (o : LineOps) (s : State) : Prop := s.g o.b = 0 ∨
    (s.g o.b).toNat ≤ 2 ^ 26 ∧ (s.g o.a).toNat + (s.g o.b).toNat ≤ NW ∧ s.scopeOk s.myDev (s.scopeOf o.xs) = true
  let runs_ (o : LineOps) (s : State) : List (Space × Nat × Nat) := s.lineRuns (s.g o.a).toNat (s.g o.b).toNat
  (∀ (o : LA) s, ∃ t, exec (.pf o) s = .next t ∧ advances s t ∧ SameBytes s t) ∧
  (∀ (o : LineOps) s, allowed o s → ∃ t, exec (.cinv o) s = .next t ∧ advances s t ∧
    (s.g o.b ≠ 0 → (∀ line, inRuns (runs_ o s) line = true → SMap.has t.me.l1 line = false) ∧
      ∀ x ∈ t.devLines, x.1 / 2 ^ 64 = s.myDev → inRuns (copiedRuns (scopeKind (s.scopeOf o.xs)) (runs_ o s)) (x.1 % 2 ^ 64) = false)) ∧
  (∀ (o : LineOps) s, allowed o s → ¬LinesBusy s (copiedRuns (scopeKind (s.scopeOf o.xs)) (runs_ o s)) →
    ∃ t, exec (.cwb o) s = .next t ∧ advances s t) ∧
  (∀ h line s, ∃ t, exec (.evL1LineDrop h line) s = .next t ∧ SMap.has (t.core h).l1 line = false ∧ SameBytes s t) ∧
  ∀ h n s, ∃ t, exec (.evPrefetchFill h n) s = .next t ∧ (t.core h).pf = (s.core h).pf.eraseIdx n ∧ SameBytes s t

/-! ## Tagged operations, atomics, notice boards, fences -/

/-- R62, R63, R274, R275: a tagged operation that may perform at issue reads or writes its word and sets its tag in one step; one that may
not yet perform waits on its word's list at the holding core. R64: the head of a word's waiting list performs, in order of arrival, when
the tag permits. The access code 2 in `finfo` of the MISALIGN trap of `ldf.take` is the model's choice: log entry 23. The model's other
readings in it: log entries 12 and 51. -/
def Obligations.TaggedAccesses : Prop :=
  (∀ i s f h off, tagForm i s = some f →
    let va := ((s.g f.a).toNat + f.imm.toNat * 8) % 2 ^ 52
    (f.sem = 0#2 ∨ s.scopeOk s.myDev (s.scopeOf f.xs) = true) →
    (va % 8 ≠ 0 → Traps i s 4 (BitVec.ofNat 64 va) (BitVec.ofNat 64 (f.acc * 256 + 3))) ∧
    (va % 8 = 0 → va < NW → Traps i s 17 (BitVec.ofNat 64 va) 0) ∧
    (va % 8 = 0 → NW ≤ va → s.nearLoc va 8 = .ok (h, off) → s.checkBuf h off 8 va f.need.wr = .ok () →
      (f.need.rd = true → s.checkData va ⟨.local_ h, localKey h off⟩ 8 true = .ok ()) →
      s.now.defer = false → s.canWrite ⟨.local_ h, localKey h off⟩ 8 f.sem (s.scopeOf f.xs) = true → (s.core h).tagHead off = none →
      ((∀ b, tagNeeds f.op = some b → (s.core h).tagFull (off / 8) = b) →
        ∃ u, TagStep s u h off f.op ∧ Leads (exec i s) (fun t =>
          Ended u t f.l (match f.dest with | some d => [.g d (tagValue s h off f.op)] | none => []))) ∧
      (∀ b, tagNeeds f.op = some b → (s.core h).tagFull (off / 8) = !b →
        Leads (exec i s) (fun t => SameBytes s t ∧ OthersSame s t ∧
          (∃ e, e.id = s.serial ∧ e.kind = .tagged f.op ∧ t.cur.post = s.cur.post ++ [e]) ∧ t.cur.pc = s.cur.pc + s.len ∧
          (t.core h).tagWait = (s.core h).tagWait ++ [⟨off, s.now.h, s.now.k, s.serial⟩])))) ∧
  (∀ h off s w e op, (s.core h).tagWait.find? (fun x => x.off == off) = some w → (s.ctx w.h w.k).entry w.id = some e →
    e.kind = .tagged op →
    ((∀ b, tagNeeds op = some b → (s.core h).tagFull (off / 8) = b) →
      (op = .ldf ∨ op = .take → SMap.get s.poison false (localKey h off / 8) = false) →
      Leads (exec (.evTagWaiterPerform h off) s) (fun t =>
        (t.core h).tagWait = (s.core h).tagWait.erase w ∧
        (∀ j, (t.core h).tagFull j = if j = off / 8 then tagLeaves op ((s.core h).tagFull (off / 8)) else (s.core h).tagFull j) ∧
        (match tagStores op with
          | some x => StoredAt s t ⟨.local_ h, localKey h off⟩ (leBytes 8 x.toNat)
          | none => SameBytes s t) ∧
        (t.ctx w.h w.k).entry w.id = none)) ∧
    ((∃ b, tagNeeds op = some b ∧ (s.core h).tagFull (off / 8) = !b) → exec (.evTagWaiterPerform h off) s = .next s))

/-- R141, R279 .. R284: an atomic that may perform at issue reads its place, writes the new value there and delivers the old one,
sign-extended, once its line's home has dropped the sync copies of its scope; otherwise it enters the post queue. R141, R142: where an
atomic's old value comes from: the point of coherence for an owner's place; for a place on a die its sync copy, or the point of coherence
when the die holds none. The model's readings in it: log entries 21 and 51. -/
def Obligations.Atomics : Prop :=
  (∀ i s f loc, atomForm i s = some f →
    let va := (s.g f.a).toNat % 2 ^ 52
    let v := s.scopeOf f.xs
    (s.scopeOk s.myDev v = false → Traps i s 16 0 v) ∧
    (s.scopeOk s.myDev v = true → va % f.w ≠ 0 → Traps i s 4 (BitVec.ofNat 64 va) (BitVec.ofNat 64 (512 + Nat.log2 f.w))) ∧
    (s.scopeOk s.myDev v = true → va % f.w = 0 → s.locate va f.w (needAtomic f.hostOk) = .ok loc →
      s.checkData va loc.owner f.w true = .ok () →
      (s.now.defer = false → s.canWrite loc f.w f.sem v = true → s.sendable s.now.h s.serial loc v = true →
        ∃ m u new fl ws, Forgets s m (loc.at_ / 64) ∧
          let old := m.placeRead (placeOf s.now.h loc.space v) loc.space loc.at_ f.w
          RmwResult f.op f.w old (f.b.toNat % 2 ^ (8 * f.w)) new fl ∧ ReplyWrites f.reply f.w old fl ws ∧ MemoryOnly s u ∧
          (match new with
            | some x => StoredAt m u loc.owner (leBytes f.w x)
            | none => SameBytes m u) ∧
          Leads (exec i s) (fun t => Ended u t f.l ws)) ∧
      (¬(s.now.defer = false ∧ s.canWrite loc f.w f.sem v = true ∧ s.sendable s.now.h s.serial loc v = true) →
        ∃ u, CachesOnly s u ∧ Leads (exec i s) (fun t =>
          Queued u t f.l [⟨s.serial, f.sem, v, loc, .atomic (.rmw f.op f.w f.b) f.reply, s.me.cycle.toNat + s.me.atomwd.toNat⟩] []
            (match f.reply with | .none => .ready | _ => .reply))))) ∧
  ((∀ (s : State) sp a n, s.placeRead .owner sp a n = leNat (s.pocBytes sp.owner a n)) ∧
  (∀ (s : State) d sp a n, a % 64 + n ≤ 64 → SMap.has (s.die d).sync (a / 64) = false →
    s.placeRead (.copy d) sp a n = leNat (s.pocBytes sp a n)) ∧
  (∀ (s : State) d sp a n x, a % 64 + n ≤ 64 → x < 2 ^ (8 * n) →
    (s.placeWrite (.copy d) sp a n x).placeRead (.copy d) sp a n = x ∧
      leNat ((s.placeWrite (.copy d) sp a n x).pocBytes sp a n) = x) ∧
  ∀ h v, (∀ m, placeOf h (.device 1) v = .owner ∧ placeOf h (.device 3) v = .owner ∧ placeOf h (.host m 0) v = .owner) ∧
    (scopeKind v = 1 ∨ scopeKind v = 2 → placeOf h (.device 0) v = .copy (hdie h)) ∧
    (scopeKind v = 3 ∨ scopeKind v = 4 → placeOf h (.device 0) v = .owner) ∧
    (scopeKind v = 0 → ∀ d, dieAt (bits v 7 0) (bits v 15 8) = d → dieAt (bits v 23 16) (bits v 31 24) = d →
      placeOf h (.device 0) v = .copy d))

/-- R285 .. R287: what a `post` and an `nbctl` do to a board in memory, for a board whose header, view and slot lie apart. R286, R287:
`post` and `nbctl` whose checks pass take their step at the board and deliver the view or the old header, and set STALE when it was
refused. The model's readings in it: log entries 24, 51 and 57. -/
def Obligations.NoticeBoards : Prop :=
  ((∀ (s : State) sp a slot round val v0 v1 sl,
    let hd := leNat (s.pocBytes sp a 64)
    let n := hd / 2 ^ 32 % 2 ^ 16
    (1 ≤ n ∧ n ≤ 1024 ∧ hd < 2 ^ 49 ∧ slot < n ∧ round = hd % 2 ^ 32 →
      (a + 64 ≤ v0 ∨ v0 + 64 ≤ a) → (a + 64 ≤ v1 ∨ v1 + 64 ≤ a) → (v0 + 64 ≤ v1 ∨ v1 + 64 ≤ v0) →
      (sl + 8 ≤ a ∨ a + 64 ≤ sl) → (sl + 8 ≤ v0 ∨ v0 + 64 ≤ sl) → (sl + 8 ≤ v1 ∨ v1 + 64 ≤ sl) →
      ∃ t view, s.postStep sp a slot round val v0 v1 sl = (t, view, false) ∧
        (∀ j < 1024, view.getLsbD j = ((s.boardView sp v0 v1).getLsbD j || decide (j = slot))) ∧
        leNat (t.pocBytes sp sl 8) = val.toNat ∧
        let full := hd / 2 ^ 48 % 2 = 1 ∧ ((List.range 1024).filter (fun j => view.getLsbD j)).length = n
        (full → t.boardView sp v0 v1 = 0 ∧ leNat (t.pocBytes sp a 4) = (round + 1) % 2 ^ 32) ∧
        (¬full → t.boardView sp v0 v1 = view ∧ leNat (t.pocBytes sp a 64) = hd)) ∧
    (¬(1 ≤ n ∧ n ≤ 1024 ∧ hd < 2 ^ 49 ∧ slot < n ∧ round = hd % 2 ^ 32) →
      s.postStep sp a slot round val v0 v1 sl = (s, 0, true))) ∧
  ∀ (s : State) sp a (w : Word) v0 v1,
    (a + 64 ≤ v0 ∨ v0 + 64 ≤ a) → (a + 64 ≤ v1 ∨ v1 + 64 ≤ a) → (v0 + 64 ≤ v1 ∨ v1 + 64 ≤ v0) →
    let hd := leNat (s.pocBytes sp a 8)
    ∃ t stale, s.nbctlStep sp a w v0 v1 = (t, BitVec.ofNat 64 hd, stale) ∧
      (bits w 3 0 = 0 → stale = false ∧ t.boardView sp v0 v1 = 0 ∧
        leNat (t.pocBytes sp a 64) = bits w 63 32 + (bits w 25 16 + 1) * 2 ^ 32 + bits w 26 26 * 2 ^ 48) ∧
      (bits w 3 0 = 1 → bits w 63 32 = hd % 2 ^ 32 → stale = false ∧ t.boardView sp v0 v1 = 0 ∧
        leNat (t.pocBytes sp a 4) = (hd % 2 ^ 32 + 1) % 2 ^ 32) ∧
      (bits w 3 0 = 1 → bits w 63 32 ≠ hd % 2 ^ 32 → stale = true ∧ t = s) ∧ (bits w 3 0 = 2 → stale = false ∧ t = s)) ∧
  ((∀ (o : PostOps) s hd v0 v1 sl,
    let v := s.scopeOf o.xs
    let va := s.addrG o.a
    let p := bits (s.g o.b) 9 0
    bits (s.g o.b) 31 10 = 0 → s.boardCheck v va (boardLines va (some p)) = .ok () →
    s.global va needBoard = .ok hd → s.global (va + 64) needBoard = .ok v0 → s.global (va + 128) needBoard = .ok v1 →
    s.global (va + 192 + 8 * p) needBoard = .ok sl → s.now.defer = false →
    (∀ q ∈ [(hd.at_, 64), (v0.at_, 64), (v1.at_, 64), (sl.at_, 8)], s.canWrite ⟨hd.space, q.1⟩ q.2 3#2 v = true) →
    s.sendable s.now.h s.serial hd v = true →
    ∃ m u view stale, Forgets s m (hd.at_ / 64) ∧ MemoryOnly s u ∧
      SameBytes (m.postStep hd.space hd.at_ p (bits (s.g o.b) 63 32) (s.g (cReg o.c)) v0.at_ v1.at_ sl.at_).1 u ∧
      (m.postStep hd.space hd.at_ p (bits (s.g o.b) 63 32) (s.g (cReg o.c)) v0.at_ v1.at_ sl.at_).2 = (view, stale) ∧
      Leads (exec (.post o) s) (fun t => Ended u t o.l (.v o.d view :: if stale = true then [.atomstat 2#64] else []))) ∧
  (∀ (o : PostOps) s, bits (s.g o.b) 31 10 ≠ 0 → Traps (.post o) s 1 0 11) ∧
  (∀ (o : FamoOps) s hd v0 v1,
    let v := s.scopeOf o.xs
    let va := s.addrG o.a
    nbctlBad (s.g o.b) = false → s.boardCheck v va (boardLines va none) = .ok () →
    s.global va needBoard = .ok hd → s.global (va + 64) needBoard = .ok v0 → s.global (va + 128) needBoard = .ok v1 →
    s.now.defer = false →
    (∀ q ∈ [(hd.at_, 64), (v0.at_, 64), (v1.at_, 64)], s.canWrite ⟨hd.space, q.1⟩ q.2 3#2 v = true) →
    s.sendable s.now.h s.serial hd v = true →
    ∃ m u x stale, Forgets s m (hd.at_ / 64) ∧ MemoryOnly s u ∧ (m.nbctlStep hd.space hd.at_ (s.g o.b) v0.at_ v1.at_).2 = (x, stale) ∧
      SameBytes (m.nbctlStep hd.space hd.at_ (s.g o.b) v0.at_ v1.at_).1 u ∧
      Leads (exec (.nbctl o) s) (fun t => Ended u t o.l (.g o.d x :: if stale = true then [.atomstat 2#64] else []))) ∧
  ∀ (o : FamoOps) s, nbctlBad (s.g o.b) = true → Traps (.nbctl o) s 1 0 11)

/-- R138, R288: a fence whose condition holds completes, and an acquire at a scope beyond the core empties the L1; otherwise it is
outstanding until its condition holds. The model's readings in it: log entry 20. -/
def Obligations.Fences : Prop :=
  ∀ (o : FenceOps) s,
    let v := s.scopeOf o.xs
    (s.scopeOk s.myDev v = false → Traps (.fence o) s 16 0 v) ∧
    (s.scopeOk s.myDev v = true → s.now.defer = false → fenceReady s.cur.post (s.me.pathOf s.now.k) o.sem v = true →
      ∃ u, OnlyCoreOf s u s.now.h ∧ u.me = { s.me with l1 := if semAcq o.sem = true ∧ beyondCore v = true then [] else s.me.l1 } ∧
        Leads (exec (.fence o) s) (fun t => Ended u t o.l [])) ∧
    (s.scopeOk s.myDev v = true → ¬(s.now.defer = false ∧ fenceReady s.cur.post (s.me.pathOf s.now.k) o.sem v = true) →
      Leads (exec (.fence o) s) (fun t =>
        Queued s t o.l [⟨s.serial, o.sem, v, ⟨.local_ s.now.h, 0⟩, .fence, 0⟩] [] .fence)) ∧
    ∀ (es : List PEntry) (ws : List CWrite), fenceReady es ws o.sem v = true →
      (∀ e ∈ es, e.openAcquire = false) ∧ (semAcq o.sem = true → ∀ e ∈ es, e.openLoad = false) ∧
      (semRel o.sem = true → (∀ e ∈ es, e.openLoad = false ∧ e.kind ≠ .bacq) ∧
        (∀ e ∈ es, e.writes = true → carries v e.loc.space = false) ∧ ∀ w ∈ ws, carries v w.loc.space = false)

/-- R384 .. R386: two requests to one place merge into one whose operand combines theirs; its reply is handed to both, the second as if
the first had been performed before it; a lost record is logged, and hands on neither part, or the first's alone as the model reads R162's
last row. R141, R142, R389, R392, R434: an atomic of the post queue is performed with its reply; a sync copy is dropped and leaves its
home's mask; the home state of the least recently used line of a set is evicted to the overflow area or with a drop of every copy; a
request whose watchdog has fired is retired with LOST. The model's readings in it: log entries 21, 50 and 60. -/
def Obligations.CombiningAndSync : Prop :=
  ((∀ sw a b s x y, a ≠ b → s.picked a = some x → s.picked b = some y → x.fits y = true → s.passes x sw = true →
    s.passes y sw = true → MayMerge s sw a b x y →
    Leads (exec (.evCombineMerge sw a b) s) (fun t => SameBytes s t ∧ t.cores = s.cores ∧
      ∃ m ia ib r, t.recs = s.recs ++ [⟨m, sw, ia, x.parts, ib, y.parts, x.opnd, x.loc.at_ / 64, none⟩] ∧
        r ∈ t.reqs ∧ r.id = m ∧ r.loc = x.loc ∧ r.parts = x.parts ++ y.parts ∧ r.opnd = x.combine y.opnd)) ∧
  (∀ (x y : Req) op w b b', x.parts.head?.map Part.op = some (.rmw op w b) → y.parts.head?.map Part.op = some (.rmw op w b') →
    x.fits y = true → x.opnd.toNat < 2 ^ (8 * w) → y.opnd.toNat < 2 ^ (8 * w) → w ≤ 8 →
    ∀ old mid new f1 f2, old < 2 ^ (8 * w) → RmwResult op w old x.opnd.toNat (some mid) f1 →
      RmwResult op w mid y.opnd.toNat (some new) f2 → ∃ f, RmwResult op w old (x.combine y.opnd).toNat (some new) f) ∧
  (∀ m s x r, m < 2 ^ 64 → s.recs.find? (fun y => y.m == m) = some x → x.reply = some r →
    let lost : State := { s with recs := s.recs.filter (fun y => y.m != m), errU := s.errU + 1 }
    Leads (exec (.evDecombineReply m false) s) (fun t =>
      t = ((({ s with recs := s.recs.filter (fun y => y.m != m) } : State).answer x.a x.aparts (x.split r).1).answer x.b x.bparts
        (x.split r).2)) ∧
    Leads (exec (.evDecombineReply m true) s) (fun t => Logged lost t 4 x.sw (x.line * 64 % 2 ^ 52) 0) ∧
    Leads (exec (.evDecombineReply (2 ^ 64 + m) true) s) (fun t => Logged (lost.answer x.a x.aparts (x.split r).1) t 4 x.sw (x.line * 64 % 2 ^ 52) 0)) ∧
  ∀ (x : CombRec) v fl st h k id op w b sc from_, x.aparts = [⟨h, k, id, .rmw op w b, sc, from_⟩] → v.toNat < 2 ^ (8 * w) → w ≤ 8 →
    x.opnd.toNat < 2 ^ (8 * w) → op.combines = true →
    (x.split (.val v fl st)).1 = .val v fl st ∧
      ∃ y f, (x.split (.val v fl st)).2 = .val y fl st ∧ RmwResult op w v.toNat x.opnd.toNat (some y.toNat) f) ∧
  ((∀ h k n s e op w b rep, (s.ctx h k).post[n]? = some e → e.kind = .atomic (.rmw op w b) rep →
    stepReady ((s.ctx h k).post.take n) ((s.core h).pathOf k) (s.core h).path e = true →
    s.dataError (s.devOf (hdie h)) e.loc.owner w true = none → s.sendable h e.id e.loc e.scope = true →
    (s.core h).cycle.toNat < e.due →
    (w = 4 ∨ w = 8 ∧ ∀ r, rep ≠ .f r) → (∀ e' ∈ (s.ctx h k).post, e'.id = e.id → e' = e) →
    ∀ i, i = .evAtomicPerform (.entry h k n) false ∨ (∃ g, e.loc.space = .local_ g) ∧ i = .evClusterPeerRequest h k n →
    Leads (exec i s) (fun t => ∃ m new fl ws, Forgets s m (e.loc.at_ / 64) ∧
      let old := m.placeRead (placeOf h e.loc.space e.scope) e.loc.space e.loc.at_ w
      RmwResult op w old (b.toNat % 2 ^ (8 * w)) new fl ∧
      (match new with
        | some x => StoredAt m t e.loc.owner (leBytes w x)
        | none => SameBytes m t) ∧
      ReplyWrites rep w old fl ws ∧
      (t.ctx h k).post = (s.ctx h k).post.filter (fun x => x.id != e.id) ∧
      ∀ o, (s.ctx h k).out.find? (fun x => x.id == e.id) = some o →
        (t.ctx h k).out.find? (fun x => x.id == e.id) = some { o with writes := o.writes ++ ws, pend := .ready })) ∧
  (∀ d line s, Leads (exec (.evSyncCopyDrop d line) s) (fun t => t = { s with dies := t.dies, mem := t.mem } ∧ Forgets s t line ∧
    ∀ p, t.die p = { s.die p with sync := (t.die p).sync, homes := (t.die p).homes } ∧
      (∀ j, SMap.has (t.die p).sync j = (SMap.has (s.die p).sync j && !(p == d && j == line))) ∧
      (∀ j, j ≠ line → SMap.has (t.die p).homes j = SMap.has (s.die p).homes j ∧ SMap.get (t.die p).homes 0 j = SMap.get (s.die p).homes 0 j) ∧
      let left := SMap.get (s.die p).homes 0 line &&& ~~~(BitVec.ofNat 64 (2 ^ d))
      (d < 64 → SMap.has (t.die p).homes line = (SMap.has (s.die p).homes line && left != 0) ∧
        (SMap.has (t.die p).homes line = true → SMap.get (t.die p).homes 0 line = left)) ∧
      let a := s.sovbase p + 16 * (s.die p).ovf.idxOf line + 8
      (line ∈ (s.die p).ovf → SMap.has (t.die p).homes line = false → (∀ b, MaskByte s line b → a ≤ b ∧ b < a + 8) →
        leNat (t.rawBytes a 8) = (t.syncMask line).toNat))) ∧
  (∀ d line s,
    let oldest := ∀ x ∈ (s.die d).recent.takeWhile (fun x => x != line),
      SMap.has (s.die d).sync x = true ∨ SMap.has (s.die d).homes x = true → Config.syncSet x ≠ Config.syncSet line
    (SMap.has (s.die d).homes line = false ∨ ¬oldest → Leads (exec (.evSyncHomeEvict d line) s) (fun t => t = s)) ∧
    (SMap.has (s.die d).homes line = true → oldest →
    (bits (s.ctlReg (dieBlock d + 0x908)) 15 0 * 4096 ≤ (s.die d).ovf.idxOf line →
      Leads (exec (.evSyncHomeEvict d line) s) (fun t => Forgets s t line ∧ t.syncMask line = 0 ∧ SMap.has (t.die d).homes line = false)) ∧
    ((s.die d).ovf.idxOf line < bits (s.ctlReg (dieBlock d + 0x908)) 15 0 * 4096 →
      let a := (s.ctlReg (dieBlock d + 0x900)).toNat + 16 * (s.die d).ovf.idxOf line
      Leads (exec (.evSyncHomeEvict d line) s) (fun t => t.ctxs = s.ctxs ∧ t.cores = s.cores ∧
        leNat (t.rawBytes a 8) = line * 64 % 2 ^ 64 ∧ leNat (t.rawBytes (a + 8) 8) = (SMap.get (s.die d).homes 0 line).toNat ∧
        (∀ b, b < a ∨ a + 16 ≤ b → t.rawByte b = s.rawByte b) ∧ line ∈ (t.die d).ovf ∧ SMap.has (t.die d).homes line = false)))) ∧
  ∀ h k n s e rep, (s.ctx h k).post[n]? = some e → s.retirable h k n = some rep → e.due ≤ (s.core h).cycle.toNat →
    (∀ e' ∈ (s.ctx h k).post, e'.id = e.id → e' = e) →
    Leads (exec (.evAtomicWatchdogRetire h k n) s) (fun t => SameBytes s t ∧ t.logw = s.logw + 1 ∧
      (t.ctx h k).post = (s.ctx h k).post.filter (fun x => x.id != e.id) ∧
      ∀ o, (s.ctx h k).out.find? (fun x => x.id == e.id) = some o →
        (t.ctx h k).out.find? (fun x => x.id == e.id) = some { o with
          writes := o.writes ++ (match rep with
            | .none => [.atomstat 1#64]
            | .g r => [.g r (BitVec.allOnes 64), .atomstat 1#64]
            | .f r => [.f r (BitVec.allOnes 32), .atomstat 1#64]
            | .v r => [.v r (BitVec.allOnes 1024), .atomstat 1#64]), pend := .ready }))

/-! ## Vector memory -/

/-- R244 .. R249, R66: the vector loads and stores, plain, broadcast, gathering, scattering and masked, and the compressed blocks of
`vspst`, `vspld` and `vscma`: their checks, their bytes and what they write; a `vspld` whose turn leaves its reads to events is in the
post queue meanwhile. The model's readings in it: log entries 23, 24, 51 and 59. -/
def Obligations.VectorMemory : Prop :=
  (∀ i s f d at_, vLoadForm i s = some (f, d, at_) →
    let v := s.scopeOf f.xs
    (f.sem ≠ 0#2 → s.scopeOk s.myDev v = false → Traps i s 16 0 v) ∧
    ((f.sem = 0#2 ∨ s.scopeOk s.myDev v = true) →
      (∀ (j a : Nat), f.as[j]? = some a → a % f.n ≠ 0 → (∀ (k b : Nat), k < j → f.as[k]? = some b → b % f.n = 0) →
        Traps i s 4 (BitVec.ofNat 64 a) (BitVec.ofNat 64 (Nat.log2 f.n))) ∧
      (∀ parts, (∀ a ∈ f.as, a % f.n = 0) → s.spread { rd := true } f.ps = .ok parts → s.now.defer = false →
        (∀ p ∈ parts.flatMap granules, s.canLoad p.1 p.2 = true) →
        ∃ u x, CachesOnly s u ∧ (∀ b < 128, Sees s (at_ b) (vByte x b)) ∧ Leads (exec i s) (fun t => Ended u t f.l [.v d x])))) ∧
  (∀ i s f ws, vStoreForm i s = some (f, ws) →
    let v := s.scopeOf f.xs
    (f.sem ≠ 0#2 → s.scopeOk s.myDev v = false → Traps i s 16 0 v) ∧
    ((f.sem = 0#2 ∨ s.scopeOk s.myDev v = true) →
      (∀ (j a : Nat), f.as[j]? = some a → a % f.n ≠ 0 → (∀ (k b : Nat), k < j → f.as[k]? = some b → b % f.n = 0) →
        Traps i s 4 (BitVec.ofNat 64 a) (BitVec.ofNat 64 (256 + Nat.log2 f.n))) ∧
      (∀ p r, (∃ o, i = .vstm o) → (∀ a ∈ f.as, a % f.n = 0) → f.ps = p :: r → p.1 < NW → (∃ q ∈ f.ps, NW < q.1 + q.2) →
        Traps i s 17 (BitVec.ofNat 64 p.1) 0) ∧
      (∀ parts, (∀ a ∈ f.as, a % f.n = 0) → s.spread { wr := true } f.ps = .ok parts → s.now.defer = false →
        ((∃ o, i = .vstm o) → s.oneRow f.ps = .ok ()) →
        (∀ p ∈ parts.flatMap granules, s.canWrite p.1 p.2 f.sem v = true ∧ ¬Refused s p.1) →
        ∃ u, MemoryOnly s u ∧ Wrote s u ws ∧ Leads (exec i s) (fun t => Ended u t f.l [])))) ∧
  ((∀ (o : VSpOps) s h i need, (i = .vspst o ∧ need = ({ rd := true, wr := true } : Need) ∨ i = .vspld o ∧ need = { rd := true }) →
    SpHeader s o need h →
    let a := vAddr s o.a o.imm
    let n := 128 / 2 ^ bits h 55 48
    let i0 := (s.g (cReg o.c)).toNat
    (¬SpGood h → Traps i s 9 (BitVec.ofNat 64 a) (BitVec.ofNat 64 (bits h 47 32 * 2 ^ 16 + bits h 31 16))) ∧
    (SpGood h → (i0 % n ≠ 0 ∨ bits h 15 0 < i0 + n) → Traps i s 1 0 11)) ∧
  (∀ (o : VSpOps) s h, SpHeader s o { rd := true, wr := true } h → SpGood h →
    let a := vAddr s o.a o.imm
    let e := 2 ^ bits h 55 48
    let n := 128 / e
    let i0 := (s.g (cReg o.c)).toNat
    let nz := (List.range n).filter (fun j => laneAt (8 * e) (s.v o.d) j != 0)
    let slots := (a + 8 + bits h 15 0 / 8 + bits h 31 16 * e) % 2 ^ 52
    let mask := (a + 8 + i0 / 8) % 2 ^ 52
    i0 % n = 0 → i0 + n ≤ bits h 15 0 →
    (bits h 47 32 < bits h 31 16 + nz.length → Traps (.vspst o) s 9 (BitVec.ofNat 64 a)
      (BitVec.ofNat 64 (nz.length * 2 ^ 32 + bits h 47 32 * 2 ^ 16 + bits h 31 16))) ∧
    (∀ wp hp, bits h 31 16 + nz.length ≤ bits h 47 32 →
      s.spread { wr := true } ((mask, n / 8) :: if nz = [] then [] else [(slots, nz.length * e)]) = .ok wp →
      s.spread { rd := true, wr := true } [(a, 8)] = .ok hp → s.now.defer = false →
      (∀ p ∈ (wp ++ hp).flatMap granules, s.canWrite p.1 p.2 o.sem (s.scopeOf o.xs) = true ∧ ¬Refused s p.1) →
      ∃ (u : State) (mb : List Byte), mb.length = n / 8 ∧
        (∀ k < n, (mb.getD (k / 8) 0).getLsbD (k % 8) = (laneAt (8 * e) (s.v o.d) k != 0)) ∧ MemoryOnly s u ∧
        Wrote s u
          (mb.zipIdx.map (fun p => (mask + p.2, p.1)) ++
            (List.range (nz.length * e)).map (fun k => (slots + k, vByte (s.v o.d) (nz.getD (k / e) 0 * e + k % e))) ++
            (leBytes 8 (bits h 55 48 * 2 ^ 48 + bits h 47 32 * 2 ^ 32 + (bits h 31 16 + nz.length) * 2 ^ 16 + bits h 15 0)).zipIdx.map
              (fun p => (a + p.2, p.1))) ∧
        Leads (exec (.vspst o) s) (fun t => Ended u t o.l []))) ∧
  (∀ (o : VSpOps) s h (m : Nat → Bool) mp vp, SpHeader s o { rd := true } h → SpGood h →
    let a := vAddr s o.a o.imm
    let e := 2 ^ bits h 55 48
    let n := 128 / e
    let i0 := (s.g (cReg o.c)).toNat
    let slot (j : Nat) : Nat := ((List.range j).filter m).length
    let vals := (a + 8 + bits h 15 0 / 8 + slot i0 * e) % 2 ^ 52
    i0 % n = 0 → i0 + n ≤ bits h 15 0 →
    s.spread { rd := true } [((a + 8) % 2 ^ 52, (i0 + n) / 8)] = .ok mp → (∀ p ∈ mp, s.canLoad p.1 p.2 = true) →
    (∀ j < i0 + n, ∀ b, Sees s ((a + 8) % 2 ^ 52 + j / 8) b → m j = b.getLsbD (j % 8)) →
    (if slot (i0 + n) = slot i0 then vp = [] else
      s.spread { rd := true } [(vals, (slot (i0 + n) - slot i0) * e)] = .ok vp ∧ ∀ p ∈ vp, s.canLoad p.1 p.2 = true) →
    (s.now.defer = false →
      ∃ u x, CachesOnly s u ∧ Leads (exec (.vspld o) s) (fun t => Ended u t o.l [.v o.d x]) ∧
        ∀ j < n, (m (i0 + j) = false → laneAt (8 * e) x j = 0) ∧
          (m (i0 + j) = true → ∀ k < e, Sees s (vals + (slot (i0 + j) - slot i0) * e + k) (vByte x (j * e + k)))) ∧
    (s.now.defer = true → ∃ u y more, CachesOnly s u ∧ y.id = s.serial ∧ y.sem = o.sem ∧ y.scope = s.scopeOf o.xs ∧
      y.kind = .sparse false 8 more ∧ Leads (exec (.vspld o) s) (fun t => Queued u t o.l [y] [] (.sparse o none a i0 [])))) ∧
  ∀ (o : VScmaOps) s parts, (Instr.vscma o).wellFormed = true →
    let a := (s.g o.a).toNat % 2 ^ 52
    let n := if o.i8 = true then 32 else 16
    (a % n ≠ 0 → Traps (.vscma o) s 4 (BitVec.ofNat 64 a) (BitVec.ofNat 64 (Nat.log2 n))) ∧
    (a % n = 0 → s.spread { rd := true } [(a, n)] = .ok parts → s.now.defer = false →
      (∀ p ∈ parts.flatMap granules, s.canLoad p.1 p.2 = true) →
      ∃ (u : State) (bs : List Byte) (x : Vec) (c : Nat → Bool) (any : Bool), CachesOnly s u ∧ bs.length = n ∧
        (∀ j b, bs[j]? = some b → Sees s (a + j) b) ∧ (any = true ↔ ∃ j < 32, c j = true) ∧
        (∀ j < 32, Fits 32 o.sat (lint 32 (laneAt 32 (s.v o.d) j) + lint 32 ((s.g o.b).toNat % 2 ^ 32) *
          (if o.i8 = true then lint 8 (bs.getD j 0).toNat
            else
              let code := (bs.getD (j / 2) 0).toNat / 16 ^ (j % 2) % 16
              if o.c = 0#4 then lint 4 code else lint 16 (laneAt 16 (s.v o.c) code)))
          (laneAt 32 x j) (c j)) ∧
        Leads (exec (.vscma o) s) (fun t => Ended u t o.l (.v o.d x :: if any = true then [.satflags 2#64] else []))))

/-! ## Tiles and the chorus -/

/-- R51, R253 .. R257: `tld`, `tst`, `tget`, `tset` and the three forms of `tzero`; a bad run or index traps. The model's readings in it:
log entries 24 and 51. -/
def Obligations.TileTransfers : Prop :=
  (∀ (o : TMemOps) s first n off skew, RunIs (s.g o.b) first n → TileAt s (s.g o.a).toNat skew →
    OwnAccess s ((s.g o.a).toNat + 128 * first) (128 * n) off true false →
    s.now.defer = false → (∀ a, off ≤ a → a + 8 ≤ off + 128 * n → s.canLoad (ownAt s a) 8 = true) →
    ∃ (u : State) (rows : Nat → BitVec 1024), CachesOnly s u ∧
      Leads (exec (.tld o) s) (fun t => Ended u t o.l (rowWrites o.d first n rows)) ∧
      ∀ i < n, ∀ w < 16, ∀ b < 8, vByte (rows i) (8 * w + b) = seesLocal s s.now.h (rowByte off first skew (first + i) w b)) ∧
  (∀ (o : TMemOps) s first n off skew, RunIs (s.g o.b) first n → TileAt s (s.g o.a).toNat skew →
    OwnAccess s ((s.g o.a).toNat + 128 * first) (128 * n) off false true →
    s.now.defer = false → (∀ a, off ≤ a → a + 8 ≤ off + 128 * n → s.canWrite (ownAt s a) 8 0#2 0#64 = true) →
    ∃ u, MemoryOnly s u ∧ Leads (exec (.tstTile o) s) (fun t => Ended u t o.l []) ∧
      (∀ i < n, ∀ w < 16, ∀ b < 8, u.pocByte (.local_ s.now.h) (localKey s.now.h (rowByte off first skew (first + i) w b)) =
        vByte (s.me.tileRow o.d (first + i)) (8 * w + b)) ∧
      ∀ sp a, (∀ i < n, ∀ w < 16, ∀ b < 8, a ≠ localKey s.now.h (rowByte off first skew (first + i) w b)) → u.pocByte sp a = s.pocByte sp a) ∧
  (∀ (o : TMemOps) s first n, RunIs (s.g o.b) first n →
    (NoSkew s (s.g o.a).toNat → (s.g o.a).toNat % 128 ≠ 0 →
      Traps (.tld o) s 4 (s.g o.a) 7 ∧ Traps (.tstTile o) s 4 (s.g o.a) (256 + 7)) ∧
    (∀ off b, s.nearLoc (s.g o.a).toNat 1 = .ok (s.now.h, off) → s.me.skewBuf off = some b → (off - b.first) % 2048 ≠ 0 →
      Traps (.tld o) s 4 (s.g o.a) 11 ∧ Traps (.tstTile o) s 4 (s.g o.a) (256 + 11))) ∧
  (∀ (o : TGetOps) s,
    let i := (s.g o.b).toNat
    let w := 8 * 2 ^ o.esz.toNat
    ((if o.col = true then 1024 / w else 16) ≤ i → Traps (.tget o) s 1 0 11) ∧
    (o.col = false → i < 16 → Ends (.tget o) s o.l [.v o.d (s.me.tileRow o.a i)]) ∧
    (o.col = true → i < 1024 / w → ∃ v : Vec, Ends (.tget o) s o.l [.v o.d v] ∧
      ∀ j < 1024 / w, laneAt w v j = if j < 16 then laneAt w (s.me.tileRow o.a j) i else 0)) ∧
  (∀ (o : TSetOps) s,
    let i := (s.g o.b).toNat
    let w := 8 * 2 ^ o.esz.toNat
    ((if o.col = true then 1024 / w else 16) ≤ i → Traps (.tset o) s 1 0 11) ∧
    (o.col = false → i < 16 → Ends (.tset o) s o.l [.tile o.d i (s.v o.a)]) ∧
    (o.col = true → i < 1024 / w → ∃ rows : Nat → BitVec 1024, Ends (.tset o) s o.l (rowWrites o.d 0 16 rows) ∧
      ∀ r < 16, ∀ j < 1024 / w, laneAt w (rows r) j = if j = i then laneAt w (s.v o.a) r else laneAt w (s.me.tileRow o.d r) j)) ∧
  (∀ (o : TZeroTOps) s first n, RunIs (s.g o.b) first n → Ends (.tzeroT o) s o.l (rowWrites o.d first n (fun _ => 0))) ∧
  (∀ (o : TZeroAccOps) s first n, RunIs (s.g o.b) first n → ∃ u, OnlyCoreOf s u s.now.h ∧
    u.me = { s.me with acc := u.me.acc, accMode := o.red } ∧
    (∀ j, u.me.accum j = if 32 * first ≤ j ∧ j < 32 * (first + n) then {} else s.me.accum j) ∧
    Leads (exec (.tzeroAcc o) s) (fun t => Ended u t o.l [])) ∧
  (∀ (o : LAB) s first n off, RunIs (s.g o.b) first n →
    let va := (s.g o.a).toNat
    (va % 64 ≠ 0 → Traps (.tzeroX o) s 4 (s.g o.a) (256 + 6)) ∧
    (va % 64 = 0 → OwnAccess s (va + 2048 * first) (2048 * n) off false true → s.now.defer = false →
      (∀ j < 256 * n, s.canWrite (ownAt s (off + 8 * j)) 8 0#2 0#64 = true) →
      ∃ u, MemoryOnly s u ∧ StoredAt s u (ownAt s off) (List.replicate (2048 * n) 0) ∧
        Leads (exec (.tzeroX o) s) (fun t => Ended u t o.l []))) ∧
  ∀ s (b : Reg) i, (∀ first n, ¬RunIs (s.g b) first n) →
    ((∃ o : TMemOps, o.b = b ∧ (i = .tld o ∨ i = .tstTile o)) ∨ (∃ o : TZeroTOps, o.b = b ∧ i = .tzeroT o) ∨
      (∃ o : TZeroAccOps, o.b = b ∧ i = .tzeroAcc o) ∨ (∃ o : LAB, o.b = b ∧ i = .tzeroX o) ∨
      (∃ o : XaddOps, cReg o.c = b ∧ i = .xadd o) ∨ ∃ o : XrndOps, o.b = b ∧ i = .xrnd o) → Traps i s 1 0 11

/-- R95 .. R97, R258, R259: `mcld` reads an image of its kind from own local memory, and what the bank, and for INT8 both banks, then
hold; `mctab` sets the code table. The model's readings in it: log entry 51. -/
def Obligations.MacroBanks : Prop :=
  (∀ (o : McldOps) s off, o.kind ≠ 3#2 →
    let va := (s.g o.a).toNat
    let n := ([2048, 2304] : List Nat).getD o.kind.toNat 4352
    (va % 128 ≠ 0 → Traps (.mcld o) s 4 (s.g o.a) 7) ∧
    (∀ w, va % 128 = 0 → o.kind = 2#2 → o.d ≠ 0#1 → s.now.words.getLast? = some w →
      Traps (.mcld o) s 1 (s.cur.pc + BitVec.ofNat 64 (2 * (s.now.words.length - 1)))
        (BitVec.ofNat 64 (w.toNat * 2 ^ 16 + (s.now.words.length - 1) * 256 + 9))) ∧
    (va % 128 = 0 → (o.kind = 2#2 → o.d = 0#1) → OwnAccess s va n off true false → s.now.defer = false →
      (∀ j < n / 8, s.canLoad (ownAt s (off + 8 * j)) 8 = true) →
      ∃ (u : State) (img : List Byte), CachesOnly s u ∧ img.length = n ∧ (∀ j b, img[j]? = some b → b = seesLocal s s.now.h (off + j)) ∧
        Leads (exec (.mcld o) s) (fun t => Ended u t o.l [.bank o.d o.kind.toNat img]))) ∧
  (∀ (c : Core) m img, img.length = 2048 →
    let c' := c.write (.bank m 0 img)
    (c'.bankOf m).kind = 1 ∧ (c'.bankOf m).scales = (c.bankOf m).scales ∧ (c'.bankOf m).table = (c.bankOf m).table ∧
      (∀ k < 128, ∀ n < 32, bankCode (c'.bankOf m) k n = imageCode img k n) ∧
      c'.bankOf (~~~m) = { c.bankOf (~~~m) with kind := if (c.bankOf (~~~m)).kind = 3 then 0 else (c.bankOf (~~~m)).kind }) ∧
  (∀ (c : Core) m img, img.length = 2304 →
    let c' := c.write (.bank m 1 img)
    (c'.bankOf m).kind = 2 ∧ (c'.bankOf m).table = (c.bankOf m).table ∧
      (∀ k < 128, ∀ n < 32, bankCode (c'.bankOf m) k n = imageCode img k n) ∧
      (∀ n < 32, ∀ j < 4, bankScale (c'.bankOf m) n j = imageScale img 2048 n j) ∧
      c'.bankOf (~~~m) = { c.bankOf (~~~m) with kind := if (c.bankOf (~~~m)).kind = 3 then 0 else (c.bankOf (~~~m)).kind }) ∧
  (∀ (c : Core) m img, img.length = 4352 →
    let c' := c.write (.bank m 2 img)
    c'.bank0.kind = 3 ∧ c'.bank1.kind = 3 ∧ c'.bank0.table = c.bank0.table ∧ c'.bank1.table = c.bank1.table ∧
      (∀ k < 128, ∀ n < 32, bankCode c'.bank0 k n = (img.getD (32 * k + n) 0).toNat % 16 ∧
        bankCode c'.bank1 k n = (img.getD (32 * k + n) 0).toNat / 16) ∧
      ∀ n < 32, ∀ j < 4, bankScale c'.bank0 n j = imageScale img 4096 n j ∧ bankScale c'.bank1 n j = imageScale img 4096 n j) ∧
  ∀ (o : MctabOps) s, ∃ u, OnlyCoreOf s u s.now.h ∧ Leads (exec (.mctab o) s) (fun t => Ended u t o.l []) ∧
    u.me = { s.me with bank0 := u.me.bank0, bank1 := u.me.bank1 } ∧
    u.me.bankOf (~~~o.d) = s.me.bankOf (~~~o.d) ∧ u.me.bankOf o.d = { s.me.bankOf o.d with table := (u.me.bankOf o.d).table } ∧
    ∀ k < 16, laneAt 16 ((u.me.bankOf o.d).table.setWidth 1024) k = laneAt 16 (s.v o.a) k

/-- R40, R42, R105, R262 .. R265: `xacc` and `xadd` add accumulators and elements, `mdrain` and `xrnd` round them into tiles; an `xacc`
that may not act at once enters the post queue, and each element is written once its loads are satisfied. The model's readings in it: log
entry 51. -/
def Obligations.LongArrays : Prop :=
  (∀ (o : LA) s off,
    let va := (s.g o.a).toNat
    (va % 64 ≠ 0 → Traps (.xacc o) s 4 (s.g o.a) (512 + 6)) ∧
    (va % 64 = 0 → OwnAccess s va 32768 off true true → s.now.defer = false → s.canLoad (ownAt s off) 32768 = true →
      s.canWrite (ownAt s off) 32768 0#2 0#64 = true →
      ∃ u bs, MemoryOnly s u ∧ StoredAt s u (ownAt s off) bs ∧ bs.length = 32768 ∧ Leads (exec (.xacc o) s) (fun t => Ended u t o.l []) ∧
        ∀ e < 512, ∀ a, ElemOf (leNat (s.look (ownAt s (off + 64 * e)) 64)) a →
          let c := s.me.accum e
          let x := leNat ((bs.drop (64 * e)).take 64)
          ∃ r, AccSum a c.v c.nan c.ovfn c.ovfp c.sticky r ∧ ElemOf x r ∧ x < 2 ^ 388) ∧
    (va % 64 = 0 → OwnAccess s va 32768 off true true →
      ¬(s.now.defer = false ∧ s.canLoad (ownAt s off) 32768 = true ∧ s.canWrite (ownAt s off) 32768 0#2 0#64 = true) →
      Leads (exec (.xacc o) s) (fun t => Queued s t o.l ((List.range 512).flatMap (fun e => elemEntries s (.load 8 none) (ownAt s (off + 64 * e)) ++
        elemEntries s (.later 8) (ownAt s (off + 64 * e)))) [] (.loads (.elems (localKey s.now.h off) false ((List.range 512).map s.me.accum)))))) ∧
  (∀ base sub accs fuel (ls ws rest : List PEntry), (∀ e ∈ ls, ∃ bs, e.kind = .load 8 (some bs) ∧ bs.length = 8) → ws.length = 8 →
    let bs := loadedBytes ls
    let new (a : Acc) (c : Int) (nan ovfn ovfp st : Bool) : Prop := ∃ (out : List Byte) (r : Acc), out.length = 64 ∧
      AccSum a c nan ovfn ovfp st r ∧ ElemOf (leNat out) r ∧
      settleElems base sub accs (fuel + 1) (ls ++ ws ++ rest) =
        ws.zipIdx.map (fun p => { p.1 with kind := .store ((out.drop (8 * p.2)).take 8) }) ++ settleElems base sub accs fuel rest
    (∀ e a, accs ≠ [] → ls.length = 8 → ls.head? = some e → ElemOf (leNat bs) a →
      let c := accs.getD ((e.loc.at_ % 2 ^ 17 - base % 2 ^ 17) / 64) {}
      new a c.v c.nan c.ovfn c.ovfp c.sticky) ∧
    (∀ a b, accs = [] → ls.length = 16 → ElemOf (leNat (bs.take 64)) a → ElemOf (leNat (bs.drop 64)) b →
      new a (if sub = true then -b.v else b.v) b.nan b.ovfn b.ovfp b.sticky)) ∧
  (∀ (o : XaddOps) s first n off g src, RunIs (s.g (cReg o.c)) first n →
    let va := (s.g o.a).toNat
    let vb := (s.g o.b).toNat
    (va % 64 ≠ 0 → Traps (.xadd o) s 4 (s.g o.a) (512 + 6)) ∧ (va % 64 = 0 → vb % 64 ≠ 0 → Traps (.xadd o) s 4 (s.g o.b) 6) ∧
    (va % 64 = 0 → vb % 64 = 0 → OwnAccess s (va + 2048 * first) (2048 * n) off true true →
      s.nearLoc (vb + 2048 * first) (2048 * n) = .ok (g, src) → s.checkBuf g src (2048 * n) (vb + 2048 * first) false = .ok () →
      s.checkData (vb + 2048 * first) ⟨.local_ g, localKey g src⟩ (2048 * n) false = .ok () → s.now.defer = false →
      s.canLoad (ownAt s off) (2048 * n) = true → s.canLoad ⟨.local_ g, localKey g src⟩ (2048 * n) = true →
      s.canWrite (ownAt s off) (2048 * n) 0#2 0#64 = true →
      ∃ u bs, MemoryOnly s u ∧ StoredAt s u (ownAt s off) bs ∧ bs.length = 2048 * n ∧ Leads (exec (.xadd o) s) (fun t => Ended u t o.l []) ∧
        ∀ e < 32 * n, ∀ a b, ElemOf (leNat (s.look (ownAt s (off + 64 * e)) 64)) a →
          ElemOf (if g = s.now.h ∧ src < off ∧ off ≤ src + 64 * e then leNat ((bs.drop (src + 64 * e - off)).take 64)
            else leNat (s.look ⟨.local_ g, localKey g (src + 64 * e)⟩ 64)) b →
          let x := leNat ((bs.drop (64 * e)).take 64)
          ∃ r, AccSum a (if o.sub = true then -b.v else b.v) b.nan b.ovfn b.ovfp b.sticky r ∧ ElemOf x r ∧ x < 2 ^ 388)) ∧
  (∀ (o : XrndOps) s first n off, (Instr.xrnd o).wellFormed = true → RunIs (s.g o.b) first n →
    let va := (s.g o.a).toNat
    (va % 64 ≠ 0 → Traps (.xrnd o) s 4 (s.g o.a) 6) ∧
    (va % 64 = 0 → OwnAccess s (va + 2048 * first) (2048 * n) off true false → s.now.defer = false →
      (∀ j < 256 * n, s.canLoad (ownAt s (off + 8 * j)) 8 = true) →
      ∀ e : Nat → Acc, (∀ j < 32 * n, ElemOf (leNat (s.look (ownAt s (off + 64 * j)) 64)) (e j)) →
        ∃ u ws, CachesOnly s u ∧ Leads (exec (.xrnd o) s) (fun t => Ended u t o.l ws) ∧
          DrainWrites o.d o.fmt.toNat o.hi first n (fun i => s.me.tileRow o.d (first + i)) e ws)) ∧
  (∀ (o : MdrainOps) s, (Instr.mdrain o).wellFormed = true →
    ∃ ws, DrainWrites o.d o.fmt.toNat o.hi 0 16 (s.me.tileRow o.d) s.me.accum ws ∧
      (s.me.accMode = false → Ends (.mdrain o) s o.l ws) ∧
      (s.me.accMode = true → s.liveFor s.me (partnerOf s.now.h) = false →
        Leads (exec (.mdrain o) s) (fun t => ∃ u, CompletesWith s u s.now.h s.now.k s.cur ws ∧ OnlyCtx u t s.now.h s.now.k ∧
          TakesTrap u.cur t.cur s.me.tvec ⟨s.serial, 11, s.cur.pc, s.cur.pc + s.len, s.me.tileid, 0x80000000⟩)) ∧
      (s.me.accMode = true → s.liveFor s.me (partnerOf s.now.h) = true → Leads (exec (.mdrain o) s) (fun t =>
        OnlyCur s t ∧ t.cur = { s.cur with state := .waiting (.drain o.d o.fmt o.hi s.len), wlen := s.len, wuses := s.now.uses }))) ∧
  ∀ h k k2 s d fmt hi len d2 fmt2 hi2 len2, h < 65536 →
    let h2 := partnerOf h
    let diff := (List.range 512).filter (fun j => (s.core h).accum j != (s.core h2).accum j)
    (s.ctx h k).state = .waiting (.drain d fmt hi len) → (s.ctx h2 k2).state = .waiting (.drain d2 fmt2 hi2 len2) →
    fmt ≠ 3#2 → fmt2 ≠ 3#2 →
    Leads (exec (.evRedundantDrainCompare h k k2) s) (fun t => ∃ ws ws2,
      DrainWrites d fmt.toNat hi 0 16 ((s.core h).tileRow d) (s.core h).accum ws ∧
      DrainWrites d2 fmt2.toNat hi2 0 16 ((s.core h2).tileRow d2) (s.core h2).accum ws2 ∧
      t.core h = ws.foldl Core.write (s.core h) ∧ t.core h2 = ws2.foldl Core.write (s.core h2) ∧
      (diff = [] → t.ctx h k = { (s.ctx h k).writes ws with state := .ready, pc := (s.ctx h k).pc + len } ∧
        t.ctx h2 k2 = { (s.ctx h2 k2).writes ws2 with state := .ready, pc := (s.ctx h2 k2).pc + len2 }) ∧
      (∀ f, diff.head? = some f → (s.ctx h k).out = [] → (s.ctx h k).trap = none →
        (t.ctx h k).cause = 11 ∧ (t.ctx h k).fpc = (s.ctx h k).pc ∧ (t.ctx h k).rpc = (s.ctx h k).pc + len ∧ (t.ctx h k).faddr = (s.core h).tileid ∧
        (t.ctx h k).finfo = BitVec.ofNat 64 (f * 65536 + Nat.min diff.length 1023) ∧ (t.ctx h k).pc = (s.core h).tvec))

/-- R99 .. R101: an `mma` starts a gang, joins the gang of its mask, or raises GANG on itself or on itself and a gang that it contradicts.
R36 .. R41, R100 .. R104, R107, R260: a complete gang whose members pass their local checks is released, a redundant one with its partner; at
its turn on the row bus, which goes by the last join, each member's accumulators take the leader's rows, from zero unless the `mma`
accumulates. The model's readings in it: log entry 45. -/
def Obligations.MatrixMultiply : Prop :=
  (∀ i s pair o, mmaForm i = some (pair, o) →
    let mask := (s.g o.xs).setWidth 32
    let me : GMember := ⟨s.now.h, s.now.k, o.l, s.len, s.now.uses, o.a, o.b, o.c, s.serial⟩
    let pos := hx s.now.h % 32
    let ok := bits (s.g o.xs) 63 32 = 0 ∧ mask.getLsbD pos = true
    (¬ok → Traps i s 10 0 (BitVec.ofNat 64 (mask.toNat * 2 ^ 32 + pos * 256 + 4))) ∧
    (ok → s.forming s.now.h = false → near s mask = [] → Leads (exec i s) (fun t =>
      t = { s with ctxs := t.ctxs, serial := s.serial + 1, gangs := s.gangs ++ [⟨s.serial, chorusOf s.now.h, mask, pair, o.acc, o.red, [me], none⟩] } ∧
      OthersSame s t ∧ t.cur = { s.cur with state := .waiting .gang })) ∧
    (∀ g, ok → s.forming s.now.h = false → near s mask = [g] → g.mask = mask → g.pair = pair → g.acc = o.acc → g.red = o.red →
      Leads (exec i s) (fun t =>
        t = { s with
          ctxs := t.ctxs, serial := s.serial + 1
          gangs := s.gangs.map (fun x => if x.id = g.id then { x with members := x.members ++ [me] } else x) } ∧
        OthersSame s t ∧ t.cur = { s.cur with state := .waiting .gang })) ∧
    (∀ g, ok → s.forming s.now.h = false → near s mask = [g] →
      let op := decide (g.pair = pair ∧ g.acc = o.acc ∧ g.red = o.red)
      (g.mask ≠ mask ∨ op = false) → s.cur.out = [] → (∀ m ∈ g.members, ctxKey m.h m.k ≠ ctxKey s.now.h s.now.k) →
      (g.members.map (fun m => ctxKey m.h m.k)).Nodup →
      let info (p : Nat) := BitVec.ofNat 64 (mask.toNat * 2 ^ 32 + p * 256 + (if g.mask = mask then 0 else 2) + (if op = true then 0 else 1))
      Leads (exec i s) (fun t => t.gangs = s.gangs.filter (fun x => x.id != g.id) ∧ SameBytes s t ∧ t.cores = s.cores ∧
        t.cur.cause = 10 ∧ t.cur.fpc = s.cur.pc ∧ t.cur.finfo = info pos ∧ t.cur.pc = s.me.tvec ∧
        ∀ m ∈ g.members, (s.ctx m.h m.k).out = [] → (s.ctx m.h m.k).trap = none →
          (t.ctx m.h m.k).cause = 10 ∧ (t.ctx m.h m.k).fpc = (s.ctx m.h m.k).pc ∧ (t.ctx m.h m.k).pc = (s.core m.h).tvec ∧
          (t.ctx m.h m.k).finfo = BitVec.ofNat 64
            (g.mask.toNat * 2 ^ 32 + hx m.h % 32 * 256 + (if g.mask = mask then 0 else 2) + (if op = true then 0 else 1))))) ∧
  ((∀ id s g, s.formingGang id = some g → (∀ p < 32, g.mask.getLsbD p = true → ∃ m ∈ g.members, hx m.h % 32 = p) →
    (g.members.map (fun m => ctxKey m.h m.k)).Nodup →
    let kind := ([1, 1, 1, 2, 2, 2] : List Nat).getD g.pair 3
    let good (m : GMember) : Prop :=
      let c := s.core m.h
      (if kind = 3 then c.bank0.kind = 3 ∧ c.bank1.kind = 3 else (c.bankOf m.b).kind = kind) ∧ (g.acc = true → c.accMode = g.red)
    let goesOn (t : State) (m : GMember) : Prop := t.ctx m.h m.k = { s.ctx m.h m.k with
      state := .ready, pc := (s.ctx m.h m.k).pc + m.len
      out := (s.ctx m.h m.k).out ++ [⟨m.id, (s.ctx m.h m.k).pc, m.l.toNat, m.uses, [], .planes⟩] }
    let joined (x : Gang) : Nat := match x.members.getLast? with | some m => m.id | none => 0
    let dissolves (p bits_ : Nat) : Prop := Leads (exec (.evGangComplete id) s) (fun t =>
      t.gangs = s.gangs.filter (fun x => x.id != id) ∧ t.cores = s.cores ∧
      ∀ m ∈ g.members, (s.ctx m.h m.k).out = [] → (s.ctx m.h m.k).trap = none →
        (t.ctx m.h m.k).cause = 10 ∧ (t.ctx m.h m.k).fpc = (s.ctx m.h m.k).pc ∧ (t.ctx m.h m.k).pc = (s.core m.h).tvec ∧
        (t.ctx m.h m.k).finfo = BitVec.ofNat 64 (g.mask.toNat * 2 ^ 32 + p * 256 + bits_))
    (g.red = false → (∀ m ∈ g.members, good m) → (∀ p ∈ s.gangs, p.chorus = g.chorus ^^^ 1 → p.turn = none → p.red = true → p.mask ≠ g.mask) →
      Leads (exec (.evGangComplete id) s) (fun t =>
        t = { s with
          ctxs := t.ctxs, gangs := s.gangs.map (fun x => if x.id = id then { x with turn := some (joined g) } else x) } ∧
        ∀ m ∈ g.members, goesOn t m)) ∧
    (∀ p, g.red = true → s.hasPartner g = true → (∀ m ∈ g.members, good m) → p ∈ s.gangs → (∀ q ∈ s.gangs, q.chorus = g.chorus ^^^ 1 → q = p) →
      p.chorus = g.chorus ^^^ 1 → p.turn = none → p.mask = g.mask → s.gangLaunch p = s.gangLaunch g →
      (∀ b < 32, g.mask.getLsbD b = true → ∃ m ∈ p.members, hx m.h % 32 = b) →
      ((g.members ++ p.members).map (fun m => ctxKey m.h m.k)).Nodup → p.id ≠ id →
      (p.red = true → p.pair = g.pair → p.acc = g.acc → (∀ m ∈ p.members, good m) → Leads (exec (.evGangComplete id) s) (fun t =>
        t = { s with
          ctxs := t.ctxs
          gangs := s.gangs.map (fun x => if x.id = id ∨ x.id = p.id then { x with turn := some (Nat.max (joined g) (joined p)) } else x) } ∧
        ∀ m ∈ g.members ++ p.members, goesOn t m)) ∧
      (p.red = true → p.pair = g.pair → p.acc = g.acc → (∃ m ∈ p.members, ¬good m) →
        Leads (exec (.evGangComplete id) s) (fun t => t = s)) ∧
      (¬(p.red = true ∧ p.pair = g.pair ∧ p.acc = g.acc) → Leads (exec (.evGangComplete id) s) (fun t =>
        t.gangs = s.gangs.filter (fun x => x.id != id && x.id != p.id) ∧ t.cores = s.cores ∧
        ∀ m ∈ g.members ++ p.members, (s.ctx m.h m.k).out = [] → (s.ctx m.h m.k).trap = none →
          (t.ctx m.h m.k).cause = 10 ∧ (t.ctx m.h m.k).fpc = (s.ctx m.h m.k).pc ∧ (t.ctx m.h m.k).pc = (s.core m.h).tvec ∧
          (t.ctx m.h m.k).finfo = BitVec.ofNat 64 (g.mask.toNat * 2 ^ 32 + hx m.h % 32 * 256 + 1)))) ∧
    (∀ p, g.red = true → s.hasPartner g = false → p < 32 → g.mask.getLsbD p = true → (∀ q < p, g.mask.getLsbD q = false) → dissolves p 8) ∧
    (∀ p, (g.red = true → s.hasPartner g = true) → p < 32 → (∃ m ∈ g.members, hx m.h % 32 = p ∧ ¬good m) →
      (∀ m ∈ g.members, hx m.h % 32 < p → good m) → dissolves p 8)) ∧
  ∀ id s x turn, s.gangs.find? (fun g => g.id == id) = some x → x.turn = some turn → x.pair < 7 →
    (∀ y ∈ s.gangs, y.chorus = x.chorus → ∀ u, s.completeAt y = some u → turn ≤ u) →
    (x.members.map (fun m => m.h)).Nodup →
    ∀ ld ∈ x.members, x.mask.getLsbD (hx ld.h % 32) = true → (∀ p < hx ld.h % 32, x.mask.getLsbD p = false) →
    (∀ m ∈ x.members, hx m.h % 32 = hx ld.h % 32 → m = ld) →
    Leads (exec (.evMmaPlanesStart id) s) (fun t => t.gangs = s.gangs.filter (fun g => g.id != id) ∧ SameBytes s t ∧
      ∀ m ∈ x.members,
        t.core m.h = { s.core m.h with acc := (t.core m.h).acc, accMode := if x.acc = true then (s.core m.h).accMode else x.red } ∧
        (t.ctx m.h m.k).out = (s.ctx m.h m.k).out.map (fun o => if o.id = m.id then { o with pend := .ready } else o) ∧
        ∀ i < 16, ∀ n < 32, MmaAcc x.pair (s.core ld.h) (s.core m.h) ld.a ((s.ctx ld.h ld.k).vr ld.c) m.b i n
          (if x.acc = true then (s.core m.h).accum (32 * i + n) else {}) ((t.core m.h).accum (32 * i + n))))

/-! ## Declared buffers, tasks, events -/

/-- R53 .. R58, R292 .. R295: `bdecl`, `bacq`, `brel` and `bstat`, and the grant of a waiting `bacq`, which is an open acquire meanwhile,
to the longest-waiting context. The model's readings in it: log entry 12. -/
def Obligations.DeclaredBuffers : Prop :=
  (∀ (o : LAB) (p : LA) (q : L2) s, bits (s.g o.a) 63 5 ≠ 0 → p.a = o.a → q.a = o.a →
    Traps (.bdecl o) s 1 0 11 ∧ Traps (.bacq p) s 1 0 11 ∧ Traps (.brel p) s 1 0 11 ∧ Traps (.bstat q) s 1 0 11) ∧
  (∀ (o : LAB) s, bits (s.g o.a) 63 5 = 0 →
    let i := (s.g o.a).toNat
    let w := s.g o.b
    (DeclBad w → Traps (.bdecl o) s 1 0 11) ∧
    (¬DeclBad w → ¬DeclLegal s i w → Traps (.bdecl o) s 8 0 (bufRefusal true (s.me.buf i) i)) ∧
    (¬DeclBad w → DeclLegal s i w → ∃ u, Leads (exec (.bdecl o) s) (fun t => Ended u t o.l []) ∧
      BufOnly s u s.now.h i (if w.getLsbD 3 = true then {} else
        { state := 1, owner := s.now.k, base := bits w 35 25, size := bits w 46 36, esize := bits w 24 22, skew := w.getLsbD 21
          bv := w.getLsbD 50, barrier := bits w 63 51 }) false)) ∧
  (∀ (o : LA) s, bits (s.g o.a) 63 5 = 0 →
    let i := (s.g o.a).toNat
    let b := s.me.buf i
    let mine := b.owner = s.now.k
    let gets (b' : Buf) (empty : Bool) : Prop :=
      ∃ u, BufOnly s u s.now.h i b' empty ∧ Leads (exec (.bacq o) s) (fun t => Ended u t o.l [])
    (b.state = 0 → Traps (.bacq o) s 8 0 (bufRefusal true b i)) ∧
    (b.state = 3 → gets { b with state := 4, owner := s.now.k } b.byPhase) ∧
    (b.state = 1 → b.owner = 0x1F → gets { b with owner := s.now.k } false) ∧
    (b.state = 1 ∨ b.state = 4 → mine → b.owner ≠ 0x1F → gets b false) ∧
    (b.state = 2 ∨ (b.state = 1 ∨ b.state = 4) ∧ ¬mine ∧ (b.state = 1 → b.owner ≠ 0x1F) →
      Leads (exec (.bacq o) s) (fun t => Queued s t o.l [⟨s.serial, 1, 0x200000000, ownAt s 0, .bacq, 0⟩] [] (.bacq i)))) ∧
  (∀ h k i s o, k ≤ 10 → o ∈ (s.ctx h k).out → o.pend = .bacq i →
    (∀ k' ≤ 10, ∀ o' ∈ (s.ctx h k').out, o'.pend = .bacq i → o.id < o'.id ∨ k' = k ∧ o' = o) →
    let b := (s.core h).buf i
    (b.state = 3 ∨ b.state = 1 ∧ b.owner = 0x1F) → h < 65536 →
    ((s.core h).stepped = true ∨ (s.core h).barq = [] ∧ ∀ off ∈ (s.core h).due,
      bArrivals (barrierBits s h off) ≠ 0 ∨ bSectors (barrierBits s h off) ≠ 0 ∨ off ∈ (s.core h).stuck) →
    Leads (exec (.evBacqGrant h i) s) (fun t => ∃ u,
      BufOnly s u h i { b with state := if b.state = 3 then 4 else 1, owner := k } (decide (b.state = 3) && b.byPhase) ∧
      OnlyCtx u t h k ∧ t.ctx h k = { s.ctx h k with
        out := (s.ctx h k).out.map (fun x => if x.id = o.id then { x with pend := .ready } else x)
        post := (s.ctx h k).post.filter (fun e => e.id != o.id) })) ∧
  (∀ (o : LA) s, bits (s.g o.a) 63 5 = 0 →
    let i := (s.g o.a).toNat
    let b := s.me.buf i
    let gives (b' : Buf) : Prop := ∃ u, BufOnly s u s.now.h i b' false ∧ Leads (exec (.brel o) s) (fun t => Ended u t o.l [])
    (s.canRelease 0x200000000 = false → Leads (exec (.brel o) s) (fun t =>
      OnlyCur s t ∧ t.cur = { s.cur with state := .waiting .retry, wlen := s.len, wuses := s.now.uses })) ∧
    (s.canRelease 0x200000000 = true →
      (b.owner = s.now.k → b.state = 1 → gives { b with state := 3, owner := 0x1F, byPhase := false }) ∧
      (b.owner = s.now.k → b.state = 4 → gives { b with state := 1, owner := 0x1F }) ∧
      (b.owner ≠ s.now.k ∨ b.state ≠ 1 ∧ b.state ≠ 4 → Traps (.brel o) s 8 0 (bufRefusal true b i)))) ∧
  ∀ (o : L2) s, bits (s.g o.a) 63 5 = 0 →
    let b := s.me.buf (s.g o.a).toNat
    b.state < 5 → b.owner < 32 → b.base < 2 ^ 11 → b.size < 2 ^ 11 → b.esize < 8 → b.barrier < 2 ^ 13 →
    ∃ x : Word, Ends (.bstat o) s o.l [.g o.d x] ∧ bits x 63 51 = b.barrier ∧ x.getLsbD 50 = b.bv ∧ bits x 49 47 = 0 ∧ bits x 46 36 = b.size ∧
      bits x 35 25 = b.base ∧ bits x 24 22 = b.esize ∧ x.getLsbD 21 = b.skew ∧ bits x 20 16 = b.owner ∧ bits x 15 3 = 0 ∧ bits x 2 0 = b.state

/-- R71 .. R75, R78, R296: `spawn` checks and, after the dispatcher's start of its cycle, pushes a record at the bottom of the deque, or
answers 0 when it is full; the dispatcher starts the stolen task, else the ready handler of the highest priority, else the ripe task
nearest the bottom; a part ends. R77: an idle core asks the other cores of its launch on its die, nearest first; a victim gives its ripe
unpinned task nearest the top, after a start that its own dispatcher makes; after a round of refusals the thief waits 1,024 cycles. The
model's readings in it: log entries 13, 48 and 55. -/
def Obligations.TasksAndStealing : Prop :=
  ((∀ (o : L2) s off,
    let va := (s.g o.a).toNat
    let bs := s.look (ownAt s off) 32
    (va % 32 ≠ 0 → Traps (.spawn o) s 4 (s.g o.a) 5) ∧
    (va % 32 = 0 → OwnAccess s va 32 off true false → s.canRead (ownAt s off) 32 = true →
      (TaskBad bs → Traps (.spawn o) s 1 (s.g o.a) 11) ∧
      (∀ a i b, ¬TaskBad bs → taskIds bs = a ++ i :: b → a.Nodup → (∀ j ∈ a, (s.me.buf j).state ≠ 0) →
        ((s.me.buf i).state = 0 ∨ i ∈ a) → Traps (.spawn o) s 8 0 (bufRefusal false (s.me.buf i) i)) ∧
      (¬TaskBad bs → (taskIds bs).Nodup → (∀ j ∈ taskIds bs, (s.me.buf j).state ≠ 0) → s.canRelease (dieScope s.now.h) = true →
        let m := s.serve s.now.h
        (m.me.deque.length < 64 → ∃ u τ, TaskOf bs τ ∧ OnlyCoreOf m u s.now.h ∧
          u.me = { m.me with deque := τ :: m.me.deque, steal := stirred m.me.steal } ∧
          Leads (exec (.spawn o) s) (fun t => Ended u t o.l [.g o.d 1])) ∧
        (64 ≤ m.me.deque.length → Leads (exec (.spawn o) s) (fun t => Ended m t o.l [.g o.d 0]))))) ∧
  (∀ h (s : State), (s.core h).acted = true → s.serve h = s) ∧
  (∀ h s, OnlyStarts s h → h < 65536 → s.startsNext h = true → Leads (exec (.evTaskStart h) s) (fun t => OnlyCoreOf (s.serve h) t h ∧
    t.core h = { (s.serve h).core h with stepped := false, acted := false, cycle := ((s.serve h).core h).cycle + 1 })) ∧
  (∀ h k s, Working s h → LowestIdle s h k → OnlyStarts s h →
    let c := s.core h
    let cyc (c : Core) : Core := { c with stepped := false, cycle := c.cycle + 1 }
    let handler (i : Nat) (τ : Task) : Prop := i < 64 ∧ (c.layer i).pending = some τ ∧ Ripe c τ
    (∀ τ, c.slot = some τ → Leads (exec (.evTaskStart h) s) (fun t =>
      TaskStarts s t h k τ true none (fun c => cyc { c with slot := none }))) ∧
    (∀ i τ, c.slot = none → handler i τ →
      (∀ j υ, handler j υ → bits (c.layer j).entry 19 18 < bits (c.layer i).entry 19 18 ∨
        bits (c.layer j).entry 19 18 = bits (c.layer i).entry 19 18 ∧ i ≤ j) →
      Leads (exec (.evTaskStart h) s) (fun t =>
        TaskStarts s t h k τ false (some i) (fun c => cyc { c with layers := SMap.put c.layers i { c.layer i with pending := none } }))) ∧
    (∀ a τ b, c.slot = none → (∀ j υ, ¬handler j υ) → c.deque = a ++ τ :: b → (∀ υ ∈ a, ¬Ripe c υ) → Ripe c τ →
      Leads (exec (.evTaskStart h) s) (fun t => TaskStarts s t h k τ false none (fun c => cyc { c with deque := a ++ b, steal := stirred c.steal })))) ∧
  (∀ h s, Working s h → (s.ctx h 0).state = .waiting .done → (∀ k, 1 ≤ k → k ≤ 10 → (s.ctx h k).state = .idle) →
    (s.core h).slot = none → (∀ τ ∈ (s.core h).deque, ¬Ripe (s.core h) τ) → (∀ i < 64, ((s.core h).layer i).pending = none) →
    (∀ i, (s.core h).steal ≠ .asked i) → (∀ i τ, (s.core h).steal ≠ .answer i τ) → (∀ i < 64, s.handlerDue h i = false) →
    Leads (exec (.evLaunchPartEnd h) s) (fun t => OnlyCoreOf s t h ∧ t.core h = { s.core h with
      ended := true, lostTasks := (s.core h).lostTasks + (s.core h).deque.length, deque := []
      lostEvents := (s.core h).lostEvents + (s.core h).inbox.length + (s.core h).spillN, inbox := [], spillN := 0 }))) ∧
  ((∀ (s : State) h l, (s.core h).launch.bind s.launchOf = some l →
    (∀ v, v ∈ s.victims h ↔ v ∈ l.cores ∧ v ≠ h % 65536 ∧ hdie v = hdie h) ∧
    (s.victims h).Pairwise (fun a b =>
      let dist (v : Nat) : Nat := ((hx h : Int) - hx v).natAbs + ((hy h : Int) - hy v).natAbs
      hx a < 256 → hx b < 256 → hy a < 256 → hy b < 256 →
        dist a < dist b ∨ dist a = dist b ∧ (hy a < hy b ∨ hy a = hy b ∧ hx a ≤ hx b))) ∧
  (∀ h i s, Working s h → (s.core h).steal = .next i → (∃ k, LowestIdle s h k) → (s.core h).slot = none →
    (∀ τ ∈ (s.core h).deque, ¬Ripe (s.core h) τ) → (∀ j < 64, ((s.core h).layer j).pending = none) → i < (s.victims h).length →
    Leads (exec (.evStealRequest h) s) (fun t => OnlyCoreOf s t h ∧ t.core h = { s.core h with steal := .asked i })) ∧
  (∀ h i s v, (s.core h).steal = .asked i → (s.victims h)[i]? = some v → v ≠ h →
    let answers (u t : State) : Prop :=
      (∀ a τ b, (u.core v).deque = a ++ τ :: b → Ripe (u.core v) τ → τ.pinned = false → (∀ υ ∈ b, υ.pinned = true ∨ ¬Ripe (u.core v) υ) →
        t = { u with cores := t.cores } ∧ (∀ g, g ≠ h → g ≠ v → t.core g = u.core g) ∧
        t.core h = { u.core h with steal := .answer i (some τ) } ∧
        t.core v = { u.core v with deque := a ++ b, lost := ((u.core v).lost + 1) % 256, steal := stirred (u.core v).steal }) ∧
      ((∀ υ ∈ (u.core v).deque, υ.pinned = true ∨ ¬Ripe (u.core v) υ) → OnlyCoreOf u t h ∧ t.core h = { u.core h with steal := .answer i none })
    ((s.core v).launch ≠ (s.core h).launch → Leads (exec (.evStealVictimAnswer h) s) (fun t =>
      OnlyCoreOf s t h ∧ t.core h = { s.core h with steal := .answer i none })) ∧
    ((s.core v).launch = (s.core h).launch → s.startsNext v = false → Leads (exec (.evStealVictimAnswer h) s) (answers s)) ∧
    ((s.core v).launch = (s.core h).launch → s.startsNext v = true → v < 65536 → ∃ u, exec (.evTaskStart v) s = .next u ∧
      Leads (exec (.evStealVictimAnswer h) s) (answers u))) ∧
  (∀ h i τ s, (s.core h).steal = .answer i (some τ) → h < 65536 → OnlyStarts s h →
    let f (c : Core) : Core := { c with steal := .next 0, stolen := (c.stolen + 1) % 256, stepped := false, cycle := c.cycle + 1 }
    ((∀ k, 1 ≤ k → k ≤ 10 → (s.ctx h k).state ≠ .idle) → Leads (exec (.evStealAnswerArrival h) s) (fun t =>
      OnlyCoreOf s t h ∧ t.core h = { f (s.core h) with slot := some τ })) ∧
    (∀ k, Working s h → LowestIdle s h k →
      Leads (exec (.evStealAnswerArrival h) s) (fun t => TaskStarts s t h k τ true none (fun c => { f c with slot := none })))) ∧
  (∀ h i s, (s.core h).steal = .answer i none →
    Leads (exec (.evStealAnswerArrival h) s) (fun t => OnlyCoreOf s t h ∧ t.core h = { s.core h with
      steal := if i + 1 < (s.victims h).length then .next (i + 1) else .round ((s.core h).cycle.toNat + 1024) })) ∧
  ∀ h n s, (s.core h).steal = .round n → n ≤ (s.core h).cycle.toNat →
    Leads (exec (.evStealRoundWaitExpiry h) s) (fun t => OnlyCoreOf s t h ∧ t.core h = { s.core h with steal := .next 0 }))

/-- R81, R91 .. R93, R251, R300: `sdenc` encodes 32 lanes against prev and acc in local memory and queues one event for each non-zero
delta and destination; `pennant` advances the group's step and queues or holds its markers. The model's readings in it: log entries 26 and
48. -/
def Obligations.EventSenders : Prop :=
  (∀ (o : SdencOps) s off theta qmax step ds,
    let gc := s.g (cReg o.c)
    let base := (s.g o.b).toNat
    let a := (s.g o.a).toNat
    let goff := (s.me.fobase.toNat + 64 * gc.toNat) % 2 ^ 17
    let bs := s.look (ownAt s goff) 64
    (a < NW ∨ NW + 2 ^ 17 ≤ a → Traps (.sdenc o) s 17 (s.g o.a) 0) ∧
    (a = NW + off → off < 2 ^ 17 →
      (off % 128 ≠ 0 → Traps (.sdenc o) s 4 (s.g o.a) (512 + 7)) ∧
      (off % 128 = 0 → 2 ^ 17 < off + 256 → Traps (.sdenc o) s 17 (BitVec.ofNat 64 (NW + 2 ^ 17)) 0) ∧
      (off % 128 = 0 → off + 256 ≤ 2 ^ 17 →
        (bits gc 63 4 ≠ 0 ∨ 0xFFFD < base → Traps (.sdenc o) s 1 0 11) ∧
        (bits gc 63 4 = 0 → base ≤ 0xFFFD → s.canRead (ownAt s goff) 64 = true → GroupIs bs theta qmax step ds →
          (¬GroupGood s bs theta qmax ds (some base) → Traps (.sdenc o) s 1 (BitVec.ofNat 64 (NW + goff)) 11) ∧
          (GroupGood s bs theta qmax ds (some base) → s.checkBuf s.now.h off 256 a true = .ok () →
            s.canWrite (ownAt s off) 256 0#2 0#64 = true → ds.length * 32 ≤ s.sendRoom s.now.h →
            ∃ (u : State) (acc q : Nat → Int) (c : Nat → Bool) (any : Bool),
              (∀ j < 32, Encodes o.sat theta qmax (lint 32 (laneAt 32 (s.v o.d) j)) (lint 32 (leNat (s.look (ownAt s (off + 4 * j)) 4)))
                (lint 32 (leNat (s.look (ownAt s (off + 128 + 4 * j)) 4))) (acc j) (q j) (c j)) ∧
              (any = true ↔ ∃ j < 32, c j = true) ∧
              (∀ j < 32, leNat (u.pocBytes (.local_ s.now.h) (localKey s.now.h (off + 4 * j)) 4) = laneAt 32 (s.v o.d) j ∧
                lint 32 (leNat (u.pocBytes (.local_ s.now.h) (localKey s.now.h (off + 128 + 4 * j)) 4)) = acc j) ∧
              (∀ sp x, x < localKey s.now.h off ∨ localKey s.now.h (off + 256) ≤ x → u.pocByte sp x = s.pocByte sp x) ∧
              u.ctxs = s.ctxs ∧
              let evs := ds.flatMap (fun d => ((List.range 32).filter (fun j => q j != 0)).map
                (fun j => eventBits d.1 false step d.2.2 (q j) (d.2.1 + base + j)))
              let ws : List RegWrite := if any = true then [.satflags 2] else []
              Leads (exec (.sdenc o) s) (fun t =>
                (evs = [] → Ended u t o.l ws ∧ u.cores = s.cores) ∧
                (evs ≠ [] → Queued u t o.l [] ws .events ∧
                  u.me = { s.me with sendq := s.me.sendq ++ evs.map (fun w => ⟨s.serial, s.now.k, w⟩) }))))))) ∧
  (∀ (o : LA) s, bits (s.g o.a) 63 4 ≠ 0 → Traps (.pennant o) s 1 0 11) ∧
  ∀ (o : LA) s theta qmax step ds, bits (s.g o.a) 63 4 = 0 →
    let off := (s.me.fobase.toNat + 64 * (s.g o.a).toNat) % 2 ^ 17
    let bs := s.look (ownAt s off) 64
    s.checkBuf s.now.h off 64 (NW + off) true = .ok () → s.canRead (ownAt s off) 64 = true → GroupIs bs theta qmax step ds →
    (¬GroupGood s bs theta qmax ds none → Traps (.pennant o) s 1 (BitVec.ofNat 64 (NW + off)) 11) ∧
    (GroupGood s bs theta qmax ds none → s.canWrite (ownAt s (off + 8)) 4 0#2 0#64 = true → ds.length ≤ s.sendRoom s.now.h →
      let evs := ds.map (fun d => eventBits d.1 true step d.2.2 0 0)
      ∃ u, StoredAt s u (ownAt s (off + 8)) (leBytes 4 (step + 1)) ∧ u.ctxs = s.ctxs ∧
        Leads (exec (.pennant o) s) (fun t =>
          (ds = [] → Ended u t o.l []) ∧
          (ds ≠ [] → s.now.defer = false → s.canRelease 0x300000000 = true → Queued u t o.l [] [] .events ∧
            u.me = { s.me with sendq := s.me.sendq ++ evs.map (fun w => ⟨s.serial, s.now.k, w⟩) }) ∧
          (ds ≠ [] → ¬(s.now.defer = false ∧ s.canRelease 0x300000000 = true) →
            Queued u t o.l [] [] (.pennants evs) ∧ u.me = s.me)))

/-- R83, R87 .. R89, R297 .. R299: `evtab`, `evpop` and `evadv` act on a layer's entry, its inbox entries of the current step and its
step; a handler task is made when a batch has gathered or the step has ended. R78, R82 .. R86: the oldest queued event for a destination
is accepted into the inbox or the spill area, and then leaves the send queue, or is NACKed and held for 64 cycles, with spf set where the
spill area cannot be written; the spill area refills
the inbox in order. The model's readings in it: log entries 48 and 55. -/
def Obligations.EventsInTheInbox : Prop :=
  ((∀ (o : LAB) s,
    let e := s.g o.b
    let bad := bits (s.g o.a) 63 6 ≠ 0 ∨ bits e 16 13 ≠ 0 ∨ bits e 7 0 ≠ 0 ∨ e.getLsbD 32 = true ∨ e.getLsbD 17 = true ∧ bits e 31 24 = 0
    (bad → Traps (.evtab o) s 1 0 11) ∧
    (¬bad → ∃ u, OnlyCoreOf s u s.now.h ∧ u.me = { s.me with layers := u.me.layers } ∧
      (∀ j, u.me.layer j = if j = (s.g o.a).toNat then { entry := e } else s.me.layer j) ∧
      Leads (exec (.evtab o) s) (fun t => Ended u t o.l []))) ∧
  (∀ (o : LD) (p : L0) s, s.cur.layer = none → Traps (.evpop o) s 1 0 11 ∧ Traps (.evadv p) s 1 0 11) ∧
  (∀ (o : LD) s i, s.cur.layer = some i →
    (∀ e es, currentEntries s.me i = e :: es → ∃ (u : State) (x : Word), OnlyCoreOf s u s.now.h ∧
      u.me = { s.me with inbox := s.me.inbox.erase e, evcnt := s.me.evcnt + 1, steal := stirred s.me.steal } ∧
      (e.index < 2 ^ 16 → -(2 ^ 15) ≤ e.delta → e.delta < 2 ^ 15 → lint 32 (bits x 63 32) = e.delta ∧ bits x 31 0 = e.index) ∧
      Leads (exec (.evpop o) s) (fun t => Ended u t o.l [.g o.d x])) ∧
    (StepEnded s.me s.cur.hentry i → ∃ u, OnlyCoreOf s u s.now.h ∧ u.me = { s.me with l1 := [] } ∧
      Leads (exec (.evpop o) s) (fun t => Ended u t o.l [.g o.d (BitVec.ofNat 64 ((s.me.layer i).step.toNat * 2 ^ 32 + 0xFFFFFFFE))])) ∧
    (currentEntries s.me i = [] → ¬StepEnded s.me s.cur.hentry i → Ends (.evpop o) s o.l [.g o.d (BitVec.allOnes 64)])) ∧
  (∀ (o : L0) s i, s.cur.layer = some i →
    (StepEnded s.me s.cur.hentry i → ∃ u, OnlyCoreOf s u s.now.h ∧ u.me = { s.me with l1 := [], layers := u.me.layers } ∧
      (∀ j, j ≠ i → u.me.layer j = s.me.layer j) ∧
      u.me.layer i = { s.me.layer i with step := (s.me.layer i).step + 1, p0 := (s.me.layer i).p1, p1 := (s.me.layer i).p2, p2 := 0 } ∧
      Leads (exec (.evadv o) s) (fun t => Ended u t o.l [])) ∧
    (¬StepEnded s.me s.cur.hentry i → Leads (exec (.evadv o) s) (fun t =>
      OnlyCur s t ∧ t.cur = { s.cur with state := .waiting .evadv, wlen := s.len, wuses := s.now.uses }))) ∧
  (∀ h k i s, h < 65536 → (s.ctx h k).state = .waiting .evadv → (s.ctx h k).layer = some i → StepEnded (s.core h) (s.ctx h k).hentry i →
    Leads (exec (.evEvadvStepEnd h k) s) (fun t => OnlyCtxCore s t h k ∧
      t.ctx h k = { s.ctx h k with state := .ready, pc := (s.ctx h k).pc + (s.ctx h k).wlen } ∧
      t.core h = { s.core h with l1 := [], layers := (t.core h).layers } ∧ (∀ j, j ≠ i → (t.core h).layer j = (s.core h).layer j) ∧
      (t.core h).layer i = { (s.core h).layer i with
        step := ((s.core h).layer i).step + 1, p0 := ((s.core h).layer i).p1, p1 := ((s.core h).layer i).p2, p2 := 0 })) ∧
  ∀ h i s, Working s h → ((s.core h).layer i).pending = none → ((s.core h).layer i).entry.getLsbD 17 = true →
    (∀ k ≤ 10, (s.ctx h k).layer = some i → (s.ctx h k).state = .idle) →
    (bits ((s.core h).layer i).entry 23 20 + 1 ≤ (currentEntries (s.core h) i).length ∨ StepEnded (s.core h) ((s.core h).layer i).entry i) →
    Leads (exec (.evHandlerTaskCreate h i) s) (fun t => OnlyCoreOf s t h ∧
      t.core h = { s.core h with layers := (t.core h).layers } ∧ (∀ j, j ≠ i → (t.core h).layer j = (s.core h).layer j) ∧
      ∃ τ, (t.core h).layer i = { (s.core h).layer i with pending := some τ } ∧ bits τ.w0 63 52 = 0x30 ∧
        bits τ.w0 51 0 = ((s.core h).evbase.toNat + bits ((s.core h).layer i).entry 63 32) % 2 ^ 52 ∧
        τ.slots.toNat = 128 + bits ((s.core h).layer i).entry 12 8 ∧ τ.arg0 = BitVec.ofNat 64 i ∧
        τ.arg1.toNat = ((s.core h).layer i).step.toNat ∧ τ.layer = some i)) ∧
  ((∀ h x s e i, h < 65536 → (s.core h).headFor x = some e →
    (i = .evEventArrival h x ∧ SMap.has (s.core h).holds x = false ∨
      i = .evNackResendTimer h x ∧ SMap.has (s.core h).holds x = true ∧ SMap.get (s.core h).holds 0 x ≤ (s.core h).cycle.toNat) →
    let d := s.handleFor (s.core h) x
    let c := s.core d
    let rel := (bits e.w 39 38 + 4 - (c.layer (bits e.w 37 32)).step.toNat % 4) % 4
    let left (t : State) : Prop := (t.core h).sendq = (s.core h).sendq.erase e ∧ SMap.has (t.core h).holds x = false ∧
      ((∀ y ∈ (s.core h).sendq.erase e, y.id ≠ e.id) → ∀ o, (s.ctx h e.k).outOf e.id = some o → o.pend = .events →
        (t.ctx h e.k).outOf e.id = some { o with pend := .ready })
    (c.ended = true → Leads (exec i s) (fun t => left t ∧ SameBytes s t ∧ (t.core d).lostEvents = c.lostEvents + 1 ∧ (t.core d).inbox = c.inbox)) ∧
    (c.ended = false → rel ≠ 3 → c.spillN = 0 → c.inbox.length < 256 → d < 65536 → Leads (exec i s) (fun t =>
      left t ∧ SameBytes s t ∧ (t.core d).nacks = c.nacks ∧ InboxTakes c (t.core d) e.w)) ∧
    (∀ loc, c.ended = false → rel ≠ 3 → (c.spillN ≠ 0 ∨ 256 ≤ c.inbox.length ∨ 65536 ≤ d) → c.spillN < 2 ^ 20 → c.spillArea ≠ 0 →
      s.unitLoc d (c.spillArea.toNat + 8 * ((c.spillAt + c.spillN) % 2 ^ 20)) { wr := true } = some loc →
      ¬Unwritable s (s.devOf (hdie d)) loc 8 →
      Leads (exec i s) (fun t => left t ∧ StoredAt s t loc (leBytes 8 e.w.toNat) ∧ (t.core d).spillN = c.spillN + 1 ∧
        (t.core d).inbox = c.inbox)) ∧
    let nacked (spf : Bool) : Prop := Leads (exec i s) (fun t => SameBytes s t ∧ (t.core h).sendq = (s.core h).sendq ∧ t.ctxs = s.ctxs ∧
      SMap.get (t.core h).holds 0 x = (s.core h).cycle.toNat + 64 ∧ SMap.has (t.core h).holds x = true ∧
      (t.core d).nacks = (c.nacks + 1) % 65536 ∧ (t.core d).spf = spf ∧ (t.core d).inbox = c.inbox ∧ (t.core d).spillN = c.spillN)
    (c.ended = false → (rel = 3 ∨ (c.spillN ≠ 0 ∨ 256 ≤ c.inbox.length ∨ 65536 ≤ d) ∧ (2 ^ 20 ≤ c.spillN ∨ c.spillArea = 0)) →
      nacked c.spf) ∧
    (c.ended = false → rel ≠ 3 → (c.spillN ≠ 0 ∨ 256 ≤ c.inbox.length ∨ 65536 ≤ d) → c.spillN < 2 ^ 20 → c.spillArea ≠ 0 →
      (∀ loc, s.unitLoc d (c.spillArea.toNat + 8 * ((c.spillAt + c.spillN) % 2 ^ 20)) { wr := true } = some loc →
        Unwritable s (s.devOf (hdie d)) loc 8) → nacked true)) ∧
  (∀ h s w, h < 65536 → s.spillHead h = some w → (s.core h).inbox.length < 256 →
    Leads (exec (.evSpillRefill h) s) (fun t => OnlyCoreOf s t h ∧ InboxTakes (s.core h) (t.core h) w ∧
      (t.core h).spillN = (s.core h).spillN - 1 ∧ (t.core h).spillAt = ((s.core h).spillAt + 1) % 2 ^ 20)) ∧
  ∀ h s, (s.core h).spillN = 0 → Leads (exec (.evSpillbaseSwitch h) s) (fun t => OnlyCoreOf s t h ∧
    t.core h = { s.core h with spillbase := (s.core h).spillnext.getD (s.core h).spillbase, spillnext := none }))

/-! ## Barriers, copies and batches -/

/-- R61, R121 .. R123, R311 .. R313: `xbinit`, `xbarr`, `xbwait` and `xbtry`; an arrival waits for the next barrier step of its core, which
applies what waits and tests every barrier in use, or changes the image of a core that is out; one that finds arrivals at zero keeps the
barrier from completing until `xbinit`; and a waiting `xbwait` goes on when the phase differs from the one it names. The model's readings
in it: log entries 26 and 27. -/
def Obligations.Barriers : Prop :=
  (∀ (o : LAB) s off,
    let va := (s.g o.a).toNat
    let n := (s.g o.b).toNat
    (va % 16 ≠ 0 → Traps (.xbinit o) s 4 (s.g o.a) (256 + 4)) ∧
    (va % 16 = 0 → s.nearLoc va 16 = .ok (s.now.h, off) →
      (n = 0 ∨ 0xFFFFE < n → Traps (.xbinit o) s 1 0 11) ∧
      (1 ≤ n → n ≤ 0xFFFFE → s.checkBuf s.now.h off 16 va true = .ok () → s.canWrite (ownAt s off) 16 0#2 0#64 = true →
        ∃ m u, MemoryOnly s m ∧ StoredAt s m (ownAt s off) (leBytes 16 (n * 2 ^ 64 + n * 2 ^ 16 + bPhase (barrierBits s s.now.h off))) ∧
          OnlyCoreOf m u s.now.h ∧
          u.me = { m.me with due := m.me.due.filter (fun x => x != off) ++ [off], stuck := m.me.stuck.filter (fun x => x != off) } ∧
          Leads (exec (.xbinit o) s) (fun t => Ended u t o.l [])))) ∧
  (∀ (o : XbOps) s h off,
    let va := (s.g o.a).toNat
    let n := (s.g o.b).toNat
    let v := s.scopeOf o.xs
    (o.sem.getLsbD 1 = true → s.scopeOk s.myDev v = false → Traps (.xbarr o) s 16 0 v) ∧
    ((o.sem.getLsbD 1 = true → s.scopeOk s.myDev v = true) →
      (va % 16 ≠ 0 → Traps (.xbarr o) s 4 (s.g o.a) (512 + 4)) ∧
      (va % 16 = 0 → s.nearLoc va 16 = .ok (h, off) →
        (n % 32 ≠ 0 ∨ 2 ^ 26 < n → Traps (.xbarr o) s 1 0 11) ∧
        (n % 32 = 0 → n ≤ 2 ^ 26 → s.checkBuf h off 16 va true = .ok () → (o.sem.getLsbD 1 = true → s.canRelease v = true) →
          Leads (exec (.xbarr o) s) (fun t => Ended { s with
            arrivals := s.arrivals ++ [⟨s.serial, s.me.launch.getD 0, h % 65536, off, n⟩], serial := s.serial + 1 } t o.l []))))) ∧
  (∀ i s p a q l, s.arrivals = p ++ a :: q → a.id = i → (∀ x ∈ p ++ q, x.id ≠ i) → s.launchOf a.launch = some l →
    Leads (exec (.evBarrierArrival i) s) (fun t => BarrierStep { s with arrivals := p ++ q } t (l.handle a.h) ⟨a.off, true, a.bytes⟩)) ∧
  (∀ s h, ((s.core h).stepped = false → BarriersStepped s (s.openCycle h) h) ∧ ((s.core h).stepped = true → s.openCycle h = s)) ∧
  (∀ (o : XbOps) (p : XbtryOps) s h off, p.a = o.a → p.b = o.b → p.xs = o.xs →
    let va := (s.g o.a).toNat
    let n := (s.g o.b).toNat
    let v := s.scopeOf o.xs
    let moved := bPhase (barrierBits s h off) ≠ n
    let emptied (u : State) : Prop := OnlyCoreOf s u s.now.h ∧ u.me = { s.me with l1 := [] }
    (s.scopeOk s.myDev v = false → Traps (.xbwait o) s 16 0 v ∧ Traps (.xbtry p) s 16 0 v) ∧
    (s.scopeOk s.myDev v = true → va % 16 ≠ 0 → Traps (.xbwait o) s 4 (s.g o.a) 4 ∧ Traps (.xbtry p) s 4 (s.g o.a) 4) ∧
    (s.scopeOk s.myDev v = true → va % 16 = 0 → s.nearLoc va 16 = .ok (h, off) →
      (16 ≤ n → Traps (.xbwait o) s 1 0 11 ∧ Traps (.xbtry p) s 1 0 11) ∧
      (n < 16 → s.checkBuf h off 16 va false = .ok () → s.checkData va ⟨.local_ h, localKey h off⟩ 16 false = .ok () →
        (s.canRead ⟨.local_ h, localKey h off⟩ 16 = true →
          (moved → ∃ u, emptied u ∧ Leads (exec (.xbwait o) s) (fun t => Ended u t o.l []) ∧
            Leads (exec (.xbtry p) s) (fun t => Ended u t p.l [.g p.d 1])) ∧
          (¬moved → Ends (.xbtry p) s p.l [.g p.d 0])) ∧
        (65536 ≤ h ∨ ¬moved ∧ s.canRead ⟨.local_ h, localKey h off⟩ 16 = true → Leads (exec (.xbwait o) s) (fun t => OnlyCur s t ∧
          t.cur = { s.cur with state := .waiting (.xbwait (h % 65536) off n), wlen := s.len, wuses := s.now.uses }))))) ∧
  ∀ c k h off n s, c < 65536 → (s.ctx c k).state = .waiting (.xbwait h off n) →
    let g := s.handleFor (s.core c) h
    g < 65536 → bPhase (barrierBits s g off) ≠ n →
    Leads (exec (.evXbwaitWake c k) s) (fun t => OnlyCtxCore s t c k ∧
      t.ctx c k = { s.ctx c k with state := .ready, pc := (s.ctx c k).pc + (s.ctx c k).wlen } ∧ t.core c = { s.core c with l1 := [] })

/-- R18, R51, R52, R59, R124, R304 .. R306: `cpt`, `cpt.in`, `cpt.out` and `cpm` issue with the tile's bytes, or with where they are read,
and join the open batch; a copy into own buffers that may not receive it ends refused. R59, R122, R124, R139, R146: a `cpm` branch is
checked when its first byte arrives; sectors are read and land one by one, each crediting the named barrier; with its last sector a
delivery ends. That one whose source holds an error ends refused is the model's choice: log entry 36. The model's other readings in it:
log entries 27 and 28. -/
def Obligations.TileCopies : Prop :=
  ((∀ (o : CptOps) s off skew,
    let va := (s.g o.a).toNat
    let tw := s.g (cReg o.c)
    s.canRelease 0x2_0000_0000 = true →
    (NW ≤ va → TileAt s va skew → s.nearLoc va 2048 = .ok (s.now.h, off) →
      (TransferBad tw true → Traps (.cpt o) s 1 0 11) ∧
      (¬TransferBad tw true → FreshIds s →
        Leads (exec (.cpt o) s) (fun t => CopiesIn s t o.l tw off (fun ss => SectorsOf ss (tileRegByte s o.b) (tileGranule s.now.h off skew))))) ∧
    (va + 2048 ≤ NW → va % 64 = 0 →
      (TransferBad tw false → Traps (.cpt o) s 1 0 11) ∧
      (∀ ps, ¬TransferBad tw false → s.spread { wr := true } [(va, 2048)] = .ok ps →
        Leads (exec (.cpt o) s) (fun t => CopiesOut s t o.l tw (tileRegByte s o.b) (granuleOf ps)))) ∧
    (va < NW → va % 64 ≠ 0 → Traps (.cpt o) s 4 (s.g o.a) (256 + 6)) ∧
    (va < NW → va % 64 = 0 → NW < va + 2048 → Traps (.cpt o) s 17 (s.g o.a) 0)) ∧
  (∀ (o : CptGOps) s off skew,
    let va := (s.g o.a).toNat
    let vb := (s.g o.b).toNat
    let tw := s.g (cReg o.c)
    s.canRelease 0x2_0000_0000 = true → TileAt s va skew → s.nearLoc va 2048 = .ok (s.now.h, off) →
    (vb % 64 ≠ 0 → Traps (.cptIn o) s 4 (s.g o.b) 6) ∧
    (vb % 64 = 0 → NW < vb + 2048 → Traps (.cptIn o) s 17 (s.g o.b) 0) ∧
    (vb % 64 = 0 → vb + 2048 ≤ NW → TransferBad tw true → Traps (.cptIn o) s 1 0 11) ∧
    (∀ ps, vb % 64 = 0 → vb + 2048 ≤ NW → ¬TransferBad tw true → s.spread { rd := true } [(vb, 2048)] = .ok ps →
      s.quiet ps = .ok () → FreshIds s →
      Leads (exec (.cptIn o) s) (fun t => CopiesIn s t o.l tw off (fun ss => Granulated ss (fun n x =>
        x.src = (ps.flatMap granules)[n]? ∧ x.bytes = [] ∧ tileGranule s.now.h off skew n = some x.dst))))) ∧
  (∀ (o : CptGOps) s off skew ps,
    let va := (s.g o.a).toNat
    let vb := (s.g o.b).toNat
    let tw := s.g (cReg o.c)
    (va % 64 ≠ 0 → Traps (.cptOut o) s 4 (s.g o.a) (256 + 6)) ∧
    (s.canRelease 0x2_0000_0000 = true → TileAt s vb skew → va % 64 = 0 → va + 2048 ≤ NW → OwnAccess s vb 2048 off true false →
      ¬TransferBad tw false → s.spread { wr := true } [(va, 2048)] = .ok ps → s.quiet [(ownAt s off, 2048)] = .ok () →
      Leads (exec (.cptOut o) s) (fun t => CopiesOut s t o.l tw
        (fun n => seesLocal s s.now.h (tileByte off skew (n / 128) (n % 128 / 8) (n % 8))) (granuleOf ps)))) ∧
  ∀ (o : CpmOps) s,
    let a := s.g o.a
    let m := s.g o.d
    let tw := s.g (cReg o.c)
    let me := s.now.h
    let peers := (List.range 16).filter (fun p => m.getLsbD p)
    (a.toNat % 128 ≠ 0 → Traps (.cpm o) s 4 a (256 + 7)) ∧
    (a.toNat % 128 = 0 → a.toNat % 2 ^ 17 + 2048 ≤ 2 ^ 17 → (∀ p ∈ peers, p = peerNo me ∨ s.liveFor s.me (peerHandle me p) = true) →
      (bits m 63 16 ≠ 0 ∨ m = 0 ∨ bits a 63 17 ≠ 0 ∨ TransferBad tw true → Traps (.cpm o) s 1 0 11) ∧
      (bits m 63 16 = 0 → m ≠ 0 → bits a 63 17 = 0 → ¬TransferBad tw true → s.canRelease 0x2_0000_0000 = true →
        ∃ ss, SectorsOf ss (tileRegByte s o.b) (tileGranule me a.toNat false) ∧
          Leads (exec (.cpm o) s) (fun t => CopyIssued s t o.l tw false false peers.length (peers.zipIdx.map (fun p =>
            ⟨s.serial + 1 + p.2, s.serial, s.me.launch.getD 0, some (peerHandle me p.1), a.toNat, false, tw.getLsbD 14, 16 * bits tw 12 0, ss⟩)))))) ∧
  ((∀ i s p d q l h0, s.dels = p ++ d :: q → d.id = i → (∀ x ∈ p ++ q, x.id ≠ i) → d.checked = false → d.h = some h0 →
    s.launchOf d.launch = some l →
    let h := l.handle h0
    let u := stepped s h
    let rs := [(d.off, 2048)]
    let skewBad := ∃ b, (u.core h).skewBuf d.off = some b ∧ (d.off - b.first) % 2048 ≠ 0
    (skewBad ∨ ¬MayLand (u.core h) rs → Leads (exec (.evCopyDeliveryCheck i) s) (fun t =>
      t = { u with dels := p ++ q, ops := t.ops } ∧ OpEnds s t d.op true)) ∧
    (∀ byte dst, ¬skewBad → MayLand (u.core h) rs → SectorsOf d.todo byte dst → Leads (exec (.evCopyDeliveryCheck i) s) (fun t =>
      t = { u with cores := t.cores, dels := t.dels } ∧ Filling (u.core h) (t.core h) rs ∧ (∀ g, g ≠ h → t.core g = u.core g) ∧
      ∃ ss, t.dels = p ++ { d with checked := true, todo := ss } :: q ∧
        SectorsOf ss byte (tileGranule h d.off ((u.core h).skewBuf d.off).isSome)))) ∧
  (∀ i n s p d q y x, s.dels = p ++ d :: q → d.id = i → (∀ x ∈ p ++ q, x.id ≠ i) → d.checked = true → d.todo[n / 4]? = some y →
    y[n % 4]? = some x →
    let bs := x.src.elim x.bytes (fun z => s.pocBytes z.1.space z.1.at_ z.2)
    let left := y.take (n % 4) ++ y.drop (n % 4 + 1)
    let rest := d.todo.take (n / 4) ++ (if left = [] then [] else [left]) ++ d.todo.drop (n / 4 + 1)
    let moves (u t : State) : Prop := t = { u with dels := t.dels, ops := t.ops } ∧
      (rest = [] → t.dels = p ++ q ∧ OpEnds s t d.op false) ∧ (rest ≠ [] → t.dels = p ++ { d with todo := rest } :: q ∧ t.ops = s.ops)
    let dev := match s.ops.find? (fun y => y.id == d.op) with | some o => s.devOf (hdie o.h) | none => 0
    let bad := ∃ z, x.src = some z ∧ s.dataError dev z.1 z.2 false ≠ none
    (bad → ∀ rd, Leads (exec (.evDeliverySectorCredit i n rd) s) (fun t => t = { s with dels := p ++ q, ops := t.ops } ∧ OpEnds s t d.op true)) ∧
    (¬bad →
    Leads (exec (.evDeliverySectorCredit i n true) s) (fun t => t = { s with
      dels := p ++ { d with todo := d.todo.set (n / 4) (y.set (n % 4) ⟨none, bs, x.dst⟩) } :: q }) ∧
    (∀ l h0, d.h = some h0 → s.launchOf d.launch = some l → (∃ g, x.dst.space = .local_ g) →
      let h := l.handle h0
      Leads (exec (.evDeliverySectorCredit i n false) s) (fun t => ∃ u v, u = { s with mem := u.mem, poison := u.poison } ∧
        StoredAt s u ⟨.local_ h, localKey h (x.dst.at_ % 2 ^ 17)⟩ bs ∧ moves v t ∧ (d.bv = false ∨ left ≠ [] → v = u) ∧
        (d.bv = true → left = [] → BarrierStep u v h ⟨d.xb, false, 1⟩))) ∧
    (∀ o, d.h = none → s.ops.find? (fun y => y.id == d.op) = some o → (∃ m, x.dst.space = .device m) ∨ (∃ m, x.dst.space = .near m) →
      Leads (exec (.evDeliverySectorCredit i n false) s) (fun t => ∃ u, MemoryOnly s u ∧ StoredAt s u x.dst bs ∧ moves u t)))) ∧
  ∀ i s p o q l, s.ops = p ++ o :: q → o.id = i → (∀ x ∈ p ++ q, x.id ≠ i) → o.left = 0 → s.launchOf o.launch = some l →
    let h := l.handle o.h
    Leads (exec (.evCopyOperationEnd i) s) (fun t =>
      t = { s with ops := p ++ q, msgs := t.msgs, ctxs := t.ctxs } ∧ (∀ h' k', ctxKey h' k' ≠ ctxKey h o.k → t.ctx h' k' = s.ctx h' k') ∧
      Retired (s.ctx h o.k) (t.ctx h o.k) i ∧ (o.nt = false → t.msgs = s.msgs) ∧
      (o.nt = true → t.msgs = s.msgs ++ [⟨o.launch, o.h, none,
        BitVec.ofNat 64 ((if o.refused = true then 5 * 2 ^ 56 else 0) + o.k * 2 ^ 16 + o.tag), o.global⟩])))

/-- R119, R124, R147, R308 .. R310: `batch`, `waitb`, `inbox` and `inboxq`, the events that let them go on, and a held message that finds
room in its core's completion queue. The model's readings in it: log entry 48. -/
def Obligations.BatchesAndMessages : Prop :=
  (∀ (o : L0) s,
    let c := s.cur
    let closes (c c' : Ctx) : Prop := c' = { c with
      openB := ⟨[], false⟩, closed := (c.closed ++ [c.openB]).filter (fun b => !b.ops.isEmpty)
      retGlob := c.retGlob || (c.closed ++ [c.openB]).any (fun b => b.ops.isEmpty && b.global) }
    (c.closed.length < 8 → ∃ u, OnlyCur s u ∧ closes c u.cur ∧ Leads (exec (.batch o) s) (fun t => Ended u t o.l [])) ∧
    (8 ≤ c.closed.length → Leads (exec (.batch o) s) (fun t => OnlyCur s t ∧
      t.cur = { c with state := .waiting .batch, wlen := s.len, wuses := s.now.uses })) ∧
    ∀ h k, h < 65536 → (s.ctx h k).state = .waiting .batch → (s.ctx h k).closed.length < 8 →
      Leads (exec (.evBatchSlotFree h k) s) (fun t => OnlyCtx s t h k ∧
        ∃ c', closes (s.ctx h k) c' ∧ t.ctx h k = { c' with state := .ready, pc := c'.pc + c'.wlen })) ∧
  (∀ (o : WaitbOps) s,
    let n := o.n.toNat
    let seen (l1 : SMap (BitVec 512)) (glob : Bool) : SMap (BitVec 512) := if glob = true then [] else l1
    (8 < n → Traps (.waitb o) s 1 0 11) ∧
    (n ≤ 8 → s.cur.closed.length ≤ n → ∃ u, OnlyCtxCore s u s.now.h s.now.k ∧ u.cur = { s.cur with retGlob := false } ∧
      u.me = { s.me with l1 := seen s.me.l1 s.cur.retGlob } ∧ Leads (exec (.waitb o) s) (fun t => Ended u t o.l [])) ∧
    (n ≤ 8 → n < s.cur.closed.length → Leads (exec (.waitb o) s) (fun t => OnlyCur s t ∧
      t.cur = { s.cur with state := .waiting (.waitb n), wlen := s.len, wuses := s.now.uses })) ∧
    ∀ h k m, h < 65536 → (s.ctx h k).state = .waiting (.waitb m) → (s.ctx h k).closed.length ≤ m →
      Leads (exec (.evWaitbSatisfied h k) s) (fun t => OnlyCtxCore s t h k ∧
        t.ctx h k = { s.ctx h k with retGlob := false, state := .ready, pc := (s.ctx h k).pc + (s.ctx h k).wlen } ∧
        t.core h = { s.core h with l1 := seen (s.core h).l1 (s.ctx h k).retGlob })) ∧
  (∀ (o : LD) s,
    let takes (c c' : Core) (g : Bool) (q : List (Word × Bool)) : Prop := c' = { c with compq := q, l1 := if g = true then [] else c.l1 }
    let waits (h k : Nat) : Prop := ∃ d n, (s.ctx h k).state = .waiting (.inbox d n)
    Ends (.inboxq o) s o.l [.g o.d (BitVec.ofNat 64 s.me.compq.length)] ∧
    (∀ w g q, s.me.compq = (w, g) :: q → (∀ k ≤ 10, ¬waits s.now.h k) → ∃ u, OnlyCoreOf s u s.now.h ∧ takes s.me u.me g q ∧
      Leads (exec (.inbox o) s) (fun t => Ended u t o.l [.g o.d w])) ∧
    (s.me.compq = [] ∨ (∃ k ≤ 10, waits s.now.h k) → Leads (exec (.inbox o) s) (fun t => OnlyCur s t ∧
      t.cur = { s.cur with state := .waiting (.inbox o.d s.me.issues), wlen := s.len, wuses := s.now.uses })) ∧
    ∀ h k d n w g q, h < 65536 → k ≤ 10 → (s.ctx h k).state = .waiting (.inbox d n) → (s.core h).compq = (w, g) :: q →
      (∀ k' ≤ 10, ∀ d' n', (s.ctx h k').state = .waiting (.inbox d' n') → n < n' ∨ n = n' ∧ k ≤ k') →
      Leads (exec (.evInboxMessageTaken h) s) (fun t => OnlyCtxCore s t h k ∧ takes (s.core h) (t.core h) g q ∧
        t.ctx h k = { (s.ctx h k).writes [.g d w] with state := .ready, pc := (s.ctx h k).pc + (s.ctx h k).wlen })) ∧
  ∀ i s p m q l, s.msgs = p ++ m :: q → p.length = i → (∀ x ∈ p, ¬(x.launch = m.launch ∧ x.h = m.h ∧ x.src = m.src)) →
    s.launchOf m.launch = some l →
    let h := l.handle m.h
    (s.core h).compq.length < 64 → Leads (exec (.evCompletionMessageDeliver i) s) (fun t =>
      t = { s with msgs := p ++ q, cores := t.cores } ∧ (∀ g, g ≠ h → t.core g = s.core g) ∧
      t.core h = { s.core h with compq := (s.core h).compq ++ [(m.w, m.global)] })

/-! ## Shapes, copy queues and engines -/

/-- R112, R114, R302, R303, R307: `shape` checks a descriptor and writes its record; `qput` claims a slot, writes the packet when there is
room, acquiring the queue's `read`, and waits when the queue is full; with its claim it goes on with the operands it had. The claim is an
`amo.add` and traps RAP where one does. The model's readings in it: log entries 30 and 31. -/
def Obligations.ShapesAndAppends : Prop :=
  (∀ (o : LAB) s off sh rest,
    let va := (s.g o.a).toNat
    let vb := (s.g o.b).toNat
    let n := leNat (s.look (ownAt s off) 1)
    let len := if 1 ≤ n ∧ n ≤ 8 then 8 + 24 * n else 8
    (vb % 8 ≠ 0 → Traps (.shape o) s 4 (s.g o.b) 3) ∧
    (vb % 8 = 0 → va % 64 ≠ 0 → Traps (.shape o) s 4 (s.g o.a) (256 + 6)) ∧
    (vb % 8 = 0 → va % 64 = 0 → OwnAccess s vb 8 off true false → OwnAccess s vb len off true false →
      s.canRead (ownAt s off) 8 = true → s.canRead (ownAt s off) len = true → (va < NW → va + 192 ≤ NW) →
      (NW ≤ va → ∃ y, s.nearLoc va 192 = .ok (s.now.h, y)) → DescIs (s.look (ownAt s off) len) sh rest →
      (∀ k d, LowestRule sh rest k d → Traps (.shape o) s 12 (s.g o.b) (BitVec.ofNat 64 (d * 16 + k))) ∧
      (∀ parts, (∀ k d, ¬ShapeRule sh rest k d) → s.spread { wr := true } [(va, 192)] = .ok parts → s.now.defer = false →
        (∀ p ∈ parts.flatMap granules, s.canWrite p.1 p.2 0#2 0#64 = true) → (∀ p ∈ parts.flatMap granules, ¬Refused s p.1) →
        ∃ u img, img.length = 192 ∧ RecordIs img sh (fun _ => False) ∧ MemoryOnly s u ∧
          Wrote s u ((List.range 192).map (fun i => (va + i, img.getD i 0))) ∧ Leads (exec (.shape o) s) (fun t => Ended u t o.l [])))) ∧
  (∀ (o : L3) s off hdr,
    let va := (s.g o.a).toNat
    let vb := (s.g o.b).toNat
    let img := s.look (ownAt s off) 64
    let lgn := s.lookNat ⟨hdr.space, hdr.at_ + 24⟩ 1
    let kept := (s.cur.claims.find? (fun p => p.1 == s.cur.pc.toNat)).map Prod.snd
    (∀ q loc, kept = some q → SlotReady s q hdr loc → Leads (exec (.qput o) s) (fun t => SlotFilled s t o.l q loc)) ∧
    (∀ q x, kept = some q → RingRead s q.va hdr x → 2 ^ q.lgn ≤ (q.i + 2 ^ 64 - x) % 2 ^ 64 → Leads (exec (.qput o) s) (fun t => OnlyCur s t ∧
      t.cur = { s.cur with state := .waiting (.qput o.l q), wlen := s.len, wuses := s.now.uses })) ∧
    (kept = none →
      (va % 64 ≠ 0 → Traps (.qput o) s 4 (s.g o.a) (512 + 6)) ∧
      (va % 64 = 0 → vb % 64 ≠ 0 → Traps (.qput o) s 4 (s.g o.b) 6) ∧
      (va % 64 = 0 → vb % 64 = 0 → NW ≤ va → Traps (.qput o) s 17 (s.g o.a) 0) ∧
      (va % 64 = 0 → vb % 64 = 0 → va < NW → OwnAccess s vb 64 off true false → s.canRead (ownAt s off) 64 = true →
        s.global va { rd := true, wr := true } = .ok hdr →
        (numAt img 56 8 % 2 ^ 40 ≠ 0 → Traps (.qput o) s 1 (s.g o.b) 11) ∧
        (numAt img 56 8 % 2 ^ 40 = 0 → s.checkData va hdr 64 true = .ok () → s.canRead hdr 32 = true →
          (lgn < 6 ∨ 16 < lgn → Traps (.qput o) s 1 (s.g o.a) 11) ∧
          (6 ≤ lgn → lgn ≤ 16 → ∀ e lvl, s.translate s.now.h va = .leaf e lvl → pteAp e = 3 → pteRap e = false →
            Traps (.qput o) s 7 (s.g o.a) (BitVec.ofNat 64 (e.toNat % 65536 * 65536 + 1 * 4096 + lvl * 256 + 3))) ∧
          (6 ≤ lgn → lgn ≤ 16 → s.global va { rd := true, wr := true, atomic := true } = .ok hdr →
            s.canWrite hdr 8 0#2 0x3_0000_0000 = true → ∃ u q, Claimed s u o.d hdr q ∧
            q = { q with va := va, lgn := lgn, slots := s.lookNat ⟨hdr.space, hdr.at_ + 16⟩ 8, img := img, op := s.serial } ∧
            ∀ loc, SlotReady u q hdr loc → Leads (exec (.qput o) s) (fun t => SlotFilled u t o.l q loc)))))) ∧
  ∀ c k s l q hdr loc, c < 65536 → (s.ctx c k).state = .waiting (.qput l q) →
    let r : State := { s with now := { h := c, k := k, defer := false, words := List.replicate ((s.ctx c k).wlen.toNat / 2) 0#16, uses := (s.ctx c k).wuses } }
    SlotReady r q hdr loc → Leads (exec (.evQputRingRoom c k) s) (fun t => SlotFilled r t l q loc)

/-- R20, R59, R60, R112 .. R118, R122, R139, R375, R425, R430, R434: an engine takes the packet of the next of its entries in turn that
has one, with the old shape record or the new one where both may be used; a piece begins, or ends the packet with a status; its granules
are read and written one by one, or dropped where they cannot be moved any more, and written whole they move the elements from source to
destination; a local destination is checked once, when its first byte arrives; written sectors are credited; the packet's end is reported.
The model's readings in it: log entries 29, 30, 31, 56 and 59. -/
def Obligations.CopyEngines : Prop :=
  (∀ n e s dev dc hdr r slot i0 new, n < 128 → i0 < 16 → e = (SMap.get s.served 0 n + i0) % 16 → HasPacket s n e dev dc hdr r slot →
    (∀ i < i0, ∀ dev' dc' hdr' r' slot', ¬HasPacket s n ((SMap.get s.served 0 n + i) % 16) dev' dc' hdr' r' slot') →
    let named (o : CopyOp) : Prop := ClaimOf o dev dc (s.ctlReg (bindAt n e)).toNat hdr r
    let w (i : Nat) : Word := BitVec.ofNat 64 (leNat (s.pocBytes slot.space (slot.at_ + 8 * i) 8))
    Leads (exec (.evEngineSlotFetch n (if new = true then 16 + e else e)) s) (fun t => ∃ u j,
      u = { s with mem := u.mem, poison := u.poison, devLines := u.devLines, serial := s.serial + 1 } ∧
      StoredAt s u ⟨hdr.space, hdr.at_ + 8⟩ (leBytes 8 (r + 1)) ∧
      t = { u with jobs := s.jobs ++ [j], scache := t.scache, served := SMap.put s.served n (e + 1) } ∧
      j = { j with id := s.serial, engine := n, entry := e, dev := dev, dctx := dc, hdr := hdr, claim := r, open_ := [], checked := false, credit := 0
                   halt := false, qva := (s.ctlReg (bindAt n e)).toNat } ∧
      (∀ p o q, s.ops = p ++ o :: q → named o → (∀ x ∈ p, ¬named x) → j.op = some o.id) ∧ ((∀ x ∈ s.ops, ¬named x) → j.op = none) ∧
      (s.dataError dev slot 64 false = none → j.words = (List.range 8).map w ∧ Admitted u j new) ∧
      (s.dataError dev slot 64 false ≠ none → j.status = some (6, bits (w 7) 63 40)))) ∧
  (∀ i first s p j q, s.jobs = p ++ j :: q → j.id = i → i < 2 ^ 64 → (∀ x ∈ p ++ q, x.id ≠ i) → j.status = none → j.open_ = [] → j.halt = false →
    bits (pw j 0) 7 0 = 1 ∨ bits (pw j 0) 7 0 = 2 → GoodShape j.shape → (∀ o ∈ s.ops, ∀ o' ∈ s.ops, o.id = o'.id → o = o') →
    let n := 2 ^ j.shape.esz
    let per := 4096 / n
    let fill := bits (pw j 0) 7 0 = 2
    ((∃ e, InPiece j e ∧ SourceBarred s j e) → Leads (exec (.evEnginePiece i first) s) (fun t => ∃ u0, Retained s u0 ∧
      t = { u0 with jobs := p ++ { j with status := some (5, j.piece) } :: q })) ∧
    (∀ e st, InPiece j e → (∀ e, InPiece j e → ¬SourceBarred s j e) → ElementFails s j e st →
      (∀ e', InPiece j e' → e' < e → (fill ∨ ∃ l, SrcAt s j e' l) ∧ ∃ l, DstAt s j e' l) →
      Leads (exec (.evEnginePiece i first) s) (fun t => ∃ u0 gs, Retained s u0 ∧
        t = { u0 with jobs := p ++ { j with status := some (st, j.piece), open_ := gs } :: q } ∧
        ∀ g ∈ gs, ∀ x ∈ g, ∃ e' l, InPiece j e' ∧ DstAt s j e' l ∧ x.dst.space = l.space ∧ l.at_ ≤ x.dst.at_ ∧ x.dst.at_ < l.at_ + n)) ∧
    (∀ (src dst : Nat → Loc), (∀ e, InPiece j e → ¬SourceBarred s j e ∧ (fill ∨ SrcAt s j e (src e)) ∧ DstAt s j e (dst e)) →
      (∀ e e', InPiece j e → InPiece j e' → (e ≠ e' → Apart n (dst e) (dst e')) ∧ (fill ∨ Apart n (src e) (dst e'))) →
      let byte (e b : Nat) : Byte := if fill then (leBytes n (pw j 1).toNat).getD b 0 else s.pocByte (src e).space ((src e).at_ + b)
      ∃ gs, gs ≠ [] ∧
        Leads (exec (.evEnginePiece i first) s) (fun t => ∃ u0, Retained s u0 ∧ t = { u0 with jobs := p ++ { j with open_ := gs } :: q }) ∧
        ∀ u0 cs checked, Retained s u0 → (pdl j = true → checked = true) →
          let u : State := { u0 with cores := cs, jobs := p ++ { j with open_ := gs, checked := checked } :: q }
          Leads (exec (.evEnginePiece i []) u) (fun t =>
            t = { u with
              mem := t.mem, poison := t.poison, devLines := t.devLines
              jobs := (p ++ { j with
                checked := checked, piece := j.piece + 1, status := if elemCount j.shape ≤ (j.piece + 1) * per then some (0, 0) else none
                credit := if (pw j 0).getLsbD 34 = true then j.credit + Nat.min per (elemCount j.shape - j.piece * per) * n else j.credit } :: q).filter
                  (fun x => !(x.halt && x.open_.isEmpty)) } ∧
            (∀ e, InPiece j e → ∀ b < n, t.pocByte (dst e).space ((dst e).at_ + b) = byte e b) ∧
            ∀ sp a, (∀ e, InPiece j e → a < (dst e).at_ ∨ (dst e).at_ + n ≤ a) → t.pocByte sp a = s.pocByte sp a))) ∧
  (∀ i m s p j q a x b, s.jobs = p ++ j :: q → j.id = i → i < 2 ^ 64 → (∀ x ∈ p ++ q, x.id ≠ i) → j.open_ = a ++ [x] :: b → a.length = m →
    let bs := x.src.elim x.bytes (fun z => s.pocBytes z.1.space z.1.at_ z.2)
    let kept (js : List Job) : List Job := js.filter (fun y => !(y.halt && y.open_.isEmpty))
    let gone (wr : Bool) : Prop := (psl j = true ∧ x.src ≠ none ∧ s.standsAt j.dev j.dctx (bits (pw j 1) 63 48) = none) ∨
      pdl j = true ∧ wr = true ∧ s.standsAt j.dev j.dctx (bits (pw j 2) 63 48) = none
    let bad (wr : Bool) : Prop := (∃ z, x.src = some z ∧ s.dataError j.dev z.1 z.2 false ≠ none) ∨
      pdl j = false ∧ wr = true ∧ Unwritable s j.dev x.dst 1
    (∀ (wr : Bool) st, (gone wr ∧ st = 1 ∨ ¬gone wr ∧ bad wr ∧ st = 6) →
      Leads (exec (.evEnginePiece i [2 * m + if wr = true then 1 else 0]) s) (fun t =>
        t = { s with jobs := kept (p ++ { j with open_ := a ++ b, status := some (j.status.getD (st, j.piece)) } :: q) })) ∧
    (¬gone false → ¬bad false → Leads (exec (.evEnginePiece i [2 * m]) s) (fun t => t = { s with jobs := kept (p ++ { j with open_ := a ++ [⟨none, bs, x.dst⟩] :: b } :: q) })) ∧
    (¬gone true → ¬bad true → (∃ d, x.dst.space = .device d) ∨ (∃ d, x.dst.space = .near d) → pdl j = false →
      Leads (exec (.evEnginePiece i [2 * m + 1]) s) (fun t => StoredAt s t x.dst bs ∧ ∃ j',
        j' = { j with open_ := a ++ b, credit := j'.credit, piece := j'.piece, status := j'.status } ∧
        t = { s with mem := t.mem, poison := t.poison, devLines := t.devLines, jobs := kept (p ++ j' :: q) } ∧
        (a ++ b ≠ [] → j'.piece = j.piece ∧ j'.status = j.status)))) ∧
  (∀ i n rd s p j q, s.jobs = p ++ j :: q → j.id = i → (∀ x ∈ p ++ q, x.id ≠ i) → (∀ d ∈ s.dels, d.id ≠ i) → pdl j = true →
    let stands := s.standsAt j.dev j.dctx (bits (pw j 2) 63 48)
    let xb := 16 * bits (pw j 0) 47 35
    let m := Nat.min (n + 1) (j.credit / 32)
    (j.open_ ≠ [] → j.checked = false →
      (stands = none → Leads (exec (.evCopyDeliveryCheck i) s) (fun t =>
        t = { s with jobs := p ++ { j with status := some (j.status.getD (1, j.piece)), open_ := [] } :: q })) ∧ ∀ h, stands = some h →
      let v := stepped s h
      (MayLand (v.core h) j.destRanges → Leads (exec (.evCopyDeliveryCheck i) s) (fun t =>
        t = { v with cores := t.cores, jobs := p ++ { j with checked := true } :: q } ∧ (∀ g, g ≠ h → t.core g = v.core g) ∧
        Filling (v.core h) (t.core h) j.destRanges)) ∧
      (¬MayLand (v.core h) j.destRanges → Leads (exec (.evCopyDeliveryCheck i) s) (fun t =>
        t = { v with jobs := p ++ { j with status := some (5, 0), open_ := [] } :: q }))) ∧
    (32 ≤ j.credit → Leads (exec (.evDeliverySectorCredit i n rd) s) (fun t => ∃ u,
      (stands = none → u = s) ∧ (∀ h, stands = some h → BarrierStep s u h ⟨xb, false, m⟩) ∧
      t = { u with jobs := p ++ { j with credit := j.credit - 32 * m } :: q }))) ∧
  ∀ i s p j q st piece, s.jobs = p ++ j :: q → j.id = i → (∀ x ∈ p ++ q, x.id ≠ i) → j.status = some (st, piece) → j.credit < 32 →
    (∀ x ∈ p ++ q, x.hdr = j.hdr ∨ x.dev = j.dev ∧ x.dctx = j.dctx ∧ x.qva = j.qva → i < x.id) →
    (bits (pw j 0) 7 0 = 3 → ∀ d ∈ unsettled s j.engine (bits (pw j 0) 27 20), d.1 ≠ i) →
    let w4 := (pw j 4).toNat / 16 * 16
    let writes (u v : State) (va : Nat) (x : Nat) : Prop :=
      v = { u with mem := v.mem, poison := v.poison, devLines := v.devLines } ∧
      (∀ l, u.unitWalk j.dev j.dctx va { wr := true } = .ok l →
        (¬Unwritable u j.dev l 8 → StoredAt u v l (leBytes 8 x)) ∧ (Unwritable u j.dev l 8 → v = u)) ∧
      ∀ e, u.unitWalk j.dev j.dctx va { wr := true } = .error e → v = u
    Leads (exec (.evPacketCompletion i) s) (fun t => ∃ u v,
      (pw j 4 = 0 → v = s) ∧ (pw j 4 ≠ 0 → writes s u (w4 + 8) (st * 2 ^ 56 + piece % 2 ^ 24) ∧ writes u v w4 (pw j 5).toNat) ∧
      t = { v with jobs := p ++ q, ops := t.ops, msgs := t.msgs } ∧
      (j.op = none → t.ops = s.ops ∧ t.msgs = s.msgs) ∧
      ∀ a o b, j.op = some o.id → s.ops = a ++ o :: b → (∀ x ∈ a ++ b, x.id ≠ o.id) →
        t.ops = a ++ { o with left := 0 } :: b ∧
        t.msgs = s.msgs ++ if (pw j 0).getLsbD 19 = true then [⟨o.launch, o.h, some j.hdr.at_,
          BitVec.ofNat 64 (st * 2 ^ 56 + piece % 2 ^ 24 * 2 ^ 32 + o.k * 2 ^ 16 + bits (pw j 5) 15 0), !pdl j⟩] else [])

/-! ## Supervisor instructions, walks and the fault buffer -/

/-- R192, R314 .. R317, R344, R349: `sret`, `replay`, `tlbinv` and `icinv` trap in user mode and have their effects in supervisor mode.
The model's readings in it: log entry 42. -/
def Obligations.SupervisorInstructions : Prop :=
  (∀ (o p : LA) (q r : LAB) s w, s.cur.supervisor = false → s.now.words.getLast? = some w →
    let info : Word := BitVec.ofNat 64 w.toNat
    Traps (.sret o) s 3 0 info ∧ Traps (.replay p) s 3 0 info ∧ Traps (.tlbinv q) s 3 0 info ∧ Traps (.icinv r) s 3 0 info) ∧
  (∀ (o : LA) s, s.cur.supervisor = true →
    let waits (i : Instr) : Prop := Leads (exec i s) (fun t => OnlyCur s t ∧
      t.cur = { s.cur with state := .waiting .retry, wlen := s.len, wuses := s.now.uses })
    let d := (s.g o.a).toNat
    (s.cur.out ≠ [] → waits (.sret o)) ∧
    (s.cur.out = [] → (s.g o.a).getLsbD 0 = true → Traps (.sret o) s 4 (s.g o.a) (768 + 1)) ∧
    (s.cur.out = [] → (s.g o.a).getLsbD 0 = false → Leads (exec (.sret o) s) (fun t =>
      OnlyCur s t ∧ t.cur = { s.cur with tstat := t.cur.tstat, pc := s.g o.a } ∧
        t.cur.tstat.getLsbD 0 = s.cur.tstat.getLsbD 1 ∧ t.cur.tstat.getLsbD 1 = false ∧
        ∀ j, 2 ≤ j → t.cur.tstat.getLsbD j = s.cur.tstat.getLsbD j)) ∧
    (64 ≤ d ∨ s.devOf d ≠ s.myDev ∨ s.dieLive d = false → Traps (.replay o) s 1 0 11) ∧
    (d < 64 → s.devOf d = s.myDev → s.dieLive d = true →
      (s.canRelease 0x3_0000_0000 = false → waits (.replay o)) ∧
      (s.canRelease 0x3_0000_0000 = true → s.cur.state = .ready →
        ∃ u, Replayed s u d ∧ Leads (exec (.replay o) s) (fun t => Ended u t o.l [])))) ∧
  ∀ (o : LAB) s, s.cur.supervisor = true →
    let a := s.g o.a
    let b := s.g o.b
    let va : Option Nat := if b = 0 then some (a.toNat % 2 ^ 52) else none
    let dc := s.dctxOf s.now.h
    (b ≠ 0 ∧ ¬(b = 1 ∧ a = 0) → Traps (.tlbinv o) s 1 0 11) ∧
    (b = 0 ∨ b = 1 ∧ a = 0 →
      (s.framesQuiet s.myDev (s.droppedFrames s.myDev dc va) = true →
        ∃ u, TlbDropped s u s.myDev dc va ∧ Leads (exec (.tlbinv o) s) (fun t => Ended u t o.l [])) ∧
      (s.framesQuiet s.myDev (s.droppedFrames s.myDev dc va) = false → Leads (exec (.tlbinv o) s) (fun t => OnlyCur s t ∧
        t.cur = { s.cur with state := .waiting .retry, wlen := s.len, wuses := s.now.uses }))) ∧
    (b = 0 → Ends (.icinv o) s o.l []) ∧
    (b ≠ 0 → NW < a.toNat + b.toNat → Traps (.icinv o) s 17 a 0) ∧
    (2 ^ 26 < b.toNat → a.toNat + b.toNat ≤ NW → Traps (.icinv o) s 1 0 11) ∧
    (b ≠ 0 → b.toNat ≤ 2 ^ 26 → a.toNat + b.toNat ≤ NW → s.canRelease 0x3_0000_0000 = true → ∃ u,
      u = { s with cores := u.cores } ∧ Leads (exec (.icinv o) s) (fun t => Ended u t o.l []) ∧
      ∀ h, (s.devOf (hdie h) ≠ s.myDev → u.core h = s.core h) ∧
        (s.devOf (hdie h) = s.myDev → u.core h = { s.core h with icache := (u.core h).icache } ∧
          ∀ q x, (q, x) ∈ (u.core h).icache ↔ (q, x) ∈ (s.core h).icache ∧ ¬RangeLine s a.toNat b.toNat (q / 32) ∧
            ¬(x.2 / 2 ^ 52 = dc ∧ a.toNat / 64 ≤ x.2 % 2 ^ 52 / 64 ∧ x.2 % 2 ^ 52 / 64 ≤ (a.toNat + b.toNat - 1) / 64)))

/-- R341, R343 .. R350: a walk ends with an entry, a parked context and a fault message, a trap, or no memory; a message takes its slot in
the die's fault buffer, with the doorbell; `fbclr`, replay and `tlbinv` by control-space writes. The model's readings in it: log entries
18 and 42. -/
def Obligations.WalksAndFaults : Prop :=
  (∀ c k s va acc, (s.ctx c k).state = .waiting (.walk va acc) → (s.ctx c k).trap = none →
    let x := s.ctx c k
    let w : Word := BitVec.ofNat 64 va
    (∀ e lvl, s.translate c va = .leaf e lvl → Leads (exec (.evPageWalk c k) s) (fun t => t = { s with ctxs := t.ctxs, dies := t.dies } ∧
      (∀ h j, ctxKey h j ≠ ctxKey c k → t.ctx h j = s.ctx h j) ∧ t.ctx c k = { x with state := .ready } ∧
      (∃ y ∈ (t.die (hdie c)).tlb, y.covers (s.dctxOf c) va = true) ∧
      ((∀ y ∈ (s.die (hdie c)).tlb, y.covers (s.dctxOf c) va = false) → ∃ y, (t.die (hdie c)).tlb.head? = some y ∧ y.pte = e ∧ y.level = lvl))) ∧
    (∀ lvl, s.translate c va = .miss lvl → Leads (exec (.evPageWalk c k) s) (fun t =>
      t = { s with now := t.now, ctxs := t.ctxs, dies := t.dies } ∧ (∀ h j, ctxKey h j ≠ ctxKey c k → t.ctx h j = s.ctx h j) ∧
      t.ctx c k = { x with
        state := .parked, cause := 5#64, fpc := x.pc, faddr := w, finfo := BitVec.ofNat 64 (lvl * 256 + acc)
        out := x.out.map (fun o => { o with left := 0 }) } ∧
      t.die (hdie c) = { s.die (hdie c) with faultIn := (s.die (hdie c)).faultIn ++ [⟨false, s.dctxOf c, va / 65536, acc, hx c, hy c, k⟩] })) ∧
    (∀ lvl e, s.translate c va = .fatal lvl e → Leads (exec (.evPageWalk c k) s) (fun t =>
      TrappedIn s t c k s.serial 5 w (BitVec.ofNat 64 (e.toNat % 65536 * 65536 + 4096 + lvl * 256 + acc)))) ∧
    (∀ pa, s.translate c va = .mchk pa →
      Leads (exec (.evPageWalk c k) s) (fun t => TrappedIn s t c k s.serial 13 (BitVec.ofNat 64 pa) 6)) ∧
    ∀ pa, s.translate c va = .hole pa → exec (.evPageWalk c k) s = .fault (.noSuchPhysical pa)) ∧
  (∀ d s m rest, (s.die d).faultIn = m :: rest →
    let e := s.die d
    let same (i : Nat) : Prop := i < 8 ∧ (slotOf e i).valid = true ∧ (slotOf e i).dctx = m.dctx ∧ (slotOf e i).vpn = m.vpn ∧ (slotOf e i).notice = m.notice
    let takes (t : State) (e' : Die) : Prop := t = { s with dies := t.dies } ∧ t.die d = { e' with faultIn := rest } ∧ ∀ g, g ≠ d → t.die g = s.die g
    let slot (e' : Die) (i : Nat) (x : FSlot) : Prop := e' = { e with slots := e'.slots } ∧ ∀ j, slotOf e' j = if j = i then x else slotOf e j
    let rung (t : State) (p : State → Prop) : Prop := ∃ u, p u ∧
      (e.fbsvc.getLsbD 63 = false → t = { u with outputs := s.outputs ++ [.msix d] }) ∧
      (e.fbsvc.getLsbD 63 = true →
        let h := handleOf (bits e.fbsvc 39 32) (bits e.fbsvc 47 40)
        (∀ x ∈ (s.core h).tagWait, x.off ≠ 8 * bits e.fbsvc 16 3) → TagStep u t h (8 * bits e.fbsvc 16 3) (.stf (u.die d).fbstat))
    (∀ i, same i → (∀ j, same j → i ≤ j) → Leads (exec (.evFaultRecord d) s) (fun t => ∃ e', takes t e' ∧
      slot e' i { slotOf e i with count := Nat.min 255 ((slotOf e i).count + 1), access := (slotOf e i).access ||| m.access })) ∧
    (∀ i, (∀ j, ¬same j) → i < 8 → (slotOf e i).valid = false → (∀ j < i, (slotOf e j).valid = true) →
      Leads (exec (.evFaultRecord d) s) (fun t => rung t (fun u => ∃ e', takes u e' ∧
        slot e' i ⟨true, false, m.notice, m.dctx, m.vpn, 1, m.access, m.x, m.y, m.k⟩))) ∧
    ((∀ j, ¬same j) → (∀ j < 8, (slotOf e j).valid = true) →
      let e' : Die := if m.notice = true then { e with ndrop := true } else { e with dropped := true }
      (e' = e → Leads (exec (.evFaultRecord d) s) (fun t => takes t e')) ∧
      (e' ≠ e → Leads (exec (.evFaultRecord d) s) (fun t => rung t (fun u => takes u e'))))) ∧
  (∀ link d w s, OwnerWrites (.evFbclrWrite link d w) s link (dieBlock d + 0xA0)
    (d < 64 ∧ bits w 63 18 = 0 ∧ ∀ j < 8, ¬(w.getLsbD j = true ∧ w.getLsbD (8 + j) = true))
    (fun t => t = { s with dies := t.dies } ∧ (∀ g, g ≠ d → t.die g = s.die g) ∧
      t.die d = { s.die d with slots := (t.die d).slots, dropped := (s.die d).dropped && !w.getLsbD 16, ndrop := (s.die d).ndrop && !w.getLsbD 17 } ∧
      ∀ i, slotOf (t.die d) i = if i < 8 ∧ w.getLsbD i = true then {}
        else if i < 8 ∧ w.getLsbD (8 + i) = true ∧ (slotOf (s.die d) i).valid = true then { slotOf (s.die d) i with fatal := true }
        else slotOf (s.die d) i)) ∧
  (∀ link d w s, OwnerWrites (.evCsReplayWrite link d w) s link (dieBlock d + 0x800) (d < 64) (fun t => Replayed s t d)) ∧
  ∀ link d w s,
    let a := s.ctlReg (dieBlock d + 0x808)
    let dc := (s.die d).dctx.toNat
    let va : Option Nat := if w = 0 then some (a.toNat % 2 ^ 52) else none
    let quiet := s.framesQuiet (s.devOf d) (s.droppedFrames (s.devOf d) dc va)
    OwnerWrites (.evCsTlbinvWrite link d w) s link (dieBlock d + 0x810) (d < 64 ∧ (w = 0 ∨ w = 1 ∧ a = 0))
      (fun t => (quiet = true → TlbDropped s t (s.devOf d) dc va) ∧ (quiet = false → t = s))

/-! ## Queues, launches and pre-emption -/

/-- R301, R359 .. R366, R369, R370, R409: `launch` and the driver's doorbell append to a queue; a context record becomes live; the
dispatcher handles one entry in a cycle: it takes the head with the earliest deadline, refuses a bad packet, cancels a late one, dispatches
it to free choruses, or, when it has pre set and does not fit, asks as many choruses as it lacks to stop, those of the largest keys first
and in a launch the highest numbers first, or none where no such set makes room. With what a core begins its part in a launch, its tile
registers, `tileid`, `atomwd` and L1 among it, is the model's choice: log entry 37. The faddr of a lost ring slot and that choruses already
stopping count as room are its choices too: log entry 38. Its other readings: log entry 42. -/
def Obligations.QueuesAndLaunches : Prop :=
  (∀ (o : L3) s,
    let a := s.g o.a
    let q := (s.g o.b).toNat
    (a.toNat % 128 ≠ 0 → Traps (.launch o) s 4 a 7) ∧
    (a.toNat % 128 = 0 → s.queueCount ≤ q → Traps (.launch o) s 1 0 11) ∧
    (∀ loc, a.toNat % 128 = 0 → q < s.queueCount → PacketLoc s a.toNat loc →
      ((qCtl s s.myDev q).getLsbD 2 = false → Traps (.launch o) s 6 a (BitVec.ofNat 64 (7 * 4096))) ∧
      ((qCtl s s.myDev q).getLsbD 2 = true → s.canRelease 0x3_0000_0000 = true → s.canRead loc 128 = true →
        (∀ i, RingLost s s.myDev q i →
          Traps (.launch o) s 13 (BitVec.ofNat 64 (qSlotAt s s.myDev q (s.ctlReg (qAddr s.myDev q + 0x10)).toNat + i)) 3) ∧
        ((∀ i, ¬RingLost s s.myDev q i) → ∃ r v u x, CachesOnly s r ∧ Arbitrated r v s.myDev 2 ∧ Appended v u s.myDev q (s.look loc 128) x ∧
          Leads (exec (.launch o) s) (fun t => Ended u t o.l [.g o.d x]))))) ∧
  (∀ link dev q w s,
    let ahead := (w.toNat + 2 ^ 32 - (s.ctlReg (qAddr dev q + 0x18)).toNat) % 2 ^ 32
    OwnerWrites (.evQueueDoorbell link dev q w) s link (qAddr dev q + 0x10) (dev < s.devices ∧ q < s.queueCount ∧ w.toNat < 2 ^ 32)
      (fun t => ∃ u, Arbitrated s u dev (3 + q) ∧
        (qHolds s dev q ≤ ahead ∧ ahead ≤ qRoom s dev q → CtlSet u t (qAddr dev q + 0x10) w) ∧
        (¬(qHolds s dev q ≤ ahead ∧ ahead ≤ qRoom s dev q) → CtlSet u t (qAddr dev q + 8) (qCtl s dev q ||| 2)))) ∧
  (∀ link dev c w s, OwnerWrites (.evDctxStateWrite link dev c w) s link (dctxRec dev c + 0x18)
    (dev < s.devices ∧ c < 256 ∧ s.ctlReg (dctxRec dev c + 0x18) = 0 ∧ w = 1) (fun t => CtlSet s t (dctxRec dev c + 0x18) 1)) ∧
  ∀ dev q s, MayHandle s dev → HeadChosen s dev q →
    let p := s.headOf dev q
    let c := bits (qCtl s dev q) 31 16
    let w4 := (packetWord p 4).toNat
    let now := (SMap.get s.dclk 0#64 dev).toNat
    let need := bits (packetWord p 0) 30 20 + 1
    let r := (s.ctlReg (qAddr dev q + 0x18)).toNat
    let key := dev * 64 + q
    let passed := SMap.get s.checked 0 key = r + 1
    let does (f : State → Prop) : Prop := Leads (exec (.evDispatcherSelect dev) s) (fun t => ∃ u, HandledTo s u t dev ∧ f u)
    let next (u t : State) : Prop := CtlSet u t (qAddr dev q + 0x18) (BitVec.ofNat 64 ((r + 1) % 2 ^ 32))
    let bad (u v : State) : Prop := CtlSet u v (qAddr dev q + 8) (qCtl s dev q ||| 2)
    (∀ n < 16, packetWord p n = BitVec.ofNat 64 (leNat (s.rawBytes (qSlotAt s dev q r + 8 * n) 8))) ∧
    (¬passed → RecordUnusable s dev c p → does (fun t => ∃ u, bad s u ∧ next u t)) ∧
    (¬passed → ¬RecordUnusable s dev c p → LaunchBad s dev p → does (fun t => ∃ u, Recorded s u dev c p 3 0 0 0 0 ∧ next u t)) ∧
    (passed ∨ ¬RecordUnusable s dev c p ∧ ¬LaunchBad s dev p → ∃ v,
      v = { s with checked := v.checked } ∧ (∀ x, SMap.get v.checked 0 x = if x = key then r + 1 else SMap.get s.checked 0 x) ∧
      ((packetWord p 0).getLsbD 9 = true → w4 ≠ 0 → w4 < now →
        (¬RecordUnusable s dev c p → does (fun t => ∃ u, Recorded v u dev c p 2 0 0 0 0 ∧ next u t)) ∧
        (RecordUnusable s dev c p → does (fun t => ∃ u, bad v u ∧ next u t))) ∧
      (∀ cs, ¬((packetWord p 0).getLsbD 9 = true ∧ w4 ≠ 0 ∧ w4 < now) → FreeChoruses s dev cs →
        (need ≤ cs.length → does (fun t => ∃ u l, next u t ∧
          l = { serial := s.serial, dev := dev, dctx := c, queue := q, packet := p, chor := cs.take need, start := now
                status := if w4 ≠ 0 ∧ w4 < now then 1 else 0, late := if w4 ≠ 0 ∧ w4 < now then now - w4 else 0 } ∧
          u = { v with
            launches := s.launches ++ [l], serial := s.serial + 1, ctxs := u.ctxs, cores := u.cores, dies := u.dies, mem := u.mem
            poison := u.poison } ∧
          (∀ h, InChorus (chorusOf h) h → chorusOf h ∈ l.chor → CoreBegins s u l h ∧ StartScope l h (u.core h).dscope) ∧
          (∀ h, h < 65536 → chorusOf h ∉ l.chor → u.core h = s.core h ∧ ∀ k ≤ 10, u.ctx h k = s.ctx h k) ∧
          (∀ sp a, a < 2 ^ 70 → u.pocByte sp a = s.pocByte sp a) ∧
          (∀ g < 2 ^ 67, SMap.get u.poison false g = SMap.get s.poison false g) ∧
          ∀ d, u.die d = if ∃ c ∈ l.chor, c / 32 = d then
            { s.die d with ptroot := s.ctlReg (dctxRec dev c), dctx := BitVec.ofNat 64 c } else s.die d)) ∧
        (cs.length < need → (packetWord p 0).getLsbD 10 = false → does (fun t => t = v)) ∧
        (cs.length < need → (packetWord p 0).getLsbD 10 = true → (s.launches.map (fun l => l.serial)).Nodup →
          (∀ l ∈ s.launches, l.chor.Pairwise (· < ·)) →
          let lacks := need - cs.length - ((s.launches.filter (fun l => l.dev == dev)).map (fun l => l.stops.length)).sum
          let room := (s.launches.map (fun l => (Victims dev (edf p q) l).length)).sum
          (room < lacks → does (fun t => t = v)) ∧
          (lacks ≤ room → does (fun t => ∃ pick, VictimsPicked s dev (edf p q) lacks pick ∧
            t = { v with launches := s.launches.map (fun l => { l with stops := l.stops ++ pick l }) })))))

/-- R61, R122, R370 .. R374: the driver asks choruses to stop; a chorus at rest makes a last barrier step and goes to its image, with its
header word, and with its local memory in the slot when the header word there does not stand; a selected restore brings the images of a
launch back, and phases that completed meanwhile, then the credits and arrivals after them, take effect. The model's choices in it: where
an item lies in a slot (log entry 4), that `pecmd` for a chorus that no launch holds does nothing (log entry 41), that a restore goes before
a head of its queue with its deadline (log entry 38), and that a core comes back with the instruction cache, TLB and cycle count of its
place and an empty L1 (log entry 37). -/
def Obligations.Preemption : Prop :=
  (∀ link dev w s, (s.launches.map (fun l => l.serial)).Nodup →
    OwnerWrites (.evPecmdWrite link dev w) s link (dispBlock dev + 0x200) (dev < s.devices ∧ w.toNat < 2048) (fun t =>
      t = { s with launches := s.launches.map (fun l =>
        if l.dev = dev ∧ l.torn = false ∧ w.toNat ∈ l.chor ∧ w.toNat ∉ l.outs ∧ w.toNat ∉ l.stops then { l with stops := l.stops ++ [w.toNat] }
        else l) })) ∧
  (∀ c s a l b, MemCanonical s → c < 2048 → s.launches = a ++ l :: b → c ∈ l.stops → l.torn = false → (∀ x ∈ a, c ∉ x.stops ∨ x.torn = true) →
    (∀ x ∈ a ++ b, x.serial ≠ l.serial) → (∀ h, InChorus c h → s.restCore h = true) →
    (∀ p ∈ s.cores, p.2.tagWait = []) → (∀ p ∈ s.images, p.1 < 2 ^ 70) → (∀ p ∈ s.ctxs, ∀ h, InChorus c h → p.1 / 16 ≠ imageOf l.serial h) →
    let slot := (s.ctlReg (dctxRec l.dev l.dctx + 0x10)).toNat + c * 0x80_0000
    Leads (exec (.evChorusPreempt c) s) (fun t =>
      t.launches = a ++ { l with stops := l.stops.filter (fun y => y != c), outs := l.outs ++ [c] } :: b ∧
      (∃ w, leBytes 8 w = t.pocBytes (.device 1) slot 8 ∧ SMap.get t.heads 0 slot = BitVec.ofNat 64 w) ∧
      ∀ h, InChorus c h →
        t.core h = { shellOf (s.core h) with l1 := [] } ∧ (∀ k ≤ 10, t.ctx h k = {}) ∧
        (∀ k ≤ 10, CtxMoves (s.ctx h k) (t.ctx (imageOf l.serial h) k) true) ∧ ∃ v, BarriersStepped s v h ∧
          t.core (imageOf l.serial h) = { v.core h with
            l1 := [], icache := [], tlb := [], pf := [], path := (t.core (imageOf l.serial h)).path, saved := true, dirty := []
            stepped := false, acted := false } ∧
          (∀ off < 2 ^ 17, t.rawByte (localKey (imageOf l.serial h) off) = v.rawByte (localKey h off)) ∧
          ((s.ctlReg (dctxRec l.dev l.dctx + 0x10)).toNat % 2 ^ 34 = 0 → s.headerStands slot = false →
            ∀ off < 2 ^ 17, t.rawByte (slot + hx h % 32 * 0x4_0000 + 0x1000 + off) = v.rawByte (localKey h off)))) ∧
  ∀ dev s l, MemCanonical s → MayHandle s dev → Restorable s dev l → (∀ x ∈ s.launches, x.serial = l.serial → x = l) →
    (∀ x, Restorable s dev x → x ≠ l → edf l.packet l.queue < edf x.packet x.queue) →
    (∀ q, Offers s dev q → edf l.packet l.queue ≤ edf (s.headOf dev q) q) → l.outs.Nodup → (∀ c ∈ l.outs, c < 2048) →
    (∀ c ∈ l.outs, ∀ h, InChorus c h →
      let a := (s.ctlReg (dctxRec l.dev l.dctx + 0x10)).toNat + c * 0x80_0000 + hx h % 32 * 0x4_0000
      ∀ p ∈ s.mem, partOf p.1 = a → unitSpan (unitAt (p.1 - a)) = none) →
    ((∃ c ∈ l.outs, ∃ x ∈ s.launches, c ∈ x.chor ∧ c ∉ x.outs) → Leads (exec (.evChorusRestore dev) s) (fun t => t = s)) ∧
    ((∀ c ∈ l.outs, ∀ x ∈ s.launches, c ∈ x.chor → c ∈ x.outs) → Leads (exec (.evChorusRestore dev) s) (fun t => ∃ u, HandledTo s u t dev ∧
      u.launches = s.launches.map (fun x => if x.serial = l.serial then { x with outs := [] } else x) ∧
      (∀ d, (∃ c ∈ l.chor, c / 32 = d) → (u.die d).ptroot = s.ctlReg (dctxRec l.dev l.dctx) ∧ (u.die d).dctx = BitVec.ofNat 64 l.dctx) ∧
      ∀ c ∈ l.outs, ∀ h, InChorus c h →
        let m := imageOf l.serial h
        (∀ k ≤ 10, CtxMoves (s.ctx m k) (u.ctx h k) false) ∧ ∃ v0 v1 v2,
          v0.core h = { s.core m with path := (u.core h).path, fills := [], barq := [] } ∧
          (∀ off < 2 ^ 17, v0.rawByte (localKey h off) = s.rawByte (localKey m off)) ∧
          Each (fun off a b => PhaseTested a b h off) (s.core m).fills v0 v1 ∧
          Each (fun x a b => ∃ w, ChangeApplied a w h x ∧ PhaseTested w b h x.off) (s.core m).barq v1 v2 ∧
          u.core h = { v2.core h with
            l1 := [], newer := [], icache := (s.core h).icache, tlb := (s.core h).tlb, cycle := (s.core h).cycle, dirty := [] } ∧
          ∀ off < 2 ^ 17, u.rawByte (localKey h off) = v2.rawByte (localKey h off)))

/-- R368, R369, R375: a launch whose cores have ended and whose writes have performed completes, with its record, and frees its choruses;
a teardown switches its context's queues, bindings and channels off, stops its launches, ends its packets at the piece boundary and, when
none of either is left, reports its counts. The model's readings in it: log entry 38. -/
def Obligations.CompletionAndTeardown : Prop :=
  (∀ n s l a b, s.launches = a ++ l :: b → l.serial = n → (∀ x ∈ a ++ b, x.serial ≠ n) → s.launchQuiet l = true →
    (l.torn = true ∨ ∀ h, chorusOf h ∈ l.chor → h < 65536 → (s.core (l.handle h)).ended = true) → ¬RecordUnusable s l.dev l.dctx l.packet →
    (∀ c ∈ l.chor, c < 2048) →
    let sum (f : Core → Nat) : Nat := (l.cores.map (fun h => f (s.core (l.handle h)))).sum
    Leads (exec (.evLaunchCompletion n) s) (fun t => ∃ u,
      Recorded s u l.dev l.dctx l.packet (if l.torn = true then 4 else l.status) (if l.torn = true then 0 else l.late)
        (sum (fun c => c.lostTasks)) (sum (fun c => c.lostEvents)) l.start ∧
      t.launches = a ++ b ∧ (∀ sp y, y < 2 ^ 70 → t.pocByte sp y = u.pocByte sp y) ∧
      t.ops = s.ops.filter (fun o => o.launch != n) ∧ t.dels = s.dels.filter (fun d => d.launch != n) ∧
      t.arrivals = s.arrivals.filter (fun x => x.launch != n) ∧ t.msgs = s.msgs.filter (fun m => m.launch != n) ∧
      (∀ c ∈ l.chor, c ∉ l.outs → ∀ h, InChorus c h → (t.core h).launch = none ∧ (t.core h).cycle = (s.core h).cycle ∧
        ∀ k ≤ 10, t.ctx h k = {}) ∧
      ∀ c ∈ l.chor, c ∈ l.outs → ∀ h, InChorus c h → t.core (imageOf n h) = {} ∧ ∀ k ≤ 10, t.ctx (imageOf n h) k = {})) ∧
  (∀ link dev w s,
    let c := w.toNat
    let mine (q : Nat) : Prop := q < s.queueCount ∧ bits (qCtl s dev q) 31 16 = c
    OwnerWrites (.evTdcmdWrite link dev w) s link (dispBlock dev + 0x100) (dev < s.devices ∧ c < 256 ∧ s.dctxState dev c = 1) (fun t =>
      (∃ u, Arbitrated s u dev 1 ∧ t = { u with ctl := t.ctl, launches := t.launches, jobs := t.jobs, tears := t.tears }) ∧ t.dctxState dev c = 2 ∧
      (∀ q, mine q → (qCtl t dev q).getLsbD 0 = false ∧ qHolds t dev q = 0 ∧ bits (qCtl t dev q) 31 1 = bits (qCtl s dev q) 31 1) ∧
      (∀ q, q < s.queueCount → ¬mine q → qCtl t dev q = qCtl s dev q ∧ qHolds t dev q = qHolds s dev q) ∧
      t.launches = s.launches.map (fun l => if l.dev = dev ∧ l.dctx = c then { l with torn := true, stops := [] } else l) ∧
      t.jobs = (s.jobs.filter (fun j => !(j.dev == dev && j.dctx == c) || (!j.open_.isEmpty && j.status.isNone && (!pdl j || j.checked)))).map
        (fun j => if j.dev = dev ∧ j.dctx = c then { j with halt := true } else j) ∧
      (∀ n e, n < 128 → e < 16 → s.boundTo n (bits (s.ctlReg (bindAt n e + 8)) 63 48) = some (dev, c) →
        (t.ctlReg (bindAt n e + 8)).getLsbD 0 = false) ∧
      (∀ n k, n < 128 → k < 256 → s.boundTo n (s.chanDctx n k) = some (dev, c) → t.chanEn n k = false) ∧
      t.tears = s.tears ++ [⟨dev, c, (((List.range s.queueCount).filter (fun q => bits (qCtl s dev q) 31 16 == c)).map (qHolds s dev)).sum, 0,
        (s.launches.filter (fun l => l.dev == dev && l.dctx == c)).length⟩])) ∧
  ∀ dev c s a x b, s.tears = a ++ x :: b → x.dev = dev → x.dctx = c → (∀ y ∈ a, ¬(y.dev = dev ∧ y.dctx = c)) →
    ((∃ l ∈ s.launches, l.dev = dev ∧ l.dctx = c) ∨ (∃ j ∈ s.jobs, j.dev = dev ∧ j.dctx = c) →
      Leads (exec (.evTeardownComplete dev c) s) (fun t => t = s)) ∧
    ((∀ l ∈ s.launches, ¬(l.dev = dev ∧ l.dctx = c)) → (∀ j ∈ s.jobs, ¬(j.dev = dev ∧ j.dctx = c)) → c < 256 → Leads (exec (.evTeardownComplete dev c) s) (fun t =>
      t = { s with ctl := t.ctl, tears := s.tears.filter (fun y => !(y.dev == dev && y.dctx == c)), outputs := s.outputs ++ [.msix (64 + dev)] } ∧
      t.dctxState dev c = 0 ∧ t.ctlReg (dispBlock dev + 0x108) = BitVec.ofNat 64 x.q ∧ t.ctlReg (dispBlock dev + 0x110) = BitVec.ofNat 64 x.a ∧
      t.ctlReg (dispBlock dev + 0x118) = BitVec.ofNat 64 x.n))

/-! ## Links -/

/-- R139, R376 .. R381: a peer's write, whose granules perform one by one before it is acknowledged, and its read, served with a reply or
turned away with a refusal and its log record; a peer's atomic request, which goes on to its home; what one peer sends to one home acts in
its order; a packet of an unknown type is logged. R141, R142, R381, R412: a request from outside is performed at its home, after every sync
copy of its line is dropped, and answered: a peer by packet, a host by a completion. The model's readings in it: log entries 33 and 34. -/
def Obligations.PeerRequests : Prop :=
  (∀ l hdr payload tag early s,
    let a := bits hdr 51 0
    let n := Nat.max 1 payload.length
    let i : Instr := .evStolrusWrite l hdr payload tag early
    let fits (loc : Loc) : Prop := OutsideLoc s a n loc ∧ ¬Unwritable s (s.outsideDev a) loc n
    (¬PeerClear s hdr a n → Leads (exec i s) (fun t => t = s)) ∧
    (PeerClear s hdr a n → LinkTakes i s l 1 hdr payload tag (early = true) (fun u t =>
      (∀ loc, Served s hdr false → fits loc →
        (payload = [] → Responds u t hdr 6 []) ∧
        (payload ≠ [] → WriteBegins u t (s.inwrites.filter (fun w => w.whole || w.link != l)) l hdr loc payload true)) ∧
      (¬Served s hdr false → (WrongPanel s hdr → TurnedAway u t l hdr true true) ∧ (¬WrongPanel s hdr → TurnedAway u t l hdr true false)) ∧
      (Served s hdr false → (∀ loc, ¬fits loc) → TurnedAway u t l hdr true false))) ∧
    (∀ loc, PeerClear s hdr a n → early = true → bits hdr 127 120 = 1 → (s.link l).lanes ≠ 0 →
      ((s.link l).bad = true → bits hdr 103 96 = (s.link l).expect) → Served s hdr false → bits hdr 87 86 = 0 →
      tag ≠ crc64 (leBytes 16 hdr.toNat ++ payload) → fits loc → payload ≠ [] →
      Leads (exec i s) (fun t => ∃ u, LinkSet s u l { s.link l with bad := true } ∧ WriteBegins u t s.inwrites l hdr loc payload false))) ∧
  (∀ (w : InWrite) (x : Granule) p q ga gb s, s.inwrites = p ++ w :: q → (∀ y ∈ p ++ q, y.id ≠ w.id) → w.todo = ga ++ x :: gb →
    x.dst.space = .device 1 ∨ x.dst.space = .near 1 → Leads (exec (.evEnginePiece (2 ^ 65 + w.id) [ga.length]) s) (fun t =>
      let left := if ga ++ gb = [] then p ++ q else p ++ { w with todo := ga ++ gb } :: q
      ∃ u, StoredAt s u x.dst x.bytes ∧ u = { s with mem := u.mem, poison := u.poison, inwrites := left } ∧
        (ga ++ gb = [] → w.whole = true → Responds u t w.hdr 6 []) ∧ (¬(ga ++ gb = [] ∧ w.whole = true) → t = u))) ∧
  (∀ l hdr payload tag s,
    let a := bits hdr 51 0 / 64 * 64
    let i : Instr := .evStolrusReadRequest l hdr payload tag
    (¬PeerClear s hdr a 64 → Leads (exec i s) (fun t => t = s)) ∧
    (PeerClear s hdr a 64 → LinkTakes i s l 2 hdr payload tag False (fun u t =>
      (∀ loc, Served s hdr false → OutsideLoc s a 64 loc → s.dataError (s.outsideDev a) loc 64 false = none →
        Responds u t hdr 3 (s.pocBytes loc.space a 64)) ∧
      (¬Served s hdr false → (WrongPanel s hdr → TurnedAway u t l hdr false true) ∧ (¬WrongPanel s hdr → TurnedAway u t l hdr false false)) ∧
      (Served s hdr false → (∀ loc, OutsideLoc s a 64 loc → s.dataError (s.outsideDev a) loc 64 false ≠ none) → TurnedAway u t l hdr false false)))) ∧
  (∀ l hdr payload tag s,
    let a := bits hdr 51 0
    let op := requestOp (readHdr hdr) payload
    let i : Instr := .evStolrusAtomicRequest l hdr payload tag
    (¬PeerClear s hdr a 8 → Leads (exec i s) (fun t => t = s)) ∧
    (PeerClear s hdr a 8 → LinkTakes i s l 4 hdr payload tag False (fun u t =>
      (∀ loc f, Served s hdr true → op = some f → OutsideLoc s a 8 loc → ∃ r : Req,
        t = { u with reqs := s.reqs ++ [r], serial := s.serial + 1 } ∧ r.id = s.serial ∧ r.came = s.serial ∧ r.stage = 0 ∧ r.loc = loc ∧
          r.opnd = f.opnd ∧ r.parts = [⟨0, 0, 0, f, 0, .peer l hdr⟩]) ∧
      (¬Served s hdr true → (WrongPanel s hdr → TurnedAway u t l hdr false true) ∧ (¬WrongPanel s hdr → TurnedAway u t l hdr false false)) ∧
      (Served s hdr true → (op = none ∨ ∀ loc, ¬OutsideLoc s a 8 loc) → TurnedAway u t l hdr false false)))) ∧
  (∀ (x : Req) ra rb op w b from_ s, s.reqs = ra ++ x :: rb → (∀ y ∈ ra, y.id ≠ x.id ∧ s.precedes y x = false) → (∀ y ∈ rb, y.id ≠ x.id) →
    s.behindNbctl x = false →
    x.parts = [⟨0, 0, 0, .rmw op w b, 0, from_⟩] → from_ ≠ .core → x.loc.space.held = false → (∀ y ∈ s.recs, y.m ≠ x.id) →
    s.dataError (s.outsideDev x.loc.at_) ⟨x.loc.space.owner, x.loc.at_⟩ w true = none → (w = 4 ∨ w = 8) →
    Leads (exec (.evAtomicPerform (.req x.id) false) s) (fun t => ∃ m v new fl,
      Forgets { s with reqs := ra ++ rb } m (x.loc.at_ / 64) ∧ MemoryOnly { s with reqs := ra ++ rb } v ∧
      let old := leNat (m.pocBytes x.loc.space.owner x.loc.at_ w)
      RmwResult op w old (x.opnd.toNat % 2 ^ (8 * w)) new fl ∧
        (∀ y, new = some y → StoredAt m v ⟨x.loc.space.owner, x.loc.at_⟩ (leBytes w y)) ∧ (new = none → SameBytes m v) ∧
        (∀ d, SMap.has (v.die d).sync (x.loc.at_ / 64) = false) ∧
        (∀ l hdr, from_ = .peer l hdr →
          Responds v t hdr 5 (if bits hdr 85 81 = 11 ∨ bits hdr 85 81 = 12 then [] else leBytes 8 old ++ List.replicate 24 0#8)) ∧
        ∀ dev, from_ = .host dev → t = { v with outputs := s.outputs ++ [.completion dev (some (BitVec.ofNat 64 old))] })) ∧
  ∀ l hdr payload tag s, bits hdr 127 120 = 0 ∨ 7 < bits hdr 127 120 →
    LinkTakes (.evStolrusUnknownType l hdr payload tag) s l (bits hdr 127 120) hdr payload tag False
      (fun u t => Logged u t 8 (80 + l / 8) (bits hdr 51 0) 0)

/-- R378, R379, R381 .. R383: a read reply, an atomic reply or an acknowledgement completes the request with its tag as memory or the core
path would; a refusal gives MCHK or discards a store; what bears another panel's number is discarded and logged; unacknowledged packets
are sent again, and packets that waited follow; a link loses lanes until it is down, and its packets go over the alternate one. The faddr
of a refused request's MCHK, the address that its location is found back at, is the model's choice: log entry 15. The model's other
readings in it: log entries 33 and 34. -/
def Obligations.PeerReplies : Prop :=
  (∀ l hdr payload tag s,
    ReplyTakes (.evStolrusReadReply l hdr payload tag) s l 3 hdr payload tag (fun u t =>
      (s.requestOf (bits hdr 111 104) (bits hdr 75 64) = none → t = u) ∧
      ∀ c k n e, s.requestOf (bits hdr 111 104) (bits hdr 75 64) = some (c, k, n) → (s.ctx c k).post[n]? = some e → payload.length = 64 →
        ∃ v, v = { u with mem := v.mem } ∧ (∀ y, v.rawByte y = if e.loc.at_ / 64 * 64 ≤ y ∧ y < e.loc.at_ / 64 * 64 + 64 then
          payload.getD (y % 64) 0 else u.rawByte y) ∧ exec (.evLoadSatisfy c k n 0) v = .next t)) ∧
  (∀ l hdr payload tag s,
    ReplyTakes (.evStolrusAtomicReply l hdr payload tag) s l 5 hdr payload tag (fun u t =>
      (s.requestOf (bits hdr 111 104) (bits hdr 75 64) = none → t = u) ∧
      ∀ c k n e op r, s.requestOf (bits hdr 111 104) (bits hdr 75 64) = some (c, k, n) → (s.ctx c k).post[n]? = some e →
        (e.kind = .sent op r →
          (s.looseOf c k e.id = none → t = u) ∧ ∀ q, s.looseOf c k e.id = some q →
            ((∀ f w b, op ≠ .rmw f w b) → exec (.evAtomicPerform (.req q.id) false) u = .next t) ∧
            ∀ f w b, op = .rmw f w b → w ≤ payload.length →
              ∃ v, v = { u with mem := v.mem } ∧ (∀ y, v.rawByte y = if e.loc.at_ ≤ y ∧ y < e.loc.at_ + w then
                payload.getD (y - e.loc.at_) 0 else u.rawByte y) ∧ exec (.evAtomicPerform (.req q.id) false) v = .next t) ∧
        (e.kind = .atomic op r →
        ((∀ f w b, op ≠ .rmw f w b) → exec (.evAtomicPerform (.entry c k n) false) u = .next t) ∧
        ∀ f w b, op = .rmw f w b → w ≤ payload.length →
          ∃ v, v = { u with mem := v.mem } ∧ (∀ y, v.rawByte y = if r ≠ .none ∧ e.loc.at_ ≤ y ∧ y < e.loc.at_ + w then
            payload.getD (y - e.loc.at_) 0 else u.rawByte y) ∧ exec (.evAtomicPerform (.entry c k n) false) v = .next t))) ∧
  (∀ l hdr payload tag s,
    ReplyTakes (.evStolrusWriteAcknowledgement l hdr payload tag) s l 6 hdr payload tag (fun u t =>
      (s.writeOf (bits hdr 111 104) (bits hdr 75 64) = none → t = u) ∧
      ∀ c n, s.writeOf (bits hdr 111 104) (bits hdr 75 64) = some (c, n) → exec (.evWritePerform c n) u = .next t)) ∧
  (∀ l hdr payload tag s,
    ReplyTakes (.evStolrusRefusal l hdr payload tag) s l 7 hdr payload tag (fun u t =>
      let r := s.requestOf (bits hdr 111 104) (bits hdr 75 64)
      let w := s.writeOf (bits hdr 111 104) (bits hdr 75 64)
      (r = none → w = none → t = u) ∧
      (∀ c k n e o, r = some (c, k, n) → (s.ctx c k).post[n]? = some e → (s.ctx c k).out.find? (fun x => x.id == e.id) = some o → s.gangs = [] →
        ((∀ f g, e.kind ≠ .sent f g) → DataFailed u t c k e o e.loc 5) ∧
        ∀ f g, e.kind = .sent f g → (s.looseOf c k e.id = none → t = u) ∧ ∀ q, s.looseOf c k e.id = some q →
          let w : State := { u with reqs := s.reqs.filter (fun x => x.id != q.id) }
          (∀ p, q.parts = [p] → p.h = c → p.k = k → p.id = e.id → p.from_ = .core → q.loc = e.loc → (∀ x ∈ s.recs, p ∉ x.aparts) →
            DataFailed w t c k e o e.loc 5) ∧
          ∀ p ∈ q.parts, p.from_ = .core → ∀ e' ∈ (t.ctx p.h p.k).post, e'.id ≠ p.id) ∧
      ∀ c n x, r = none → w = some (c, n) → (s.core c).path[n]? = some x →
        ∃ v, OnlyCtxCore u v c x.k ∧ v.core c = { s.core c with path := (s.core c).path.eraseIdx n } ∧
          v.ctx c x.k = { s.ctx c x.k with atomstat := (s.ctx c x.k).atomstat ||| 4 } ∧ Logged v t 1 (hdie c) (x.loc.at_ % 2 ^ 52) 0)) ∧
  (∀ l n s,
    let k := s.link l
    (k.lanes = 0 → Leads (exec (.evStolrusRetransmit l n) s) (fun t => t = s)) ∧
    (k.lanes ≠ 0 → Leads (exec (.evStolrusRetransmit l n) s) (fun t =>
      let un := k.unacked.drop n
      let more := k.held.take (256 - un.length)
      ∃ u, LinkSet s u l { k with unacked := un ++ more, held := k.held.drop more.length } ∧
        t = { u with outputs := s.outputs ++ (un ++ more).map (fun b => .packet l b) }))) ∧
  ∀ l s,
    let k := s.link l
    let i : Instr := .evLinkLaneLoss l
    (k.lanes = 0 → Leads (exec i s) (fun t => t = s)) ∧
    (k.lanes = 16 → Leads (exec i s) (fun t => ∃ u, LinkSet s u l { k with lanes := 8 } ∧ WidthEvent u t l 8 2)) ∧
    (k.lanes = 8 → Leads (exec i s) (fun t => ∃ u, LinkSet s u l { k with lanes := 4 } ∧ WidthEvent u t l 4 1)) ∧
    (k.lanes ≠ 0 → k.lanes ≠ 16 → k.lanes ≠ 8 → Leads (exec i s) (fun t =>
      ∃ u, LinkSet s u l { ({} : Link) with seq := k.seq, expect := k.expect } ∧ WidthEvent ((k.unacked ++ k.held).foldl State.sendAgain u) t l 0 0))

/-! ## Scale-out -/

/-- R413, R415 .. R418: channel records; the frames that are for a port; DATA datagrams performed in order, their granules landing one by
one, acknowledged, or answered with a NAK; acknowledgements, resends and failure; and the host's accesses by CXL.mem. That a write by
CXL.mem to a line that cannot be reached is discarded is the model's choice: log entry 36. The model's other readings in it: log entries
32, 35 and 56. -/
def Obligations.Datagrams : Prop :=
  (∀ link n c off w s,
    let a := 0x0_F000_0A90_0000 + n * 0x4000 + 64 * c
    OwnerWrites (.evChannelRecordWrite link n c off w) s link (a + off)
      (n < 128 ∧ c < 256 ∧ off % 8 = 0 ∧ off < 0x40 ∧
        (off = 0x10 → bits w 39 35 = 0 ∧ bits w 47 40 = 0 ∧ w.getLsbD 34 = false ∧ bits w 23 16 < 128) ∧ (0x18 ≤ off → w = 0))
      (fun t => ∃ u, SendsEnd s u n c ∧ t = { u with ctl := t.ctl, chans := t.chans } ∧ t.chan n c = {} ∧ t.ctlReg (a + 0x18) = 0 ∧
        (∀ m d, m * 256 + d ≠ n * 256 + c → t.chan m d = s.chan m d) ∧
        (∀ b, b ≠ a + off → b ≠ a + 0x10 → b ≠ a + 0x18 → t.ctlReg b = s.ctlReg b) ∧
        (off < 0x10 → t.ctlReg (a + off) = w) ∧ (∀ i, (t.ctlReg (a + 0x10)).getLsbD i =
          (if i = 34 then false else if off = 0x10 then w.getLsbD i else (s.ctlReg (a + 0x10)).getLsbD i)))) ∧
  (∀ p f ok s, (∀ h segs, ¬Received s p 1 f ok h segs) → Leads (exec (.evDatagramData ⟨p, f⟩ ok) s) (fun t => t = s)) ∧
  (∀ p f ok h segs s, Received s p 1 f ok h segs →
    let n := h.deng
    let c := h.dchan
    let r := s.landAll n c
    let ch := r.chan n c
    let i : Instr := .evDatagramData ⟨p, f⟩ ok
    let first := h.flags % 2 = 1
    let s0 := r.setChan n c { ch with drop := false }
    (r.chanEn n c = false → Leads (exec i s) (fun t => SendsBack r t n c 3 5 0)) ∧
    (r.chanEn n c = true →
      (h.psn ≠ r.recvPsn n c → (h.psn + 2 ^ 24 - r.recvPsn n c) % 2 ^ 24 < 2 ^ 23 → ch.gap = false →
        Leads (exec i s) (fun t => ∃ u, ChanSet r u n c { ch with gap := true } ∧ SendsBack u t n c 3 1 0)) ∧
      (h.psn ≠ r.recvPsn n c → 2 ^ 23 ≤ (h.psn + 2 ^ 24 - r.recvPsn n c) % 2 ^ 24 ∨ ch.gap = true → Leads (exec i s) (fun t => t = r)) ∧
      (h.psn = r.recvPsn n c → ch.drop = true → ¬first → Leads (exec i s) (fun t => Accepts r t n c)) ∧
      (h.psn = r.recvPsn n c → ch.drop = false ∨ first →
        let fails (code : Nat) : Prop := Leads (exec i s) (fun t => ∃ u v w, ChanSet r u n c { ch with drop := false } ∧
          SendsBack u v n c 3 code h.piece ∧ CtlSet v w (chanAt n c + 8) (nextPsn r n c) ∧
          ChanSet w t n c { ch with drop := decide (h.flags / 2 % 2 = 0), gap := false })
        (r.boundTo n (r.chanDctx n c) = none → fails 2) ∧
        ∀ dev dc, r.boundTo n (r.chanDctx n c) = some (dev, dc) →
          (∀ code, s0.segmentsAt dev dc segs = .error code → fails code) ∧
          ∀ ws, s0.segmentsAt dev dc segs = .ok ws → Leads (exec i s) (fun t => ∃ u, Retained r u ∧ ChanSet u t n c { ch with
            drop := false
            landing := ws.flatMap (fun w => (deal (granules (w.1, w.2.length)) w.2).map (fun q => ⟨none, q.2, q.1⟩)) })))) ∧
  (∀ n c s,
    let gs := (s.chan n c).landing
    c < 256 → gs ≠ [] → (∀ x ∈ gs, x.src = none ∧ ((∃ d, x.dst.space = .device d) ∨ ∃ d, x.dst.space = .near d)) →
    gs.Pairwise (fun x y => x.dst.at_ + x.bytes.length ≤ y.dst.at_ ∨ y.dst.at_ + y.bytes.length ≤ x.dst.at_) →
    Leads (exec (.evEnginePiece (2 ^ 64 + n * 256 + c) []) s) (fun t => ∃ u v, ChanSet s u n c { s.chan n c with landing := [] } ∧
      v = { u with mem := v.mem, poison := v.poison, devLines := v.devLines } ∧
      (∀ x ∈ gs, ∀ (j : Nat) (y : Byte), x.bytes[j]? = some y → v.pocByte x.dst.space (x.dst.at_ + j) = y) ∧
      (∀ sp a, (∀ x ∈ gs, a < x.dst.at_ ∨ x.dst.at_ + x.bytes.length ≤ a) → v.pocByte sp a = s.pocByte sp a) ∧ Accepts v t n c)) ∧
  (∀ p f ok s, (∀ h segs, ¬Received s p 2 f ok h segs) → Leads (exec (.evDatagramAck ⟨p, f⟩ ok) s) (fun t => t = s)) ∧
  (∀ p f ok h segs s, Received s p 2 f ok h segs → Leads (exec (.evDatagramAck ⟨p, f⟩ ok) s) (fun t => AckedTo s t h.deng h.dchan h.ack)) ∧
  (∀ p f ok s, (∀ h segs, ¬Received s p 3 f ok h segs) → Leads (exec (.evDatagramNak ⟨p, f⟩ ok) s) (fun t => t = s)) ∧
  (∀ p f ok h segs s, Received s p 3 f ok h segs →
    let n := h.deng
    let c := h.dchan
    let i : Instr := .evDatagramNak ⟨p, f⟩ ok
    let bad := (h.ack + 1) % 2 ^ 24
    (h.code = 1 → Leads (exec i s) (fun t => ∃ u, AckedTo s u n c h.ack ∧ Retries u t n c)) ∧
    (2 ≤ h.code → h.code ≤ 4 → (∀ d ∈ (s.chan n c).unacked, d.psn ≠ bad) → Leads (exec i s) (fun t => t = s)) ∧
    (∀ x d y, 2 ≤ h.code → h.code ≤ 4 → (s.chan n c).unacked = x ++ d :: y → (∀ e ∈ x, e.psn ≠ bad) → d.psn = bad →
      Leads (exec i s) (fun t => ∃ w u, ChanSet s w n c { s.chan n c with waiting := (s.chan n c).waiting.filter (fun z => z.job != d.job) } ∧
        AckedTo w u n c bad ∧ t = { u with jobs := s.jobs.map (fun j =>
        if j.id = d.job then { j with status := some (if h.code = 4 then 6 else 1, h.piece) } else j) })) ∧
    (h.code = 5 → Leads (exec i s) (fun t => ChannelFailed s t n c))) ∧
  (∀ n c s,
    let ch := s.chan n c
    (ch.owed ≠ 0 → 10000 ≤ ticksPast s n ch.since →
      Leads (exec (.evScaleoutAckTimer n c) s) (fun t => ∃ u, ChanSet s u n c { ch with owed := 0 } ∧ SendsBack u t n c 2 0 0)) ∧
    (ch.owed = 0 ∨ ticksPast s n ch.since < 10000 → Leads (exec (.evScaleoutAckTimer n c) s) (fun t => t = s)) ∧
    (∀ d r, ch.unacked = d :: r → 100000 ≤ ticksPast s n d.time → Leads (exec (.evScaleoutResendTimer n c) s) (fun t => Retries s t n c)) ∧
    (∀ d r, ch.unacked = [] ∨ ch.unacked = d :: r ∧ ticksPast s n d.time < 100000 →
      Leads (exec (.evScaleoutResendTimer n c) s) (fun t => t = s))) ∧
  ∀ a b s,
    let answers := bits (s.ctlReg (mg 8)) 1 0 ≠ 2 ∧ a + b.length ≤ 2 ^ 43 ∧ s.lostByte (s.outsideDev a) ⟨.device 1, a⟩ b.length = none
    (answers → Leads (exec (.evCxlMemHostAccess a b) s) (fun t => StoredAt s t ⟨.device 1, a⟩ b ∧
      t = { s with mem := t.mem, poison := t.poison })) ∧
    (¬answers → Leads (exec (.evCxlMemHostAccess a b) s) (fun t => t = s))

/-! ## Starting, owning and recovering the panel -/

/-- R410, R420 .. R423: power on, cold and warm starts; a start goes from step to step: step 2 makes the die map, step 6 sets the hash masks
and remap entries; it ends at a step that fails, step 2 with a failed spine or I/O die or no live die and step 5 with refused images among
them, or after step 7 with the panel ready: its links, ports and accepted images, and its owner gone if the owner's port has not trained.
The model's readings in it: log entries 3, 5 and 40. -/
def Obligations.Starts : Prop :=
  (∀ s, (∀ x ∈ s.images, memPart x.1 ≠ none) → Leads (exec .evPowerOn s) (fun t =>
    t = { State.reset with
      mem := t.mem, nsEra := t.nsEra, ctl := t.ctl, dies := t.dies, outputs := s.outputs, peerDeny := s.peerDeny, agenda := s.agenda
      serial := s.serial, flash := s.flash, flashMc := s.flashMc } ∧
    (∀ d, t.die d = if d < 64 then { dead := true } else {}) ∧
    t.ctlReg (mg 8) = 0x110 ∧ (∀ a, a ≠ mg 8 → t.ctlReg a = ctlAtReset a) ∧ (∀ d < 65, SMap.get t.nsEra 0 d = SMap.get s.nsEra 0 d + 1) ∧
    (∀ a < 2 ^ 70, memPart a = none → t.rawByte a = s.rawByte a) ∧ ∀ a, 2 ^ 70 ≤ a → t.rawByte a = 0)) ∧
  (∀ link s, SMap.sorted s.dies = true → (∀ x ∈ s.images, memPart x.1 ≠ none) →
    let st := s.ctlReg (mg 8)
    OwnerWrites (.evColdStart link) s link (mg 0) (bits st 1 0 ≠ 0) (fun t => StartBegun s t false 1 (bits st 11 10)) ∧
    OwnerWrites (.evWarmStart link) s link (mg 0) (bits st 1 0 ≠ 0) (fun t =>
      (bits st 11 10 = 2 → StartBegun s t false 1 2) ∧ (bits st 11 10 ≠ 2 → StartBegun s t true 2 (bits st 11 10)))) ∧
  (∀ dead masks s rest, s.agenda = .startStep dead masks :: rest →
    let s0 : State := { s with agenda := rest }
    let st := s.ctlReg (mg 8)
    let n := bits st 7 4
    let goes := bits st 1 0 = 0 ∧ 1 ≤ n ∧ n ≤ 6 ∧ (n = 2 → ¬TestsFail s dead) ∧ (n = 5 → ImagesAccepted s)
    (goes → ∃ v u w, (n ≠ 2 → n ≠ 6 → v = s0) ∧ (n = 2 → v = { s0 with dies := v.dies } ∧ MapMade s v dead) ∧
      (n = 6 → v = { s0 with ctl := v.ctl } ∧ HashSet s v masks) ∧ CtlSet v u (mg 8) w ∧
      StartWord w 0 (n + 1) (bits st 9 8) (bits st 11 10) (if n = 1 ∧ bits st 9 8 ≠ 2 then 0 else LiveDies v) ∧ step s = s.conclude (.next u)) ∧
    (¬goes → step s = s.conclude (.next s0))) ∧
  ∀ fail dead masks lanes ports s,
    let st := s.ctlReg (mg 8)
    let n := bits st 7 4
    let kind := Nat.max 1 (bits st 9 8)
    let i : Instr := .evStartFinish fail dead masks lanes ports
    let fails : Prop := Leads (exec i s) (fun t => ∃ u w, (n ≠ 2 → u = s) ∧ (n = 2 → u = { s with dies := u.dies } ∧ MapMade s u dead) ∧
      CtlSet u t (mg 8) w ∧ StartWord w 2 n kind (if bits st 9 8 = 2 then bits st 11 10 + 1 else 0)
        (if n = 1 ∧ bits st 9 8 ≠ 2 then 0 else LiveDies u))
    (bits st 1 0 ≠ 0 ∨ fail ≠ 0 ∧ fail ≠ n → Leads (exec i s) (fun t => t = s)) ∧
    (bits st 1 0 = 0 → fail ≠ 0 → fail = n → bits st 11 10 < 3 → fails) ∧
    (bits st 1 0 = 0 → fail = 0 → n = 2 → TestsFail s dead → bits st 11 10 < 3 → fails) ∧
    (bits st 1 0 = 0 → fail = 0 → n = 5 → ¬ImagesAccepted s → bits st 11 10 < 3 → fails) ∧
    (bits st 1 0 = 0 → fail = 0 → ¬(n = 2 ∧ TestsFail s dead) → ¬(n = 5 ∧ ¬ImagesAccepted s) → n ≠ 7 → Leads (exec i s) (fun t => t = s)) ∧
    (bits st 1 0 = 0 → fail = 0 → n = 7 → Leads (exec i s) (fun t => ∃ v u w,
      v = { s with links := v.links, ports := v.ports, failed := [], booted := s.flash, bootedMc := s.flashMc } ∧
      (∀ l < 32, v.link l = { lanes := trained (lanes.getD l 0) }) ∧ (∀ p < 8, SMap.get v.ports 0 p = trained (ports.getD p 0)) ∧
      CtlSet v u (mg 8) w ∧ StartWord w 1 7 kind 0 (LiveDies s) ∧
      let o := s.ctlReg (mg 0x10)
      let lost := o.getLsbD 4 = true ∧ ¬ClaimLink u (bits o 3 0)
      (¬lost → t = u) ∧ (lost → OwnerChanged u t none (bits o 3 0))))

/-- R423: a claim, a transfer and the loss of the owner's link. The model's readings in it: log entry 39. -/
def Obligations.Ownership : Prop :=
  (∀ links w s, let i : Instr := .evOwnclaim links w
    let o := s.ctlReg (mg 0x10)
    ((∀ l ∈ links, ¬ClaimLink s l) → Leads (exec i s) (fun t => t = s)) ∧
    ∀ l ∈ links, ClaimLink s l → (∀ x ∈ links, ClaimLink s x → l ≤ x) →
      (w ≠ 0xC1A1_0000_0000_0000 → Leads (exec i s) (fun t => Logged s t 12 (96 + l % 8) (mg 0x18) 0)) ∧
      (w = 0xC1A1_0000_0000_0000 → o.getLsbD 4 = true → Leads (exec i s) (fun t => t = s)) ∧
      (w = 0xC1A1_0000_0000_0000 → o.getLsbD 4 = false → Leads (exec i s) (fun t => OwnerChanged s t (some l) l))) ∧
  (∀ link w s, OwnerWrites (.evOwnxfer link w) s link (mg 0x20) (w.toNat ≤ 8) (fun t => (w.toNat = link → t = s) ∧
    (w.toNat ≠ link → ClaimLink s w.toNat → OwnerChanged s t (some w.toNat) w.toNat) ∧
    (w.toNat ≠ link → ¬ClaimLink s w.toNat → OwnerChanged s t none link))) ∧
  ∀ s,
    let o := s.ctlReg (mg 0x10)
    (o.getLsbD 4 = false → Leads (exec .evOwnerLinkDown s) (fun t => t = s)) ∧
    (o.getLsbD 4 = true → Leads (exec .evOwnerLinkDown s) (fun t => ∃ u, u = { s with ports := u.ports } ∧
      (∀ p, SMap.get u.ports 0 p = if p = bits o 3 0 then 0 else SMap.get s.ports 0 p) ∧ OwnerChanged u t none (bits o 3 0)))

/-- R424 .. R428: the resync summary, attestation, errors and the failure of a die. The model's readings in it: log entries 3, 36 and 43.
-/
def Obligations.SummariesReportsAndErrors : Prop :=
  (∀ link w s,
    (w ≠ 1 → Leads (exec (.evResync link w) s) (fun t => Logged s t 12 (96 + link % 8) (mg 0x28) 0)) ∧
    (w = 1 → Leads (exec (.evResync link w) s) (fun t =>
      let r (i : Nat) : Word := t.ctlReg (mg (0x100 + 8 * i))
      t = { s with captures := s.captures + 1, ctl := t.ctl } ∧ (∀ a, a < mg 0x100 ∨ mg 0x150 ≤ a → t.ctlReg a = s.ctlReg a) ∧
      r 0 = BitVec.ofNat 64 (s.captures + 1) ∧ r 1 = s.ctlReg (mg 0x10) ∧ r 2 = s.ctlReg (mg 8) ∧ r 3 = s.ctlReg pmodeAddr ∧
      (∀ d < 64, (r 4).getLsbD d = s.dieLive d) ∧ (∀ l < 32, bits (r 5) (2 * l + 1) (2 * l) = codeOfWidth (s.link l).lanes) ∧
      (∀ p < 8, bits (r 6) (2 * p + 1) (2 * p) = codeOfWidth (SMap.get s.ports 0 p)) ∧ bits (r 6) 63 16 = 0 ∧
      r 7 = BitVec.ofNat 64 ((List.range s.devices).map (fun d => ((List.range 256).filter (fun c => s.dctxState d c == 1)).length)).sum ∧
      r 8 = BitVec.ofNat 64 (s.logw % 2 ^ 32) ∧ bits (r 9) 63 32 = Nat.min s.errC (2 ^ 32 - 1) ∧ bits (r 9) 31 0 = Nat.min s.errU (2 ^ 32 - 1)))) ∧
  (∀ nonce s, nonce.length = 8 → Leads (exec (.evAttestationRequest nonce) s) (fun t =>
    t = { s with ctl := t.ctl, attq := s.attq ++ [nonce] } ∧
    (∀ (i : Nat) (w : Word), nonce[i]? = some w → t.ctlReg (mg (0x2_0000 + 8 * i)) = w))) ∧
  (∀ s,
    (s.attq = [] → Leads (exec .evAttestationReportReady s) (fun t => t = s)) ∧
    ∀ nonce rest, s.attq = nonce :: rest → nonce.length = 8 → Leads (exec .evAttestationReportReady s) (fun t =>
      let b := t.attrep
      let n := 0x100 + 2592
      t = { s with attq := rest, attrep := b } ∧ b.length = n + 4627 ∧ (∀ (i : Nat) (w : Word), nonce[i]? = some w → numAt b (8 * i) 8 = w.toNat) ∧
      numAt b 0x40 64 = s.booted.sha.toNat ∧ numAt b 0x80 64 = s.bootedMc.sha.toNat ∧ numAt b 0xE0 8 = s.booted.version % 2 ^ 64 ∧
      (∀ d < 64, (BitVec.ofNat 64 (numAt b 0xE8 8)).getLsbD d = s.dieLive d) ∧ numAt b 0xF0 8 = (s.ctlReg pmodeAddr).toNat ∧
      numAt b 0xF8 8 = (s.ctlReg (mg 0x10)).toNat ∧ ∀ i < 4627, b[n + i]? = some (Config.sign (b.take n) i))) ∧
  (∀ source a s, Leads (exec (.evCorrectableError source a) s) (fun t => ∃ u, u = { s with errC := s.errC + 1 } ∧ Logged u t 2 source a.toNat 0)) ∧
  (∀ source loc s, Leads (exec (.evUncorrectableNotConsumed source loc) s) (fun t => ∃ u,
    u = { s with errU := s.errU + 1, poison := u.poison } ∧ (∀ g, SMap.get u.poison false g = if g = loc / 8 then true else SMap.get s.poison false g) ∧
    Logged u t 3 source (loc % 2 ^ 52) 0)) ∧
  ∀ x s,
    let known := x < 84 ∨ 96 ≤ x ∧ x < 104
    (¬known → Leads (exec (.evDieFailure x) s) (fun t => t = s)) ∧
    (known → Leads (exec (.evDieFailure x) s) (fun t => ∃ u, Logged u t 11 x 0 0 ∧
      u = { s with failed := s.failed ++ [x], launches := u.launches } ∧ u.launches.length = s.launches.length ∧
      ∀ (i : Nat) (l : Launch), s.launches[i]? = some l →
        let served (d : Nat) : Prop := d < 64 ∧ (d = x ∨ 64 ≤ x ∧ x < 80 ∧ leafOf d = x - 64 ∨ 80 ≤ x ∧ x < 84)
        let home (j : Nat) : Prop := j < (s.diesOf l.dev).length ∧ (let e := s.ctlReg (hashBlock l.dev + 0x100 + 8 * j)
          served (bits e 5 0) ∨ e.getLsbD 16 = true ∧ served (bits e 13 8))
        let hit := (∃ c ∈ l.chor, served (c / 32)) ∨ ∃ j < 64, home j
        (hit → u.launches[i]? = some { l with torn := true, stops := [] }) ∧ (¬hit → u.launches[i]? = some l)))

/-- R348, R350, R379, R393, R406, R408, R411, R436: writes to the partition mode, the carves, the panel's number, the overflow areas and
the other registers of control space. The model's readings in it: log entries 5, 41 and 50. -/
def Obligations.ControlSpace : Prop :=
  (∀ link w lost s,
    let old := s.ctlReg pmodeAddr
    OwnerWrites (.evPmodeWrite link w lost) s link pmodeAddr (bits w 63 2 = 0) (fun t =>
      (s.allFree = true ∧ w.toNat < 3 ∧ w.toNat = bits old 1 0 → t = s) ∧
      (s.allFree = true ∧ w.toNat < 3 ∧ w.toNat ≠ bits old 1 0 →
        t = { s with mem := t.mem, ctl := t.ctl, devLines := [], poison := t.poison, serial := s.serial + 1 } ∧
        (∀ a, t.ctlReg a = if a = pmodeAddr then (old &&& 4) ||| w else s.ctlReg a) ∧ ∀ a, a / 64 ∉ lost → t.rawByte a = s.rawByte a) ∧
      (¬(s.allFree = true ∧ w.toNat < 3) → CtlSet s t pmodeAddr (old ||| 4)))) ∧
  (∀ link d w lost s,
    let a := dieBlock d + 0x920
    OwnerWrites (.evNscarveWrite link d w lost) s link a (bits w 63 2 = 0 ∧ d < 64 ∧ ∀ c < 256, s.dctxState (s.devOf d) c ≠ 1) (fun t =>
      (w = s.ctlReg a → t = s) ∧
      (w ≠ s.ctlReg a →
        t = { s with mem := t.mem, ctl := t.ctl, nsEra := t.nsEra, devLines := t.devLines, poison := t.poison, serial := s.serial + 1 } ∧
        (∀ x ∈ t.devLines, s.cacheHome (x.1 / 2 ^ 64) (x.1 % 2 ^ 64 * 64) ≠ d) ∧
        (∀ b, t.ctlReg b = if b = a then w else s.ctlReg b) ∧
        (∀ e, SMap.get t.nsEra 0 e = SMap.get s.nsEra 0 e + if e = d then 1 else 0) ∧
        ∀ y, y / 64 ∉ lost → memPart y ≠ some d → t.rawByte y = s.rawByte y))) ∧
  (∀ link w s, OwnerWrites (.evPeeridWrite link w) s link peeridAddr (bits w 63 9 = 0 ∧ ∀ dev < s.devices, ∀ c < 256, s.dctxState dev c ≠ 1)
    (fun t => CtlSet s t peeridAddr w)) ∧
  (∀ link d size w s,
    let a := dieBlock d + if size = true then 0x908 else 0x900
    OwnerWrites (.evSyncOverflowWrite link d size w) s link a
      (d < 64 ∧ (size = true → bits w 63 16 = 0) ∧ (size = false → bits w 63 52 = 0 ∧ bits w 15 0 = 0))
      (fun t => t = { s with ctl := t.ctl, dies := t.dies, mem := t.mem } ∧ (∀ b, t.ctlReg b = if b = a then w else s.ctlReg b) ∧
        (∀ y, (∀ line, SMap.has (s.die d).homes line = true ∨ line ∈ (s.die d).ovf → ¬MaskByte s line y) → t.rawByte y = s.rawByte y) ∧
        (t.die d).ovf = [] ∧ (t.die d).homes = [] ∧
        (∀ e, t.die e = { s.die e with sync := (t.die e).sync, homes := (t.die e).homes, ovf := (t.die e).ovf }) ∧
        (∀ e, e ≠ d → (t.die e).ovf = (s.die e).ovf) ∧
        ∀ line, (SMap.has (s.die d).homes line = true ∨ line ∈ (s.die d).ovf) → ∀ e, SMap.has (t.die e).sync line = false)) ∧
  ∀ link a w s,
    let i : Instr := .evControlSpaceWrite link a w
    let dieSet (d : Nat) (e : Die) (t : State) : Prop := t = { s with dies := t.dies } ∧ t.die d = e ∧ ∀ g, g ≠ d → t.die g = s.die g
    (a % 8 ≠ 0 → OwnerWrites i s link a False (fun _ => False)) ∧
    (∀ j < 8, a = mg (0x2_0000 + 8 * j) → Leads (exec i s) (fun t => ∃ u, CtlSet s u a w ∧
      t = { u with attq := if j = 7 then s.attq ++ [(List.range 8).map (fun x => u.ctlReg (mg (0x2_0000 + 8 * x)))] else s.attq })) ∧
    (∀ mask, PlainReg s a mask → OwnerWrites i s link a (w &&& ~~~mask = 0) (fun t => CtlSet s t a w)) ∧
    ∀ d < 64,
      (a = dieBlock d + 0x88 → OwnerWrites i s link a (bits w 63 3 = 0) (dieSet d { s.die d with fbsel := w.toNat })) ∧
      (a = dieBlock d + 0xA8 → OwnerWrites i s link a (w &&& ~~~0x8000_FFFF_0F01_FFF8 = 0 ∧ bits w 27 24 ≤ 10) (dieSet d { s.die d with fbsvc := w })) ∧
      ∀ j < 8, a = dieBlock d + 0xC0 + 8 * j → OwnerWrites i s link a (bits w 63 32 = 0)
        (dieSet d { s.die d with mthr := SMap.put (s.die d).mthr j w })

/-! ## Fetching and issuing -/

/-- R13, R14, R69, R70, R220: before an instruction issues, a register that conflicts with an open window raises LOOKAHEAD on the oldest
such window; else the instruction waits for a full window, for a fifth long-latency instruction, for the interlock, or while the unit that
performs it is taken. R175, R176, R345, R351: words that are no instruction raise ILLEGAL, and a word that may not be fetched raises PERM,
parks the context on a missing page, or raises PAGE_FATAL. The model's readings in it: log entries 11, 12 and 46. -/
def Obligations.FetchingAndIssue : Prop :=
  (∀ i s,
    (privileged i = true → s.cur.supervisor = false → s.issueGate i = .ok ()) ∧
    ((privileged i = false ∨ s.cur.supervisor = true) →
      (∀ oa o ob ua u ub, OpenWindows s = oa ++ o :: ob → (∀ x ∈ oa, ∀ y ∈ s.now.uses, ¬Conflicts x y) →
        (∃ y ∈ s.now.uses, Conflicts o y) → s.now.uses = ua ++ u :: ub → (∀ y ∈ ua, ∀ x ∈ OpenWindows s, ¬Conflicts x y) →
        (∃ x ∈ OpenWindows s, Conflicts x u) →
        ∃ wr, (wr = true ↔ ∃ y ∈ s.now.uses, y.cls = u.cls ∧ y.n = u.n ∧ y.wr = true) ∧
          s.issueGate i = .error (.trap .lookahead o.pc (lookWord wr u.cls u.n))) ∧
      ((∀ x ∈ OpenWindows s, ∀ y ∈ s.now.uses, ¬Conflicts x y) →
        let clear := (lookahead i = none ∨ s.cur.out.length < 4) ∧ ¬Interlocked s ∧ ∀ u, unitOf i = some u → u ∉ s.busyUnits s.now.h
        ((∃ o ∈ s.cur.out, o.left = 0) → s.issueGate i = .error (.wait .window)) ∧
        ((∀ o ∈ s.cur.out, o.left ≠ 0) → (clear → s.issueGate i = .ok ()) ∧ (¬clear → s.issueGate i = .error (.wait .retry)))))) ∧
  ((∀ w index reason s, Traps (.evEncodingNotAnInstruction w index reason) s 1 (s.cur.pc + BitVec.ofNat 64 (2 * index))
    (BitVec.ofNat 64 (w.toNat * 65536 + index * 256 + reason))) ∧
  ∀ va s,
    let a := BitVec.ofNat 64 va
    (NW ≤ va → Traps (.evFetchRefused va) s 6 a (BitVec.ofNat 64 (3 * 4096 + 4))) ∧
    (va < NW → s.now.defer = false →
      (∀ lvl, s.translate s.now.h va = .miss lvl → Leads (exec (.evFetchRefused va) s) (fun t =>
        t = { s with ctxs := t.ctxs, dies := t.dies } ∧ OthersSame s t ∧ SameBytes s t ∧
        t.cur = { s.cur with
          state := .parked, out := s.cur.out.map (fun x => { x with left := 0 }), cause := 5, fpc := s.cur.pc, faddr := a
          finfo := BitVec.ofNat 64 (lvl * 256 + 4) } ∧
        ∀ d, t.die d = if d = hdie s.now.h then
          { s.die d with faultIn := (s.die d).faultIn ++
            [⟨false, s.dctxOf s.now.h, va / 65536, 4, hx s.now.h, hy s.now.h, s.now.k⟩] } else s.die d)) ∧
      (∀ lvl e, s.translate s.now.h va = .fatal lvl e →
        Traps (.evFetchRefused va) s 5 a (BitVec.ofNat 64 (e.toNat % 65536 * 65536 + 1 * 4096 + lvl * 256 + 4))) ∧
      ∀ e lvl, s.translate s.now.h va = .leaf e lvl →
        (pteX e = false → Traps (.evFetchRefused va) s 6 a (BitVec.ofNat 64 (e.toNat % 65536 * 65536 + 3 * 4096 + lvl * 256 + 4))) ∧
        (pteX e = true → pteUser e = false → s.cur.supervisor = false →
          Traps (.evFetchRefused va) s 6 a (BitVec.ofNat 64 (e.toNat % 65536 * 65536 + 4 * 4096 + lvl * 256 + 4))) ∧
        (pteX e = true → (pteUser e = true ∨ s.cur.supervisor = true) → ∀ w, s.fetchWord va = some w → exec (.evFetchRefused va) s = .next s)))

/-- R58, R68, R69, R127, R165: a turn of a core that may issue begins its cycle, runs the instruction that the words at the pc of the
first context in order decode to, and ends its cycle; one that cannot issue yet leaves the turn to the next context. The model's readings
in it: log entries 12 and 47. -/
def Obligations.StepRunsTheDecodedInstruction : Prop :=
  ∀ (s : State) h defer rest k ks ws i, s.agenda = .issue h defer :: rest →
    let s0 : State := { s with agenda := rest }
    s0.mayIssue h = true →
    let t := s0.openCycle h
    t.ranked h = k :: ks →
    let a := t.takeUp h k defer [] []
    (∀ (j : Nat) w, ws[j]? = some w → a.fetchWord (a.cur.pc.toNat + 2 * j) = some w) → decode ws = .ok i ws.length →
    let b := t.takeUp h k defer ws ((t.core h).usesOf k i)
    let v := if (t.ctx h k).fetched = true then b else b.fetchUsed ws.length
    let after (o : Out) : Prop :=
      (∀ r, o = .next r → (r.ctx h k).state.stalled = false → step s = s.conclude (.next ((r.noteIssue h k t.serial).idleCycle h))) ∧
      (∀ r, o = .next r → (r.ctx h k).state.stalled = true → step s = s.conclude (State.closeCycle h (r.tryList h defer ks))) ∧
      (∀ f, o = .fault f → step s = .fault f) ∧ ∀ r, o = .refused r → step s = .refused r
    (v.issueGate i = .ok () → after (exec i v)) ∧ ∀ e, v.issueGate i = .error e → after (v.stop e)

/-! ## The whole machine -/

/-- R165 .. R194: the words of a well-formed instruction decode to it, whatever follows them; only events have no words. -/
def Obligations.EncodedInstructionsDecode : Prop :=
  ∀ i : Instr, (encode i = [] ↔ toRaw i = none) ∧
    (i.wellFormed = true → encode i ≠ [] → ∀ rest, decode (encode i ++ rest) = .ok i (encode i).length)

/-- R165 .. R194: what decodes is a well-formed instruction of at most five words, and its words alone decide it. -/
def Obligations.DecodedInstructionsAreWellFormed : Prop :=
  ∀ ws i n, decode ws = .ok i n → i.wellFormed = true ∧ (toRaw i).isSome = true ∧ 1 ≤ n ∧ n ≤ 5 ∧ n ≤ ws.length ∧
    (∀ rest, decode (ws.take n ++ rest) = .ok i n) ∧ ∀ m < n, decode (ws.take m) = .more

/-- R219, R314: in user mode no instruction makes its context a supervisor but by a trap, which sets a cause and continues at `tvec`. -/
def Obligations.UserModeIsLeftByTraps : Prop :=
  ∀ i s t, (toRaw i).isSome = true → s.cur.state = .ready → s.cur.supervisor = false → exec i s = .next t →
    (t.ctx s.now.h s.now.k).supervisor = true →
    (t.ctx s.now.h s.now.k).pc = s.me.tvec ∧
      1 ≤ (t.ctx s.now.h s.now.k).cause.toNat ∧ (t.ctx s.now.h s.now.k).cause.toNat ≤ 17

/-- What each core and context and control space hold at reset. R415 gives the UDP number of a port, and R131, R391, R95, R53, R217 and
R11 give the scope, watchdog, scale, buffer, identity and idle values. Zero for every other register, and the stack base and size of a
launch's start, are the model's choice (log entry 2). -/
def Obligations.ResetValues : Prop :=
  ∀ h k, h < 65536 → k ≤ 10 →
    (State.reset.ctx h k).state = .idle ∧ (∀ r, (State.reset.ctx h k).gr r = 0) ∧
    (∀ n ∈ csrNumbers, n ≠ 0x001 → n ≠ 0x008 → n ≠ 0x040 → n ≠ 0x041 → n ≠ 0x051 → State.reset.readCsr h k n = 0) ∧
    State.reset.readCsr h k 0x001 = BitVec.ofNat 64 (hdie h * 2 ^ 24 + h / 256 * 2 ^ 16 + h % 256 * 2 ^ 8 + k) ∧
    State.reset.readCsr h k 0x040 = 0x1_4000 ∧ State.reset.readCsr h k 0x041 = 0x1000 ∧
    State.reset.readCsr h k 0x008 = 0x3_0000_0000 ∧ State.reset.readCsr h k 0x051 = 0x0100_0000 ∧
    (∀ i, ((State.reset.core h).buf i).state = 0 ∧ ((State.reset.core h).buf i).owner = 0x1F) ∧
    (∀ m n j, bankScale ((State.reset.core h).bankOf m) n j = 0x100) ∧ (∀ i, (State.reset.core h).tagFull i = false) ∧
    (State.reset.core h).tlb = [] ∧ (State.reset.core h).l1 = [] ∧ State.reset.launches = [] ∧
    ∀ a, State.reset.ctlReg a = ctlAtReset a

/-- The memory of the machine at reset is in its canonical form (log entry 1 says what it reads as). -/
def Obligations.ResetMemoryIsCanonical : Prop :=
  MemCanonical State.reset

/-- Every step keeps memory in its canonical form. -/
def Obligations.StepsKeepMemoryCanonical : Prop :=
  ∀ s t, MemCanonical s → step s = .next t → MemCanonical t

/-- The words that the spec writes out for instructions of each family (R165 .. R184 and the instruction chapters) decode to them. -/
def Obligations.SpecWordsDecode : Prop :=
  decode [0x0D18] = .ok (.add ⟨6, 4, 3⟩) 1 ∧ decode [0xF408, 0x1D1F] = .ok (.sel ⟨6, 4, 3, 8⟩) 2 ∧
  decode [0xE240] = .ok (.call ⟨64⟩) 1 ∧ decode [0xF480, 0xE440] = .ok (.jr ⟨17⟩) 2 ∧
  decode [0xF840, 0x0D1A] = .ok (.div ⟨0, 6, 4, 3⟩) 2 ∧ decode [0xF880, 0x1A20] = .ok (.csrrd ⟨0, 5, 0x020⟩) 2 ∧
  decode [0xF880, 0x3003] = .ok (.sys ⟨0⟩) 2 ∧ decode [0xF840, 0xF409, 0x1657] = .ok (.ffma ⟨0, 3, 1, 2, 9⟩) 3 ∧
  decode [0xF8CD, 0xFD20, 0xF440, 0xF011, 0x0D18] = .ok (.ldD ⟨3, 1, 9, 6, 12, 136⟩) 5 ∧
  decode [0xF900, 0xFD01, 0xF480, 0x0D38] = .ok (.amoAdd ⟨0, 0, 8, true, 6, 20, 7⟩) 4 ∧
  decode [0xF988, 0xFC05, 0xF500, 0x0250] = .ok (.vfadd ⟨2, 5, 9, 1, 2⟩) 4 ∧
  decode [0xF9C0, 0xF440, 0x0702] = .ok (.vld ⟨0, 0, 0, 3, 12, 2⟩) 3 ∧
  decode [0xFA40, 0xFCE1, 0xF404, 0x108B] = .ok (.mmaE2x ⟨0, 7, true, false, 2, 1, 4⟩) 4 ∧
  decode [0xFA80, 0xF440, 0x0C84] = .ok (.spawn ⟨0, 6, 10⟩) 3 ∧
  decode [0xFAC2, 0xFD20, 0xF480, 0x1141] = .ok (.xbarr ⟨0, 2, 9, 21, 0⟩) 4 ∧
  decode [0xFB00, 0xF4C0, 0x01C0] = .ok (.sret ⟨0, 31⟩) 3 ∧
  decode [0xF1FF, 0x8B58] = .bad ⟨3, 0, 0xF1FF⟩ ∧ decode [0xF8CD, 0x8B58] = .bad ⟨6, 1, 0x8B58⟩ ∧
  decode [0xF80D, 0x0D18] = .bad ⟨5, 0, 0xF80D⟩ ∧ decode [0xF840, 0x0006] = .bad ⟨6, 1, 0x0006⟩ ∧ decode [0xFB40, 0] = .bad ⟨6, 0, 0xFB40⟩
end

