-- ==== Sys2Proof/Laws/Maps.lean ====
section
/-! SUPPORT. What reading, writing and removing do in a sparse map, and that every memory operation keeps the canonical form. -/

namespace Sys2Proof.Laws

open Sys2Proof.Machine

variable {α : Type} (m : SMap α)

/-! ## Reading after writing -/

@[simp] theorem get_nil (d : α) (k : Nat) : SMap.get [] d k = d := rfl

theorem get_put (d v : α) (j k : Nat) : SMap.get (SMap.put m k v) d j = if k = j then v else SMap.get m d j := by
  fun_induction SMap.put m k v <;> grind [SMap.get]

@[simp] theorem get_put_same (d v : α) (k : Nat) : SMap.get (SMap.put m k v) d k = v := by rw [get_put, if_pos rfl]

theorem get_put_other (d v : α) {j k : Nat} (h : k ≠ j) : SMap.get (SMap.put m k v) d j = SMap.get m d j := by
  rw [get_put, if_neg h]

theorem get_del (d : α) (j k : Nat) : SMap.get (SMap.del m k) d j = if k = j then d else SMap.get m d j := by
  fun_induction SMap.del m k <;> grind [SMap.get]

@[simp] theorem get_del_same (d : α) (k : Nat) : SMap.get (SMap.del m k) d k = d := by rw [get_del, if_pos rfl]

theorem get_del_other (d : α) {j k : Nat} (h : k ≠ j) : SMap.get (SMap.del m k) d j = SMap.get m d j := by rw [get_del, if_neg h]

/-- Two writes to one key are the second. -/
theorem put_put (k : Nat) (v w : α) : SMap.put (SMap.put m k v) k w = SMap.put m k w := by
  fun_induction SMap.put m k v <;> grind [SMap.put]

/-- A key that is not listed reads as the default. -/
theorem get_of_not_has {m : SMap α} {d : α} {k : Nat} (h : SMap.has m k = false) : SMap.get m d k = d := by
  fun_induction SMap.get m d k <;> grind [SMap.has]

/-- Removing a key is keeping the others. -/
theorem del_eq_filter (k : Nat) : SMap.del m k = m.filter (fun p => p.1 != k) := by
  fun_induction SMap.del m k <;> grind

/-- What is listed after a write was listed before, or is what was written. -/
theorem mem_put {m : SMap α} {k : Nat} {v : α} {p : Nat × α} (h : p ∈ SMap.put m k v) : p = (k, v) ∨ p ∈ m := by
  fun_induction SMap.put m k v <;> grind

/-! ## Sorted lists -/

theorem above_mono {b c : Nat} {m : SMap α} (h : SMap.above c m = true) (hb : b ≤ c) : SMap.above b m = true := by
  cases m <;> grind [SMap.above]

theorem sorted_of_above {b : Nat} {m : SMap α} (h : SMap.above b m = true) : SMap.sorted m = true := by
  cases m <;> grind [SMap.above, SMap.sorted]

theorem above_put {b k : Nat} {v : α} {m : SMap α} (h : SMap.above b m = true) (hk : b < k) :
    SMap.above b (SMap.put m k v) = true := by
  fun_induction SMap.put m k v generalizing b <;> grind [SMap.above]

theorem sorted_put {k : Nat} {v : α} {m : SMap α} (h : SMap.sorted m = true) : SMap.sorted (SMap.put m k v) = true := by
  cases m <;> grind [SMap.put, SMap.sorted, SMap.above, above_put]

theorem above_filter {b : Nat} {m : SMap α} (f : Nat × α → Bool) (h : SMap.above b m = true) :
    SMap.above b (m.filter f) = true := by
  fun_induction SMap.above b m <;> grind [SMap.above, above_mono]

theorem sorted_filter {m : SMap α} (f : Nat × α → Bool) (h : SMap.sorted m = true) : SMap.sorted (m.filter f) = true := by
  match m with
  | [] => rfl
  | p :: m =>
    have k := above_filter f (b := p.1) h
    rw [List.filter_cons]
    exact if c : f p = true then by rwa [if_pos c] else by rw [if_neg c]; exact sorted_of_above k

/-! ## Memory -/

theorem byte_setByte (m : Memory) (a c : Nat) (b : Byte) : (m.setByte a b).byte c = if a = c then b else m.byte c := by
  grind [Memory.setByte, Memory.byte, get_put, get_del]

@[simp] theorem byte_setByte_same (m : Memory) (a : Nat) (b : Byte) : (m.setByte a b).byte a = b := by rw [byte_setByte, if_pos rfl]

theorem byte_setByte_other (m : Memory) (b : Byte) {a c : Nat} (h : a ≠ c) : (m.setByte a b).byte c = m.byte c := by
  rw [byte_setByte, if_neg h]

/-- The canonical form, entry by entry. -/
theorem wf_iff (m : Memory) : m.wf = true ↔ SMap.sorted m = true ∧ ∀ p ∈ m, p.2 ≠ unwritten := by simp [Memory.wf]

theorem wf_filter {m : Memory} (f : Nat × Byte → Bool) (h : m.wf = true) : Memory.wf (m.filter f) = true := by
  grind [wf_iff, sorted_filter]

theorem wf_setByte {m : Memory} (a : Nat) (b : Byte) (h : m.wf = true) : (m.setByte a b).wf = true := by
  rw [wf_iff] at *
  unfold Memory.setByte
  split
  · exact del_eq_filter m a ▸ ⟨sorted_filter _ h.1, by grind⟩
  · exact ⟨sorted_put h.1, fun p hp => (mem_put hp).elim (fun e => e ▸ ‹_›) (h.2 p)⟩

theorem wf_setBytes {m : Memory} (bs : List Byte) (a : Nat) (h : m.wf = true) : (m.setBytes a bs).wf = true := by
  fun_induction Memory.setBytes m a bs <;> grind [wf_setByte]

theorem byte_setBytes (bs : List Byte) (m : Memory) (a c : Nat) :
    (m.setBytes a bs).byte c = if a ≤ c ∧ c < a + bs.length then bs.getD (c - a) 0#8 else m.byte c := by
  fun_induction Memory.setBytes m a bs <;> grind [byte_setByte]

/-! ## Little-endian numbers -/

@[simp] theorem leBytes_length (n x : Nat) : (leBytes n x).length = n := by
  fun_induction leBytes n x <;> simp_all

theorem leNat_lt (bs : List Byte) : leNat bs < 256 ^ bs.length := by
  fun_induction leNat bs with
  | case1 => simp
  | case2 b bs ih => have := b.isLt; rw [List.length_cons, Nat.pow_succ]; omega

/-- The number of the bytes of a number. -/
theorem leNat_leBytes (n x : Nat) : leNat (leBytes n x) = x % 256 ^ n := by
  fun_induction leBytes n x with
  | case1 => simp [leNat, Nat.mod_one]
  | case2 n x ih => rw [leNat, ih, BitVec.toNat_ofNat, Nat.pow_succ' (m := 256), Nat.mod_mul (a := 256)]

end Sys2Proof.Laws
end

