-- ==== Sys2Proof/Laws/State.lean ====
section
/-! SUPPORT. What each update of the state and of a context leaves as it was, field by field; and contexts, cores and dies read
after they are written. -/

namespace Sys2Proof.Laws

open Sys2Proof.Machine

/-! ## Updates of the state -/

section
variable (s : State) (h k : Nat) (c : Ctx)
@[simp] theorem setCtx_cores : (s.setCtx h k c).cores = s.cores := rfl
@[simp] theorem setCtx_dies : (s.setCtx h k c).dies = s.dies := rfl
@[simp] theorem setCtx_mem : (s.setCtx h k c).mem = s.mem := rfl
@[simp] theorem setCtx_poison : (s.setCtx h k c).poison = s.poison := rfl
@[simp] theorem setCtx_nsEra : (s.setCtx h k c).nsEra = s.nsEra := rfl
@[simp] theorem setCtx_devLines : (s.setCtx h k c).devLines = s.devLines := rfl
@[simp] theorem setCtx_ctl : (s.setCtx h k c).ctl = s.ctl := rfl
@[simp] theorem setCtx_launches : (s.setCtx h k c).launches = s.launches := rfl
@[simp] theorem setCtx_gangs : (s.setCtx h k c).gangs = s.gangs := rfl
@[simp] theorem setCtx_log : (s.setCtx h k c).log = s.log := rfl
@[simp] theorem setCtx_logw : (s.setCtx h k c).logw = s.logw := rfl
@[simp] theorem setCtx_reqs : (s.setCtx h k c).reqs = s.reqs := rfl
@[simp] theorem setCtx_recs : (s.setCtx h k c).recs = s.recs := rfl
@[simp] theorem setCtx_ops : (s.setCtx h k c).ops = s.ops := rfl
@[simp] theorem setCtx_dels : (s.setCtx h k c).dels = s.dels := rfl
@[simp] theorem setCtx_arrivals : (s.setCtx h k c).arrivals = s.arrivals := rfl
@[simp] theorem setCtx_msgs : (s.setCtx h k c).msgs = s.msgs := rfl
@[simp] theorem setCtx_jobs : (s.setCtx h k c).jobs = s.jobs := rfl
@[simp] theorem setCtx_scache : (s.setCtx h k c).scache = s.scache := rfl
@[simp] theorem setCtx_served : (s.setCtx h k c).served = s.served := rfl
@[simp] theorem setCtx_chans : (s.setCtx h k c).chans = s.chans := rfl
@[simp] theorem setCtx_links : (s.setCtx h k c).links = s.links := rfl
@[simp] theorem setCtx_inwrites : (s.setCtx h k c).inwrites = s.inwrites := rfl
@[simp] theorem setCtx_ports : (s.setCtx h k c).ports = s.ports := rfl
@[simp] theorem setCtx_tears : (s.setCtx h k c).tears = s.tears := rfl
@[simp] theorem setCtx_heads : (s.setCtx h k c).heads = s.heads := rfl
@[simp] theorem setCtx_images : (s.setCtx h k c).images = s.images := rfl
@[simp] theorem setCtx_checked : (s.setCtx h k c).checked = s.checked := rfl
@[simp] theorem setCtx_arbiter : (s.setCtx h k c).arbiter = s.arbiter := rfl
@[simp] theorem setCtx_handled : (s.setCtx h k c).handled = s.handled := rfl
@[simp] theorem setCtx_failed : (s.setCtx h k c).failed = s.failed := rfl
@[simp] theorem setCtx_errC : (s.setCtx h k c).errC = s.errC := rfl
@[simp] theorem setCtx_errU : (s.setCtx h k c).errU = s.errU := rfl
@[simp] theorem setCtx_captures : (s.setCtx h k c).captures = s.captures := rfl
@[simp] theorem setCtx_attq : (s.setCtx h k c).attq = s.attq := rfl
@[simp] theorem setCtx_attrep : (s.setCtx h k c).attrep = s.attrep := rfl
@[simp] theorem setCtx_flash : (s.setCtx h k c).flash = s.flash := rfl
@[simp] theorem setCtx_flashMc : (s.setCtx h k c).flashMc = s.flashMc := rfl
@[simp] theorem setCtx_booted : (s.setCtx h k c).booted = s.booted := rfl
@[simp] theorem setCtx_bootedMc : (s.setCtx h k c).bootedMc = s.bootedMc := rfl
@[simp] theorem setCtx_bwevents : (s.setCtx h k c).bwevents = s.bwevents := rfl
@[simp] theorem setCtx_outputs : (s.setCtx h k c).outputs = s.outputs := rfl
@[simp] theorem setCtx_peerDeny : (s.setCtx h k c).peerDeny = s.peerDeny := rfl
@[simp] theorem setCtx_dclk : (s.setCtx h k c).dclk = s.dclk := rfl
@[simp] theorem setCtx_now : (s.setCtx h k c).now = s.now := rfl
@[simp] theorem setCtx_agenda : (s.setCtx h k c).agenda = s.agenda := rfl
@[simp] theorem setCtx_serial : (s.setCtx h k c).serial = s.serial := rfl
end

section
variable (s : State) (h k : Nat) (f : Ctx → Ctx)
@[simp] theorem modCtx_cores : (s.modCtx h k f).cores = s.cores := rfl
@[simp] theorem modCtx_dies : (s.modCtx h k f).dies = s.dies := rfl
@[simp] theorem modCtx_mem : (s.modCtx h k f).mem = s.mem := rfl
@[simp] theorem modCtx_poison : (s.modCtx h k f).poison = s.poison := rfl
@[simp] theorem modCtx_nsEra : (s.modCtx h k f).nsEra = s.nsEra := rfl
@[simp] theorem modCtx_devLines : (s.modCtx h k f).devLines = s.devLines := rfl
@[simp] theorem modCtx_ctl : (s.modCtx h k f).ctl = s.ctl := rfl
@[simp] theorem modCtx_launches : (s.modCtx h k f).launches = s.launches := rfl
@[simp] theorem modCtx_gangs : (s.modCtx h k f).gangs = s.gangs := rfl
@[simp] theorem modCtx_log : (s.modCtx h k f).log = s.log := rfl
@[simp] theorem modCtx_logw : (s.modCtx h k f).logw = s.logw := rfl
@[simp] theorem modCtx_reqs : (s.modCtx h k f).reqs = s.reqs := rfl
@[simp] theorem modCtx_recs : (s.modCtx h k f).recs = s.recs := rfl
@[simp] theorem modCtx_ops : (s.modCtx h k f).ops = s.ops := rfl
@[simp] theorem modCtx_dels : (s.modCtx h k f).dels = s.dels := rfl
@[simp] theorem modCtx_arrivals : (s.modCtx h k f).arrivals = s.arrivals := rfl
@[simp] theorem modCtx_msgs : (s.modCtx h k f).msgs = s.msgs := rfl
@[simp] theorem modCtx_jobs : (s.modCtx h k f).jobs = s.jobs := rfl
@[simp] theorem modCtx_scache : (s.modCtx h k f).scache = s.scache := rfl
@[simp] theorem modCtx_served : (s.modCtx h k f).served = s.served := rfl
@[simp] theorem modCtx_chans : (s.modCtx h k f).chans = s.chans := rfl
@[simp] theorem modCtx_links : (s.modCtx h k f).links = s.links := rfl
@[simp] theorem modCtx_inwrites : (s.modCtx h k f).inwrites = s.inwrites := rfl
@[simp] theorem modCtx_ports : (s.modCtx h k f).ports = s.ports := rfl
@[simp] theorem modCtx_tears : (s.modCtx h k f).tears = s.tears := rfl
@[simp] theorem modCtx_heads : (s.modCtx h k f).heads = s.heads := rfl
@[simp] theorem modCtx_images : (s.modCtx h k f).images = s.images := rfl
@[simp] theorem modCtx_checked : (s.modCtx h k f).checked = s.checked := rfl
@[simp] theorem modCtx_arbiter : (s.modCtx h k f).arbiter = s.arbiter := rfl
@[simp] theorem modCtx_handled : (s.modCtx h k f).handled = s.handled := rfl
@[simp] theorem modCtx_failed : (s.modCtx h k f).failed = s.failed := rfl
@[simp] theorem modCtx_errC : (s.modCtx h k f).errC = s.errC := rfl
@[simp] theorem modCtx_errU : (s.modCtx h k f).errU = s.errU := rfl
@[simp] theorem modCtx_captures : (s.modCtx h k f).captures = s.captures := rfl
@[simp] theorem modCtx_attq : (s.modCtx h k f).attq = s.attq := rfl
@[simp] theorem modCtx_attrep : (s.modCtx h k f).attrep = s.attrep := rfl
@[simp] theorem modCtx_flash : (s.modCtx h k f).flash = s.flash := rfl
@[simp] theorem modCtx_flashMc : (s.modCtx h k f).flashMc = s.flashMc := rfl
@[simp] theorem modCtx_booted : (s.modCtx h k f).booted = s.booted := rfl
@[simp] theorem modCtx_bootedMc : (s.modCtx h k f).bootedMc = s.bootedMc := rfl
@[simp] theorem modCtx_bwevents : (s.modCtx h k f).bwevents = s.bwevents := rfl
@[simp] theorem modCtx_outputs : (s.modCtx h k f).outputs = s.outputs := rfl
@[simp] theorem modCtx_peerDeny : (s.modCtx h k f).peerDeny = s.peerDeny := rfl
@[simp] theorem modCtx_dclk : (s.modCtx h k f).dclk = s.dclk := rfl
@[simp] theorem modCtx_now : (s.modCtx h k f).now = s.now := rfl
@[simp] theorem modCtx_agenda : (s.modCtx h k f).agenda = s.agenda := rfl
@[simp] theorem modCtx_serial : (s.modCtx h k f).serial = s.serial := rfl
end

section
variable (s : State) (f : Ctx → Ctx)
@[simp] theorem modCur_cores : (s.modCur f).cores = s.cores := rfl
@[simp] theorem modCur_dies : (s.modCur f).dies = s.dies := rfl
@[simp] theorem modCur_mem : (s.modCur f).mem = s.mem := rfl
@[simp] theorem modCur_poison : (s.modCur f).poison = s.poison := rfl
@[simp] theorem modCur_nsEra : (s.modCur f).nsEra = s.nsEra := rfl
@[simp] theorem modCur_devLines : (s.modCur f).devLines = s.devLines := rfl
@[simp] theorem modCur_ctl : (s.modCur f).ctl = s.ctl := rfl
@[simp] theorem modCur_launches : (s.modCur f).launches = s.launches := rfl
@[simp] theorem modCur_gangs : (s.modCur f).gangs = s.gangs := rfl
@[simp] theorem modCur_log : (s.modCur f).log = s.log := rfl
@[simp] theorem modCur_logw : (s.modCur f).logw = s.logw := rfl
@[simp] theorem modCur_reqs : (s.modCur f).reqs = s.reqs := rfl
@[simp] theorem modCur_recs : (s.modCur f).recs = s.recs := rfl
@[simp] theorem modCur_ops : (s.modCur f).ops = s.ops := rfl
@[simp] theorem modCur_dels : (s.modCur f).dels = s.dels := rfl
@[simp] theorem modCur_arrivals : (s.modCur f).arrivals = s.arrivals := rfl
@[simp] theorem modCur_msgs : (s.modCur f).msgs = s.msgs := rfl
@[simp] theorem modCur_jobs : (s.modCur f).jobs = s.jobs := rfl
@[simp] theorem modCur_scache : (s.modCur f).scache = s.scache := rfl
@[simp] theorem modCur_served : (s.modCur f).served = s.served := rfl
@[simp] theorem modCur_chans : (s.modCur f).chans = s.chans := rfl
@[simp] theorem modCur_links : (s.modCur f).links = s.links := rfl
@[simp] theorem modCur_inwrites : (s.modCur f).inwrites = s.inwrites := rfl
@[simp] theorem modCur_ports : (s.modCur f).ports = s.ports := rfl
@[simp] theorem modCur_tears : (s.modCur f).tears = s.tears := rfl
@[simp] theorem modCur_heads : (s.modCur f).heads = s.heads := rfl
@[simp] theorem modCur_images : (s.modCur f).images = s.images := rfl
@[simp] theorem modCur_checked : (s.modCur f).checked = s.checked := rfl
@[simp] theorem modCur_arbiter : (s.modCur f).arbiter = s.arbiter := rfl
@[simp] theorem modCur_handled : (s.modCur f).handled = s.handled := rfl
@[simp] theorem modCur_failed : (s.modCur f).failed = s.failed := rfl
@[simp] theorem modCur_errC : (s.modCur f).errC = s.errC := rfl
@[simp] theorem modCur_errU : (s.modCur f).errU = s.errU := rfl
@[simp] theorem modCur_captures : (s.modCur f).captures = s.captures := rfl
@[simp] theorem modCur_attq : (s.modCur f).attq = s.attq := rfl
@[simp] theorem modCur_attrep : (s.modCur f).attrep = s.attrep := rfl
@[simp] theorem modCur_flash : (s.modCur f).flash = s.flash := rfl
@[simp] theorem modCur_flashMc : (s.modCur f).flashMc = s.flashMc := rfl
@[simp] theorem modCur_booted : (s.modCur f).booted = s.booted := rfl
@[simp] theorem modCur_bootedMc : (s.modCur f).bootedMc = s.bootedMc := rfl
@[simp] theorem modCur_bwevents : (s.modCur f).bwevents = s.bwevents := rfl
@[simp] theorem modCur_outputs : (s.modCur f).outputs = s.outputs := rfl
@[simp] theorem modCur_peerDeny : (s.modCur f).peerDeny = s.peerDeny := rfl
@[simp] theorem modCur_dclk : (s.modCur f).dclk = s.dclk := rfl
@[simp] theorem modCur_now : (s.modCur f).now = s.now := rfl
@[simp] theorem modCur_agenda : (s.modCur f).agenda = s.agenda := rfl
@[simp] theorem modCur_serial : (s.modCur f).serial = s.serial := rfl
end

section
variable (s : State) (ws : List RegWrite)
@[simp] theorem endBase_cores : (s.endBase ws).cores = s.cores := rfl
@[simp] theorem endBase_dies : (s.endBase ws).dies = s.dies := rfl
@[simp] theorem endBase_mem : (s.endBase ws).mem = s.mem := rfl
@[simp] theorem endBase_poison : (s.endBase ws).poison = s.poison := rfl
@[simp] theorem endBase_nsEra : (s.endBase ws).nsEra = s.nsEra := rfl
@[simp] theorem endBase_devLines : (s.endBase ws).devLines = s.devLines := rfl
@[simp] theorem endBase_ctl : (s.endBase ws).ctl = s.ctl := rfl
@[simp] theorem endBase_launches : (s.endBase ws).launches = s.launches := rfl
@[simp] theorem endBase_gangs : (s.endBase ws).gangs = s.gangs := rfl
@[simp] theorem endBase_log : (s.endBase ws).log = s.log := rfl
@[simp] theorem endBase_logw : (s.endBase ws).logw = s.logw := rfl
@[simp] theorem endBase_reqs : (s.endBase ws).reqs = s.reqs := rfl
@[simp] theorem endBase_recs : (s.endBase ws).recs = s.recs := rfl
@[simp] theorem endBase_ops : (s.endBase ws).ops = s.ops := rfl
@[simp] theorem endBase_dels : (s.endBase ws).dels = s.dels := rfl
@[simp] theorem endBase_arrivals : (s.endBase ws).arrivals = s.arrivals := rfl
@[simp] theorem endBase_msgs : (s.endBase ws).msgs = s.msgs := rfl
@[simp] theorem endBase_jobs : (s.endBase ws).jobs = s.jobs := rfl
@[simp] theorem endBase_scache : (s.endBase ws).scache = s.scache := rfl
@[simp] theorem endBase_served : (s.endBase ws).served = s.served := rfl
@[simp] theorem endBase_chans : (s.endBase ws).chans = s.chans := rfl
@[simp] theorem endBase_links : (s.endBase ws).links = s.links := rfl
@[simp] theorem endBase_inwrites : (s.endBase ws).inwrites = s.inwrites := rfl
@[simp] theorem endBase_ports : (s.endBase ws).ports = s.ports := rfl
@[simp] theorem endBase_tears : (s.endBase ws).tears = s.tears := rfl
@[simp] theorem endBase_heads : (s.endBase ws).heads = s.heads := rfl
@[simp] theorem endBase_images : (s.endBase ws).images = s.images := rfl
@[simp] theorem endBase_checked : (s.endBase ws).checked = s.checked := rfl
@[simp] theorem endBase_arbiter : (s.endBase ws).arbiter = s.arbiter := rfl
@[simp] theorem endBase_handled : (s.endBase ws).handled = s.handled := rfl
@[simp] theorem endBase_failed : (s.endBase ws).failed = s.failed := rfl
@[simp] theorem endBase_errC : (s.endBase ws).errC = s.errC := rfl
@[simp] theorem endBase_errU : (s.endBase ws).errU = s.errU := rfl
@[simp] theorem endBase_captures : (s.endBase ws).captures = s.captures := rfl
@[simp] theorem endBase_attq : (s.endBase ws).attq = s.attq := rfl
@[simp] theorem endBase_attrep : (s.endBase ws).attrep = s.attrep := rfl
@[simp] theorem endBase_flash : (s.endBase ws).flash = s.flash := rfl
@[simp] theorem endBase_flashMc : (s.endBase ws).flashMc = s.flashMc := rfl
@[simp] theorem endBase_booted : (s.endBase ws).booted = s.booted := rfl
@[simp] theorem endBase_bootedMc : (s.endBase ws).bootedMc = s.bootedMc := rfl
@[simp] theorem endBase_bwevents : (s.endBase ws).bwevents = s.bwevents := rfl
@[simp] theorem endBase_outputs : (s.endBase ws).outputs = s.outputs := rfl
@[simp] theorem endBase_peerDeny : (s.endBase ws).peerDeny = s.peerDeny := rfl
@[simp] theorem endBase_dclk : (s.endBase ws).dclk = s.dclk := rfl
@[simp] theorem endBase_now : (s.endBase ws).now = s.now := rfl
@[simp] theorem endBase_agenda : (s.endBase ws).agenda = s.agenda := rfl
@[simp] theorem endBase_serial : (s.endBase ws).serial = s.serial := rfl
end

section
variable (s : State) (l : BitVec 4) (ws : List RegWrite) (p : Pend)
@[simp] theorem stay_cores : (s.stay l ws p).cores = s.cores := rfl
@[simp] theorem stay_dies : (s.stay l ws p).dies = s.dies := rfl
@[simp] theorem stay_mem : (s.stay l ws p).mem = s.mem := rfl
@[simp] theorem stay_poison : (s.stay l ws p).poison = s.poison := rfl
@[simp] theorem stay_nsEra : (s.stay l ws p).nsEra = s.nsEra := rfl
@[simp] theorem stay_devLines : (s.stay l ws p).devLines = s.devLines := rfl
@[simp] theorem stay_ctl : (s.stay l ws p).ctl = s.ctl := rfl
@[simp] theorem stay_launches : (s.stay l ws p).launches = s.launches := rfl
@[simp] theorem stay_gangs : (s.stay l ws p).gangs = s.gangs := rfl
@[simp] theorem stay_log : (s.stay l ws p).log = s.log := rfl
@[simp] theorem stay_logw : (s.stay l ws p).logw = s.logw := rfl
@[simp] theorem stay_reqs : (s.stay l ws p).reqs = s.reqs := rfl
@[simp] theorem stay_recs : (s.stay l ws p).recs = s.recs := rfl
@[simp] theorem stay_ops : (s.stay l ws p).ops = s.ops := rfl
@[simp] theorem stay_dels : (s.stay l ws p).dels = s.dels := rfl
@[simp] theorem stay_arrivals : (s.stay l ws p).arrivals = s.arrivals := rfl
@[simp] theorem stay_msgs : (s.stay l ws p).msgs = s.msgs := rfl
@[simp] theorem stay_jobs : (s.stay l ws p).jobs = s.jobs := rfl
@[simp] theorem stay_scache : (s.stay l ws p).scache = s.scache := rfl
@[simp] theorem stay_served : (s.stay l ws p).served = s.served := rfl
@[simp] theorem stay_chans : (s.stay l ws p).chans = s.chans := rfl
@[simp] theorem stay_links : (s.stay l ws p).links = s.links := rfl
@[simp] theorem stay_inwrites : (s.stay l ws p).inwrites = s.inwrites := rfl
@[simp] theorem stay_ports : (s.stay l ws p).ports = s.ports := rfl
@[simp] theorem stay_tears : (s.stay l ws p).tears = s.tears := rfl
@[simp] theorem stay_heads : (s.stay l ws p).heads = s.heads := rfl
@[simp] theorem stay_images : (s.stay l ws p).images = s.images := rfl
@[simp] theorem stay_checked : (s.stay l ws p).checked = s.checked := rfl
@[simp] theorem stay_arbiter : (s.stay l ws p).arbiter = s.arbiter := rfl
@[simp] theorem stay_handled : (s.stay l ws p).handled = s.handled := rfl
@[simp] theorem stay_failed : (s.stay l ws p).failed = s.failed := rfl
@[simp] theorem stay_errC : (s.stay l ws p).errC = s.errC := rfl
@[simp] theorem stay_errU : (s.stay l ws p).errU = s.errU := rfl
@[simp] theorem stay_captures : (s.stay l ws p).captures = s.captures := rfl
@[simp] theorem stay_attq : (s.stay l ws p).attq = s.attq := rfl
@[simp] theorem stay_attrep : (s.stay l ws p).attrep = s.attrep := rfl
@[simp] theorem stay_flash : (s.stay l ws p).flash = s.flash := rfl
@[simp] theorem stay_flashMc : (s.stay l ws p).flashMc = s.flashMc := rfl
@[simp] theorem stay_booted : (s.stay l ws p).booted = s.booted := rfl
@[simp] theorem stay_bootedMc : (s.stay l ws p).bootedMc = s.bootedMc := rfl
@[simp] theorem stay_bwevents : (s.stay l ws p).bwevents = s.bwevents := rfl
@[simp] theorem stay_outputs : (s.stay l ws p).outputs = s.outputs := rfl
@[simp] theorem stay_peerDeny : (s.stay l ws p).peerDeny = s.peerDeny := rfl
@[simp] theorem stay_dclk : (s.stay l ws p).dclk = s.dclk := rfl
@[simp] theorem stay_now : (s.stay l ws p).now = s.now := rfl
@[simp] theorem stay_agenda : (s.stay l ws p).agenda = s.agenda := rfl
end

section
variable (s : State) (e : PEntry)
@[simp] theorem enqueue_cores : (s.enqueue e).cores = s.cores := rfl
@[simp] theorem enqueue_dies : (s.enqueue e).dies = s.dies := rfl
@[simp] theorem enqueue_mem : (s.enqueue e).mem = s.mem := rfl
@[simp] theorem enqueue_poison : (s.enqueue e).poison = s.poison := rfl
@[simp] theorem enqueue_nsEra : (s.enqueue e).nsEra = s.nsEra := rfl
@[simp] theorem enqueue_devLines : (s.enqueue e).devLines = s.devLines := rfl
@[simp] theorem enqueue_ctl : (s.enqueue e).ctl = s.ctl := rfl
@[simp] theorem enqueue_launches : (s.enqueue e).launches = s.launches := rfl
@[simp] theorem enqueue_gangs : (s.enqueue e).gangs = s.gangs := rfl
@[simp] theorem enqueue_log : (s.enqueue e).log = s.log := rfl
@[simp] theorem enqueue_logw : (s.enqueue e).logw = s.logw := rfl
@[simp] theorem enqueue_reqs : (s.enqueue e).reqs = s.reqs := rfl
@[simp] theorem enqueue_recs : (s.enqueue e).recs = s.recs := rfl
@[simp] theorem enqueue_ops : (s.enqueue e).ops = s.ops := rfl
@[simp] theorem enqueue_dels : (s.enqueue e).dels = s.dels := rfl
@[simp] theorem enqueue_arrivals : (s.enqueue e).arrivals = s.arrivals := rfl
@[simp] theorem enqueue_msgs : (s.enqueue e).msgs = s.msgs := rfl
@[simp] theorem enqueue_jobs : (s.enqueue e).jobs = s.jobs := rfl
@[simp] theorem enqueue_scache : (s.enqueue e).scache = s.scache := rfl
@[simp] theorem enqueue_served : (s.enqueue e).served = s.served := rfl
@[simp] theorem enqueue_chans : (s.enqueue e).chans = s.chans := rfl
@[simp] theorem enqueue_links : (s.enqueue e).links = s.links := rfl
@[simp] theorem enqueue_inwrites : (s.enqueue e).inwrites = s.inwrites := rfl
@[simp] theorem enqueue_ports : (s.enqueue e).ports = s.ports := rfl
@[simp] theorem enqueue_tears : (s.enqueue e).tears = s.tears := rfl
@[simp] theorem enqueue_heads : (s.enqueue e).heads = s.heads := rfl
@[simp] theorem enqueue_images : (s.enqueue e).images = s.images := rfl
@[simp] theorem enqueue_checked : (s.enqueue e).checked = s.checked := rfl
@[simp] theorem enqueue_arbiter : (s.enqueue e).arbiter = s.arbiter := rfl
@[simp] theorem enqueue_handled : (s.enqueue e).handled = s.handled := rfl
@[simp] theorem enqueue_failed : (s.enqueue e).failed = s.failed := rfl
@[simp] theorem enqueue_errC : (s.enqueue e).errC = s.errC := rfl
@[simp] theorem enqueue_errU : (s.enqueue e).errU = s.errU := rfl
@[simp] theorem enqueue_captures : (s.enqueue e).captures = s.captures := rfl
@[simp] theorem enqueue_attq : (s.enqueue e).attq = s.attq := rfl
@[simp] theorem enqueue_attrep : (s.enqueue e).attrep = s.attrep := rfl
@[simp] theorem enqueue_flash : (s.enqueue e).flash = s.flash := rfl
@[simp] theorem enqueue_flashMc : (s.enqueue e).flashMc = s.flashMc := rfl
@[simp] theorem enqueue_booted : (s.enqueue e).booted = s.booted := rfl
@[simp] theorem enqueue_bootedMc : (s.enqueue e).bootedMc = s.bootedMc := rfl
@[simp] theorem enqueue_bwevents : (s.enqueue e).bwevents = s.bwevents := rfl
@[simp] theorem enqueue_outputs : (s.enqueue e).outputs = s.outputs := rfl
@[simp] theorem enqueue_peerDeny : (s.enqueue e).peerDeny = s.peerDeny := rfl
@[simp] theorem enqueue_dclk : (s.enqueue e).dclk = s.dclk := rfl
@[simp] theorem enqueue_now : (s.enqueue e).now = s.now := rfl
@[simp] theorem enqueue_agenda : (s.enqueue e).agenda = s.agenda := rfl
@[simp] theorem enqueue_serial : (s.enqueue e).serial = s.serial := rfl
end

section
variable (s : State) (h k id code : Nat) (fpc rpc addr info : Word)
@[simp] theorem raiseAt_cores : (s.raiseAt h k id code fpc rpc addr info).cores = s.cores := rfl
@[simp] theorem raiseAt_dies : (s.raiseAt h k id code fpc rpc addr info).dies = s.dies := rfl
@[simp] theorem raiseAt_mem : (s.raiseAt h k id code fpc rpc addr info).mem = s.mem := rfl
@[simp] theorem raiseAt_poison : (s.raiseAt h k id code fpc rpc addr info).poison = s.poison := rfl
@[simp] theorem raiseAt_nsEra : (s.raiseAt h k id code fpc rpc addr info).nsEra = s.nsEra := rfl
@[simp] theorem raiseAt_devLines : (s.raiseAt h k id code fpc rpc addr info).devLines = s.devLines := rfl
@[simp] theorem raiseAt_ctl : (s.raiseAt h k id code fpc rpc addr info).ctl = s.ctl := rfl
@[simp] theorem raiseAt_launches : (s.raiseAt h k id code fpc rpc addr info).launches = s.launches := rfl
@[simp] theorem raiseAt_gangs : (s.raiseAt h k id code fpc rpc addr info).gangs = s.gangs := rfl
@[simp] theorem raiseAt_log : (s.raiseAt h k id code fpc rpc addr info).log = s.log := rfl
@[simp] theorem raiseAt_logw : (s.raiseAt h k id code fpc rpc addr info).logw = s.logw := rfl
@[simp] theorem raiseAt_reqs : (s.raiseAt h k id code fpc rpc addr info).reqs = s.reqs := rfl
@[simp] theorem raiseAt_recs : (s.raiseAt h k id code fpc rpc addr info).recs = s.recs := rfl
@[simp] theorem raiseAt_ops : (s.raiseAt h k id code fpc rpc addr info).ops = s.ops := rfl
@[simp] theorem raiseAt_dels : (s.raiseAt h k id code fpc rpc addr info).dels = s.dels := rfl
@[simp] theorem raiseAt_arrivals : (s.raiseAt h k id code fpc rpc addr info).arrivals = s.arrivals := rfl
@[simp] theorem raiseAt_msgs : (s.raiseAt h k id code fpc rpc addr info).msgs = s.msgs := rfl
@[simp] theorem raiseAt_jobs : (s.raiseAt h k id code fpc rpc addr info).jobs = s.jobs := rfl
@[simp] theorem raiseAt_scache : (s.raiseAt h k id code fpc rpc addr info).scache = s.scache := rfl
@[simp] theorem raiseAt_served : (s.raiseAt h k id code fpc rpc addr info).served = s.served := rfl
@[simp] theorem raiseAt_chans : (s.raiseAt h k id code fpc rpc addr info).chans = s.chans := rfl
@[simp] theorem raiseAt_links : (s.raiseAt h k id code fpc rpc addr info).links = s.links := rfl
@[simp] theorem raiseAt_inwrites : (s.raiseAt h k id code fpc rpc addr info).inwrites = s.inwrites := rfl
@[simp] theorem raiseAt_ports : (s.raiseAt h k id code fpc rpc addr info).ports = s.ports := rfl
@[simp] theorem raiseAt_tears : (s.raiseAt h k id code fpc rpc addr info).tears = s.tears := rfl
@[simp] theorem raiseAt_heads : (s.raiseAt h k id code fpc rpc addr info).heads = s.heads := rfl
@[simp] theorem raiseAt_images : (s.raiseAt h k id code fpc rpc addr info).images = s.images := rfl
@[simp] theorem raiseAt_checked : (s.raiseAt h k id code fpc rpc addr info).checked = s.checked := rfl
@[simp] theorem raiseAt_arbiter : (s.raiseAt h k id code fpc rpc addr info).arbiter = s.arbiter := rfl
@[simp] theorem raiseAt_handled : (s.raiseAt h k id code fpc rpc addr info).handled = s.handled := rfl
@[simp] theorem raiseAt_failed : (s.raiseAt h k id code fpc rpc addr info).failed = s.failed := rfl
@[simp] theorem raiseAt_errC : (s.raiseAt h k id code fpc rpc addr info).errC = s.errC := rfl
@[simp] theorem raiseAt_errU : (s.raiseAt h k id code fpc rpc addr info).errU = s.errU := rfl
@[simp] theorem raiseAt_captures : (s.raiseAt h k id code fpc rpc addr info).captures = s.captures := rfl
@[simp] theorem raiseAt_attq : (s.raiseAt h k id code fpc rpc addr info).attq = s.attq := rfl
@[simp] theorem raiseAt_attrep : (s.raiseAt h k id code fpc rpc addr info).attrep = s.attrep := rfl
@[simp] theorem raiseAt_flash : (s.raiseAt h k id code fpc rpc addr info).flash = s.flash := rfl
@[simp] theorem raiseAt_flashMc : (s.raiseAt h k id code fpc rpc addr info).flashMc = s.flashMc := rfl
@[simp] theorem raiseAt_booted : (s.raiseAt h k id code fpc rpc addr info).booted = s.booted := rfl
@[simp] theorem raiseAt_bootedMc : (s.raiseAt h k id code fpc rpc addr info).bootedMc = s.bootedMc := rfl
@[simp] theorem raiseAt_bwevents : (s.raiseAt h k id code fpc rpc addr info).bwevents = s.bwevents := rfl
@[simp] theorem raiseAt_outputs : (s.raiseAt h k id code fpc rpc addr info).outputs = s.outputs := rfl
@[simp] theorem raiseAt_peerDeny : (s.raiseAt h k id code fpc rpc addr info).peerDeny = s.peerDeny := rfl
@[simp] theorem raiseAt_dclk : (s.raiseAt h k id code fpc rpc addr info).dclk = s.dclk := rfl
@[simp] theorem raiseAt_now : (s.raiseAt h k id code fpc rpc addr info).now = s.now := rfl
@[simp] theorem raiseAt_agenda : (s.raiseAt h k id code fpc rpc addr info).agenda = s.agenda := rfl
@[simp] theorem raiseAt_serial : (s.raiseAt h k id code fpc rpc addr info).serial = s.serial := rfl
end

section
variable (s : State) (c : Cause) (addr info : Word)
@[simp] theorem raise_cores : (s.raise c addr info).cores = s.cores := rfl
@[simp] theorem raise_dies : (s.raise c addr info).dies = s.dies := rfl
@[simp] theorem raise_mem : (s.raise c addr info).mem = s.mem := rfl
@[simp] theorem raise_poison : (s.raise c addr info).poison = s.poison := rfl
@[simp] theorem raise_nsEra : (s.raise c addr info).nsEra = s.nsEra := rfl
@[simp] theorem raise_devLines : (s.raise c addr info).devLines = s.devLines := rfl
@[simp] theorem raise_ctl : (s.raise c addr info).ctl = s.ctl := rfl
@[simp] theorem raise_launches : (s.raise c addr info).launches = s.launches := rfl
@[simp] theorem raise_gangs : (s.raise c addr info).gangs = s.gangs := rfl
@[simp] theorem raise_log : (s.raise c addr info).log = s.log := rfl
@[simp] theorem raise_logw : (s.raise c addr info).logw = s.logw := rfl
@[simp] theorem raise_reqs : (s.raise c addr info).reqs = s.reqs := rfl
@[simp] theorem raise_recs : (s.raise c addr info).recs = s.recs := rfl
@[simp] theorem raise_ops : (s.raise c addr info).ops = s.ops := rfl
@[simp] theorem raise_dels : (s.raise c addr info).dels = s.dels := rfl
@[simp] theorem raise_arrivals : (s.raise c addr info).arrivals = s.arrivals := rfl
@[simp] theorem raise_msgs : (s.raise c addr info).msgs = s.msgs := rfl
@[simp] theorem raise_jobs : (s.raise c addr info).jobs = s.jobs := rfl
@[simp] theorem raise_scache : (s.raise c addr info).scache = s.scache := rfl
@[simp] theorem raise_served : (s.raise c addr info).served = s.served := rfl
@[simp] theorem raise_chans : (s.raise c addr info).chans = s.chans := rfl
@[simp] theorem raise_links : (s.raise c addr info).links = s.links := rfl
@[simp] theorem raise_inwrites : (s.raise c addr info).inwrites = s.inwrites := rfl
@[simp] theorem raise_ports : (s.raise c addr info).ports = s.ports := rfl
@[simp] theorem raise_tears : (s.raise c addr info).tears = s.tears := rfl
@[simp] theorem raise_heads : (s.raise c addr info).heads = s.heads := rfl
@[simp] theorem raise_images : (s.raise c addr info).images = s.images := rfl
@[simp] theorem raise_checked : (s.raise c addr info).checked = s.checked := rfl
@[simp] theorem raise_arbiter : (s.raise c addr info).arbiter = s.arbiter := rfl
@[simp] theorem raise_handled : (s.raise c addr info).handled = s.handled := rfl
@[simp] theorem raise_failed : (s.raise c addr info).failed = s.failed := rfl
@[simp] theorem raise_errC : (s.raise c addr info).errC = s.errC := rfl
@[simp] theorem raise_errU : (s.raise c addr info).errU = s.errU := rfl
@[simp] theorem raise_captures : (s.raise c addr info).captures = s.captures := rfl
@[simp] theorem raise_attq : (s.raise c addr info).attq = s.attq := rfl
@[simp] theorem raise_attrep : (s.raise c addr info).attrep = s.attrep := rfl
@[simp] theorem raise_flash : (s.raise c addr info).flash = s.flash := rfl
@[simp] theorem raise_flashMc : (s.raise c addr info).flashMc = s.flashMc := rfl
@[simp] theorem raise_booted : (s.raise c addr info).booted = s.booted := rfl
@[simp] theorem raise_bootedMc : (s.raise c addr info).bootedMc = s.bootedMc := rfl
@[simp] theorem raise_bwevents : (s.raise c addr info).bwevents = s.bwevents := rfl
@[simp] theorem raise_outputs : (s.raise c addr info).outputs = s.outputs := rfl
@[simp] theorem raise_peerDeny : (s.raise c addr info).peerDeny = s.peerDeny := rfl
@[simp] theorem raise_dclk : (s.raise c addr info).dclk = s.dclk := rfl
@[simp] theorem raise_now : (s.raise c addr info).now = s.now := rfl
@[simp] theorem raise_agenda : (s.raise c addr info).agenda = s.agenda := rfl
@[simp] theorem raise_serial : (s.raise c addr info).serial = s.serial := rfl
end

section
variable (s : State) (h : Nat) (c : Core)
@[simp] theorem setCore_ctxs : (s.setCore h c).ctxs = s.ctxs := rfl
@[simp] theorem setCore_dies : (s.setCore h c).dies = s.dies := rfl
@[simp] theorem setCore_mem : (s.setCore h c).mem = s.mem := rfl
@[simp] theorem setCore_poison : (s.setCore h c).poison = s.poison := rfl
@[simp] theorem setCore_nsEra : (s.setCore h c).nsEra = s.nsEra := rfl
@[simp] theorem setCore_devLines : (s.setCore h c).devLines = s.devLines := rfl
@[simp] theorem setCore_ctl : (s.setCore h c).ctl = s.ctl := rfl
@[simp] theorem setCore_launches : (s.setCore h c).launches = s.launches := rfl
@[simp] theorem setCore_gangs : (s.setCore h c).gangs = s.gangs := rfl
@[simp] theorem setCore_log : (s.setCore h c).log = s.log := rfl
@[simp] theorem setCore_logw : (s.setCore h c).logw = s.logw := rfl
@[simp] theorem setCore_reqs : (s.setCore h c).reqs = s.reqs := rfl
@[simp] theorem setCore_recs : (s.setCore h c).recs = s.recs := rfl
@[simp] theorem setCore_ops : (s.setCore h c).ops = s.ops := rfl
@[simp] theorem setCore_dels : (s.setCore h c).dels = s.dels := rfl
@[simp] theorem setCore_arrivals : (s.setCore h c).arrivals = s.arrivals := rfl
@[simp] theorem setCore_msgs : (s.setCore h c).msgs = s.msgs := rfl
@[simp] theorem setCore_jobs : (s.setCore h c).jobs = s.jobs := rfl
@[simp] theorem setCore_scache : (s.setCore h c).scache = s.scache := rfl
@[simp] theorem setCore_served : (s.setCore h c).served = s.served := rfl
@[simp] theorem setCore_chans : (s.setCore h c).chans = s.chans := rfl
@[simp] theorem setCore_links : (s.setCore h c).links = s.links := rfl
@[simp] theorem setCore_inwrites : (s.setCore h c).inwrites = s.inwrites := rfl
@[simp] theorem setCore_ports : (s.setCore h c).ports = s.ports := rfl
@[simp] theorem setCore_tears : (s.setCore h c).tears = s.tears := rfl
@[simp] theorem setCore_heads : (s.setCore h c).heads = s.heads := rfl
@[simp] theorem setCore_images : (s.setCore h c).images = s.images := rfl
@[simp] theorem setCore_checked : (s.setCore h c).checked = s.checked := rfl
@[simp] theorem setCore_arbiter : (s.setCore h c).arbiter = s.arbiter := rfl
@[simp] theorem setCore_handled : (s.setCore h c).handled = s.handled := rfl
@[simp] theorem setCore_failed : (s.setCore h c).failed = s.failed := rfl
@[simp] theorem setCore_errC : (s.setCore h c).errC = s.errC := rfl
@[simp] theorem setCore_errU : (s.setCore h c).errU = s.errU := rfl
@[simp] theorem setCore_captures : (s.setCore h c).captures = s.captures := rfl
@[simp] theorem setCore_attq : (s.setCore h c).attq = s.attq := rfl
@[simp] theorem setCore_attrep : (s.setCore h c).attrep = s.attrep := rfl
@[simp] theorem setCore_flash : (s.setCore h c).flash = s.flash := rfl
@[simp] theorem setCore_flashMc : (s.setCore h c).flashMc = s.flashMc := rfl
@[simp] theorem setCore_booted : (s.setCore h c).booted = s.booted := rfl
@[simp] theorem setCore_bootedMc : (s.setCore h c).bootedMc = s.bootedMc := rfl
@[simp] theorem setCore_bwevents : (s.setCore h c).bwevents = s.bwevents := rfl
@[simp] theorem setCore_outputs : (s.setCore h c).outputs = s.outputs := rfl
@[simp] theorem setCore_peerDeny : (s.setCore h c).peerDeny = s.peerDeny := rfl
@[simp] theorem setCore_dclk : (s.setCore h c).dclk = s.dclk := rfl
@[simp] theorem setCore_now : (s.setCore h c).now = s.now := rfl
@[simp] theorem setCore_agenda : (s.setCore h c).agenda = s.agenda := rfl
@[simp] theorem setCore_serial : (s.setCore h c).serial = s.serial := rfl
end

section
variable (s : State) (h : Nat) (f : Core → Core)
@[simp] theorem modCore_ctxs : (s.modCore h f).ctxs = s.ctxs := rfl
@[simp] theorem modCore_dies : (s.modCore h f).dies = s.dies := rfl
@[simp] theorem modCore_mem : (s.modCore h f).mem = s.mem := rfl
@[simp] theorem modCore_poison : (s.modCore h f).poison = s.poison := rfl
@[simp] theorem modCore_nsEra : (s.modCore h f).nsEra = s.nsEra := rfl
@[simp] theorem modCore_devLines : (s.modCore h f).devLines = s.devLines := rfl
@[simp] theorem modCore_ctl : (s.modCore h f).ctl = s.ctl := rfl
@[simp] theorem modCore_launches : (s.modCore h f).launches = s.launches := rfl
@[simp] theorem modCore_gangs : (s.modCore h f).gangs = s.gangs := rfl
@[simp] theorem modCore_log : (s.modCore h f).log = s.log := rfl
@[simp] theorem modCore_logw : (s.modCore h f).logw = s.logw := rfl
@[simp] theorem modCore_reqs : (s.modCore h f).reqs = s.reqs := rfl
@[simp] theorem modCore_recs : (s.modCore h f).recs = s.recs := rfl
@[simp] theorem modCore_ops : (s.modCore h f).ops = s.ops := rfl
@[simp] theorem modCore_dels : (s.modCore h f).dels = s.dels := rfl
@[simp] theorem modCore_arrivals : (s.modCore h f).arrivals = s.arrivals := rfl
@[simp] theorem modCore_msgs : (s.modCore h f).msgs = s.msgs := rfl
@[simp] theorem modCore_jobs : (s.modCore h f).jobs = s.jobs := rfl
@[simp] theorem modCore_scache : (s.modCore h f).scache = s.scache := rfl
@[simp] theorem modCore_served : (s.modCore h f).served = s.served := rfl
@[simp] theorem modCore_chans : (s.modCore h f).chans = s.chans := rfl
@[simp] theorem modCore_links : (s.modCore h f).links = s.links := rfl
@[simp] theorem modCore_inwrites : (s.modCore h f).inwrites = s.inwrites := rfl
@[simp] theorem modCore_ports : (s.modCore h f).ports = s.ports := rfl
@[simp] theorem modCore_tears : (s.modCore h f).tears = s.tears := rfl
@[simp] theorem modCore_heads : (s.modCore h f).heads = s.heads := rfl
@[simp] theorem modCore_images : (s.modCore h f).images = s.images := rfl
@[simp] theorem modCore_checked : (s.modCore h f).checked = s.checked := rfl
@[simp] theorem modCore_arbiter : (s.modCore h f).arbiter = s.arbiter := rfl
@[simp] theorem modCore_handled : (s.modCore h f).handled = s.handled := rfl
@[simp] theorem modCore_failed : (s.modCore h f).failed = s.failed := rfl
@[simp] theorem modCore_errC : (s.modCore h f).errC = s.errC := rfl
@[simp] theorem modCore_errU : (s.modCore h f).errU = s.errU := rfl
@[simp] theorem modCore_captures : (s.modCore h f).captures = s.captures := rfl
@[simp] theorem modCore_attq : (s.modCore h f).attq = s.attq := rfl
@[simp] theorem modCore_attrep : (s.modCore h f).attrep = s.attrep := rfl
@[simp] theorem modCore_flash : (s.modCore h f).flash = s.flash := rfl
@[simp] theorem modCore_flashMc : (s.modCore h f).flashMc = s.flashMc := rfl
@[simp] theorem modCore_booted : (s.modCore h f).booted = s.booted := rfl
@[simp] theorem modCore_bootedMc : (s.modCore h f).bootedMc = s.bootedMc := rfl
@[simp] theorem modCore_bwevents : (s.modCore h f).bwevents = s.bwevents := rfl
@[simp] theorem modCore_outputs : (s.modCore h f).outputs = s.outputs := rfl
@[simp] theorem modCore_peerDeny : (s.modCore h f).peerDeny = s.peerDeny := rfl
@[simp] theorem modCore_dclk : (s.modCore h f).dclk = s.dclk := rfl
@[simp] theorem modCore_now : (s.modCore h f).now = s.now := rfl
@[simp] theorem modCore_agenda : (s.modCore h f).agenda = s.agenda := rfl
@[simp] theorem modCore_serial : (s.modCore h f).serial = s.serial := rfl
end

section
variable (s : State) (f : Core → Core)
@[simp] theorem modMe_ctxs : (s.modMe f).ctxs = s.ctxs := rfl
@[simp] theorem modMe_dies : (s.modMe f).dies = s.dies := rfl
@[simp] theorem modMe_mem : (s.modMe f).mem = s.mem := rfl
@[simp] theorem modMe_poison : (s.modMe f).poison = s.poison := rfl
@[simp] theorem modMe_nsEra : (s.modMe f).nsEra = s.nsEra := rfl
@[simp] theorem modMe_devLines : (s.modMe f).devLines = s.devLines := rfl
@[simp] theorem modMe_ctl : (s.modMe f).ctl = s.ctl := rfl
@[simp] theorem modMe_launches : (s.modMe f).launches = s.launches := rfl
@[simp] theorem modMe_gangs : (s.modMe f).gangs = s.gangs := rfl
@[simp] theorem modMe_log : (s.modMe f).log = s.log := rfl
@[simp] theorem modMe_logw : (s.modMe f).logw = s.logw := rfl
@[simp] theorem modMe_reqs : (s.modMe f).reqs = s.reqs := rfl
@[simp] theorem modMe_recs : (s.modMe f).recs = s.recs := rfl
@[simp] theorem modMe_ops : (s.modMe f).ops = s.ops := rfl
@[simp] theorem modMe_dels : (s.modMe f).dels = s.dels := rfl
@[simp] theorem modMe_arrivals : (s.modMe f).arrivals = s.arrivals := rfl
@[simp] theorem modMe_msgs : (s.modMe f).msgs = s.msgs := rfl
@[simp] theorem modMe_jobs : (s.modMe f).jobs = s.jobs := rfl
@[simp] theorem modMe_scache : (s.modMe f).scache = s.scache := rfl
@[simp] theorem modMe_served : (s.modMe f).served = s.served := rfl
@[simp] theorem modMe_chans : (s.modMe f).chans = s.chans := rfl
@[simp] theorem modMe_links : (s.modMe f).links = s.links := rfl
@[simp] theorem modMe_inwrites : (s.modMe f).inwrites = s.inwrites := rfl
@[simp] theorem modMe_ports : (s.modMe f).ports = s.ports := rfl
@[simp] theorem modMe_tears : (s.modMe f).tears = s.tears := rfl
@[simp] theorem modMe_heads : (s.modMe f).heads = s.heads := rfl
@[simp] theorem modMe_images : (s.modMe f).images = s.images := rfl
@[simp] theorem modMe_checked : (s.modMe f).checked = s.checked := rfl
@[simp] theorem modMe_arbiter : (s.modMe f).arbiter = s.arbiter := rfl
@[simp] theorem modMe_handled : (s.modMe f).handled = s.handled := rfl
@[simp] theorem modMe_failed : (s.modMe f).failed = s.failed := rfl
@[simp] theorem modMe_errC : (s.modMe f).errC = s.errC := rfl
@[simp] theorem modMe_errU : (s.modMe f).errU = s.errU := rfl
@[simp] theorem modMe_captures : (s.modMe f).captures = s.captures := rfl
@[simp] theorem modMe_attq : (s.modMe f).attq = s.attq := rfl
@[simp] theorem modMe_attrep : (s.modMe f).attrep = s.attrep := rfl
@[simp] theorem modMe_flash : (s.modMe f).flash = s.flash := rfl
@[simp] theorem modMe_flashMc : (s.modMe f).flashMc = s.flashMc := rfl
@[simp] theorem modMe_booted : (s.modMe f).booted = s.booted := rfl
@[simp] theorem modMe_bootedMc : (s.modMe f).bootedMc = s.bootedMc := rfl
@[simp] theorem modMe_bwevents : (s.modMe f).bwevents = s.bwevents := rfl
@[simp] theorem modMe_outputs : (s.modMe f).outputs = s.outputs := rfl
@[simp] theorem modMe_peerDeny : (s.modMe f).peerDeny = s.peerDeny := rfl
@[simp] theorem modMe_dclk : (s.modMe f).dclk = s.dclk := rfl
@[simp] theorem modMe_now : (s.modMe f).now = s.now := rfl
@[simp] theorem modMe_agenda : (s.modMe f).agenda = s.agenda := rfl
@[simp] theorem modMe_serial : (s.modMe f).serial = s.serial := rfl
end

section
variable (s : State) (d : Nat) (f : Die → Die)
@[simp] theorem modDie_ctxs : (s.modDie d f).ctxs = s.ctxs := rfl
@[simp] theorem modDie_cores : (s.modDie d f).cores = s.cores := rfl
@[simp] theorem modDie_mem : (s.modDie d f).mem = s.mem := rfl
@[simp] theorem modDie_poison : (s.modDie d f).poison = s.poison := rfl
@[simp] theorem modDie_nsEra : (s.modDie d f).nsEra = s.nsEra := rfl
@[simp] theorem modDie_devLines : (s.modDie d f).devLines = s.devLines := rfl
@[simp] theorem modDie_ctl : (s.modDie d f).ctl = s.ctl := rfl
@[simp] theorem modDie_launches : (s.modDie d f).launches = s.launches := rfl
@[simp] theorem modDie_gangs : (s.modDie d f).gangs = s.gangs := rfl
@[simp] theorem modDie_log : (s.modDie d f).log = s.log := rfl
@[simp] theorem modDie_logw : (s.modDie d f).logw = s.logw := rfl
@[simp] theorem modDie_reqs : (s.modDie d f).reqs = s.reqs := rfl
@[simp] theorem modDie_recs : (s.modDie d f).recs = s.recs := rfl
@[simp] theorem modDie_ops : (s.modDie d f).ops = s.ops := rfl
@[simp] theorem modDie_dels : (s.modDie d f).dels = s.dels := rfl
@[simp] theorem modDie_arrivals : (s.modDie d f).arrivals = s.arrivals := rfl
@[simp] theorem modDie_msgs : (s.modDie d f).msgs = s.msgs := rfl
@[simp] theorem modDie_jobs : (s.modDie d f).jobs = s.jobs := rfl
@[simp] theorem modDie_scache : (s.modDie d f).scache = s.scache := rfl
@[simp] theorem modDie_served : (s.modDie d f).served = s.served := rfl
@[simp] theorem modDie_chans : (s.modDie d f).chans = s.chans := rfl
@[simp] theorem modDie_links : (s.modDie d f).links = s.links := rfl
@[simp] theorem modDie_inwrites : (s.modDie d f).inwrites = s.inwrites := rfl
@[simp] theorem modDie_ports : (s.modDie d f).ports = s.ports := rfl
@[simp] theorem modDie_tears : (s.modDie d f).tears = s.tears := rfl
@[simp] theorem modDie_heads : (s.modDie d f).heads = s.heads := rfl
@[simp] theorem modDie_images : (s.modDie d f).images = s.images := rfl
@[simp] theorem modDie_checked : (s.modDie d f).checked = s.checked := rfl
@[simp] theorem modDie_arbiter : (s.modDie d f).arbiter = s.arbiter := rfl
@[simp] theorem modDie_handled : (s.modDie d f).handled = s.handled := rfl
@[simp] theorem modDie_failed : (s.modDie d f).failed = s.failed := rfl
@[simp] theorem modDie_errC : (s.modDie d f).errC = s.errC := rfl
@[simp] theorem modDie_errU : (s.modDie d f).errU = s.errU := rfl
@[simp] theorem modDie_captures : (s.modDie d f).captures = s.captures := rfl
@[simp] theorem modDie_attq : (s.modDie d f).attq = s.attq := rfl
@[simp] theorem modDie_attrep : (s.modDie d f).attrep = s.attrep := rfl
@[simp] theorem modDie_flash : (s.modDie d f).flash = s.flash := rfl
@[simp] theorem modDie_flashMc : (s.modDie d f).flashMc = s.flashMc := rfl
@[simp] theorem modDie_booted : (s.modDie d f).booted = s.booted := rfl
@[simp] theorem modDie_bootedMc : (s.modDie d f).bootedMc = s.bootedMc := rfl
@[simp] theorem modDie_bwevents : (s.modDie d f).bwevents = s.bwevents := rfl
@[simp] theorem modDie_outputs : (s.modDie d f).outputs = s.outputs := rfl
@[simp] theorem modDie_peerDeny : (s.modDie d f).peerDeny = s.peerDeny := rfl
@[simp] theorem modDie_dclk : (s.modDie d f).dclk = s.dclk := rfl
@[simp] theorem modDie_now : (s.modDie d f).now = s.now := rfl
@[simp] theorem modDie_agenda : (s.modDie d f).agenda = s.agenda := rfl
@[simp] theorem modDie_serial : (s.modDie d f).serial = s.serial := rfl
end

section
variable (s : State) (loc : Nat) (b : Byte)
@[simp] theorem setRaw_ctxs : (s.setRaw loc b).ctxs = s.ctxs := rfl
@[simp] theorem setRaw_cores : (s.setRaw loc b).cores = s.cores := rfl
@[simp] theorem setRaw_dies : (s.setRaw loc b).dies = s.dies := rfl
@[simp] theorem setRaw_poison : (s.setRaw loc b).poison = s.poison := rfl
@[simp] theorem setRaw_nsEra : (s.setRaw loc b).nsEra = s.nsEra := rfl
@[simp] theorem setRaw_devLines : (s.setRaw loc b).devLines = s.devLines := rfl
@[simp] theorem setRaw_ctl : (s.setRaw loc b).ctl = s.ctl := rfl
@[simp] theorem setRaw_launches : (s.setRaw loc b).launches = s.launches := rfl
@[simp] theorem setRaw_gangs : (s.setRaw loc b).gangs = s.gangs := rfl
@[simp] theorem setRaw_log : (s.setRaw loc b).log = s.log := rfl
@[simp] theorem setRaw_logw : (s.setRaw loc b).logw = s.logw := rfl
@[simp] theorem setRaw_reqs : (s.setRaw loc b).reqs = s.reqs := rfl
@[simp] theorem setRaw_recs : (s.setRaw loc b).recs = s.recs := rfl
@[simp] theorem setRaw_ops : (s.setRaw loc b).ops = s.ops := rfl
@[simp] theorem setRaw_dels : (s.setRaw loc b).dels = s.dels := rfl
@[simp] theorem setRaw_arrivals : (s.setRaw loc b).arrivals = s.arrivals := rfl
@[simp] theorem setRaw_msgs : (s.setRaw loc b).msgs = s.msgs := rfl
@[simp] theorem setRaw_jobs : (s.setRaw loc b).jobs = s.jobs := rfl
@[simp] theorem setRaw_scache : (s.setRaw loc b).scache = s.scache := rfl
@[simp] theorem setRaw_served : (s.setRaw loc b).served = s.served := rfl
@[simp] theorem setRaw_chans : (s.setRaw loc b).chans = s.chans := rfl
@[simp] theorem setRaw_links : (s.setRaw loc b).links = s.links := rfl
@[simp] theorem setRaw_inwrites : (s.setRaw loc b).inwrites = s.inwrites := rfl
@[simp] theorem setRaw_ports : (s.setRaw loc b).ports = s.ports := rfl
@[simp] theorem setRaw_tears : (s.setRaw loc b).tears = s.tears := rfl
@[simp] theorem setRaw_heads : (s.setRaw loc b).heads = s.heads := rfl
@[simp] theorem setRaw_images : (s.setRaw loc b).images = s.images := rfl
@[simp] theorem setRaw_checked : (s.setRaw loc b).checked = s.checked := rfl
@[simp] theorem setRaw_arbiter : (s.setRaw loc b).arbiter = s.arbiter := rfl
@[simp] theorem setRaw_handled : (s.setRaw loc b).handled = s.handled := rfl
@[simp] theorem setRaw_failed : (s.setRaw loc b).failed = s.failed := rfl
@[simp] theorem setRaw_errC : (s.setRaw loc b).errC = s.errC := rfl
@[simp] theorem setRaw_errU : (s.setRaw loc b).errU = s.errU := rfl
@[simp] theorem setRaw_captures : (s.setRaw loc b).captures = s.captures := rfl
@[simp] theorem setRaw_attq : (s.setRaw loc b).attq = s.attq := rfl
@[simp] theorem setRaw_attrep : (s.setRaw loc b).attrep = s.attrep := rfl
@[simp] theorem setRaw_flash : (s.setRaw loc b).flash = s.flash := rfl
@[simp] theorem setRaw_flashMc : (s.setRaw loc b).flashMc = s.flashMc := rfl
@[simp] theorem setRaw_booted : (s.setRaw loc b).booted = s.booted := rfl
@[simp] theorem setRaw_bootedMc : (s.setRaw loc b).bootedMc = s.bootedMc := rfl
@[simp] theorem setRaw_bwevents : (s.setRaw loc b).bwevents = s.bwevents := rfl
@[simp] theorem setRaw_outputs : (s.setRaw loc b).outputs = s.outputs := rfl
@[simp] theorem setRaw_peerDeny : (s.setRaw loc b).peerDeny = s.peerDeny := rfl
@[simp] theorem setRaw_dclk : (s.setRaw loc b).dclk = s.dclk := rfl
@[simp] theorem setRaw_now : (s.setRaw loc b).now = s.now := rfl
@[simp] theorem setRaw_agenda : (s.setRaw loc b).agenda = s.agenda := rfl
@[simp] theorem setRaw_serial : (s.setRaw loc b).serial = s.serial := rfl
end

section
variable (s : State) (a : Nat) (x : Word)
@[simp] theorem setCtl_ctxs : (s.setCtl a x).ctxs = s.ctxs := rfl
@[simp] theorem setCtl_cores : (s.setCtl a x).cores = s.cores := rfl
@[simp] theorem setCtl_dies : (s.setCtl a x).dies = s.dies := rfl
@[simp] theorem setCtl_mem : (s.setCtl a x).mem = s.mem := rfl
@[simp] theorem setCtl_poison : (s.setCtl a x).poison = s.poison := rfl
@[simp] theorem setCtl_nsEra : (s.setCtl a x).nsEra = s.nsEra := rfl
@[simp] theorem setCtl_devLines : (s.setCtl a x).devLines = s.devLines := rfl
@[simp] theorem setCtl_launches : (s.setCtl a x).launches = s.launches := rfl
@[simp] theorem setCtl_gangs : (s.setCtl a x).gangs = s.gangs := rfl
@[simp] theorem setCtl_log : (s.setCtl a x).log = s.log := rfl
@[simp] theorem setCtl_logw : (s.setCtl a x).logw = s.logw := rfl
@[simp] theorem setCtl_reqs : (s.setCtl a x).reqs = s.reqs := rfl
@[simp] theorem setCtl_recs : (s.setCtl a x).recs = s.recs := rfl
@[simp] theorem setCtl_ops : (s.setCtl a x).ops = s.ops := rfl
@[simp] theorem setCtl_dels : (s.setCtl a x).dels = s.dels := rfl
@[simp] theorem setCtl_arrivals : (s.setCtl a x).arrivals = s.arrivals := rfl
@[simp] theorem setCtl_msgs : (s.setCtl a x).msgs = s.msgs := rfl
@[simp] theorem setCtl_jobs : (s.setCtl a x).jobs = s.jobs := rfl
@[simp] theorem setCtl_scache : (s.setCtl a x).scache = s.scache := rfl
@[simp] theorem setCtl_served : (s.setCtl a x).served = s.served := rfl
@[simp] theorem setCtl_chans : (s.setCtl a x).chans = s.chans := rfl
@[simp] theorem setCtl_links : (s.setCtl a x).links = s.links := rfl
@[simp] theorem setCtl_inwrites : (s.setCtl a x).inwrites = s.inwrites := rfl
@[simp] theorem setCtl_ports : (s.setCtl a x).ports = s.ports := rfl
@[simp] theorem setCtl_tears : (s.setCtl a x).tears = s.tears := rfl
@[simp] theorem setCtl_heads : (s.setCtl a x).heads = s.heads := rfl
@[simp] theorem setCtl_images : (s.setCtl a x).images = s.images := rfl
@[simp] theorem setCtl_checked : (s.setCtl a x).checked = s.checked := rfl
@[simp] theorem setCtl_arbiter : (s.setCtl a x).arbiter = s.arbiter := rfl
@[simp] theorem setCtl_handled : (s.setCtl a x).handled = s.handled := rfl
@[simp] theorem setCtl_failed : (s.setCtl a x).failed = s.failed := rfl
@[simp] theorem setCtl_errC : (s.setCtl a x).errC = s.errC := rfl
@[simp] theorem setCtl_errU : (s.setCtl a x).errU = s.errU := rfl
@[simp] theorem setCtl_captures : (s.setCtl a x).captures = s.captures := rfl
@[simp] theorem setCtl_attq : (s.setCtl a x).attq = s.attq := rfl
@[simp] theorem setCtl_attrep : (s.setCtl a x).attrep = s.attrep := rfl
@[simp] theorem setCtl_flash : (s.setCtl a x).flash = s.flash := rfl
@[simp] theorem setCtl_flashMc : (s.setCtl a x).flashMc = s.flashMc := rfl
@[simp] theorem setCtl_booted : (s.setCtl a x).booted = s.booted := rfl
@[simp] theorem setCtl_bootedMc : (s.setCtl a x).bootedMc = s.bootedMc := rfl
@[simp] theorem setCtl_bwevents : (s.setCtl a x).bwevents = s.bwevents := rfl
@[simp] theorem setCtl_outputs : (s.setCtl a x).outputs = s.outputs := rfl
@[simp] theorem setCtl_peerDeny : (s.setCtl a x).peerDeny = s.peerDeny := rfl
@[simp] theorem setCtl_dclk : (s.setCtl a x).dclk = s.dclk := rfl
@[simp] theorem setCtl_now : (s.setCtl a x).now = s.now := rfl
@[simp] theorem setCtl_agenda : (s.setCtl a x).agenda = s.agenda := rfl
@[simp] theorem setCtl_serial : (s.setCtl a x).serial = s.serial := rfl
end

section
variable (s : State) (ty src : Nat) (a d : Word)
@[simp] theorem logEvent_ctxs : (s.logEvent ty src a d).ctxs = s.ctxs := rfl
@[simp] theorem logEvent_cores : (s.logEvent ty src a d).cores = s.cores := rfl
@[simp] theorem logEvent_dies : (s.logEvent ty src a d).dies = s.dies := rfl
@[simp] theorem logEvent_mem : (s.logEvent ty src a d).mem = s.mem := rfl
@[simp] theorem logEvent_poison : (s.logEvent ty src a d).poison = s.poison := rfl
@[simp] theorem logEvent_nsEra : (s.logEvent ty src a d).nsEra = s.nsEra := rfl
@[simp] theorem logEvent_devLines : (s.logEvent ty src a d).devLines = s.devLines := rfl
@[simp] theorem logEvent_ctl : (s.logEvent ty src a d).ctl = s.ctl := rfl
@[simp] theorem logEvent_launches : (s.logEvent ty src a d).launches = s.launches := rfl
@[simp] theorem logEvent_gangs : (s.logEvent ty src a d).gangs = s.gangs := rfl
@[simp] theorem logEvent_reqs : (s.logEvent ty src a d).reqs = s.reqs := rfl
@[simp] theorem logEvent_recs : (s.logEvent ty src a d).recs = s.recs := rfl
@[simp] theorem logEvent_ops : (s.logEvent ty src a d).ops = s.ops := rfl
@[simp] theorem logEvent_dels : (s.logEvent ty src a d).dels = s.dels := rfl
@[simp] theorem logEvent_arrivals : (s.logEvent ty src a d).arrivals = s.arrivals := rfl
@[simp] theorem logEvent_msgs : (s.logEvent ty src a d).msgs = s.msgs := rfl
@[simp] theorem logEvent_jobs : (s.logEvent ty src a d).jobs = s.jobs := rfl
@[simp] theorem logEvent_scache : (s.logEvent ty src a d).scache = s.scache := rfl
@[simp] theorem logEvent_served : (s.logEvent ty src a d).served = s.served := rfl
@[simp] theorem logEvent_chans : (s.logEvent ty src a d).chans = s.chans := rfl
@[simp] theorem logEvent_links : (s.logEvent ty src a d).links = s.links := rfl
@[simp] theorem logEvent_inwrites : (s.logEvent ty src a d).inwrites = s.inwrites := rfl
@[simp] theorem logEvent_ports : (s.logEvent ty src a d).ports = s.ports := rfl
@[simp] theorem logEvent_tears : (s.logEvent ty src a d).tears = s.tears := rfl
@[simp] theorem logEvent_heads : (s.logEvent ty src a d).heads = s.heads := rfl
@[simp] theorem logEvent_images : (s.logEvent ty src a d).images = s.images := rfl
@[simp] theorem logEvent_checked : (s.logEvent ty src a d).checked = s.checked := rfl
@[simp] theorem logEvent_arbiter : (s.logEvent ty src a d).arbiter = s.arbiter := rfl
@[simp] theorem logEvent_handled : (s.logEvent ty src a d).handled = s.handled := rfl
@[simp] theorem logEvent_failed : (s.logEvent ty src a d).failed = s.failed := rfl
@[simp] theorem logEvent_errC : (s.logEvent ty src a d).errC = s.errC := rfl
@[simp] theorem logEvent_errU : (s.logEvent ty src a d).errU = s.errU := rfl
@[simp] theorem logEvent_captures : (s.logEvent ty src a d).captures = s.captures := rfl
@[simp] theorem logEvent_attq : (s.logEvent ty src a d).attq = s.attq := rfl
@[simp] theorem logEvent_attrep : (s.logEvent ty src a d).attrep = s.attrep := rfl
@[simp] theorem logEvent_flash : (s.logEvent ty src a d).flash = s.flash := rfl
@[simp] theorem logEvent_flashMc : (s.logEvent ty src a d).flashMc = s.flashMc := rfl
@[simp] theorem logEvent_booted : (s.logEvent ty src a d).booted = s.booted := rfl
@[simp] theorem logEvent_bootedMc : (s.logEvent ty src a d).bootedMc = s.bootedMc := rfl
@[simp] theorem logEvent_bwevents : (s.logEvent ty src a d).bwevents = s.bwevents := rfl
@[simp] theorem logEvent_outputs : (s.logEvent ty src a d).outputs = s.outputs := rfl
@[simp] theorem logEvent_peerDeny : (s.logEvent ty src a d).peerDeny = s.peerDeny := rfl
@[simp] theorem logEvent_dclk : (s.logEvent ty src a d).dclk = s.dclk := rfl
@[simp] theorem logEvent_now : (s.logEvent ty src a d).now = s.now := rfl
@[simp] theorem logEvent_agenda : (s.logEvent ty src a d).agenda = s.agenda := rfl
@[simp] theorem logEvent_serial : (s.logEvent ty src a d).serial = s.serial := rfl
end

section
variable (s : State) (o : Output)
@[simp] theorem emit_ctxs : (s.emit o).ctxs = s.ctxs := rfl
@[simp] theorem emit_cores : (s.emit o).cores = s.cores := rfl
@[simp] theorem emit_dies : (s.emit o).dies = s.dies := rfl
@[simp] theorem emit_mem : (s.emit o).mem = s.mem := rfl
@[simp] theorem emit_poison : (s.emit o).poison = s.poison := rfl
@[simp] theorem emit_nsEra : (s.emit o).nsEra = s.nsEra := rfl
@[simp] theorem emit_devLines : (s.emit o).devLines = s.devLines := rfl
@[simp] theorem emit_ctl : (s.emit o).ctl = s.ctl := rfl
@[simp] theorem emit_launches : (s.emit o).launches = s.launches := rfl
@[simp] theorem emit_gangs : (s.emit o).gangs = s.gangs := rfl
@[simp] theorem emit_log : (s.emit o).log = s.log := rfl
@[simp] theorem emit_logw : (s.emit o).logw = s.logw := rfl
@[simp] theorem emit_reqs : (s.emit o).reqs = s.reqs := rfl
@[simp] theorem emit_recs : (s.emit o).recs = s.recs := rfl
@[simp] theorem emit_ops : (s.emit o).ops = s.ops := rfl
@[simp] theorem emit_dels : (s.emit o).dels = s.dels := rfl
@[simp] theorem emit_arrivals : (s.emit o).arrivals = s.arrivals := rfl
@[simp] theorem emit_msgs : (s.emit o).msgs = s.msgs := rfl
@[simp] theorem emit_jobs : (s.emit o).jobs = s.jobs := rfl
@[simp] theorem emit_scache : (s.emit o).scache = s.scache := rfl
@[simp] theorem emit_served : (s.emit o).served = s.served := rfl
@[simp] theorem emit_chans : (s.emit o).chans = s.chans := rfl
@[simp] theorem emit_links : (s.emit o).links = s.links := rfl
@[simp] theorem emit_inwrites : (s.emit o).inwrites = s.inwrites := rfl
@[simp] theorem emit_ports : (s.emit o).ports = s.ports := rfl
@[simp] theorem emit_tears : (s.emit o).tears = s.tears := rfl
@[simp] theorem emit_heads : (s.emit o).heads = s.heads := rfl
@[simp] theorem emit_images : (s.emit o).images = s.images := rfl
@[simp] theorem emit_checked : (s.emit o).checked = s.checked := rfl
@[simp] theorem emit_arbiter : (s.emit o).arbiter = s.arbiter := rfl
@[simp] theorem emit_handled : (s.emit o).handled = s.handled := rfl
@[simp] theorem emit_failed : (s.emit o).failed = s.failed := rfl
@[simp] theorem emit_errC : (s.emit o).errC = s.errC := rfl
@[simp] theorem emit_errU : (s.emit o).errU = s.errU := rfl
@[simp] theorem emit_captures : (s.emit o).captures = s.captures := rfl
@[simp] theorem emit_attq : (s.emit o).attq = s.attq := rfl
@[simp] theorem emit_attrep : (s.emit o).attrep = s.attrep := rfl
@[simp] theorem emit_flash : (s.emit o).flash = s.flash := rfl
@[simp] theorem emit_flashMc : (s.emit o).flashMc = s.flashMc := rfl
@[simp] theorem emit_booted : (s.emit o).booted = s.booted := rfl
@[simp] theorem emit_bootedMc : (s.emit o).bootedMc = s.bootedMc := rfl
@[simp] theorem emit_bwevents : (s.emit o).bwevents = s.bwevents := rfl
@[simp] theorem emit_peerDeny : (s.emit o).peerDeny = s.peerDeny := rfl
@[simp] theorem emit_dclk : (s.emit o).dclk = s.dclk := rfl
@[simp] theorem emit_now : (s.emit o).now = s.now := rfl
@[simp] theorem emit_agenda : (s.emit o).agenda = s.agenda := rfl
@[simp] theorem emit_serial : (s.emit o).serial = s.serial := rfl
end

/-! ## Updates of a context -/

section
variable (c : Ctx) (len : Word)
@[simp] theorem advance_g : (c.advance len).g = c.g := rfl
@[simp] theorem advance_f : (c.advance len).f = c.f := rfl
@[simp] theorem advance_v : (c.advance len).v = c.v := rfl
@[simp] theorem advance_state : (c.advance len).state = c.state := rfl
@[simp] theorem advance_cause : (c.advance len).cause = c.cause := rfl
@[simp] theorem advance_fpc : (c.advance len).fpc = c.fpc := rfl
@[simp] theorem advance_faddr : (c.advance len).faddr = c.faddr := rfl
@[simp] theorem advance_finfo : (c.advance len).finfo = c.finfo := rfl
@[simp] theorem advance_rpc : (c.advance len).rpc = c.rpc := rfl
@[simp] theorem advance_tstat : (c.advance len).tstat = c.tstat := rfl
@[simp] theorem advance_tscratch : (c.advance len).tscratch = c.tscratch := rfl
@[simp] theorem advance_fflags : (c.advance len).fflags = c.fflags := rfl
@[simp] theorem advance_aflags : (c.advance len).aflags = c.aflags := rfl
@[simp] theorem advance_satflags : (c.advance len).satflags = c.satflags := rfl
@[simp] theorem advance_atomstat : (c.advance len).atomstat = c.atomstat := rfl
@[simp] theorem advance_last : (c.advance len).last = c.last := rfl
@[simp] theorem advance_yields : (c.advance len).yields = c.yields := rfl
@[simp] theorem advance_out : (c.advance len).out = c.out := rfl
@[simp] theorem advance_post : (c.advance len).post = c.post := rfl
@[simp] theorem advance_trap : (c.advance len).trap = c.trap := rfl
@[simp] theorem advance_openB : (c.advance len).openB = c.openB := rfl
@[simp] theorem advance_closed : (c.advance len).closed = c.closed := rfl
@[simp] theorem advance_retGlob : (c.advance len).retGlob = c.retGlob := rfl
@[simp] theorem advance_result : (c.advance len).result = c.result := rfl
@[simp] theorem advance_byStart : (c.advance len).byStart = c.byStart := rfl
@[simp] theorem advance_layer : (c.advance len).layer = c.layer := rfl
@[simp] theorem advance_hentry : (c.advance len).hentry = c.hentry := rfl
@[simp] theorem advance_fetched : (c.advance len).fetched = c.fetched := rfl
@[simp] theorem advance_wlen : (c.advance len).wlen = c.wlen := rfl
@[simp] theorem advance_wuses : (c.advance len).wuses = c.wuses := rfl
@[simp] theorem advance_claims : (c.advance len).claims = c.claims := rfl
end

section
variable (c : Ctx) (o : Outst)
@[simp] theorem push_g : (c.push o).g = c.g := rfl
@[simp] theorem push_f : (c.push o).f = c.f := rfl
@[simp] theorem push_v : (c.push o).v = c.v := rfl
@[simp] theorem push_pc : (c.push o).pc = c.pc := rfl
@[simp] theorem push_state : (c.push o).state = c.state := rfl
@[simp] theorem push_cause : (c.push o).cause = c.cause := rfl
@[simp] theorem push_fpc : (c.push o).fpc = c.fpc := rfl
@[simp] theorem push_faddr : (c.push o).faddr = c.faddr := rfl
@[simp] theorem push_finfo : (c.push o).finfo = c.finfo := rfl
@[simp] theorem push_rpc : (c.push o).rpc = c.rpc := rfl
@[simp] theorem push_tstat : (c.push o).tstat = c.tstat := rfl
@[simp] theorem push_tscratch : (c.push o).tscratch = c.tscratch := rfl
@[simp] theorem push_fflags : (c.push o).fflags = c.fflags := rfl
@[simp] theorem push_aflags : (c.push o).aflags = c.aflags := rfl
@[simp] theorem push_satflags : (c.push o).satflags = c.satflags := rfl
@[simp] theorem push_atomstat : (c.push o).atomstat = c.atomstat := rfl
@[simp] theorem push_last : (c.push o).last = c.last := rfl
@[simp] theorem push_yields : (c.push o).yields = c.yields := rfl
@[simp] theorem push_post : (c.push o).post = c.post := rfl
@[simp] theorem push_trap : (c.push o).trap = c.trap := rfl
@[simp] theorem push_openB : (c.push o).openB = c.openB := rfl
@[simp] theorem push_closed : (c.push o).closed = c.closed := rfl
@[simp] theorem push_retGlob : (c.push o).retGlob = c.retGlob := rfl
@[simp] theorem push_result : (c.push o).result = c.result := rfl
@[simp] theorem push_byStart : (c.push o).byStart = c.byStart := rfl
@[simp] theorem push_layer : (c.push o).layer = c.layer := rfl
@[simp] theorem push_hentry : (c.push o).hentry = c.hentry := rfl
@[simp] theorem push_fetched : (c.push o).fetched = c.fetched := rfl
@[simp] theorem push_wlen : (c.push o).wlen = c.wlen := rfl
@[simp] theorem push_wuses : (c.push o).wuses = c.wuses := rfl
@[simp] theorem push_claims : (c.push o).claims = c.claims := rfl
end

section
variable (c : Ctx) (code : Nat) (fpc rpc addr info tvec : Word)
@[simp] theorem enter_g : (c.enter code fpc rpc addr info tvec).g = c.g := rfl
@[simp] theorem enter_f : (c.enter code fpc rpc addr info tvec).f = c.f := rfl
@[simp] theorem enter_v : (c.enter code fpc rpc addr info tvec).v = c.v := rfl
@[simp] theorem enter_tscratch : (c.enter code fpc rpc addr info tvec).tscratch = c.tscratch := rfl
@[simp] theorem enter_fflags : (c.enter code fpc rpc addr info tvec).fflags = c.fflags := rfl
@[simp] theorem enter_aflags : (c.enter code fpc rpc addr info tvec).aflags = c.aflags := rfl
@[simp] theorem enter_satflags : (c.enter code fpc rpc addr info tvec).satflags = c.satflags := rfl
@[simp] theorem enter_atomstat : (c.enter code fpc rpc addr info tvec).atomstat = c.atomstat := rfl
@[simp] theorem enter_last : (c.enter code fpc rpc addr info tvec).last = c.last := rfl
@[simp] theorem enter_yields : (c.enter code fpc rpc addr info tvec).yields = c.yields := rfl
@[simp] theorem enter_out : (c.enter code fpc rpc addr info tvec).out = c.out := rfl
@[simp] theorem enter_post : (c.enter code fpc rpc addr info tvec).post = c.post := rfl
@[simp] theorem enter_openB : (c.enter code fpc rpc addr info tvec).openB = c.openB := rfl
@[simp] theorem enter_closed : (c.enter code fpc rpc addr info tvec).closed = c.closed := rfl
@[simp] theorem enter_retGlob : (c.enter code fpc rpc addr info tvec).retGlob = c.retGlob := rfl
@[simp] theorem enter_result : (c.enter code fpc rpc addr info tvec).result = c.result := rfl
@[simp] theorem enter_byStart : (c.enter code fpc rpc addr info tvec).byStart = c.byStart := rfl
@[simp] theorem enter_layer : (c.enter code fpc rpc addr info tvec).layer = c.layer := rfl
@[simp] theorem enter_hentry : (c.enter code fpc rpc addr info tvec).hentry = c.hentry := rfl
@[simp] theorem enter_wlen : (c.enter code fpc rpc addr info tvec).wlen = c.wlen := rfl
@[simp] theorem enter_wuses : (c.enter code fpc rpc addr info tvec).wuses = c.wuses := rfl
@[simp] theorem enter_claims : (c.enter code fpc rpc addr info tvec).claims = c.claims := rfl
end

section
variable (c : Ctx) (t : Word)
@[simp] theorem leave_g : (c.leave t).g = c.g := rfl
@[simp] theorem leave_f : (c.leave t).f = c.f := rfl
@[simp] theorem leave_v : (c.leave t).v = c.v := rfl
@[simp] theorem leave_state : (c.leave t).state = c.state := rfl
@[simp] theorem leave_cause : (c.leave t).cause = c.cause := rfl
@[simp] theorem leave_fpc : (c.leave t).fpc = c.fpc := rfl
@[simp] theorem leave_faddr : (c.leave t).faddr = c.faddr := rfl
@[simp] theorem leave_finfo : (c.leave t).finfo = c.finfo := rfl
@[simp] theorem leave_rpc : (c.leave t).rpc = c.rpc := rfl
@[simp] theorem leave_tscratch : (c.leave t).tscratch = c.tscratch := rfl
@[simp] theorem leave_fflags : (c.leave t).fflags = c.fflags := rfl
@[simp] theorem leave_aflags : (c.leave t).aflags = c.aflags := rfl
@[simp] theorem leave_satflags : (c.leave t).satflags = c.satflags := rfl
@[simp] theorem leave_atomstat : (c.leave t).atomstat = c.atomstat := rfl
@[simp] theorem leave_last : (c.leave t).last = c.last := rfl
@[simp] theorem leave_yields : (c.leave t).yields = c.yields := rfl
@[simp] theorem leave_out : (c.leave t).out = c.out := rfl
@[simp] theorem leave_post : (c.leave t).post = c.post := rfl
@[simp] theorem leave_trap : (c.leave t).trap = c.trap := rfl
@[simp] theorem leave_openB : (c.leave t).openB = c.openB := rfl
@[simp] theorem leave_closed : (c.leave t).closed = c.closed := rfl
@[simp] theorem leave_retGlob : (c.leave t).retGlob = c.retGlob := rfl
@[simp] theorem leave_result : (c.leave t).result = c.result := rfl
@[simp] theorem leave_byStart : (c.leave t).byStart = c.byStart := rfl
@[simp] theorem leave_layer : (c.leave t).layer = c.layer := rfl
@[simp] theorem leave_hentry : (c.leave t).hentry = c.hentry := rfl
@[simp] theorem leave_fetched : (c.leave t).fetched = c.fetched := rfl
@[simp] theorem leave_wlen : (c.leave t).wlen = c.wlen := rfl
@[simp] theorem leave_wuses : (c.leave t).wuses = c.wuses := rfl
@[simp] theorem leave_claims : (c.leave t).claims = c.claims := rfl
end

section
variable (c : Ctx) (r : Reg) (x : BitVec 32)
@[simp] theorem setF_g : (c.setF r x).g = c.g := rfl
@[simp] theorem setF_v : (c.setF r x).v = c.v := rfl
@[simp] theorem setF_pc : (c.setF r x).pc = c.pc := rfl
@[simp] theorem setF_state : (c.setF r x).state = c.state := rfl
@[simp] theorem setF_cause : (c.setF r x).cause = c.cause := rfl
@[simp] theorem setF_fpc : (c.setF r x).fpc = c.fpc := rfl
@[simp] theorem setF_faddr : (c.setF r x).faddr = c.faddr := rfl
@[simp] theorem setF_finfo : (c.setF r x).finfo = c.finfo := rfl
@[simp] theorem setF_rpc : (c.setF r x).rpc = c.rpc := rfl
@[simp] theorem setF_tstat : (c.setF r x).tstat = c.tstat := rfl
@[simp] theorem setF_tscratch : (c.setF r x).tscratch = c.tscratch := rfl
@[simp] theorem setF_fflags : (c.setF r x).fflags = c.fflags := rfl
@[simp] theorem setF_aflags : (c.setF r x).aflags = c.aflags := rfl
@[simp] theorem setF_satflags : (c.setF r x).satflags = c.satflags := rfl
@[simp] theorem setF_atomstat : (c.setF r x).atomstat = c.atomstat := rfl
@[simp] theorem setF_last : (c.setF r x).last = c.last := rfl
@[simp] theorem setF_yields : (c.setF r x).yields = c.yields := rfl
@[simp] theorem setF_out : (c.setF r x).out = c.out := rfl
@[simp] theorem setF_post : (c.setF r x).post = c.post := rfl
@[simp] theorem setF_trap : (c.setF r x).trap = c.trap := rfl
@[simp] theorem setF_openB : (c.setF r x).openB = c.openB := rfl
@[simp] theorem setF_closed : (c.setF r x).closed = c.closed := rfl
@[simp] theorem setF_retGlob : (c.setF r x).retGlob = c.retGlob := rfl
@[simp] theorem setF_result : (c.setF r x).result = c.result := rfl
@[simp] theorem setF_byStart : (c.setF r x).byStart = c.byStart := rfl
@[simp] theorem setF_layer : (c.setF r x).layer = c.layer := rfl
@[simp] theorem setF_hentry : (c.setF r x).hentry = c.hentry := rfl
@[simp] theorem setF_fetched : (c.setF r x).fetched = c.fetched := rfl
@[simp] theorem setF_wlen : (c.setF r x).wlen = c.wlen := rfl
@[simp] theorem setF_wuses : (c.setF r x).wuses = c.wuses := rfl
@[simp] theorem setF_claims : (c.setF r x).claims = c.claims := rfl
end

section
variable (c : Ctx) (r : VReg) (x : Vec)
@[simp] theorem setV_g : (c.setV r x).g = c.g := rfl
@[simp] theorem setV_f : (c.setV r x).f = c.f := rfl
@[simp] theorem setV_pc : (c.setV r x).pc = c.pc := rfl
@[simp] theorem setV_state : (c.setV r x).state = c.state := rfl
@[simp] theorem setV_cause : (c.setV r x).cause = c.cause := rfl
@[simp] theorem setV_fpc : (c.setV r x).fpc = c.fpc := rfl
@[simp] theorem setV_faddr : (c.setV r x).faddr = c.faddr := rfl
@[simp] theorem setV_finfo : (c.setV r x).finfo = c.finfo := rfl
@[simp] theorem setV_rpc : (c.setV r x).rpc = c.rpc := rfl
@[simp] theorem setV_tstat : (c.setV r x).tstat = c.tstat := rfl
@[simp] theorem setV_tscratch : (c.setV r x).tscratch = c.tscratch := rfl
@[simp] theorem setV_fflags : (c.setV r x).fflags = c.fflags := rfl
@[simp] theorem setV_aflags : (c.setV r x).aflags = c.aflags := rfl
@[simp] theorem setV_satflags : (c.setV r x).satflags = c.satflags := rfl
@[simp] theorem setV_atomstat : (c.setV r x).atomstat = c.atomstat := rfl
@[simp] theorem setV_last : (c.setV r x).last = c.last := rfl
@[simp] theorem setV_yields : (c.setV r x).yields = c.yields := rfl
@[simp] theorem setV_out : (c.setV r x).out = c.out := rfl
@[simp] theorem setV_post : (c.setV r x).post = c.post := rfl
@[simp] theorem setV_trap : (c.setV r x).trap = c.trap := rfl
@[simp] theorem setV_openB : (c.setV r x).openB = c.openB := rfl
@[simp] theorem setV_closed : (c.setV r x).closed = c.closed := rfl
@[simp] theorem setV_retGlob : (c.setV r x).retGlob = c.retGlob := rfl
@[simp] theorem setV_result : (c.setV r x).result = c.result := rfl
@[simp] theorem setV_byStart : (c.setV r x).byStart = c.byStart := rfl
@[simp] theorem setV_layer : (c.setV r x).layer = c.layer := rfl
@[simp] theorem setV_hentry : (c.setV r x).hentry = c.hentry := rfl
@[simp] theorem setV_fetched : (c.setV r x).fetched = c.fetched := rfl
@[simp] theorem setV_wlen : (c.setV r x).wlen = c.wlen := rfl
@[simp] theorem setV_wuses : (c.setV r x).wuses = c.wuses := rfl
@[simp] theorem setV_claims : (c.setV r x).claims = c.claims := rfl
end

@[simp] theorem setG_f (c : Ctx) (r : Reg) (x : Word) : (c.setG r x).f = c.f := by unfold Ctx.setG; split <;> rfl
@[simp] theorem setG_v (c : Ctx) (r : Reg) (x : Word) : (c.setG r x).v = c.v := by unfold Ctx.setG; split <;> rfl
@[simp] theorem setG_pc (c : Ctx) (r : Reg) (x : Word) : (c.setG r x).pc = c.pc := by unfold Ctx.setG; split <;> rfl
@[simp] theorem setG_state (c : Ctx) (r : Reg) (x : Word) : (c.setG r x).state = c.state := by unfold Ctx.setG; split <;> rfl
@[simp] theorem setG_cause (c : Ctx) (r : Reg) (x : Word) : (c.setG r x).cause = c.cause := by unfold Ctx.setG; split <;> rfl
@[simp] theorem setG_fpc (c : Ctx) (r : Reg) (x : Word) : (c.setG r x).fpc = c.fpc := by unfold Ctx.setG; split <;> rfl
@[simp] theorem setG_faddr (c : Ctx) (r : Reg) (x : Word) : (c.setG r x).faddr = c.faddr := by unfold Ctx.setG; split <;> rfl
@[simp] theorem setG_finfo (c : Ctx) (r : Reg) (x : Word) : (c.setG r x).finfo = c.finfo := by unfold Ctx.setG; split <;> rfl
@[simp] theorem setG_rpc (c : Ctx) (r : Reg) (x : Word) : (c.setG r x).rpc = c.rpc := by unfold Ctx.setG; split <;> rfl
@[simp] theorem setG_tstat (c : Ctx) (r : Reg) (x : Word) : (c.setG r x).tstat = c.tstat := by unfold Ctx.setG; split <;> rfl
@[simp] theorem setG_tscratch (c : Ctx) (r : Reg) (x : Word) : (c.setG r x).tscratch = c.tscratch := by unfold Ctx.setG; split <;> rfl
@[simp] theorem setG_fflags (c : Ctx) (r : Reg) (x : Word) : (c.setG r x).fflags = c.fflags := by unfold Ctx.setG; split <;> rfl
@[simp] theorem setG_aflags (c : Ctx) (r : Reg) (x : Word) : (c.setG r x).aflags = c.aflags := by unfold Ctx.setG; split <;> rfl
@[simp] theorem setG_satflags (c : Ctx) (r : Reg) (x : Word) : (c.setG r x).satflags = c.satflags := by unfold Ctx.setG; split <;> rfl
@[simp] theorem setG_atomstat (c : Ctx) (r : Reg) (x : Word) : (c.setG r x).atomstat = c.atomstat := by unfold Ctx.setG; split <;> rfl
@[simp] theorem setG_last (c : Ctx) (r : Reg) (x : Word) : (c.setG r x).last = c.last := by unfold Ctx.setG; split <;> rfl
@[simp] theorem setG_yields (c : Ctx) (r : Reg) (x : Word) : (c.setG r x).yields = c.yields := by unfold Ctx.setG; split <;> rfl
@[simp] theorem setG_out (c : Ctx) (r : Reg) (x : Word) : (c.setG r x).out = c.out := by unfold Ctx.setG; split <;> rfl
@[simp] theorem setG_post (c : Ctx) (r : Reg) (x : Word) : (c.setG r x).post = c.post := by unfold Ctx.setG; split <;> rfl
@[simp] theorem setG_trap (c : Ctx) (r : Reg) (x : Word) : (c.setG r x).trap = c.trap := by unfold Ctx.setG; split <;> rfl
@[simp] theorem setG_openB (c : Ctx) (r : Reg) (x : Word) : (c.setG r x).openB = c.openB := by unfold Ctx.setG; split <;> rfl
@[simp] theorem setG_closed (c : Ctx) (r : Reg) (x : Word) : (c.setG r x).closed = c.closed := by unfold Ctx.setG; split <;> rfl
@[simp] theorem setG_retGlob (c : Ctx) (r : Reg) (x : Word) : (c.setG r x).retGlob = c.retGlob := by unfold Ctx.setG; split <;> rfl
@[simp] theorem setG_result (c : Ctx) (r : Reg) (x : Word) : (c.setG r x).result = c.result := by unfold Ctx.setG; split <;> rfl
@[simp] theorem setG_byStart (c : Ctx) (r : Reg) (x : Word) : (c.setG r x).byStart = c.byStart := by unfold Ctx.setG; split <;> rfl
@[simp] theorem setG_layer (c : Ctx) (r : Reg) (x : Word) : (c.setG r x).layer = c.layer := by unfold Ctx.setG; split <;> rfl
@[simp] theorem setG_hentry (c : Ctx) (r : Reg) (x : Word) : (c.setG r x).hentry = c.hentry := by unfold Ctx.setG; split <;> rfl
@[simp] theorem setG_fetched (c : Ctx) (r : Reg) (x : Word) : (c.setG r x).fetched = c.fetched := by unfold Ctx.setG; split <;> rfl
@[simp] theorem setG_wlen (c : Ctx) (r : Reg) (x : Word) : (c.setG r x).wlen = c.wlen := by unfold Ctx.setG; split <;> rfl
@[simp] theorem setG_wuses (c : Ctx) (r : Reg) (x : Word) : (c.setG r x).wuses = c.wuses := by unfold Ctx.setG; split <;> rfl
@[simp] theorem setG_claims (c : Ctx) (r : Reg) (x : Word) : (c.setG r x).claims = c.claims := by unfold Ctx.setG; split <;> rfl

/-! ## Completing writes leave a context's other fields -/

@[simp] theorem write_pc (c : Ctx) (w : RegWrite) : (c.write w).pc = c.pc := by cases w <;> simp [Ctx.write]
@[simp] theorem write_state (c : Ctx) (w : RegWrite) : (c.write w).state = c.state := by cases w <;> simp [Ctx.write]
@[simp] theorem write_cause (c : Ctx) (w : RegWrite) : (c.write w).cause = c.cause := by cases w <;> simp [Ctx.write]
@[simp] theorem write_fpc (c : Ctx) (w : RegWrite) : (c.write w).fpc = c.fpc := by cases w <;> simp [Ctx.write]
@[simp] theorem write_faddr (c : Ctx) (w : RegWrite) : (c.write w).faddr = c.faddr := by cases w <;> simp [Ctx.write]
@[simp] theorem write_finfo (c : Ctx) (w : RegWrite) : (c.write w).finfo = c.finfo := by cases w <;> simp [Ctx.write]
@[simp] theorem write_rpc (c : Ctx) (w : RegWrite) : (c.write w).rpc = c.rpc := by cases w <;> simp [Ctx.write]
@[simp] theorem write_tstat (c : Ctx) (w : RegWrite) : (c.write w).tstat = c.tstat := by cases w <;> simp [Ctx.write]
@[simp] theorem write_tscratch (c : Ctx) (w : RegWrite) : (c.write w).tscratch = c.tscratch := by cases w <;> simp [Ctx.write]
@[simp] theorem write_last (c : Ctx) (w : RegWrite) : (c.write w).last = c.last := by cases w <;> simp [Ctx.write]
@[simp] theorem write_yields (c : Ctx) (w : RegWrite) : (c.write w).yields = c.yields := by cases w <;> simp [Ctx.write]
@[simp] theorem write_out (c : Ctx) (w : RegWrite) : (c.write w).out = c.out := by cases w <;> simp [Ctx.write]
@[simp] theorem write_post (c : Ctx) (w : RegWrite) : (c.write w).post = c.post := by cases w <;> simp [Ctx.write]
@[simp] theorem write_trap (c : Ctx) (w : RegWrite) : (c.write w).trap = c.trap := by cases w <;> simp [Ctx.write]
@[simp] theorem write_openB (c : Ctx) (w : RegWrite) : (c.write w).openB = c.openB := by cases w <;> simp [Ctx.write]
@[simp] theorem write_closed (c : Ctx) (w : RegWrite) : (c.write w).closed = c.closed := by cases w <;> simp [Ctx.write]
@[simp] theorem write_retGlob (c : Ctx) (w : RegWrite) : (c.write w).retGlob = c.retGlob := by cases w <;> simp [Ctx.write]
@[simp] theorem write_result (c : Ctx) (w : RegWrite) : (c.write w).result = c.result := by cases w <;> simp [Ctx.write]
@[simp] theorem write_byStart (c : Ctx) (w : RegWrite) : (c.write w).byStart = c.byStart := by cases w <;> simp [Ctx.write]
@[simp] theorem write_layer (c : Ctx) (w : RegWrite) : (c.write w).layer = c.layer := by cases w <;> simp [Ctx.write]
@[simp] theorem write_hentry (c : Ctx) (w : RegWrite) : (c.write w).hentry = c.hentry := by cases w <;> simp [Ctx.write]
@[simp] theorem write_fetched (c : Ctx) (w : RegWrite) : (c.write w).fetched = c.fetched := by cases w <;> simp [Ctx.write]
@[simp] theorem write_wlen (c : Ctx) (w : RegWrite) : (c.write w).wlen = c.wlen := by cases w <;> simp [Ctx.write]
@[simp] theorem write_wuses (c : Ctx) (w : RegWrite) : (c.write w).wuses = c.wuses := by cases w <;> simp [Ctx.write]
@[simp] theorem write_claims (c : Ctx) (w : RegWrite) : (c.write w).claims = c.claims := by cases w <;> simp [Ctx.write]

/-- What no single write changes, no list of writes changes. -/
theorem writes_keep {β : Type} (field : Ctx → β) (one : ∀ c w, field (c.write w) = field c) (c : Ctx) (ws : List RegWrite) :
    field (c.writes ws) = field c :=
  match ws with
  | [] => rfl
  | w :: ws => (writes_keep field one (c.write w) ws).trans (one c w)

section
variable (c : Ctx) (ws : List RegWrite)
@[simp] theorem writes_pc : (c.writes ws).pc = c.pc := writes_keep _ write_pc c ws
@[simp] theorem writes_state : (c.writes ws).state = c.state := writes_keep _ write_state c ws
@[simp] theorem writes_cause : (c.writes ws).cause = c.cause := writes_keep _ write_cause c ws
@[simp] theorem writes_fpc : (c.writes ws).fpc = c.fpc := writes_keep _ write_fpc c ws
@[simp] theorem writes_faddr : (c.writes ws).faddr = c.faddr := writes_keep _ write_faddr c ws
@[simp] theorem writes_finfo : (c.writes ws).finfo = c.finfo := writes_keep _ write_finfo c ws
@[simp] theorem writes_rpc : (c.writes ws).rpc = c.rpc := writes_keep _ write_rpc c ws
@[simp] theorem writes_tstat : (c.writes ws).tstat = c.tstat := writes_keep _ write_tstat c ws
@[simp] theorem writes_tscratch : (c.writes ws).tscratch = c.tscratch := writes_keep _ write_tscratch c ws
@[simp] theorem writes_last : (c.writes ws).last = c.last := writes_keep _ write_last c ws
@[simp] theorem writes_yields : (c.writes ws).yields = c.yields := writes_keep _ write_yields c ws
@[simp] theorem writes_out : (c.writes ws).out = c.out := writes_keep _ write_out c ws
@[simp] theorem writes_post : (c.writes ws).post = c.post := writes_keep _ write_post c ws
@[simp] theorem writes_trap : (c.writes ws).trap = c.trap := writes_keep _ write_trap c ws
@[simp] theorem writes_openB : (c.writes ws).openB = c.openB := writes_keep _ write_openB c ws
@[simp] theorem writes_closed : (c.writes ws).closed = c.closed := writes_keep _ write_closed c ws
@[simp] theorem writes_retGlob : (c.writes ws).retGlob = c.retGlob := writes_keep _ write_retGlob c ws
@[simp] theorem writes_result : (c.writes ws).result = c.result := writes_keep _ write_result c ws
@[simp] theorem writes_byStart : (c.writes ws).byStart = c.byStart := writes_keep _ write_byStart c ws
@[simp] theorem writes_layer : (c.writes ws).layer = c.layer := writes_keep _ write_layer c ws
@[simp] theorem writes_hentry : (c.writes ws).hentry = c.hentry := writes_keep _ write_hentry c ws
@[simp] theorem writes_fetched : (c.writes ws).fetched = c.fetched := writes_keep _ write_fetched c ws
@[simp] theorem writes_wlen : (c.writes ws).wlen = c.wlen := writes_keep _ write_wlen c ws
@[simp] theorem writes_wuses : (c.writes ws).wuses = c.wuses := writes_keep _ write_wuses c ws
@[simp] theorem writes_claims : (c.writes ws).claims = c.claims := writes_keep _ write_claims c ws
end

/-! ## Contexts, cores and dies -/

/-- Keys of contexts tell cores and contexts apart. -/
theorem ctxKey_inj {h k h2 k2 : Nat} (hk : k < 16) (hk2 : k2 < 16) (e : ctxKey h k = ctxKey h2 k2) : h = h2 ∧ k = k2 := by
  unfold ctxKey at e; omega

@[simp] theorem ctx_setCtx_same (s : State) (h k : Nat) (c : Ctx) : (s.setCtx h k c).ctx h k = c := get_put_same _ _ _ _

theorem ctx_setCtx_other (s : State) (c : Ctx) {h k h2 k2 : Nat} (e : ctxKey h2 k2 ≠ ctxKey h k) :
    (s.setCtx h k c).ctx h2 k2 = s.ctx h2 k2 := get_put_other _ _ _ (Ne.symm e)

@[simp] theorem ctx_modCtx_same (s : State) (h k : Nat) (f : Ctx → Ctx) : (s.modCtx h k f).ctx h k = f (s.ctx h k) :=
  ctx_setCtx_same _ _ _ _

theorem ctx_modCtx_other (s : State) (f : Ctx → Ctx) {h k h2 k2 : Nat} (e : ctxKey h2 k2 ≠ ctxKey h k) :
    (s.modCtx h k f).ctx h2 k2 = s.ctx h2 k2 := ctx_setCtx_other _ _ e

@[simp] theorem cur_modCur (s : State) (f : Ctx → Ctx) : (s.modCur f).cur = f s.cur := ctx_modCtx_same _ _ _ _

theorem ctx_modCur_other (s : State) (f : Ctx → Ctx) {h k : Nat} (e : ctxKey h k ≠ ctxKey s.now.h s.now.k) :
    (s.modCur f).ctx h k = s.ctx h k := ctx_modCtx_other _ _ e

@[simp] theorem core_setCore_same (s : State) (h : Nat) (c : Core) : (s.setCore h c).core h = c := get_put_same _ _ _ _

theorem core_setCore_other (s : State) (c : Core) {h h2 : Nat} (e : h ≠ h2) : (s.setCore h c).core h2 = s.core h2 :=
  get_put_other _ _ _ e

@[simp] theorem core_modCore_same (s : State) (h : Nat) (f : Core → Core) : (s.modCore h f).core h = f (s.core h) :=
  core_setCore_same _ _ _

theorem core_modCore_other (s : State) (f : Core → Core) {h h2 : Nat} (e : h ≠ h2) : (s.modCore h f).core h2 = s.core h2 :=
  core_setCore_other _ _ e

@[simp] theorem me_modMe (s : State) (f : Core → Core) : (s.modMe f).me = f s.me := core_modCore_same _ _ _

@[simp] theorem die_modDie_same (s : State) (d : Nat) (f : Die → Die) : (s.modDie d f).die d = f (s.die d) := get_put_same _ _ _ _

theorem die_modDie_other (s : State) (f : Die → Die) {d d2 : Nat} (e : d ≠ d2) : (s.modDie d f).die d2 = s.die d2 :=
  get_put_other _ _ _ e

@[simp] theorem core_modCtx (s : State) (h k : Nat) (f : Ctx → Ctx) (h2 : Nat) : (s.modCtx h k f).core h2 = s.core h2 := rfl
@[simp] theorem core_modCur (s : State) (f : Ctx → Ctx) (h : Nat) : (s.modCur f).core h = s.core h := rfl
@[simp] theorem die_modCur (s : State) (f : Ctx → Ctx) (d : Nat) : (s.modCur f).die d = s.die d := rfl
@[simp] theorem ctx_modCore (s : State) (h : Nat) (f : Core → Core) (h2 k : Nat) : (s.modCore h f).ctx h2 k = s.ctx h2 k := rfl
@[simp] theorem ctx_setCore (s : State) (h : Nat) (c : Core) (h2 k : Nat) : (s.setCore h c).ctx h2 k = s.ctx h2 k := rfl
@[simp] theorem ctx_modMe (s : State) (f : Core → Core) (h k : Nat) : (s.modMe f).ctx h k = s.ctx h k := rfl
@[simp] theorem cur_modMe (s : State) (f : Core → Core) : (s.modMe f).cur = s.cur := rfl
@[simp] theorem cur_modCore (s : State) (h : Nat) (f : Core → Core) : (s.modCore h f).cur = s.cur := rfl
@[simp] theorem me_modCur (s : State) (f : Ctx → Ctx) : (s.modCur f).me = s.me := rfl

/-! ## Registers -/

/-- `g0` reads zero (R9). -/
@[simp] theorem gr_zero (c : Ctx) : c.gr 0#5 = 0#64 := rfl

theorem gr_setG_same (c : Ctx) {r : Reg} (x : Word) (h : r ≠ 0#5) : (c.setG r x).gr r = x := by simp [Ctx.setG, Ctx.gr, h]

theorem gr_setG_other (c : Ctx) (x : Word) {r q : Reg} (h : q ≠ r) : (c.setG r x).gr q = c.gr q := by
  by_cases h0 : r = 0#5
  · simp [Ctx.setG, h0]
  · have hn : r.toNat ≠ q.toNat := fun e => h (BitVec.eq_of_toNat_eq e.symm)
    simp only [Ctx.setG, Ctx.gr, if_neg h0, get_put_other c.g 0#64 x hn]

/-- What a `g` register reads after a write: `g0` keeps zero (R9). -/
theorem gr_setG (c : Ctx) (r q : Reg) (x : Word) : (c.setG r x).gr q = if q = r ∧ r ≠ 0#5 then x else c.gr q := by
  by_cases h : q = r
  · subst h
    by_cases h0 : q = 0#5
    · subst h0; simp
    · simp [h0, gr_setG_same c x h0]
  · simp [h, gr_setG_other c x h]

theorem fr_setF (c : Ctx) (r q : Reg) (x : BitVec 32) : (c.setF r x).fr q = if q = r then x else c.fr q := by
  unfold Ctx.setF Ctx.fr
  rw [get_put]
  by_cases h : q = r
  · simp [h]
  · have : r.toNat ≠ q.toNat := fun e => h (BitVec.eq_of_toNat_eq e.symm)
    simp [h, this]

theorem vr_setV (c : Ctx) (r q : VReg) (x : Vec) : (c.setV r x).vr q = if q = r then x else c.vr q := by
  unfold Ctx.setV Ctx.vr
  rw [get_put]
  by_cases h : q = r
  · simp [h]
  · have : r.toNat ≠ q.toNat := fun e => h (BitVec.eq_of_toNat_eq e.symm)
    simp [h, this]

@[simp] theorem fr_setG (c : Ctx) (r q : Reg) (x : Word) : (c.setG r x).fr q = c.fr q := by simp [Ctx.fr]
@[simp] theorem vr_setG (c : Ctx) (r : Reg) (q : VReg) (x : Word) : (c.setG r x).vr q = c.vr q := by simp [Ctx.vr]
@[simp] theorem gr_setF (c : Ctx) (r q : Reg) (x : BitVec 32) : (c.setF r x).gr q = c.gr q := rfl
@[simp] theorem gr_setV (c : Ctx) (r : VReg) (q : Reg) (x : Vec) : (c.setV r x).gr q = c.gr q := rfl
@[simp] theorem gr_advance (c : Ctx) (len : Word) (q : Reg) : (c.advance len).gr q = c.gr q := rfl
@[simp] theorem fr_advance (c : Ctx) (len : Word) (q : Reg) : (c.advance len).fr q = c.fr q := rfl
@[simp] theorem vr_advance (c : Ctx) (len : Word) (q : VReg) : (c.advance len).vr q = c.vr q := rfl

end Sys2Proof.Laws
end

