-- ==== Sys2Proof/Laws/Memory.lean ====
section
/-! SUPPORT. The memory operations over `State`: each keeps the canonical form, and a byte reads as it was last written. -/

namespace Sys2Proof.Laws

open Sys2Proof.Machine

theorem wf_setRaw {s : State} (a : Nat) (b : Byte) (h : s.mem.wf = true) : (s.setRaw a b).mem.wf = true := wf_setByte _ _ h

theorem wf_setRaws (bs : List Byte) {s : State} (a : Nat) (h : s.mem.wf = true) : (s.setRaws a bs).mem.wf = true := by
  fun_induction State.setRaws s a bs <;> grind [wf_setRaw]

@[simp] theorem nsKey_setRaw (s : State) (a c : Nat) (b : Byte) : (s.setRaw a b).nsKey c = s.nsKey c := rfl

@[simp] theorem rawByte_setRaw_same (s : State) (a : Nat) (b : Byte) : (s.setRaw a b).rawByte a = b := by
  show (s.mem.setByte a (b ^^^ s.nsKey a)).byte a ^^^ s.nsKey a = b
  rw [byte_setByte_same, BitVec.xor_assoc, BitVec.xor_self, BitVec.xor_zero]

theorem rawByte_setRaw_other (s : State) (b : Byte) {a c : Nat} (h : a ≠ c) : (s.setRaw a b).rawByte c = s.rawByte c := by
  show (s.mem.setByte a (b ^^^ s.nsKey a)).byte c ^^^ s.nsKey c = s.mem.byte c ^^^ s.nsKey c
  rw [byte_setByte_other _ _ h]

/-- Bytes below or above those written stay. -/
theorem rawByte_setRaws_other (bs : List Byte) (s : State) (a c : Nat) (h : c < a ∨ a + bs.length ≤ c) :
    (s.setRaws a bs).rawByte c = s.rawByte c := by
  fun_induction State.setRaws s a bs <;> grind [rawByte_setRaw_other]

/-- The bytes written read back. -/
theorem rawByte_setRaws (bs : List Byte) (s : State) (a i : Nat) (h : i < bs.length) : (s.setRaws a bs).rawByte (a + i) = bs[i] := by
  fun_induction State.setRaws s a bs generalizing i with
  | case1 => exact absurd h (Nat.not_lt_zero i)
  | case2 s a b bs ih =>
    match i, h with
    | 0, _ => exact (rawByte_setRaws_other bs _ _ _ (by omega)).trans (rawByte_setRaw_same s a b)
    | i + 1, h => exact (congrArg _ (by omega)).trans (ih i (Nat.lt_of_succ_lt_succ h))

theorem wf_clearLocal {s : State} (h : Nat) (w : s.mem.wf = true) : (s.clearLocal h).mem.wf = true := wf_filter _ w

theorem wf_setPoc {s : State} (sp : Space) (a : Nat) (b : Byte) (h : s.mem.wf = true) : (s.setPoc sp a b).mem.wf = true := by
  unfold State.setPoc
  split
  · exact h
  · exact wf_setRaw a b h

theorem wf_setPocs (sp : Space) (bs : List Byte) {s : State} (a : Nat) (h : s.mem.wf = true) : (s.setPocs sp a bs).mem.wf = true := by
  fun_induction State.setPocs s sp a bs <;> grind [wf_setPoc]

/-- A write that performs at its point of coherence. -/
theorem wf_putPoc {s : State} (sp : Space) (a : Nat) (bs : List Byte) (h : s.mem.wf = true) : (s.putPoc sp a bs).mem.wf = true :=
  wf_setPocs sp bs a h

theorem wf_loseLines {s : State} (ls : List Nat) (h : s.mem.wf = true) : (s.loseLines ls).mem.wf = true :=
  List.foldlRecOn (motive := fun t : State => t.mem.wf = true) ls _ h (fun _ w _ _ => wf_setRaws _ _ w)

theorem wf_begun {s : State} (warm : Bool) (w : s.mem.wf = true) : (s.begun warm).mem.wf = true := wf_filter _ w

end Sys2Proof.Laws
end

