-- ==== Sys2Proof/Laws/Ops.lean ====
section
/-! SUPPORT. One lemma for each shared way an instruction ends: all that it can do. -/

namespace Sys2Proof.Laws

open Sys2Proof.Machine Sys2Proof.Safety

theorem others_modCur (s : State) (f : Ctx → Ctx) : OthersSame s (s.modCur f) := by
  intro h k hk
  exact ctx_setCtx_other _ _ (fun e => hk e)

theorem onlyCur_modCur (s : State) (f : Ctx → Ctx) : OnlyCur s (s.modCur f) :=
  ⟨rfl, others_modCur s f, fun _ _ => rfl⟩

theorem goesTo_modCur (s : State) (pc : Word) : GoesTo s (s.modCur (fun c => { c with pc := pc })) pc :=
  ⟨onlyCur_modCur _ _, cur_modCur _ _⟩

/-- A page 0 instruction that writes nothing goes on after itself. -/
theorem endBase_nil (s : State) : GoesTo s (s.endBase []) (s.cur.pc + s.len) :=
  ⟨onlyCur_modCur _ _, cur_modCur _ _⟩

/-- A page 0 instruction that writes one register. -/
theorem endBase_writesG (s : State) (d : Reg) (x : Word) : WritesG s (s.endBase [.g d x]) d x := by
  refine ⟨onlyCur_modCur _ _, ?_, ?_⟩
  · simp only [State.endBase, cur_modCur, Ctx.writes, List.foldl, Ctx.write, Ctx.advance, Ctx.setG]
    split <;> rfl
  · intro r
    simp only [State.g, State.endBase, cur_modCur, Ctx.writes, List.foldl, Ctx.write, gr_advance, gr_setG]
    by_cases h : r = d
    · subst h; rfl
    · simp [h]

theorem writes_core_none (ws : List RegWrite) (c : Core) (h : ws.any RegWrite.coreWide = false) :
    ws.foldl Core.write c = c := by
  induction ws generalizing c with
  | nil => rfl
  | cons w ws ih =>
    simp only [List.any_cons, Bool.or_eq_false_iff] at h
    have : c.write w = c := by cases w <;> simp_all [Core.write, RegWrite.coreWide]
    simp [this, ih _ h.2]

/-- Everything that completing writes of the executing context can change. -/
theorem complete_cur (s : State) (ws : List RegWrite) :
    OthersSame s (s.complete s.now.h s.now.k ws) ∧ CoresSame s (s.complete s.now.h s.now.k ws) ∧
      s.complete s.now.h s.now.k ws =
        { s with ctxs := (s.complete s.now.h s.now.k ws).ctxs, cores := (s.complete s.now.h s.now.k ws).cores } ∧
      (s.complete s.now.h s.now.k ws).cur = s.cur.writes ws ∧
      (s.complete s.now.h s.now.k ws).me = ws.foldl Core.write s.me := by
  unfold State.complete
  simp only
  split
  · refine ⟨fun h k e => ctx_setCtx_other _ _ (fun e' => e e'), fun h e => core_modCore_other _ _ (fun e' => e e'.symm),
      rfl, ?_, ?_⟩
    · exact ctx_setCtx_same _ _ _ _
    · exact core_modCore_same _ _ _
  · rename_i h
    refine ⟨fun h k e => ctx_setCtx_other _ _ (fun e' => e e'), fun h e => rfl, rfl, ?_, ?_⟩
    · exact ctx_setCtx_same _ _ _ _
    · rw [writes_core_none _ _ (by simpa using h)]; rfl

/-- Everything that `endLong` can do (R69, R180). -/
theorem endLong_ended (s : State) (l : BitVec 4) (ws : List RegWrite) : Ended s (s.endLong l ws) l ws := by
  unfold State.endLong
  by_cases hc : s.now.defer = true ∨ l ≠ 0#4
  · have : (s.now.defer || l != 0#4) = true := by simpa using hc
    rw [this]
    simp only [if_true]
    refine ⟨fun h k e => ctx_setCtx_other _ _ (fun e' => e e'), fun h e => rfl, fun _ _ => rfl, ?_⟩
    rw [if_pos hc]
    exact ⟨rfl, (cur_modCur s (fun c => (c.push ⟨s.serial, c.pc, l.toNat, s.now.uses, ws, .ready⟩).advance s.len))⟩
  · have : (s.now.defer || l != 0#4) = false := by simpa using hc
    rw [this]
    obtain ⟨h1, h2, h3, h4, h5⟩ := complete_cur s ws
    have e : (s.complete s.now.h s.now.k ws).now = s.now := by rw [h3]
    simp only [Bool.false_eq_true, if_false]
    generalize hu : s.complete s.now.h s.now.k ws = u at *
    refine ⟨fun h k hk => ?_, fun h hh => ?_, fun sp a => ?_, ?_⟩
    · exact (ctx_setCtx_other _ _ (fun e' => hk (by rw [← e]; exact e'))).trans (h1 h k hk)
    · exact h2 h hh
    · show u.pocByte sp a = s.pocByte sp a
      rw [h3]; rfl
    · rw [if_neg hc]
      refine ⟨?_, ?_, ?_⟩
      · have : ∀ v : State, v = { s with ctxs := v.ctxs, cores := v.cores } →
            v.modCur (fun c => c.advance s.len) =
              { s with ctxs := (v.modCur (fun c => c.advance s.len)).ctxs, cores := (v.modCur (fun c => c.advance s.len)).cores } := by
          intro v hv
          rw [hv]; rfl
        exact this u h3
      · rw [cur_modCur, h4]; simp [Ctx.advance]
      · simp only [State.me] at h5 ⊢
        rw [← h5, e, modCur_now, e]; rfl

/-- A bit above the two lowest of a status that keeps them. -/
theorem bit_kept (x y : Word) (n : Nat) (hx : x.toNat < 4) (hn : 2 ≤ n) : (x ||| (y &&& ~~~3#64)).getLsbD n = y.getLsbD n := by
  have low (z : Word) (hz : z.toNat < 4) : z.getLsbD n = false :=
    Nat.testBit_lt_two_pow (Nat.lt_of_lt_of_le hz (Nat.pow_le_pow_right (n := 2) (by omega) hn))
  rw [BitVec.getLsbD_or, BitVec.getLsbD_and, BitVec.getLsbD_not, low x hx, low 3#64 (by decide)]
  by_cases h : n < 64
  · simp [h]
  · simp [h, BitVec.getLsbD_of_ge y n (by omega)]

/-- A trap on the executing instruction (R219). -/
theorem raise_trapped (s : State) (c : Cause) (a i : Word) : Trapped s (s.raise c a i) c.code a i := by
  refine ⟨onlyCur_modCur _ _, ?_⟩
  have hc : (s.raise c a i).cur = if s.cur.out = [] then s.cur.enter c.code s.cur.pc s.cur.pc a i s.me.tvec
      else s.cur.pend ⟨s.serial, c.code, s.cur.pc, s.cur.pc, a, i⟩ := cur_modCur _ _
  by_cases h : s.cur.out = []
  · rw [if_pos h] at hc ⊢
    rw [hc]
    refine ⟨rfl, ?_, ?_, fun j hj => bit_kept _ _ j ?_ hj⟩
    · simp only [Ctx.enter]; split <;> simp
    · cases hs : s.cur.supervisor <;> simp [Ctx.enter, hs] <;> simpa [Ctx.supervisor] using hs
    · split <;> decide
  · rw [if_neg h] at hc ⊢
    rw [hc, Ctx.pend]
    cases s.cur.trap with
    | none => rfl
    | some u => simp only; split <;> simp_all

end Sys2Proof.Laws
end

