-- ==== Sys2Proof/Tests/Slice0.lean ====
section
/-! SUPPORT. Small tests: decoding of words that the spec writes out, ill-formed terms, one step of each instruction on a small state
with the result worked out by hand from its rule, and for every statement states that meet its hypotheses, clause by clause. -/

set_option Elab.async false

namespace Sys2Proof.Tests

open Sys2Proof Sys2Proof.Machine Sys2Proof.Safety

/-! ## Helpers -/

/-- A launch of chorus 0 (cores (0, 0) .. (31, 0)) whose control context on core (0, 0) executes an instruction of two words; `m` sets
its context. Virtual 0x1_0000_0000 maps device memory at 0x4_0000 with every permission. -/
def ex (m : Ctx → Ctx) : State :=
  ((State.reset.withCode []).takeUp 0 0 false [0xF840#16, 0#16] []).modCur m

/-- The context with these `g` registers. -/
def regs (gs : List (Reg × Word)) (c : Ctx) : Ctx := gs.foldl (fun c p => c.setG p.1 p.2) c

/-- User mode, with these `g` registers. -/
def us (gs : List (Reg × Word)) : State := ex (regs gs)

/-- Supervisor mode, with these `g` registers. -/
def sv (gs : List (Reg × Word)) : State := ex (fun c => regs gs { c with tstat := 1 })

/-- The instruction answers a next state that passes a test. -/
def gives (i : Instr) (s : State) (p : State → Bool) : Bool :=
  match exec i s with
  | .next t => p t
  | _ => false

/-- The instruction traps at once, with this cause, address and information. -/
def trapIs (i : Instr) (s : State) (code : Nat) (addr info : Word) : Bool :=
  gives i s (fun t => t.cur.cause == BitVec.ofNat 64 code && t.cur.faddr == addr && t.cur.finfo == info && t.cur.pc == s.me.tvec &&
    t.cur.fpc == s.cur.pc && t.cur.rpc == s.cur.pc && t.cur.supervisor)

/-- The instruction ends with a value in a `g` register, and the next instruction follows. -/
def setsG (i : Instr) (s : State) (d : Reg) (x : Word) : Bool := gives i s (fun t => t.g d == x && t.cur.pc == s.cur.pc + 4)

/-- An own near-window address. -/
def nw (off : Nat) : Word := BitVec.ofNat 64 (0xF_FFFF_FF00_0000 + off)

/-- Bytes of own local memory from an offset on. -/
def loc (s : State) (off : Nat) (bs : List Byte) : State := s.setRaws (localKey 0 off) bs

/-- The bytes of own local memory at an offset, as a number. -/
def locNat (s : State) (off n : Nat) : Nat := leNat (s.rawBytes (localKey 0 off) n)

/-! ## Decoding -/

theorem test_decode_scalar :
    decode [0x0D18] = .ok (.add ⟨6, 4, 3⟩) 1 ∧ decode [0xF408, 0x1D1F] = .ok (.sel ⟨6, 4, 3, 8⟩) 2 ∧
    decode [0xF1FF, 0xF3FF, 0xBBFF] = .ok (.li ⟨5, 0x0FFF_FFFF⟩) 3 ∧ decode [0x8B58] = .ok (.slli ⟨5, 5, 24⟩) 1 ∧
    decode [0xE240] = .ok (.call ⟨64⟩) 1 ∧ decode [0xF480, 0xE440] = .ok (.jr ⟨17⟩) 2 ∧
    decode [0xF840, 0x0D1A] = .ok (.div ⟨0, 6, 4, 3⟩) 2 ∧ decode [0xF880, 0x1A20] = .ok (.csrrd ⟨0, 5, 0x020⟩) 2 ∧
    decode [0xF880, 0x3003] = .ok (.sys ⟨0⟩) 2 := by decide

theorem test_decode_fp_vector_tile :
    decode [0xF840, 0xF409, 0x1657] = .ok (.ffma ⟨0, 3, 1, 2, 9⟩) 3 ∧ decode [0xF840, 0xF0FE, 0x2205] = .ok (.fli ⟨0, 1, 1, 0x3F80⟩) 3 ∧
    decode [0xF988, 0xFC05, 0xF500, 0x0250] = .ok (.vfadd ⟨2, 5, 9, 1, 2⟩) 4 ∧
    decode [0xF9C0, 0xF440, 0x0702] = .ok (.vld ⟨0, 0, 0, 3, 12, 2⟩) 3 ∧
    decode [0xFA40, 0xF440, 0x0100] = .ok (.tld ⟨0, 0, 12, 0⟩) 3 ∧ decode [0xFA40, 0xF4B0, 0x2101] = .ok (.xadd ⟨0, false, 20, 24, 0⟩) 3 ∧
    decode [0xFA40, 0xFCE1, 0xF404, 0x108B] = .ok (.mmaE2x ⟨0, 7, true, false, 2, 1, 4⟩) 4 := by decide

theorem test_decode_memory_system :
    decode [0xF8CD, 0xFD20, 0xF440, 0xF011, 0x0D18] = .ok (.ldD ⟨3, 1, 9, 6, 12, 136⟩) 5 ∧
    decode [0xF8C8, 0x0D58] = .ok (.ldD ⟨2, 0, 0, 6, 5, 0⟩) 2 ∧
    decode [0xF900, 0xFD01, 0xF480, 0x0D38] = .ok (.amoAdd ⟨0, 0, 8, true, 6, 20, 7⟩) 4 ∧
    decode [0xF900, 0xFD20, 0xF487, 0x1D81] = .ok (.cas ⟨0, 0, 9, false, 6, 22, 0, 7⟩) 4 ∧
    decode [0xF900, 0xFD00, 0xF4AE, 0x1B2D] = .ok (.post ⟨0, 0, 8, 5, 20, 21, 14⟩) 4 ∧
    decode [0xFA80, 0xF440, 0x0C84] = .ok (.spawn ⟨0, 6, 10⟩) 3 ∧ decode [0xFA80, 0xF440, 0x00C2] = .ok (.brel ⟨0, 11⟩) 3 ∧
    decode [0xFA80, 0x0C05] = .ok (.evpop ⟨0, 6⟩) 2 ∧ decode [0xFA80, 0x1001] = .ok (.evadv ⟨0⟩) 2 ∧
    decode [0xFAC0, 0x0004] = .ok (.batch ⟨0⟩) 2 ∧ decode [0xFAC0, 0xF003, 0x0005] = .ok (.waitb ⟨0, 3⟩) 3 ∧
    decode [0xFAC2, 0xFD20, 0xF480, 0x1141] = .ok (.xbarr ⟨0, 2, 9, 21, 0⟩) 4 ∧
    decode [0xFB00, 0xF4C0, 0x01C0] = .ok (.sret ⟨0, 31⟩) 3 := by decide

theorem test_decode_refuses :
    decode [0xF1FF, 0x8B58] = .bad ⟨3, 0, 0xF1FF⟩ ∧ decode [0xF8CD, 0x8B58] = .bad ⟨6, 1, 0x8B58⟩ ∧
    decode [0xF80D, 0x0D18] = .bad ⟨5, 0, 0xF80D⟩ ∧ decode [0xF840, 0x0006] = .bad ⟨6, 1, 0x0006⟩ ∧
    decode [0xFB40, 0] = .bad ⟨6, 0, 0xFB40⟩ ∧ decode [0xFA40, 0xFC07, 0x0004] = .bad ⟨10, 1, 0xFC07⟩ ∧ decode [0xFA40, 0xFC04, 0x0004] = .bad ⟨4, 1, 0xFC04⟩ ∧ decode [0xF840, 0xF840, 0x0006] = .bad ⟨2, 1, 0xF840⟩ ∧
    decode [0xF001, 0xF002, 0xF003, 0xF004, 0xF005, 0xB000] = .bad ⟨1, 4, 0xF005⟩ := by decide

/-! ## Ill-formed terms (each check of WellFormed refuses one) -/

theorem test_ill_formed_scalar :
    (Instr.sext ⟨1, 1, 3⟩).wellFormed = false ∧ (Instr.addi ⟨1, 1, 0x2000_0000_0000⟩).wellFormed = false ∧
    (Instr.li ⟨1, 0x1_0000_0000_0000⟩).wellFormed = false ∧ (Instr.bz ⟨1, 0x1_0000_0000_0000⟩).wellFormed = false ∧
    (Instr.jmp ⟨0x1_0000_0000_0000⟩).wellFormed = false ∧
    (Instr.fcvt ⟨0, 5, 1, 1, 0⟩).wellFormed = false ∧ (Instr.fmov ⟨0, 1, 1, 7⟩).wellFormed = false ∧
    (Instr.fli ⟨0, 1, 0, 64⟩).wellFormed = false ∧ (Instr.fli ⟨0, 9, 3, 0⟩).wellFormed = false ∧
    (Instr.lea ⟨0, 1, 1, 1, 0x2000_0000⟩).wellFormed = false ∧ (Instr.csrrd ⟨0, 1, 0x003⟩).wellFormed = false := by decide

theorem test_ill_formed_memory :
    (Instr.ldD ⟨0, 2, 0, 1, 1, 0⟩).wellFormed = false ∧ (Instr.stD ⟨0, 1, 0, 1, 1, 0⟩).wellFormed = false ∧
    (Instr.ldf ⟨0, 0, 0, 1, 1, 0x2000_0000_0000⟩).wellFormed = false ∧ (Instr.tagclr ⟨0, 0, 0, 1, 0x2000_0000_0000⟩).wellFormed = false ∧
    (Instr.fence ⟨0, 0, 0⟩).wellFormed = false ∧ (Instr.vld ⟨0, 3, 0, 1, 1, 0⟩).wellFormed = false ∧
    (Instr.vst ⟨0, 1, 0, 1, 1, 0⟩).wellFormed = false ∧ (Instr.vldb ⟨0, 0, 0, 7, 1, 1, 0⟩).wellFormed = false ∧
    (Instr.vldx ⟨0, 0, 0, 1, 1, 1, 0, 1⟩).wellFormed = false ∧ (Instr.vstx ⟨0, 0, 0, 2, 1, 1, 0, 1⟩).wellFormed = false ∧
    (Instr.vstm ⟨0, 0, 0, 7, 1, 1, 0, 1⟩).wellFormed = false ∧ (Instr.vspst ⟨0, 1, 0, 1, 1, 0, 1⟩).wellFormed = false ∧
    (Instr.vspld ⟨0, 2, 0, 1, 1, 0, 1⟩).wellFormed = false ∧ (Instr.xbarr ⟨0, 1, 0, 1, 1⟩).wellFormed = false ∧
    (Instr.xbwait ⟨0, 2, 0, 1, 1⟩).wellFormed = false ∧ (Instr.xbtry ⟨0, 3, 0, 1, 1, 1⟩).wellFormed = false := by decide

theorem test_ill_formed_vector_tile :
    (Instr.vadd ⟨0, 4, false, 1, 1, 1⟩).wellFormed = false ∧ (Instr.vand ⟨0, 0, true, 1, 1, 1⟩).wellFormed = false ∧
    (Instr.vabs ⟨0, 4, false, 1, 1⟩).wellFormed = false ∧ (Instr.vcmp ⟨0, 0, 6, 1, 1, 1⟩).wellFormed = false ∧
    (Instr.vsel ⟨0, 5, 1, 1, 1, 1⟩).wellFormed = false ∧ (Instr.vsplat ⟨0, 6, 1, 1⟩).wellFormed = false ∧
    (Instr.vfadd ⟨0, 3, 1, 1, 1⟩).wellFormed = false ∧ (Instr.vffma ⟨0, 0, 1, 1, 1, 1⟩).wellFormed = false ∧
    (Instr.vfcmp ⟨0, 7, 0, 1, 1, 1⟩).wellFormed = false ∧ (Instr.vfcvt ⟨0, 16, 0, 0, 1, 1⟩).wellFormed = false ∧
    (Instr.vfcvt ⟨0, 0, 5, 0, 1, 1⟩).wellFormed = false ∧ (Instr.vfcvt ⟨0, 4, 0, 1, 1, 1⟩).wellFormed = false ∧
    (Instr.vqmx ⟨0, 6, 0, 1, 1⟩).wellFormed = false ∧ (Instr.vdqmx ⟨0, 4, 3, 1, 1⟩).wellFormed = false ∧
    (Instr.vcode ⟨0, 5, 2, 1, 1, 1⟩).wellFormed = false ∧ (Instr.vred ⟨0, 4, 3, 1, 1⟩).wellFormed = false ∧
    (Instr.vperm ⟨0, 7, 1, 1, 1⟩).wellFormed = false ∧ (Instr.vscma ⟨0, true, false, 1, 1, 1, 1⟩).wellFormed = false ∧
    (Instr.tget ⟨0, false, 1, 1, 1, 1⟩).wellFormed = false ∧ (Instr.mcld ⟨0, 3, 0, 1⟩).wellFormed = false ∧
    (Instr.mdrain ⟨0, 3, false, 1⟩).wellFormed = false ∧ (Instr.xrnd ⟨0, 0, true, 1, 1, 1⟩).wellFormed = false ∧
    (Instr.mmaBfc ⟨0, 0, false, false, 1, 0, 0⟩).wellFormed = false ∧ (Instr.mmaI8i8 ⟨0, 0, false, false, 0, 1, 0⟩).wellFormed = false := by
  decide

/-! ## Scalar integers (R196 .. R206) -/

/-- A page 0 instruction of one word sets `g6`. -/
def sets6 (i : Instr) (a b x : Word) : Bool :=
  match exec i (((us [(4, a), (3, b)]).takeUp 0 0 false [0x0D18#16] [])) with
  | .next t => t.g 6 == x && t.cur.pc == 0x1_0000_0002
  | _ => false

theorem test_register_operations :
    sets6 (.add ⟨6, 4, 3⟩) (-1) 2 1 ∧ sets6 (.sub ⟨6, 4, 3⟩) 1 2 (-1) ∧ sets6 (.and ⟨6, 4, 3⟩) 12 10 8 ∧ sets6 (.or ⟨6, 4, 3⟩) 12 10 14 ∧
    sets6 (.xor ⟨6, 4, 3⟩) 12 10 6 ∧ sets6 (.andn ⟨6, 4, 3⟩) 12 10 4 ∧ sets6 (.sll ⟨6, 4, 3⟩) 3 127 0x8000_0000_0000_0000 ∧
    sets6 (.srl ⟨6, 4, 3⟩) (-1) 63 1 ∧ sets6 (.sra ⟨6, 4, 3⟩) 0x8000_0000_0000_0000 64 0x8000_0000_0000_0000 ∧
    sets6 (.rol ⟨6, 4, 3⟩) 0x8000_0000_0000_0001 1 3 ∧ sets6 (.min ⟨6, 4, 3⟩) (-1) 2 (-1) ∧ sets6 (.max ⟨6, 4, 3⟩) (-1) 2 2 ∧
    sets6 (.minn ⟨6, 4, 3⟩) (-1) 2 2 ∧ sets6 (.maxn ⟨6, 4, 3⟩) (-1) 2 (-1) ∧ sets6 (.mul ⟨6, 4, 3⟩) (-3) 5 (-15) ∧
    sets6 (.sel ⟨6, 4, 3, 3⟩) 7 0 0 ∧ sets6 (.sel ⟨6, 4, 3, 3⟩) 7 9 7 := by decide +kernel

theorem test_comparisons :
    sets6 (.cmpEq ⟨6, 4, 3⟩) 5 5 1 ∧ sets6 (.cmpNe ⟨6, 4, 3⟩) 5 5 0 ∧ sets6 (.cmpLt ⟨6, 4, 3⟩) (-1) 0 1 ∧
    sets6 (.cmpGe ⟨6, 4, 3⟩) (-1) 0 0 ∧ sets6 (.cmpLtn ⟨6, 4, 3⟩) (-1) 0 0 ∧ sets6 (.cmpGen ⟨6, 4, 3⟩) (-1) 0 1 ∧
    sets6 (.tst ⟨6, 4, 3⟩) 12 3 0 ∧ sets6 (.tst ⟨6, 4, 3⟩) 12 4 1 ∧ sets6 (.mov ⟨6, 4⟩) 12 4 12 := by decide +kernel

theorem test_unary :
    sets6 (.clz ⟨6, 4⟩) 0 0 64 ∧ sets6 (.clz ⟨6, 4⟩) 1 0 63 ∧ sets6 (.ctz ⟨6, 4⟩) 0 0 64 ∧ sets6 (.ctz ⟨6, 4⟩) 8 0 3 ∧
    sets6 (.popc ⟨6, 4⟩) (-1) 0 64 ∧ sets6 (.sext ⟨6, 4, 1⟩) 0x1_8000 0 0xFFFF_FFFF_FFFF_8000 ∧ sets6 (.zext ⟨6, 4, 0⟩) 0x1FF 0 0xFF ∧
    sets6 (.brev ⟨6, 4⟩) 1 0 0x8000_0000_0000_0000 ∧ sets6 (.bswap ⟨6, 4⟩) 0x0102_0304_0506_0708 0 0x0807_0605_0403_0201 ∧
    sets6 (.neg ⟨6, 4⟩) 0x8000_0000_0000_0000 0 0x8000_0000_0000_0000 := by decide +kernel

theorem test_immediates :
    sets6 (.addi ⟨6, 4, -1⟩) 0 0 (-1) ∧ sets6 (.andi ⟨6, 4, 0xFFFF⟩) (-1) 0 0xFFFF ∧ sets6 (.ori ⟨6, 4, 1⟩) 2 0 3 ∧
    sets6 (.xori ⟨6, 4, -1⟩) 0 0 (-1) ∧ sets6 (.slli ⟨6, 4, 63⟩) 3 0 0x8000_0000_0000_0000 ∧ sets6 (.srli ⟨6, 4, 4⟩) 0xF0 0 0xF ∧
    sets6 (.srai ⟨6, 4, 63⟩) (-8) 0 (-1) ∧ sets6 (.li ⟨6, -256⟩) 0 0 (-256) := by decide +kernel

theorem test_zero_register : gives (.add ⟨0, 4, 3⟩) (us [(4, 1), (3, 1)]) (fun t => t.g 0 == 0) = true := by decide +kernel

theorem test_multiply_divide :
    sets6 (.mul ⟨6, 4, 3⟩) 0x1_0000_0001 0x1_0000_0001 0x0000_0002_0000_0001 ∧
    setsG (.mulh ⟨0, 6, 4, 3⟩) (us [(4, -1), (3, 2)]) 6 (-1) ∧ setsG (.mulhn ⟨0, 6, 4, 3⟩) (us [(4, -1), (3, 2)]) 6 1 ∧
    setsG (.div ⟨0, 6, 4, 3⟩) (us [(4, -7), (3, 2)]) 6 (-3) ∧ setsG (.div ⟨0, 6, 4, 3⟩) (us [(4, 7)]) 6 (-1) ∧
    setsG (.div ⟨0, 6, 4, 3⟩) (us [(4, 0x8000_0000_0000_0000), (3, -1)]) 6 0x8000_0000_0000_0000 ∧
    setsG (.divn ⟨0, 6, 4, 3⟩) (us [(4, -7), (3, 2)]) 6 0x7FFF_FFFF_FFFF_FFFC ∧ setsG (.divn ⟨0, 6, 4, 3⟩) (us [(4, 7)]) 6 (-1) ∧
    setsG (.rem ⟨0, 6, 4, 3⟩) (us [(4, -7), (3, 2)]) 6 (-1) ∧ setsG (.rem ⟨0, 6, 4, 3⟩) (us [(4, -7)]) 6 (-7) ∧
    setsG (.remn ⟨0, 6, 4, 3⟩) (us [(4, 7), (3, 4)]) 6 3 ∧ setsG (.remn ⟨0, 6, 4, 3⟩) (us [(4, 7)]) 6 7 := by decide +kernel

/-- Hypotheses of ScalarIntegerOperations and MultiplyHighAndDivide: a first and a last case of each table. -/
theorem wit_ScalarIntegerOperations (s : State) :
    (∃ p, rrSpec (.add ⟨31, 1, 0⟩) s = some (31, p)) ∧ (∃ p, rrSpec (.sel ⟨0, 1, 2, 15⟩) s = some (0, p)) ∧
    (∃ p, cmpSpec (.cmpEq ⟨1, 1, 1⟩) s = some (1, p)) ∧ (∃ p, cmpSpec (.mov ⟨1, 31⟩) s = some (1, p)) ∧
    (∃ p, unarySpec (.clz ⟨1, 2⟩) s = some (1, p)) ∧ (∃ p, unarySpec (.sext ⟨1, 2, 2⟩) s = some (1, p)) ∧
    (∃ p, immSpec (.addi ⟨1, 2, -1⟩) s = some (1, p)) ∧ (∃ p, immSpec (.li ⟨1, 0⟩) s = some (1, p)) ∧
    (∃ p, longSpec (.mulh ⟨15, 1, 2, 3⟩) s = some (15, 1, p)) ∧ ∃ p, longSpec (.remn ⟨0, 1, 2, 3⟩) s = some (0, 1, p) := by
  and_intros <;> exact ⟨_, rfl⟩

/-- The pc after an instruction of two words. -/
def goesTo (i : Instr) (s : State) (pc : Word) : Bool := gives i s (fun t => t.cur.pc == pc)

/-- Hypotheses and results of BranchesAndJumps. -/
theorem wit_BranchesAndJumps :
    goesTo (.bz ⟨4, 3⟩) (us [(4, 0)]) 0x1_0000_0006 ∧ goesTo (.bz ⟨4, 3⟩) (us [(4, 1)]) 0x1_0000_0004 ∧
    goesTo (.bnz ⟨4, -1⟩) (us [(4, 2)]) 0x0_FFFF_FFFE ∧ goesTo (.bnz ⟨4, 3⟩) (us []) 0x1_0000_0004 ∧ goesTo (.jmp ⟨64⟩) (us []) 0x1_0000_0080 ∧
    gives (.call ⟨64⟩) (us []) (fun t => t.g 1 == 0x1_0000_0004 && t.cur.pc == 0x1_0000_0080) ∧
    ((us [(9, 0x1234)]).g 9).getLsbD 0 = false ∧ goesTo (.jr ⟨9⟩) (us [(9, 0x1234)]) 0x1234 ∧
    goesTo .ret (us [(1, 0x1234)]) 0x1234 ∧ goesTo .nop (us []) 0x1_0000_0004 ∧
    ((us [(9, 0x1235)]).g 9).getLsbD 0 = true ∧ trapIs (.jr ⟨9⟩) (us [(9, 0x1235)]) 4 0x1235 0x301 ∧
    trapIs .ret (us [(1, 1)]) 4 1 0x301 := by decide +kernel

/-- An outstanding instruction that lacks nothing, or a reply. -/
def outst (id : Nat) (left : Nat) (us : List RegUse) (ws : List RegWrite) (p : Pend) : Outst := ⟨id, 0x1000, left, us, ws, p⟩

/-- Hypotheses and results of DoneAndYield. -/
theorem wit_DoneAndYield :
    ((us []).takeUp 0 3 false [0] []).cur.out = [] ∧
    gives .done ((us []).takeUp 0 3 false [0] []) (fun t => (t.ctx 0 3).state == .idle) ∧
    gives .done (((us []).takeUp 0 3 false [0] []).modCur (fun c => { c with out := [outst 0 0 [] [] .ready] }))
      (fun t => (t.ctx 0 3).state == .waiting .done) ∧
    gives .done (us []) (fun t => t.cur.state == .waiting .done) ∧
    gives .done (ex (fun c => { c with out := [outst 0 0 [] [] .ready] })) (fun t => t.cur.state == .waiting .retry) ∧
    gives (.evEftDone 0 3) ((us []).modCtx 0 3 (fun c => { c with state := .waiting .done, g := [(2, 77)] }))
      (fun t => (t.ctx 0 3).state == .idle && (t.ctx 0 3).result == 77) ∧
    gives .yield ((us []).modCtx 0 10 (fun c => { c with state := .ready })) (fun t => t.cur.yields == [10]) := by decide +kernel

theorem test_break_and_system_call :
    trapIs (.brk ⟨0x1FF⟩) (us []) 15 0 0x1FF ∧ trapIs (.sys ⟨0⟩) (us []) 14 0 0 ∧ encode (.brk ⟨0x1FF⟩) = [0xEFFF] ∧
    encode (.sys ⟨3⟩) = [0xF88C, 0x3003] := by decide +kernel

/-! ## Addresses, identity, control registers, contexts (R208 .. R224) -/

/-- Hypotheses and results of AddressesAndCoordinates; the spec's own example of `coord`, `rect` and `inrect`, moved to chorus 0. -/
theorem wit_AddressesAndCoordinates :
    setsG (.lea ⟨0, 6, 4, 3, -8⟩) (us [(4, -1), (3, 4)]) 6 0x000F_FFFF_FFFF_FFFB ∧
    (0x8225 : Nat) < 2 ^ 16 ∧ setsG (.coord ⟨0, 6, 5⟩) (us [(5, 0x8225)]) 6 0x0080_2421_0905_8225 ∧
    setsG (.coord ⟨0, 6, 5⟩) (us [(5, 0x1F)]) 6 0x8000_1C00_031F_001F ∧ trapIs (.coord ⟨0, 6, 5⟩) (us [(5, 0x1_0000)]) 1 0 11 ∧
    setsG (.rect ⟨0, 9, 4, 3⟩) (us [(4, 0x8024), (3, 0x8327)]) 9 0x8327_8024 ∧
    trapIs (.rect ⟨0, 9, 4, 3⟩) (us [(4, 0x8024), (3, 0x8023)]) 16 0 0x8023_8024 ∧
    trapIs (.rect ⟨0, 9, 4, 3⟩) (us [(4, 0x8024), (3, 0x1_0000)]) 1 0 11 ∧
    setsG (.inrect ⟨0, 10, 7, 9⟩) (us [(7, 0x0003), (9, 0x0003_0000)]) 10 1 ∧ setsG (.inrect ⟨0, 10, 7, 9⟩) (us [(7, 0x0004), (9, 0x0003_0000)]) 10 0 ∧
    setsG (.inrect ⟨0, 10, 7, 9⟩) (us [(7, 0), (9, 0x1_0000_0000)]) 10 1 ∧ setsG (.inrect ⟨0, 10, 7, 9⟩) (us [(7, 1), (9, 0x2_0000_0000)]) 10 0 ∧
    setsG (.inrect ⟨0, 10, 7, 0⟩) (us [(7, 0x1F)]) 10 1 ∧ setsG (.inrect ⟨0, 10, 7, 9⟩) (us [(7, 0x0100), (9, 0x4_0000_0000)]) 10 0 ∧
    trapIs (.inrect ⟨0, 10, 7, 9⟩) (us [(7, 0), (9, 0x5_0000_0000)]) 16 0 0x5_0000_0000 ∧
    trapIs (.inrect ⟨0, 10, 7, 0⟩) (us [(7, 0x1_0000)]) 1 0 11 := by decide +kernel

/-- A launch of chorus 0 with three levels: clusters, cores in their cluster, contexts. -/
def levels (s : State) : State :=
  { s with launches := [{ probeLaunch with packet := [0x3_0000, 0, 0, 0, 0, 0, 0, 0, 2, 4, 5, 0, 0, 0, 0, 0] }] }

/-- Hypotheses and results of IdentityHomeAndCycle. -/
theorem wit_IdentityHomeAndCycle :
    trapIs (.myid ⟨0, 6, 4⟩) (us [(4, 8)]) 1 0 11 ∧
    setsG (.myid ⟨0, 6, 4⟩) ((us [(4, 0)]).setCore 0 {}) 6 0 ∧ ((us [(4, 0)]).setCore 0 {}).myLaunch = none ∧
    ((levels (us [(4, 3)])).myLaunch.map Launch.nlev) = some 3 ∧ setsG (.myid ⟨0, 6, 4⟩) (levels (us [(4, 3)])) 6 0 ∧
    setsG (.myid ⟨0, 6, 4⟩) (levels (us [(4, 2)])) 6 (11 * 2 ^ 32) ∧ setsG (.myid ⟨0, 6, 4⟩) (levels (us [(4, 0)])) 6 (8 * 2 ^ 32) ∧
    setsG (.myid ⟨0, 6, 4⟩) (levels (us [(4, 1)])) 6 (4 * 2 ^ 32) ∧
    setsG (.hashq ⟨0, 6, 4⟩) (us [(4, nw 0)]) 6 0 ∧ setsG (.hashq ⟨0, 6, 4⟩) (us [(4, 0x2_0000_0000)]) 6 0 ∧
    (us []).translate 0 0x2_0000_0000 = .miss 2 ∧ (us []).translate 0 0x1_0000_0000 = .leaf 0x4003F 3 ∧
    gives (.hashq ⟨0, 6, 4⟩) (us [(4, 0x1_0000_0000)]) (fun t => (t.g 6).getLsbD 63) ∧
    setsG (.rdcyc ⟨0, 6⟩) ((us []).modCore 0 (fun c => { c with cycle := 99 })) 6 99 := by decide +kernel

/-- Hypotheses and results of ControlRegisters: the first and last CSR of each table, in each mode. -/
theorem wit_ControlRegisters :
    (us []).csrWaits 0x020 = false ∧ csrPrivileged 0x020 false = false ∧ csrPrivileged 0x016 false = true ∧
    setsG (.csrrd ⟨0, 5, 0x020⟩) (ex (fun c => { c with fflags := 0x11 })) 5 0x11 ∧ setsG (.csrrd ⟨0, 5, 0x11F⟩) (sv []) 5 0 ∧
    gives (.csrwr ⟨0, 5, 0x008⟩) (us [(5, 0x2_0000_0000)]) (fun t => t.me.dscope == 0x2_0000_0000) ∧
    gives (.csrwr ⟨0, 5, 0x014⟩) (sv [(5, -1)]) (fun t => t.me.tvec == 0x000F_FFFF_FFFF_FFFE) ∧
    gives (.csrwr ⟨0, 5, 0x11F⟩) (sv [(5, -1)]) (fun t => t.readCsr 0 0 0x11F == 0xFFFF_FFFF) ∧
    trapIs (.csrwr ⟨0, 5, 0x008⟩) (us [(5, 0x8_0000_0000)]) 16 0 0x8_0000_0000 ∧ trapIs (.csrwr ⟨0, 5, 0x000⟩) (us []) 1 0 11 ∧
    trapIs (.csrwr ⟨0, 5, 0x115⟩) (sv []) 1 0 11 ∧ (us []).now.words.getLast? = some 0 ∧
    trapIs (.csrrd ⟨0, 5, 0x016⟩) (us []) 3 0 0x1016_0000 ∧ trapIs (.csrrd ⟨0, 5, 0x100⟩) (us []) 3 0 0x1100_0000 ∧
    trapIs (.csrwr ⟨0, 5, 0x010⟩) (us []) 3 0 0x1010_0000 ∧ trapIs (.csrwr ⟨0, 5, 0x017⟩) (us []) 3 0 0x1017_0000 := by decide +kernel

/-- Eft e is IDLE or READY. -/
def withEfts (f : Nat → CtxState) (s : State) : State :=
  (List.range 10).foldl (fun t e => t.modCtx 0 (e + 1) (fun c => { c with state := f (e + 1) })) s

/-- Hypotheses and results of StartJoinAndSnapshot. -/
theorem wit_StartJoinAndSnapshot :
    gives (.start ⟨0, 6, 4, 3, 2⟩) (withEfts (fun e => if e < 10 then .ready else .idle) (us [(4, 0x1000), (3, 7), (2, 8)]))
      (fun t => t.g 6 == 10 && (t.ctx 0 10).gr 2 == 7 && (t.ctx 0 10).gr 3 == 8 && (t.ctx 0 10).gr 28 == 0x000F_FFFF_FF01_F000 &&
        (t.ctx 0 10).pc == 0x1000 && (t.ctx 0 10).byStart) ∧
    setsG (.start ⟨0, 6, 4, 3, 2⟩) (withEfts (fun _ => .ready) (us [(4, 0x1000)])) 6 0 ∧
    trapIs (.start ⟨0, 6, 4, 3, 2⟩) (us [(4, 0x1001)]) 4 0x1001 0x301 ∧ trapIs (.start ⟨0, 6, 4, 3, 2⟩) (us [(4, nw 0)]) 1 0 11 ∧
    trapIs (.join ⟨0, 6, 4⟩) (us [(4, 0)]) 1 0 11 ∧ trapIs (.join ⟨0, 6, 4⟩) (us [(4, 11)]) 1 0 11 ∧
    (us []).canStart 0 = false ∧
    setsG (.join ⟨0, 6, 4⟩) ((us [(4, 10)]).modCtx 0 10 (fun c => { c with result := 5 })) 6 5 ∧
    gives (.join ⟨0, 6, 4⟩) (withEfts (fun _ => .ready) (us [(4, 1)])) (fun t => t.cur.state == .waiting (.join 6 1)) ∧
    gives (.evJoinWake 0 0) ((us []).modCtx 0 0 (fun c => { c with state := .waiting (.join 6 1), wlen := 4 }))
      (fun t => t.cur.state == .ready && t.cur.pc == 0x1_0000_0004 && t.g 6 == 0) ∧
    trapIs (.ctxq ⟨0, 6, 4⟩) (us [(4, 11)]) 1 0 11 ∧ setsG (.ctxq ⟨0, 6, 4⟩) (us [(4, 0)]) 6 1 ∧
    setsG (.ctxq ⟨0, 6, 4⟩) ((us [(4, 10)]).modCtx 0 10 (fun c => { c with byStart := true, state := .parked })) 6 11 := by decide +kernel

/-- A trap that is pending. -/
def pending : PendTrap := ⟨5, 13, 0x1000, 0x1004, 0x77, 4⟩

/-- Hypotheses and results of CompletionAndPendingTraps. -/
theorem wit_CompletionAndPendingTraps :
    (ex (fun c => { c with out := [outst 7 2 [] [.g 6 9, .fflags 1] .ready] })).cur.out.find? (fun x => x.id == 7) =
      some (outst 7 2 [] [.g 6 9, .fflags 1] .ready) ∧
    gives (.evInstructionComplete 0 0 7) (ex (fun c => { c with out := [outst 7 2 [] [.g 6 9, .fflags 1] .ready] }))
      (fun t => t.cur.out == [] && t.g 6 == 9 && t.cur.fflags == 1) ∧
    gives (.evTrapEntry 0 0) (ex (fun c => { c with trap := some pending, state := .waiting .trap }))
      (fun t => t.cur.cause == 13 && t.cur.fpc == 0x1000 && t.cur.rpc == 0x1004 && t.cur.faddr == 0x77 && t.cur.finfo == 4 &&
        t.cur.pc == 0 && t.cur.state == .ready && t.cur.tstat == 1) ∧
    gives (.brk ⟨1⟩) (ex (fun c => { c with out := [outst 7 2 [] [] .ready] })) (fun t => t.cur.state == .waiting .trap) := by decide +kernel

/-! ## Floating point (R227 .. R234) -/

/-- The context with these `f` registers. -/
def fregs (fs : List (Reg × BitVec 32)) (s : State) : State := s.modCur (fun c => fs.foldl (fun c p => c.setF p.1 p.2) c)

/-- The instruction sets an `f` register and raises these flags. -/
def setsF (i : Instr) (s : State) (d : Reg) (x : BitVec 32) (fl : Word) : Bool := gives i s (fun t => t.f d == x && t.cur.fflags == fl)

/-- Results of the scalar arithmetic: 1 + 2^−25 rounds to 1; ∞ − ∞, 1 / 0, √−1. -/
theorem test_fp_arithmetic :
    setsF (.fadd ⟨0, 3, 1, 2⟩) (fregs [(1, 0x3F800000), (2, 0x33000000)] (us [])) 3 0x3F800000 1 ∧
    setsF (.fsub ⟨0, 3, 1, 2⟩) (fregs [(1, 0x7F800000), (2, 0x7F800000)] (us [])) 3 0x7FC00000 16 ∧
    setsF (.fmul ⟨0, 3, 1, 2⟩) (fregs [(1, 0x40400000), (2, 0xC0000000)] (us [])) 3 0xC0C00000 0 ∧
    setsF (.fmul ⟨0, 3, 1, 2⟩) (fregs [(1, 0x7F000000), (2, 0x40000000)] (us [])) 3 0x7F800000 5 ∧
    setsF (.fdiv ⟨0, 3, 1, 2⟩) (fregs [(1, 0x3F800000), (2, 0x80000000)] (us [])) 3 0xFF800000 8 ∧
    setsF (.fsqrt ⟨0, 3, 1⟩) (fregs [(1, 0xBF800000)] (us [])) 3 0x7FC00000 16 ∧
    setsF (.fsqrt ⟨0, 3, 1⟩) (fregs [(1, 0x41100000)] (us [])) 3 0x40400000 0 ∧
    setsF (.ffma ⟨0, 3, 1, 2, 9⟩) (fregs [(1, 0x40000000), (2, 0x40400000), (17, 0x3F800000)] (us [])) 3 0x40E00000 0 := by decide +kernel

/-- Results of the other scalar operations. -/
theorem test_fp_other :
    setsF (.fmin ⟨0, 3, 1, 2⟩) (fregs [(1, 0), (2, 0x80000000)] (us [])) 3 0x80000000 0 ∧
    setsF (.fmax ⟨0, 3, 1, 2⟩) (fregs [(1, 0x7FC00000), (2, 0xBF800000)] (us [])) 3 0xBF800000 0 ∧
    setsG (.fcmp ⟨0, 1, 6, 1, 2⟩) (fregs [(1, 0xBF800000), (2, 0)] (us [])) 6 1 ∧
    setsG (.fcmp ⟨0, 3, 6, 1, 2⟩) (fregs [(1, 0x7FC00000)] (us [])) 6 1 ∧
    setsG (.fclass ⟨0, 6, 1⟩) (fregs [(1, 0x80000001)] (us [])) 6 4 ∧
    setsF (.fsgn ⟨0, 3, 1, 2⟩) (fregs [(1, 0x3F800000), (2, 0x80000000)] (us [])) 3 0xBF800000 0 ∧
    setsG (.fcvt ⟨0, 1, 6, 1, 0⟩) (fregs [(1, 0xBFC00000)] (us [])) 6 (-1) ∧
    setsF (.fcvt ⟨0, 0, 3, 6, 3⟩) (us [(6, -2)]) 3 0xC0000000 0 ∧
    gives (.fmov ⟨0, 6, 1, 0⟩) (fregs [(1, 0xBF800000)] (us [])) (fun t => t.g 6 == 0xBF800000 || t.f 6 == 0xBF800000) ∧
    setsF (.fli ⟨0, 1, 1, 0x3F80⟩) (us []) 1 0x3F800000 0 ∧ trapIs (.fli ⟨0, 1, 3, 0x1_0000_0000⟩) (us []) 1 0 11 := by decide +kernel

/-- Hypotheses of FpScalar. -/
theorem wit_FpScalar (s : State) :
    (∃ p, fpSpec (.fadd ⟨0, 3, 1, 2⟩) s = some (0, 3, p)) ∧ (∃ p, fpSpec (.ffma ⟨15, 31, 1, 2, 15⟩) s = some (15, 31, p)) ∧
    (∃ p, fpMoreSpec (.fmin ⟨0, 3, 1, 2⟩) s = some (0, p)) ∧ (∃ p, fpMoreSpec (.fli ⟨0, 3, 0, 63⟩) s = some (0, p)) ∧
    (⟨0, 1, 3, 0x1_0000_0000⟩ : FliOps).k.toNat = 3 ∧ 2 ^ 32 ≤ (⟨0, 1, 3, 0x1_0000_0000⟩ : FliOps).imm.toNat :=
  ⟨⟨_, rfl⟩, ⟨_, rfl⟩, ⟨_, rfl⟩, ⟨_, rfl⟩, by decide, by decide⟩

/-! ## Vectors in registers (R235 .. R243, R248, R249) -/

/-- A vector of lanes of w bits, lane j the value f j. -/
def vec (w : Nat) (f : Nat → Nat) : Vec := BitVec.ofNat 1024 ((List.range (1024 / w)).foldr (fun j a => a + f j % 2 ^ w * 2 ^ (w * j)) 0)

/-- The context with these `v` registers. -/
def vregs (vs : List (VReg × Vec)) (s : State) : State := s.modCur (fun c => vs.foldl (fun c p => c.setV p.1 p.2) c)

/-- Lane j of the result has this value. -/
def lane (i : Instr) (s : State) (d : VReg) (w j x : Nat) : Bool := gives i s (fun t => laneAt w (t.v d) j == x)

/-- Two vectors of lanes. -/
def v12 (w : Nat) (f g : Nat → Nat) : State := vregs [(1, vec w f), (2, vec w g)] (us [])

theorem test_vector_integer :
    lane (.vadd ⟨0, 1, true, 9, 1, 2⟩) (v12 8 (fun _ => 100) (fun j => j)) 9 8 127 127 ∧
    gives (.vadd ⟨0, 1, true, 9, 1, 2⟩) (v12 8 (fun _ => 100) (fun j => j)) (fun t => t.cur.satflags == 1) ∧
    lane (.vadd ⟨0, 1, false, 9, 1, 2⟩) (v12 8 (fun _ => 255) (fun j => j)) 9 8 127 126 ∧
    lane (.vsub ⟨0, 0, false, 9, 1, 2⟩) (v12 32 (fun _ => 0) (fun j => j)) 9 32 31 0xFFFF_FFE1 ∧
    lane (.vmul ⟨0, 2, false, 9, 1, 2⟩) (v12 16 (fun _ => 300) (fun j => 300 + j)) 9 16 0 24464 ∧
    lane (.vmin ⟨0, 3, false, 9, 1, 2⟩) (v12 64 (fun _ => 2 ^ 64 - 1) (fun j => j)) 9 64 3 (2 ^ 64 - 1) ∧
    lane (.vmax ⟨0, 3, false, 9, 1, 2⟩) (v12 64 (fun _ => 2 ^ 64 - 1) (fun j => j)) 9 64 3 3 ∧
    lane (.vand ⟨0, 1, false, 9, 1, 2⟩) (v12 8 (fun _ => 12) (fun _ => 10)) 9 8 5 8 ∧
    lane (.vor ⟨0, 1, false, 9, 1, 2⟩) (v12 8 (fun _ => 12) (fun _ => 10)) 9 8 5 14 ∧
    lane (.vxor ⟨0, 1, false, 9, 1, 2⟩) (v12 8 (fun _ => 12) (fun _ => 10)) 9 8 5 6 ∧
    lane (.vshl ⟨0, 1, false, 9, 1, 2⟩) (v12 8 (fun _ => 3) (fun _ => 7)) 9 8 5 128 ∧
    lane (.vshr ⟨0, 1, false, 9, 1, 2⟩) (v12 8 (fun _ => 128) (fun _ => 7)) 9 8 5 1 ∧
    lane (.vsha ⟨0, 1, false, 9, 1, 2⟩) (v12 8 (fun _ => 128) (fun _ => 7)) 9 8 5 255 ∧
    lane (.vmac ⟨0, 0, false, 9, 1, 2⟩) (vregs [(9, vec 32 (fun j => j))] (v12 32 (fun _ => 3) (fun _ => 5))) 9 32 31 46 := by decide +kernel

theorem test_vector_integer_more :
    lane (.vcmp ⟨0, 1, 2, 9, 1, 2⟩) (v12 8 (fun _ => 255) (fun _ => 0)) 9 8 127 255 ∧
    lane (.vcmp ⟨0, 1, 4, 9, 1, 2⟩) (v12 8 (fun _ => 255) (fun _ => 0)) 9 8 127 0 ∧
    lane (.vabs ⟨0, 1, true, 9, 1⟩) (v12 8 (fun _ => 128) (fun _ => 0)) 9 8 3 127 ∧
    lane (.vsel ⟨0, 1, 9, 1, 2, 3⟩) (vregs [(3, vec 8 (fun j => if j = 4 then 255 else 0))] (v12 8 (fun _ => 1) (fun _ => 2))) 9 8 4 1 ∧
    lane (.vsel ⟨0, 1, 9, 1, 2, 3⟩) (vregs [(3, vec 8 (fun j => if j = 4 then 255 else 0))] (v12 8 (fun _ => 1) (fun _ => 2))) 9 8 5 2 ∧
    lane (.vsplat ⟨0, 2, 9, 4⟩) (us [(4, 0x12345)]) 9 16 63 0x2345 := by decide +kernel

theorem test_vector_fp :
    lane (.vfadd ⟨0, 5, 9, 1, 2⟩) (v12 16 (fun _ => 0x3F80) (fun _ => 0x4000)) 9 16 63 0x4040 ∧
    lane (.vfsub ⟨0, 4, 9, 1, 2⟩) (v12 32 (fun _ => 0x3F800000) (fun _ => 0x40000000)) 9 32 31 0xBF800000 ∧
    lane (.vfmul ⟨0, 6, 9, 1, 2⟩) (v12 16 (fun _ => 0x4000) (fun _ => 0x4200)) 9 16 1 0x4600 ∧
    lane (.vfmin ⟨0, 6, 9, 1, 2⟩) (v12 16 (fun _ => 0) (fun _ => 0x8000)) 9 16 1 0x8000 ∧
    lane (.vfmax ⟨0, 6, 9, 1, 2⟩) (v12 16 (fun _ => 0) (fun _ => 0x8000)) 9 16 1 0 ∧
    lane (.vffma ⟨0, 4, 9, 1, 2, 1⟩) (v12 32 (fun _ => 0x3F800000) (fun _ => 0x40000000)) 9 32 31 0x40400000 ∧
    lane (.vfcmp ⟨0, 5, 1, 9, 1, 2⟩) (v12 16 (fun _ => 0x3F80) (fun _ => 0x4000)) 9 16 63 0xFFFF ∧
    lane (.vexp2 ⟨0, 9, 1⟩) (v12 32 (fun _ => 0x40400000) (fun _ => 0)) 9 32 31 0x41000000 ∧
    lane (.vrcp ⟨0, 9, 1⟩) (v12 32 (fun _ => 0x40800000) (fun _ => 0)) 9 32 31 0x3E800000 ∧
    lane (.vrsq ⟨0, 9, 1⟩) (v12 32 (fun _ => 0x40800000) (fun _ => 0)) 9 32 31 0x3F000000 := by decide +kernel

/-- Hypotheses of VectorArithmetic. -/
theorem wit_VectorArithmetic (s : State) :
    (∃ p, viSpec (.vadd ⟨0, 1, true, 9, 1, 2⟩) s = some (0, 9, 8, p)) ∧ (∃ p, viSpec (.vsplat ⟨0, 3, 9, 1⟩) s = some (0, 9, 64, p)) ∧
    (∃ p, vfSpec (.vfadd ⟨0, 6, 9, 1, 2⟩) s = some (0, 9, .fp16, p)) ∧ ∃ p, vfSpec (.vrsq ⟨0, 15, 1⟩) s = some (0, 15, .fp32, p) :=
  ⟨⟨_, rfl⟩, ⟨_, rfl⟩, ⟨_, rfl⟩, ⟨_, rfl⟩⟩

/-- Hypotheses of VectorConversions at the ends of their ranges, and results. -/
theorem wit_VectorConversions :
    (Instr.vfcvt ⟨0, 0, 0, 1, 9, 1⟩).wellFormed = true ∧ (Instr.vfcvt ⟨0, 15, 4, 0, 9, 1⟩).wellFormed = true ∧
    (Instr.vqmx ⟨0, 4, 0, 9, 1⟩).wellFormed = true ∧ (Instr.vdqmx ⟨0, 5, 2, 9, 1⟩).wellFormed = true ∧
    (Instr.vcode ⟨0, 5, 1, 9, 1, 2⟩).wellFormed = true ∧ (Instr.vdecode ⟨0, 4, 3, 9, 1, 2⟩).wellFormed = true ∧
    lane (.vfcvt ⟨0, 0, 0, 1, 9, 1⟩) (v12 32 (fun _ => 0x3F800000) (fun _ => 0)) 9 16 63 0x3F80 ∧
    lane (.vfcvt ⟨0, 0, 0, 1, 9, 1⟩) (v12 32 (fun _ => 0x3F800000) (fun _ => 0)) 9 16 31 0 ∧
    lane (.vqmx ⟨0, 4, 0, 9, 1⟩) (v12 32 (fun _ => 0x40000000) (fun _ => 0)) 9 4 0 6 ∧
    lane (.vcode ⟨0, 5, 1, 9, 1, 2⟩) (v12 16 (fun _ => 0x4000) (fun j => if j = 3 then 0x4000 else 0)) 9 4 64 3 ∧
    lane (.vdecode ⟨0, 4, 3, 9, 1, 2⟩) (v12 4 (fun j => j % 16) (fun j => j / 4)) 9 32 0 0 := by decide +kernel

/-- Hypotheses and results of ReduceAndMoveLanes. -/
theorem wit_ReduceAndMoveLanes :
    gives (.vred ⟨0, 0, 0, 6, 1⟩) (v12 32 (fun j => j) (fun _ => 0)) (fun t => t.g 6 == 496) ∧
    gives (.vred ⟨0, 4, 0, 6, 1⟩) (v12 32 (fun _ => 0x3F800000) (fun _ => 0)) (fun t => t.f 6 == 0x42000000) ∧
    lane (.vperm ⟨0, 1, 9, 1, 2⟩) (v12 8 (fun j => j) (fun j => 127 - j)) 9 8 0 127 ∧
    lane (.vins ⟨0, 6, 9, 4, 3⟩) (us [(4, 0x12345), (3, 63)]) 9 16 63 0x2345 ∧ trapIs (.vins ⟨0, 6, 9, 4, 3⟩) (us [(3, 64)]) 1 0 11 ∧
    gives (.vext ⟨0, 1, 6, 1, 3⟩) (vregs [(1, vec 8 (fun j => 128 + j))] (us [(3, 127)])) (fun t => t.g 6 == (-1 : Word)) ∧
    gives (.vext ⟨0, 5, 6, 1, 3⟩) (vregs [(1, vec 16 (fun _ => 0x8000))] (us [(3, 63)])) (fun t => t.g 6 == 0x8000) ∧
    trapIs (.vext ⟨0, 3, 6, 1, 3⟩) (us [(3, 16)]) 1 0 11 := by decide +kernel

/-! ## Where an access goes (R17 .. R19, R339 .. R351) -/

/-- The page at virtual 0x1_0000_0000 has this leaf entry. -/
def leafIs (e : Word) (s : State) : State := { s with mem := s.mem.setBytes 0x3_0000 (leBytes 8 e.toNat) }

/-- Hypotheses and results of NearWindowRows: core (0, 0) is peer 0; peers 1 .. 3 are live, 4 .. 15 are in other choruses. -/
theorem wit_NearWindowRows :
    (us []).nearLoc (NW + 0x1_FFFF) 1 = .ok (0, 0x1_FFFF) ∧ (us []).nearLoc (NW + 0x1_FFFF) 2 = .error (windowAt (nw 0x2_0000)) ∧
    (us []).nearLoc (NW + 0x2_0000) 1 = .error (windowAt (nw 0x2_0000)) ∧
    (us []).nearLoc (NW + 0x30_0000) 1 = .error (windowAt (nw 0x30_0000)) ∧
    (us []).liveFor (us []).me (peerHandle 0 3) = true ∧ (us []).nearLoc (NW + 0x10_0000 + 3 * 0x2_0000 + 8) 8 = .ok (3, 8) ∧
    (us []).handleFor (us []).me (peerHandle 0 3) = 3 ∧ peerNo 0 = 0 ∧ (us []).nearLoc (NW + 0x10_0000) 8 = .ok (0, 0) ∧
    (us []).liveFor (us []).me (peerHandle 0 15) = false ∧
    (us []).nearLoc (NW + 0x10_0000 + 15 * 0x2_0000) 8 = .error (windowDead (nw 0x2E_0000) 15) ∧
    (us []).nearLoc (NW + 0x10_0000 + 3 * 0x2_0000 + 0x1_FFFC) 8 = .error (windowAt (nw 0x18_0000)) := by decide +kernel

/-- An entry of a page table lies in memory. -/
def entryIs (s : State) (a : Nat) (e : Word) : Bool := s.physical a && !SMap.get s.poison false (a / 8) && leNat (s.rawBytes a 8) == e.toNat

/-- Hypotheses and results of the walks of WalksAndAccessChecks. -/
theorem wit_WalksAndAccessChecks_walk :
    entryIs (us []) 0x1_0000 0x2_0001 ∧ entryIs (us []) 0x2_0080 0x3_0001 ∧ entryIs (us []) 0x3_0000 0x4_003F ∧
    (us []).walk 0 0x1_0000 0x1_0000_0000 = .leaf 0x4_003F 3 ∧ (us []).walk 0 0x1_0000 0x100_0000_0000 = .miss 1 ∧
    (us []).walk 0 0x1_0000 0x2_0000_0000 = .miss 2 ∧ (us []).walk 0 0x1_0000 0x1_0001_0000 = .miss 3 ∧
    (leafIs 0x4_003D (us [])).walk 0 0x1_0000 0x1_0000_0000 = .fatal 3 0 ∧
    (leafIs 0x4_C03F (us [])).walk 0 0x1_0000 0x1_0000_0000 = .fatal 3 0x4_C03F ∧
    (us []).walk 0 0x2_0000 0x100_1000_0000 = .miss 1 ∧ (us []).walk 0 0x3_0000 0x0 = .fatal 1 0x4_003F := by decide +kernel

/-- Hypotheses and results of the checks of WalksAndAccessChecks, for a load and a store. -/
theorem wit_WalksAndAccessChecks_checks :
    trapIs (.ldD ⟨0, 1, 9, 6, 5, 0⟩) (us [(5, 0x1_0000_0000), (9, 0x7_0000_0000)]) 16 0 0x7_0000_0000 ∧
    trapIs (.ldD ⟨0, 0, 0, 6, 5, 0⟩) (us [(5, 0x1_0000_0001)]) 4 0x1_0000_0001 3 ∧
    trapIs (.stH ⟨0, 0, 0, 6, 5, 0⟩) (us [(5, 0x1_0000_0001)]) 4 0x1_0000_0001 0x101 ∧
    gives (.ldD ⟨0, 0, 0, 6, 5, 0⟩) (us [(5, 0x1_0001_0000)]) (fun t => t.cur.state == .parked && t.cur.cause == 5 &&
      t.cur.faddr == 0x1_0001_0000 && t.cur.finfo == 0x301 && (t.die 0).faultIn.length == 1) ∧
    trapIs (.ldD ⟨0, 0, 0, 6, 5, 0⟩) (leafIs 0x4_C03F (us [(5, 0x1_0000_0000)])) 5 0x1_0000_0000 0xC03F_1301 ∧
    trapIs (.ldD ⟨0, 0, 0, 6, 5, 0⟩) (leafIs 0x4_003B (us [(5, 0x1_0000_0000)])) 6 0x1_0000_0000 0x003B_1301 ∧
    trapIs (.stD ⟨0, 0, 0, 6, 5, 0⟩) (leafIs 0x4_0037 (us [(5, 0x1_0000_0000)])) 6 0x1_0000_0000 0x0037_2302 ∧
    trapIs (.stD ⟨0, 0, 0, 6, 5, 0⟩) (leafIs 0x4_001F (us [(5, 0x1_0000_0000)])) 6 0x1_0000_0000 0x001F_4302 ∧
    (us []).locate 0x1_0000_0008 8 { rd := true } = .ok ⟨.device 0, 0x4_0008⟩ := by decide +kernel

/-! ## Loads and stores (R269 .. R273) -/

/-- A page of peer 1, routed over link 0, which is up; this panel is peer 2. -/
def peerPage (s : State) : State :=
  leafIs 0x0010_0000_0004_073F { s with
    ctl := SMap.put (SMap.put s.ctl (routeAddr 1) 0x20#64) peeridAddr 0x102#64, links := [(0, { lanes := 16 })] }

/-- Peer 1 refuses every request. -/
def denied (s : State) : State := { s with peerDeny := [(1, 1)] }

/-- A store of the executing context that has not left the post queue, at this device address. -/
def storeEntry (a : Nat) : PEntry := ⟨99, 0, 0, ⟨.device 0, a⟩, .store [1, 2, 3, 4, 5, 6, 7, 8], 0⟩

/-- An acquire load of the executing context that has not been satisfied. -/
def acquireEntry : PEntry := ⟨98, 1, 0, ⟨.device 0, 0x4_0100⟩, .load 8 none, 0⟩

/-- The executing context's post queue. -/
def posted (es : List PEntry) (s : State) : State := s.modCur (fun c => { c with post := es })

theorem test_loads_and_stores :
    gives (.ldB ⟨0, 0, 0, 6, 5, 1⟩) (loc (us [(5, nw 0x100)]) 0x100 [0x80, 0x81]) (fun t => t.g 6 == 0x81) ∧
    gives (.ldBs ⟨0, 0, 0, 6, 5, 1⟩) (loc (us [(5, nw 0x100)]) 0x100 [0x80, 0x81]) (fun t => t.g 6 == 0xFFFF_FFFF_FFFF_FF81) ∧
    gives (.ldH ⟨0, 0, 0, 6, 5, 0⟩) (loc (us [(5, nw 0x100)]) 0x100 [0x80, 0x81]) (fun t => t.g 6 == 0x8180) ∧
    gives (.ldHs ⟨0, 0, 0, 6, 5, 0⟩) (loc (us [(5, nw 0x100)]) 0x100 [0x80, 0x81]) (fun t => t.g 6 == 0xFFFF_FFFF_FFFF_8180) ∧
    gives (.ldW ⟨0, 0, 0, 6, 5, -1⟩) (loc (us [(5, nw 0x100)]) 0xFC [1, 2, 3, 0x84]) (fun t => t.g 6 == 0x8403_0201) ∧
    gives (.ldWs ⟨0, 0, 0, 6, 5, -1⟩) (loc (us [(5, nw 0x100)]) 0xFC [1, 2, 3, 0x84]) (fun t => t.g 6 == 0xFFFF_FFFF_8403_0201) ∧
    gives (.ldD ⟨0, 1, 0, 6, 5, 0⟩) (loc (us [(5, nw 0x100)]) 0x100 [1, 2, 3, 4, 5, 6, 7, 8]) (fun t => t.g 6 == 0x0807_0605_0403_0201) ∧
    gives (.fld ⟨0, 0, 0, 6, 5, 0⟩) (loc (us [(5, nw 0x100)]) 0x100 [1, 2, 3, 4]) (fun t => t.f 6 == 0x0403_0201) ∧
    gives (.stB ⟨0, 0, 0, 6, 5, 1⟩) (us [(5, nw 0x100), (6, 0x1234)]) (fun t => locNat t 0x100 4 == 0x3400) ∧
    gives (.stH ⟨0, 0, 0, 6, 5, 1⟩) (us [(5, nw 0x100), (6, 0x1234)]) (fun t => locNat t 0x100 4 == 0x1234_0000) ∧
    gives (.stW ⟨0, 2, 0, 6, 5, 0⟩) (us [(5, nw 0x100), (6, 0x1_1234_5678)]) (fun t => locNat t 0x100 8 == 0x1234_5678) ∧
    gives (.stD ⟨0, 0, 0, 6, 5, 0⟩) (us [(5, 0x1_0000_0000), (6, -2)]) (fun t => leNat (t.pocBytes (.device 0) 0x4_0000 8) == 2 ^ 64 - 2) ∧
    gives (.fst ⟨0, 0, 0, 6, 5, 0⟩) (fregs [(6, 0xDEADBEEF)] (us [(5, nw 0x100)])) (fun t => locNat t 0x100 8 == 0xDEADBEEF) := by decide +kernel

/-- Hypotheses and results of LoadsAndStores. -/
theorem wit_LoadsAndStores :
    loadForm (.ldD ⟨0, 1, 0, 6, 5, 0⟩) = some (⟨0, 1, 0, 6, 5, 0⟩, 8, false, false) ∧
    (us [(5, 0x1_0000_0000)]).access 1 0 0x1_0000_0000 8 0 { rd := true } = .ok ⟨.device 0, 0x4_0000⟩ ∧
    (us []).checkData 0x1_0000_0000 ⟨.device 0, 0x4_0000⟩ 8 false = .ok () ∧ (us []).canLoad ⟨.device 0, 0x4_0000⟩ 8 = true ∧
    (us []).cur.post = [] ∧ (us []).me.path = [] ∧ (posted [acquireEntry] (us [])).canLoad ⟨.device 0, 0x4_0000⟩ 8 = false ∧
    gives (.ldD ⟨0, 0, 0, 6, 5, 0⟩) (posted [acquireEntry] (us [(5, 0x1_0000_0000)]))
      (fun t => t.cur.post.length == 2 && t.cur.out.length == 1 && t.cur.pc == 0x1_0000_0004) ∧
    (us []).canWrite ⟨.device 0, 0x4_0000⟩ 8 0 0 = true ∧
    (posted [storeEntry 0x4_0000] (us [])).canWrite ⟨.device 0, 0x4_0000⟩ 8 0 0 = false ∧
    gives (.stD ⟨0, 0, 0, 6, 5, 0⟩) (posted [storeEntry 0x4_0000] (us [(5, 0x1_0000_0000)])) (fun t => t.cur.post.length == 2) ∧
    (peerPage (us [])).access 0 0 0x1_0000_0000 8 1 { wr := true } = .ok ⟨.peer 0 0, peerKey 1 0x4_0000⟩ ∧
    (denied (peerPage (us []))).peerRefuses 1 false = true ∧ (peerPage (us [])).peerRefuses 1 false = false ∧
    gives (.stD ⟨0, 0, 0, 6, 5, 0⟩) (denied (peerPage (us [(5, 0x1_0000_0000)])))
      (fun t => t.cur.atomstat == 4 && t.logw == 1 && t.cur.pc == 0x1_0000_0004) := by decide +kernel

/-- A load that waits in the post queue and its instruction. -/
def loadWaits (sp : Space) (a : Nat) (s : State) : State :=
  s.modCur (fun c => { c with post := [⟨7, 0, 0, ⟨sp, a⟩, .load 8 none, 0⟩], out := [outst 7 0 [] [] (.loads (.g 6 false))] })

/-- Hypotheses and results of QueuedWritesPerform. -/
theorem wit_QueuedWritesPerform :
    gives (.evLoadSatisfy 0 0 0 0) (loadWaits (.device 0) 0x4_0008 ((us []).setRaws 0x4_0008 [5]))
      (fun t => t.cur.post == [] && t.cur.out == [outst 7 0 [] [.g 6 5] .ready]) ∧
    gives (.evLoadSatisfy 0 0 0 1) (loadWaits (.device 0) 0x4_0008 ((us []).setRaws 0x4_0008 [5]))
      (fun t => t.cur.out == [outst 7 0 [] [.g 6 5] .ready] && SMap.has t.me.l1 0x1000) ∧
    gives (.evClusterPeerRequest 0 0 0) (loadWaits (.local_ 1) (localKey 1 8) ((us []).setRaws (localKey 1 8) [9]))
      (fun t => t.cur.out == [outst 7 0 [] [.g 6 9] .ready]) ∧
    leaveReady [] [] (storeEntry 0x4_0000) = true ∧
    gives (.evWriteLeavePostQueue 0 0 0) (posted [storeEntry 0x4_0000] (us []))
      (fun t => t.cur.post == [] && t.me.path == [⟨99, 0, ⟨.device 0, 0x4_0000⟩, [1, 2, 3, 4, 5, 6, 7, 8]⟩]) ∧
    gives (.evWritePerform 0 0) ((us []).modCore 0 (fun c => { c with path := [⟨99, 0, ⟨.device 0, 0x4_0000⟩, [1, 2]⟩] }))
      (fun t => t.me.path == [] && leNat (t.rawBytes 0x4_0000 4) == 0x201) ∧
    gives (.evClusterPeerRequest 0 0 0) (posted [⟨99, 0, 0, ⟨.local_ 1, localKey 1 8⟩, .store [7], 0⟩] (us []))
      (fun t => t.cur.post == [] && leNat (t.rawBytes (localKey 1 8) 1) == 7) := by decide +kernel

/-- An L1 that holds one line. -/
def lineIn (line : Nat) (x : BitVec 512) (s : State) : State := s.modCore 0 (fun c => { c with l1 := [(line, x)] })

/-- A page of mode 10 whose line at 0x4_0000 the device holds. -/
def heldLine (s : State) : State := leafIs 0x4_02BF { s with devLines := [(hostKey 0x4_0000 / 64, 3)] }

/-- Hypotheses and results of CacheMaintenance. -/
theorem wit_CacheMaintenance :
    gives (.pf ⟨0, 5⟩) (us [(5, 0x1_0000_0040)]) (fun t => t.me.pf == [⟨.device 0, 0x4_0040⟩]) ∧
    gives (.cinv ⟨0, 0, 5, 6⟩) (us [(5, 0x1_0000_0000)]) (fun t => t.cur.pc == 0x1_0000_0004) ∧
    trapIs (.cinv ⟨0, 0, 5, 6⟩) (us [(5, 0x1_0000_0000), (6, 0x400_0001)]) 1 0 11 ∧
    trapIs (.cwb ⟨0, 0, 5, 6⟩) (us [(5, nw 0), (6, 1)]) 17 (nw 0) 0 ∧
    trapIs (.cwb ⟨0, 9, 5, 6⟩) (us [(5, 0x1_0000_0000), (6, 0x400_0000), (9, 0x7_0000_0000)]) 16 0 0x7_0000_0000 ∧
    gives (.cinv ⟨0, 0, 5, 6⟩) (lineIn 0x1000 1 (us [(5, 0x1_0000_003F), (6, 1)])) (fun t => t.me.l1 == []) ∧
    gives (.cinv ⟨0, 0, 5, 6⟩) (lineIn 0x1000 1 (us [(5, 0x1_0000_0040), (6, 1)])) (fun t => t.me.l1 == [(0x1000, 1)]) ∧
    SMap.sorted (heldLine (us [])).devLines = true ∧
    gives (.cwb ⟨0, 0, 5, 6⟩) (heldLine (us [(5, 0x1_0000_0000), (6, 64)])) (fun t => leNat (t.rawBytes (hostKey 0x4_0000) 8) == 3) ∧
    gives (.evL1LineDrop 0 0x1000) (lineIn 0x1000 1 (us [])) (fun t => t.me.l1 == []) ∧
    gives (.evPrefetchFill 0 0) ((us []).modCore 0 (fun c => { c with pf := [⟨.device 0, 0x4_0040⟩] }))
      (fun t => t.me.pf == [] && SMap.has t.me.l1 0x1001) := by decide +kernel

/-! ## Tagged operations, atomics, notice boards, fences -/

/-- The tag of own word i is full. -/
def full (i : Nat) (s : State) : State := s.modCore 0 (fun c => { c with tags := [(i, true)] })

/-- Word 0x20 (offset 0x100) waits for a tagged operation of context 0, numbered 7. -/
def tagWaits (op : TagOp) (s : State) : State :=
  (s.modCur (fun c => { c with
    post := [⟨7, 0, 0, ⟨.local_ 0, localKey 0 0x100⟩, .tagged op, 0⟩], out := [outst 7 0 [] [] (.tag (.g 6 false))] })).modCore 0
    (fun c => { c with tagWait := [⟨0x100, 0, 0, 7⟩] })

theorem test_tagged :
    gives (.ldf ⟨0, 0, 0, 6, 5, 0⟩) (full 0x20 (loc (us [(5, nw 0x100)]) 0x100 [7])) (fun t => t.g 6 == 7 && t.me.tagFull 0x20) ∧
    gives (.ldfTake ⟨0, 0, 0, 6, 5, 0⟩) (full 0x20 (loc (us [(5, nw 0x100)]) 0x100 [7])) (fun t => t.g 6 == 7 && !t.me.tagFull 0x20) ∧
    gives (.ste ⟨0, 0, 0, 6, 5, 1⟩) (us [(5, nw 0x100), (6, 9)]) (fun t => locNat t 0x108 8 == 9 && t.me.tagFull 0x21) ∧
    gives (.stf ⟨0, 0, 0, 6, 5, 0⟩) (full 0x20 (us [(5, nw 0x100), (6, 9)])) (fun t => locNat t 0x100 8 == 9 && t.me.tagFull 0x20) ∧
    gives (.tagclr ⟨0, 0, 0, 5, 0⟩) (full 0x20 (us [(5, nw 0x100)])) (fun t => !t.me.tagFull 0x20) ∧
    gives (.tagrd ⟨0, 0, 0, 6, 5, 0⟩) (full 0x20 (us [(5, nw 0x100)])) (fun t => t.g 6 == 1 && t.me.tagFull 0x20) := by decide +kernel

/-- Hypotheses and results of TaggedAccesses. -/
theorem wit_TaggedAccesses :
    trapIs (.ldf ⟨0, 0, 0, 6, 5, 0⟩) (us [(5, nw 0x104)]) 4 (nw 0x104) 3 ∧
    trapIs (.ste ⟨0, 0, 0, 6, 5, 0⟩) (us [(5, 0x1_0000_0000)]) 17 0x1_0000_0000 0 ∧
    (us []).nearLoc (NW + 0x100) 8 = .ok (0, 0x100) ∧ (us []).checkBuf 0 0x100 8 (NW + 0x100) true = .ok () ∧
    (us []).checkData (NW + 0x100) ⟨.local_ 0, localKey 0 0x100⟩ 8 true = .ok () ∧
    (us []).canWrite ⟨.local_ 0, localKey 0 0x100⟩ 8 0 0x3_0000_0000 = true ∧ (us []).me.tagHead 0x100 = none ∧
    tagNeeds .ldf = some true ∧ (full 0x20 (us [])).me.tagFull 0x20 = true ∧ (us []).me.tagFull 0x20 = false ∧
    gives (.ldf ⟨0, 0, 0, 6, 5, 0⟩) (us [(5, nw 0x100)]) (fun t => t.me.tagWait == [⟨0x100, 0, 0, 0⟩] || t.me.tagWait.length == 1) ∧
    gives (.evTagWaiterPerform 0 0x100) (tagWaits .take (full 0x20 (loc (us []) 0x100 [5])))
      (fun t => t.me.tagWait == [] && !t.me.tagFull 0x20 && t.cur.out == [outst 7 0 [] [.g 6 5] .ready]) ∧
    gives (.evTagWaiterPerform 0 0x100) (tagWaits (.ste 9) (full 0x20 (us []))) (fun t => t == tagWaits (.ste 9) (full 0x20 (us []))) := by
  decide +kernel

/-- A word of the mapped page. -/
def word (x : Nat) (s : State) : State := s.setRaws 0x4_0000 (leBytes 8 x)

/-- An atomic on a word leaves this word and returns this old value. -/
def atom (i : Instr) (old b new r : Nat) : Bool :=
  gives i (word old (us [(5, 0x1_0000_0000), (7, BitVec.ofNat 64 b)]))
    (fun t => leNat (t.pocBytes (.device 0) 0x4_0000 8) == new && t.g 6 == BitVec.ofNat 64 r)

theorem test_atomics :
    atom (.amoAdd ⟨0, 0, 0, true, 6, 5, 7⟩) 0x1_FFFF_FFFF 1 0x1_0000_0000 (2 ^ 64 - 1) ∧ atom (.amoAnd ⟨0, 0, 0, false, 6, 5, 7⟩) 12 10 8 12 ∧
    atom (.amoOr ⟨0, 0, 0, false, 6, 5, 7⟩) 12 10 14 12 ∧ atom (.amoXor ⟨0, 0, 0, false, 6, 5, 7⟩) 12 10 6 12 ∧
    atom (.amoMin ⟨0, 0, 0, false, 6, 5, 7⟩) 5 (2 ^ 64 - 1) (2 ^ 64 - 1) 5 ∧ atom (.amoMax ⟨0, 0, 0, false, 6, 5, 7⟩) 5 (2 ^ 64 - 1) 5 5 ∧
    atom (.amoMinn ⟨0, 0, 0, false, 6, 5, 7⟩) 5 (2 ^ 64 - 1) 5 5 ∧ atom (.amoMaxn ⟨0, 0, 0, true, 6, 5, 7⟩) 5 9 9 5 ∧
    atom (.swap ⟨0, 0, 0, true, 6, 5, 7⟩) 5 0x1_0000_0009 9 5 ∧ atom (.cas ⟨0, 0, 0, false, 6, 5, 7, 5⟩) 5 5 0x1_0000_0000 5 ∧
    atom (.cas ⟨0, 0, 0, false, 6, 5, 7, 5⟩) 6 5 6 6 ∧ atom (.red ⟨0, 0, 0, false, 7, 5, 7⟩) 5 9 9 0 ∧
    gives (.famoAdd ⟨0, 0, 0, 3, 5, 7⟩) (fregs [(7, 0x3F800000)] (word 0x3F800000 (us [(5, 0x1_0000_0000)])))
      (fun t => leNat (t.pocBytes (.device 0) 0x4_0000 8) == 0x40000000 && t.f 3 == 0x3F800000) ∧
    gives (.fredAdd ⟨0, 0, 0, 5, 7⟩) (fregs [(7, 0x3F800000)] (word 0x3F800000 (us [(5, 0x1_0000_0000)])))
      (fun t => leNat (t.pocBytes (.device 0) 0x4_0000 8) == 0x40000000) := by decide +kernel

/-- Hypotheses and results of Atomics. -/
theorem wit_Atomics :
    trapIs (.amoAdd ⟨0, 0, 9, false, 6, 5, 7⟩) (us [(9, 0x7_0000_0000)]) 16 0 0x7_0000_0000 ∧
    trapIs (.amoAdd ⟨0, 0, 0, false, 6, 5, 7⟩) (us [(5, 0x1_0000_0004)]) 4 0x1_0000_0004 0x203 ∧
    (us []).locate 0x1_0000_0000 8 (needAtomic true) = .ok ⟨.device 0, 0x4_0000⟩ ∧
    (us []).canWrite ⟨.device 0, 0x4_0000⟩ 8 0 0x3_0000_0000 = true ∧
    (posted [acquireEntry] (us [])).canWrite ⟨.device 0, 0x4_0000⟩ 8 0 0x3_0000_0000 = false ∧
    gives (.amoAdd ⟨0, 0, 0, false, 6, 5, 7⟩) (posted [acquireEntry] (us [(5, 0x1_0000_0000)]))
      (fun t => t.cur.post.length == 2 && t.cur.out.length == 1) ∧
    SMap.has ((us []).die 5).sync 0x1000 = false ∧ 0x4_0038 % 64 + 8 ≤ 64 ∧ scopeKind 0x1_0000_0000 = 1 ∧ scopeKind 0x2_0000_0000 = 2 ∧
    scopeKind 0x3_0000_0000 = 3 ∧ scopeKind 0x4_0000_0000 = 4 ∧ scopeKind 0x1F1F_0000 = 0 ∧ dieAt 0 0 = 0 ∧ dieAt 0x1F 0x1F = 0 := by
  decide +kernel

/-- A board at 0x1_0000_0000 of two slots, round 3, automatic or not, with slot 0 posted or not. -/
def board (auto posted0 : Bool) (s : State) : State :=
  ((s.setRaws 0x4_0000 (leBytes 8 (3 + 2 * 2 ^ 32 + if auto then 2 ^ 48 else 0)))).setRaws 0x4_0040 [if posted0 then 1 else 0]

/-- Hypotheses and results of NoticeBoards: a post that completes the board, one that does not, one of another round; the three
operations of `nbctl`. -/
theorem wit_NoticeBoards :
    gives (.post ⟨0, 0, 0, 5, 5, 7, 3⟩) (board true true (us [(5, 0x1_0000_0000), (7, 0x3_0000_0001), (3, 77)]))
      (fun t => t.v 5 == 3 && leNat (t.pocBytes (.device 0) 0x4_0000 4) == 4 && leNat (t.pocBytes (.device 0) 0x4_0040 8) == 0 &&
        leNat (t.pocBytes (.device 0) 0x4_00C8 8) == 77) ∧
    gives (.post ⟨0, 0, 0, 5, 5, 7, 3⟩) (board true false (us [(5, 0x1_0000_0000), (7, 0x3_0000_0001), (3, 77)]))
      (fun t => t.v 5 == 2 && leNat (t.pocBytes (.device 0) 0x4_0000 4) == 3 && leNat (t.pocBytes (.device 0) 0x4_0040 8) == 2) ∧
    gives (.post ⟨0, 0, 0, 5, 5, 7, 3⟩) (board true false (us [(5, 0x1_0000_0000), (7, 0x2_0000_0001)]))
      (fun t => t.v 5 == 0 && t.cur.atomstat == 2) ∧
    trapIs (.post ⟨0, 0, 0, 5, 5, 7, 3⟩) (us [(7, 0x400)]) 1 0 11 ∧
    gives (.nbctl ⟨0, 0, 0, 6, 5, 7⟩) (board true true (us [(5, 0x1_0000_0000), (7, 0x5_0401_0000)]))
      (fun t => t.g 6 == 0x1_0002_0000_0003 && leNat (t.pocBytes (.device 0) 0x4_0000 8) == 0x1_0002_0000_0005 &&
        leNat (t.pocBytes (.device 0) 0x4_0040 8) == 0) ∧
    gives (.nbctl ⟨0, 0, 0, 6, 5, 7⟩) (board true true (us [(5, 0x1_0000_0000), (7, 0x3_0000_0001)]))
      (fun t => leNat (t.pocBytes (.device 0) 0x4_0000 4) == 4 && t.cur.atomstat == 0) ∧
    gives (.nbctl ⟨0, 0, 0, 6, 5, 7⟩) (board true true (us [(5, 0x1_0000_0000), (7, 0x4_0000_0001)])) (fun t => t.cur.atomstat == 2) ∧
    gives (.nbctl ⟨0, 0, 0, 6, 5, 7⟩) (board true true (us [(5, 0x1_0000_0000), (7, 2)])) (fun t => t.g 6 == 0x1_0002_0000_0003) ∧
    trapIs (.nbctl ⟨0, 0, 0, 6, 5, 7⟩) (us [(7, 3)]) 1 0 11 ∧ nbctlBad 3 = true ∧ nbctlBad 2 = false ∧
    (us []).boardCheck 0x3_0000_0000 0x1_0000_0000 (boardLines 0x1_0000_0000 (some 1)) = .ok () := by decide +kernel

/-- Hypotheses and results of Fences. -/
theorem wit_Fences :
    trapIs (.fence ⟨0, 3, 9⟩) (us [(9, 0x7_0000_0000)]) 16 0 0x7_0000_0000 ∧ fenceReady [] [] 3 0x3_0000_0000 = true ∧
    gives (.fence ⟨0, 1, 0⟩) (lineIn 0x1000 1 (us [])) (fun t => t.me.l1 == []) ∧
    gives (.fence ⟨0, 2, 0⟩) (lineIn 0x1000 1 (us [])) (fun t => t.me.l1 == [(0x1000, 1)]) ∧
    fenceReady [acquireEntry] [] 3 0x3_0000_0000 = false ∧
    gives (.fence ⟨0, 3, 0⟩) (posted [acquireEntry] (us [])) (fun t => t.cur.post.length == 2 && t.cur.out.length == 1) := by decide +kernel

/-- An add to a word of host memory, in the fabric. -/
def hostAdd (id : Nat) (b : Word) : Req :=
  ⟨id, 0, ⟨.host 0 0, hostKey 0x4_0000⟩, b, [⟨0, 0, id, .rmw .add 8 b, 0x3_0000_0000, .core⟩], true, id⟩

/-- Two such requests. -/
def twoAdds : State := { us [] with reqs := [hostAdd 1 3, hostAdd 2 4], serial := 9 }

/-- Their decombining record, whose reply has come, while their instructions wait. -/
def decombining : State :=
  { (us []).modCur (fun c => { c with
      post := [⟨1, 0, 0x3_0000_0000, ⟨.host 0 0, hostKey 0x4_0000⟩, .sent (.rmw .add 8 3) (.g 6), 100⟩,
        ⟨2, 0, 0x3_0000_0000, ⟨.host 0 0, hostKey 0x4_0000⟩, .sent (.rmw .add 8 4) (.g 7), 100⟩]
      out := [outst 1 0 [] [] .reply, outst 2 0 [] [] .reply] }) with
    recs := [⟨9, 64, 1, (hostAdd 1 3).parts, 2, (hostAdd 2 4).parts, 3, 0, some (.val 10 0 false)⟩] }

/-- An atomic add of 3 to the mapped word that waits in the post queue, due at a cycle. -/
def addWaits (due : Nat) : State :=
  word 5 (ex (fun c => { c with
    post := [⟨7, 0, 0x3_0000_0000, ⟨.device 0, 0x4_0000⟩, .atomic (.rmw .add 8 3) (.g 6), due⟩], out := [outst 7 0 [] [] .reply] }))

/-- Die d holds a sync copy of the mapped line, with an overflow area of n × 4,096 entries at 0x80_0000. -/
def syncCopy (d n : Nat) : State :=
  { ((us []).modDie d (fun e => { e with sync := [(0x1000, 5)] })).modDie 0 (fun e => { e with homes := [(0x1000, 8)] }) with
    ctl := [(dieBlock 0 + 0x900, 0x80_0000#64), (dieBlock 0 + 0x908, BitVec.ofNat 64 n)] }

/-- Hypotheses and results of CombiningAndSync. -/
theorem wit_CombiningAndSync :
    twoAdds.picked (.req 1) = some (hostAdd 1 3) ∧ (hostAdd 1 3).fits (hostAdd 2 4) = true ∧ twoAdds.passes (hostAdd 1 3) 64 = true ∧
    twoAdds.passes (hostAdd 2 4) 80 = true ∧
    gives (.evCombineMerge 64 (.req 1) (.req 2)) twoAdds (fun t => t.recs.length == 1 && t.reqs.map (fun r => r.opnd) == [7]) ∧
    gives (.evDecombineReply 9 false) decombining
      (fun t => t.cur.post == [] && t.cur.out == [outst 1 0 [] [.g 6 10] .ready, outst 2 0 [] [.g 7 13] .ready]) ∧
    gives (.evDecombineReply 9 true) decombining (fun t => t.recs == [] && t.logw == 1) ∧
    gives (.evAtomicPerform (.entry 0 0 0) false) (addWaits 1)
      (fun t => leNat (t.pocBytes (.device 0) 0x4_0000 8) == 8 && t.cur.out == [outst 7 0 [] [.g 6 5] .ready]) ∧
    gives (.evSyncCopyDrop 3 0x1000) (syncCopy 3 0) (fun t => (t.die 3).sync == []) ∧
    (syncCopy 3 0).lineHome 0 0x1000 = 0 ∧ (syncCopy 3 0).syncMask 0x1000 = 8 ∧
    gives (.evSyncHomeEvict 0 0x1000) (syncCopy 3 0) (fun t => t.syncMask 0x1000 == 0) ∧
    gives (.evSyncHomeEvict 0 0x1000) (syncCopy 3 1)
      (fun t => leNat (t.rawBytes 0x80_0000 8) == 0x4_0000 && leNat (t.rawBytes 0x80_0008 8) == 8 && (t.die 0).ovf == [0x1000]) ∧
    (addWaits 0).retirable 0 0 0 = some (.g 6) ∧
    gives (.evAtomicWatchdogRetire 0 0 0) (addWaits 0)
      (fun t => t.cur.out == [outst 7 0 [] [.g 6 (-1), .atomstat 1] .ready] && t.logw == 1 && t.reqs.length == 1) ∧
    gives (.evAtomicWatchdogRetire 0 0 0) (addWaits 1) (fun t => t == addWaits 1) := by decide +kernel

/-! ## Vector memory (R244 .. R249), tiles and long arrays (R253 .. R265) -/

/-- Bytes 0, 1, 2, … of n. -/
def up (n : Nat) : List Byte := (List.range n).map (BitVec.ofNat 8)

theorem test_vector_memory :
    lane (.vld ⟨0, 0, 0, 9, 5, 0⟩) (loc (us [(5, nw 0x100)]) 0x100 (up 128)) 9 32 31 0x7F7E_7D7C ∧
    gives (.vst ⟨0, 0, 0, 1, 5, 1⟩) (vregs [(1, vec 8 id)] (us [(5, nw 0x100)])) (fun t => t.rawBytes (localKey 0 0x180) 128 == up 128) ∧
    lane (.vldb ⟨0, 0, 0, 2, 9, 5, 0⟩) (loc (us [(5, nw 0x102)]) 0x102 [0x34, 0x12]) 9 16 63 0x1234 ∧
    lane (.vldx ⟨0, 0, 0, 0, 9, 5, 0, 2⟩) (loc (vregs [(2, vec 32 (fun j => 8 * j))] (us [(5, nw 0x100)])) 0x1F8 [1, 2, 3, 4]) 9 32 31 0x0403_0201 ∧
    gives (.vstx ⟨0, 0, 0, 0, 1, 5, 0, 2⟩) (vregs [(1, vec 32 (fun j => j + 1)), (2, vec 32 (fun _ => 4))] (us [(5, nw 0x100)]))
      (fun t => locNat t 0x104 4 == 32) ∧
    gives (.vstm ⟨0, 0, 0, 0, 1, 5, 0, 2⟩) (vregs [(1, vec 32 (fun j => j + 1)), (2, vec 32 (fun j => if j = 2 then 2 ^ 31 else 1))] (us [(5, nw 0x100)]))
      (fun t => locNat t 0x108 4 == 3 && locNat t 0x100 8 == 0 && locNat t 0x10C 8 == 0) ∧
    lane (.vscma ⟨0, true, false, 9, 5, 6, 0⟩) (loc (vregs [(9, vec 32 (fun j => j))] (us [(5, nw 0x100), (6, 3)])) 0x100 [0, 0xFF]) 9 32 1 (2 ^ 32 - 2) ∧
    lane (.vscma ⟨0, false, false, 9, 5, 6, 0⟩) (loc (vregs [(9, vec 32 (fun j => j))] (us [(5, nw 0x100), (6, 3)])) 0x100 [0x70, 0x08]) 9 32 2 (2 ^ 32 - 22) := by
  decide +kernel

/-- A block of bytes at near-window offset 0x100: its header, its mask word and a byte of values. -/
def block (h m : Nat) (vals : List Byte) (s : State) : State := loc s 0x100 (leBytes 8 h ++ leBytes 8 m ++ vals)

/-- A block header (R67). -/
def header (e cap used n : Nat) : Nat := e * 2 ^ 48 + cap * 2 ^ 32 + used * 2 ^ 16 + n

/-- Bytes with a 7 in lane 1 and a 9 in lane 126. -/
def sparse : Vec := vec 8 (fun j => if j = 1 then 7 else if j = 126 then 9 else 0)

/-- Storing 128 byte elements: two are not zero. -/
theorem test_compressed_blocks :
    gives (.vspst ⟨0, 0, 0, 1, 5, 0, 0⟩) (block (header 0 8 0 128) 0 [] (vregs [(1, sparse)] (us [(5, nw 0x100)])))
      (fun t => locNat t 0x100 8 == header 0 8 2 128 && locNat t 0x108 16 == 2 + 2 ^ 126 && locNat t 0x118 3 == 0x0907) ∧
    gives (.vspld ⟨0, 0, 0, 9, 5, 0, 0⟩) (loc (block (header 0 8 2 128) 2 [] (us [(5, nw 0x100)])) 0x110 (leBytes 8 (2 ^ 62) ++ [7, 9]))
      (fun t => t.v 9 == sparse) ∧
    trapIs (.vspst ⟨0, 0, 0, 1, 5, 0, 0⟩) (block (header 0 1 0 128) 0 [] (vregs [(1, sparse)] (us [(5, nw 0x100)]))) 9 (nw 0x100) 0x2_0001_0000 := by
  decide +kernel

/-- The hypotheses about memory of VectorMemory for accesses `ps`, loads or stores of at most eight bytes each. -/
def reaches (s : State) (need : Need) (ps : List (Nat × Nat)) : Bool :=
  match s.spread need ps with
  | .ok parts => (parts.flatMap granules).all (fun p => if need.wr then s.canWrite p.1 p.2 0 0 else s.canLoad p.1 p.2)
  | .error _ => false

/-- Hypotheses and results of VectorMemory: the loads and stores, misaligned addresses, bad scopes; good, bad and full blocks. -/
theorem wit_VectorMemory :
    (vLoadForm (.vld ⟨0, 0, 0, 9, 5, 0⟩) (us [])).isSome = true ∧ (vLoadForm (.vldb ⟨0, 0, 0, 2, 9, 5, 0⟩) (us [])).isSome = true ∧
    (vStoreForm (.vst ⟨0, 0, 0, 9, 5, 0⟩) (us [])).isSome = true ∧ (vStoreForm (.vstm ⟨0, 0, 0, 0, 1, 5, 0, 2⟩) (us [])).isSome = true ∧
    reaches (us []) { rd := true } [(NW + 0x100, 128)] = true ∧ reaches (us []) { wr := true } [(NW + 0x1_FF80, 128)] = true ∧
    reaches (us []) { wr := true } [(0x1_0000_FF80, 128)] = true ∧ reaches (us []) { wr := true } [(0x1_0000_FF88, 128)] = false ∧
    trapIs (.vld ⟨0, 1, 9, 9, 5, 0⟩) (us [(5, nw 0x100), (9, 0x7_0000_0000)]) 16 0 0x7_0000_0000 ∧
    trapIs (.vst ⟨0, 2, 9, 9, 5, 0⟩) (us [(5, nw 0x100), (9, 0x7_0000_0000)]) 16 0 0x7_0000_0000 ∧
    trapIs (.vld ⟨0, 0, 0, 9, 5, 0⟩) (us [(5, nw 0x104)]) 4 (nw 0x104) 3 ∧ trapIs (.vst ⟨0, 0, 0, 9, 5, 0⟩) (us [(5, nw 0x104)]) 4 (nw 0x104) 0x103 ∧
    trapIs (.vldx ⟨0, 0, 0, 0, 9, 5, 0, 2⟩) (vregs [(2, vec 32 (fun j => if j = 31 then 2 else 0))] (us [(5, nw 0x100)])) 4 (nw 0x102) 2 ∧
    trapIs (.vspld ⟨0, 0, 0, 9, 5, 0, 0⟩) (block (header 0 8 0 0) 0 [] (us [(5, nw 0x100)])) 9 (nw 0x100) 0x8_0000 ∧
    trapIs (.vspld ⟨0, 0, 0, 9, 5, 0, 9⟩) (block (header 0 8 0 128) 0 [] (us [(5, nw 0x100), (17, 1)])) 1 0 11 ∧
    trapIs (.vspst ⟨0, 0, 0, 9, 5, 0, 9⟩) (block (header 0 8 0 128) 0 [] (us [(5, nw 0x100), (17, 128)])) 1 0 11 ∧
    trapIs (.vscma ⟨0, true, false, 9, 5, 6, 0⟩) (us [(5, nw 0x110)]) 4 (nw 0x110) 5 ∧
    trapIs (.vscma ⟨0, false, false, 9, 5, 6, 0⟩) (us [(5, nw 0x108)]) 4 (nw 0x108) 4 := by decide +kernel

/-- The core has buffer 3: 4 KB at offset 0x1000, in skew mode, owned and draining. -/
def skewed (s : State) : State :=
  s.modCore 0 (fun c => c.setBuf 3 { state := 4, owner := 0, base := 0x40, size := 0x3F, skew := true })

/-- A tile register row. -/
def trow (t : TReg) (r : Nat) (x : BitVec 1024) (s : State) : State := s.modCore 0 (fun c => c.write (.tile t r x))

theorem test_tiles :
    gives (.tld ⟨0, 2, 5, 6⟩) (loc (us [(5, nw 0x1000), (6, 0xF1)]) 0x1080 [7]) (fun t => t.me.tileRow 2 1 == 7) ∧
    gives (.tld ⟨0, 2, 5, 6⟩) (skewed (loc (us [(5, nw 0x1000), (6, 0xF1)]) 0x1088 [7])) (fun t => t.me.tileRow 2 1 == 7) ∧
    gives (.tstTile ⟨0, 2, 5, 6⟩) (skewed (trow 2 15 (7 * 2 ^ 64) (us [(5, nw 0x1000), (6, 0xFF)]))) (fun t => locNat t 0x1780 8 == 7) ∧
    gives (.tget ⟨0, false, 0, 9, 2, 6⟩) (trow 2 15 7 (us [(6, 15)])) (fun t => t.v 9 == 7) ∧
    lane (.tget ⟨0, true, 2, 9, 2, 6⟩) (trow 2 15 (7 * 2 ^ 992) (us [(6, 31)])) 9 32 15 7 ∧
    gives (.tset ⟨0, false, 0, 2, 9, 6⟩) (vregs [(9, 7)] (us [(6, 3)])) (fun t => t.me.tileRow 2 3 == 7) ∧
    gives (.tset ⟨0, true, 0, 2, 9, 6⟩) (vregs [(9, vec 8 (fun j => j))] (us [(6, 127)])) (fun t => t.me.tileRow 2 15 == 15 * 2 ^ 1016) ∧
    gives (.tzeroT ⟨0, 2, 6⟩) (trow 2 14 7 (trow 2 15 7 (us [(6, 0xFF)]))) (fun t => t.me.tileRow 2 15 == 0 && t.me.tileRow 2 14 == 7) := by decide +kernel

/-- No skew-mode buffer covers the tile at offset 0x1000. -/
theorem noSkew_us : NoSkew (us []) (NW + 0x1000) := by
  intro off h
  have e : (us []).nearLoc (NW + 0x1000) 1 = .ok (0, 0x1000) := by decide +kernel
  have e2 := h.symm.trans e
  injection e2 with e3
  injection e3 with _ e4
  subst e4
  decide +kernel

/-- Hypotheses and results of TileTransfers. -/
theorem wit_TileTransfers :
    RunIs 0xF1 1 1 ∧ RunIs 0 0 16 ∧ TileAt (us []) (NW + 0x1000) false ∧ TileAt (skewed (us [])) (NW + 0x1800) true ∧
    (us []).nearLoc (NW + 0x1000) 1 = .ok (0, 0x1000) ∧ OwnAccess (us []) (NW + 0x1080) 128 0x1080 true true ∧
    (us []).canLoad (ownAt (us []) 0x1080) 8 = true ∧ (us []).canWrite (ownAt (us []) 0x1080) 8 0 0 = true ∧
    trapIs (.tld ⟨0, 2, 5, 6⟩) (us [(5, nw 0x1008)]) 4 (nw 0x1008) 7 ∧ trapIs (.tstTile ⟨0, 2, 5, 6⟩) (us [(5, nw 0x1008)]) 4 (nw 0x1008) 0x107 ∧
    trapIs (.tld ⟨0, 2, 5, 6⟩) (skewed (us [(5, nw 0x1080)])) 4 (nw 0x1080) 11 ∧
    trapIs (.tget ⟨0, false, 0, 9, 2, 6⟩) (us [(6, 16)]) 1 0 11 ∧ trapIs (.tset ⟨0, true, 2, 2, 9, 6⟩) (us [(6, 32)]) 1 0 11 ∧
    trapIs (.tzeroX ⟨0, 5, 6⟩) (us [(5, nw 0x1020)]) 4 (nw 0x1020) 0x106 ∧
    gives (.tzeroAcc ⟨0, true, 6⟩) ((us [(6, 0xFF)]).modCore 0 (fun c => { c with acc := [(479, { v := 1 }), (480, { v := 1 })] }))
      (fun t => t.me.accMode && t.me.acc == [(479, { v := 1 })]) ∧
    trapIs (.tld ⟨0, 2, 5, 6⟩) (us [(5, nw 0x1000), (6, 1)]) 1 0 11 ∧ trapIs (.tzeroT ⟨0, 2, 6⟩) (us [(6, 0x100)]) 1 0 11 ∧
    trapIs (.tzeroAcc ⟨0, false, 6⟩) (us [(6, 0xF)]) 1 0 11 ∧ trapIs (.xadd ⟨0, false, 5, 5, 9⟩) (us [(17, 1)]) 1 0 11 ∧
    trapIs (.xrnd ⟨0, 0, false, 2, 5, 6⟩) (us [(6, 1)]) 1 0 11 := by
  refine ⟨by unfold RunIs; decide +kernel, by unfold RunIs; decide +kernel, .inl ⟨noSkew_us, by decide, rfl⟩,
    .inr ⟨0x1800, _, by decide +kernel, rfl, by decide +kernel, rfl⟩, by decide +kernel,
    ⟨by decide +kernel, by decide +kernel, by decide +kernel⟩, ?_⟩
  decide +kernel

theorem test_macro_banks :
    gives (.mcld ⟨0, 0, 1, 5⟩) (loc (us [(5, nw 0x1000)]) 0x17FF [0x90])
      (fun t => t.me.bank1.kind == 1 && bankCode t.me.bank1 127 31 == 9 && bankCode t.me.bank1 127 30 == 0) ∧
    gives (.mctab ⟨0, 1, 9⟩) (vregs [(9, vec 16 (fun j => j))] (us [])) (fun t => laneAt 16 (t.me.bank1.table.setWidth 1024) 15 == 15) := by
  decide +kernel

/-- Hypotheses and results of MacroBanks: the three kinds. -/
theorem wit_MacroBanks :
    trapIs (.mcld ⟨0, 0, 1, 5⟩) (us [(5, nw 0x1040)]) 4 (nw 0x1040) 7 ∧
    gives (.mcld ⟨0, 2, 1, 5⟩) (us [(5, nw 0x1000)]) (fun t => t.cur.cause == 1 && t.cur.finfo == 0x109 && t.cur.faddr == (us []).cur.pc + 2) ∧
    (us []).now.words.getLast? = some 0 ∧ OwnAccess (us []) (NW + 0x1000) 4352 0x1000 true false ∧
    (us []).canLoad (ownAt (us []) 0x20F8) 8 = true ∧
    gives (.mcld ⟨0, 1, 0, 5⟩) (loc (us [(5, nw 0x1000)]) 0x18FE [0x34, 0x01])
      (fun t => t.me.bank0.kind == 2 && bankScale t.me.bank0 31 3 == 0x134) ∧
    gives (.mcld ⟨0, 2, 0, 5⟩) (loc (us [(5, nw 0x1000)]) 0x1FFF [0xA5])
      (fun t => t.me.bank0.kind == 3 && t.me.bank1.kind == 3 && bankCode t.me.bank0 127 31 == 5 && bankCode t.me.bank1 127 31 == 10) ∧
    gives (.mcld ⟨0, 0, 1, 5⟩) ((us [(5, nw 0x1000)]).modCore 0 (fun c => { c with bank0 := { kind := 3 }, bank1 := { kind := 3 } }))
      (fun t => t.me.bank0.kind == 0 && t.me.bank1.kind == 1) := by
  refine ⟨by decide +kernel, by decide +kernel, by decide +kernel, ⟨by decide +kernel, by decide +kernel, by decide +kernel⟩, ?_⟩
  decide +kernel

/-- One accumulator of the core is set. -/
def accIs (j : Nat) (a : Acc) (s : State) : State := s.modCore 0 (fun c => { c with acc := [(j, a)] })

/-- Sixty-four bytes of an element with this value and status bits. -/
def elem (v st : Nat) : List Byte := leBytes 64 (v + st * 2 ^ 384)

theorem test_round_to_tiles :
    gives (.xrnd ⟨0, 0, false, 2, 5, 6⟩) (loc (us [(5, nw 0x1000), (6, 0xFF)]) (0x1000 + 2048 * 15) (elem (2 ^ 193) 0))
      (fun t => t.me.tileRow 2 15 == 0x40000000) ∧
    gives (.mdrain ⟨0, 1, true, 2⟩) (accIs 480 { v := 2 ^ 192 } (us [])) (fun t => t.me.tileRow 2 15 == 0x3F80 * 2 ^ 512) ∧
    gives (.mdrain ⟨0, 0, false, 2⟩) (accIs 0 { v := 5, nan := true } (us [])) (fun t => t.me.tileRow 2 0 == 0x7FC00000 && t.cur.fflags == 16) := by
  decide +kernel

/-- The launch holds rows 0 and 1. -/
def rows01 (s : State) : State := { s with launches := [{ probeLaunch with chor := [chorusOf 0, chorusOf 256] }] }

/-- The accumulators are in redundant mode. -/
def redundant (s : State) : State := s.modCore 0 (fun c => { c with accMode := true })

/-- Core (0, 1), the partner of core (0, 0), and core (0, 0) wait to compare a drain in redundant mode. -/
def draining (a : Acc) (s : State) : State :=
  ((accIs 33 a s).modCtx 0 0 (fun c => { c with state := .waiting (.drain 2 0 false 2) })).modCtx 256 0
    (fun c => { c with pc := 0x2000, state := .waiting (.drain 3 0 false 2) })

/-- Hypotheses and results of LongArrays. -/
theorem wit_LongArrays :
    trapIs (.xacc ⟨0, 5⟩) (us [(5, nw 0x1020)]) 4 (nw 0x1020) 0x206 ∧ (us []).canLoad (ownAt (us []) 0x1000) 32768 = true ∧
    (us []).nearLoc (NW + 0x1000) 32768 = .ok (0, 0x1000) ∧ (us []).checkBuf 0 0x1000 32768 (NW + 0x1000) true = .ok () ∧
    (us []).canWrite (ownAt (us []) 0x8FF8) 8 0 0 = true ∧ trapIs (.xadd ⟨0, false, 5, 7, 9⟩) (us [(5, nw 0x1020)]) 4 (nw 0x1020) 0x206 ∧
    trapIs (.xadd ⟨0, false, 5, 7, 9⟩) (us [(5, nw 0x1000), (7, nw 0x1008)]) 4 (nw 0x1008) 6 ∧
    trapIs (.xrnd ⟨0, 0, false, 2, 5, 6⟩) (us [(5, nw 0x1020)]) 4 (nw 0x1020) 6 ∧
    (Instr.xrnd ⟨0, 0, false, 2, 5, 6⟩).wellFormed = true ∧ (Instr.mdrain ⟨0, 2, true, 7⟩).wellFormed = true ∧
    (us []).me.accMode = false ∧ partnerOf 0 = 256 ∧
    gives (.mdrain ⟨0, 0, false, 2⟩) (redundant (rows01 (us []))) (fun t => t.cur.state == .waiting (.drain 2 0 false 4)) ∧
    gives (.mdrain ⟨0, 0, false, 2⟩) (redundant (us [])) (fun t => t.cur.cause == 11 && t.cur.faddr == 0 && t.cur.finfo == 0x80000000 &&
      t.cur.fpc == (us []).cur.pc && t.cur.rpc == (us []).cur.pc + 4 && t.cur.pc == t.me.tvec) ∧
    gives (.evRedundantDrainCompare 0 0 0) (draining {} (us [])) (fun t =>
      (t.ctx 256 0).pc == 0x2002 && (t.ctx 0 0).state == .ready && (t.ctx 256 0).state == .ready) ∧
    gives (.evRedundantDrainCompare 0 0 0) (draining { v := 2 } (us [])) (fun t => (t.ctx 0 0).cause == 11 && (t.ctx 0 0).finfo == 33 * 65536 + 1) := by
  decide +kernel

/-- An `mma.i8c` of the executing core alone. -/
def aloneMma : Instr := .mmaI8c ⟨0, 9, false, false, 2, 0, 4⟩

/-- A gang of cores (0, 0) and (1, 0), in which (1, 0) waits. -/
def gangOf (mask : BitVec 32) (ms : List Nat) (turn : Option Nat) (s : State) : State :=
  { ms.foldl (fun t h => t.modCtx h 0 (fun c => { c with state := .waiting .gang })) s with
    gangs := [⟨5, 0, mask, 0, false, false, ms.map (fun h => ⟨h, 0, 0, 2, [], 2, 0, 4, 50 + h⟩), turn⟩] }

/-- The bank 0 of a core holds codes of this kind. -/
def banked (k h : Nat) (s : State) : State := s.modCore h (fun c => { c with bank0 := { kind := k } })

/-- Hypotheses and results of MatrixMultiply: a gang that starts, one that is joined, one that is contradicted; a gang that completes,
and one that fails its checks at position 1; a gang whose planes start. -/
theorem wit_MatrixMultiply :
    trapIs aloneMma (us [(9, 2)]) 10 0 0x2_0000_0004 ∧ trapIs aloneMma (us [(9, 0x1_0000_0001)]) 10 0 0x1_0000_0004 ∧
    near (us []) 1 = [] ∧ (us []).forming 0 = false ∧
    gives aloneMma (us [(9, 1)]) (fun t => t.cur.state == .waiting .gang && t.gangs.length == 1) ∧
    (near (gangOf 3 [1] none (us [])) 3).length = 1 ∧
    gives aloneMma (gangOf 3 [1] none (us [(9, 3)])) (fun t => t.gangs.map (fun g => g.members.map (fun m => m.h)) == [[1, 0]]) ∧
    gives aloneMma (gangOf 7 [1] none (us [(9, 3)])) (fun t => t.gangs == [] && t.cur.cause == 10 && t.cur.finfo == 0x3_0000_0002 &&
      (t.ctx 1 0).cause == 10 && (t.ctx 1 0).finfo == 0x7_0000_0102) ∧
    ((gangOf 3 [0, 1] none (us [])).formingGang 5).isSome = true ∧
    gives (.evGangComplete 5) (banked 1 0 (banked 1 1 (gangOf 3 [0, 1] none (us []))))
      (fun t => t.gangs.length == 1 && (t.ctx 1 0).state == .ready && (t.ctx 1 0).pc == 2 && (t.ctx 1 0).out.length == 1) ∧
    gives (.evGangComplete 5) (banked 1 0 (gangOf 3 [0, 1] none (us [])))
      (fun t => t.gangs == [] && (t.ctx 1 0).cause == 10 && (t.ctx 0 0).finfo == 0x3_0000_0108) ∧
    gives (.evMmaPlanesStart 5) (gangOf 1 [0] (some 3) (us [])) (fun t => t.gangs == []) := by decide +kernel

/-! ## Declared buffers, tasks, events, barriers (R53 .. R58, R71 .. R93, R121 .. R123, R292 .. R300, R311 .. R313) -/

/-- Buffer 3 of core h: 2,048 bytes at offset 0x6000, bound to the barrier at 0x7F00, in a state with an owner. -/
def buf3 (h st own : Nat) (s : State) : State :=
  s.modCore h (fun c => c.setBuf 3 { state := st, owner := own, base := 0x180, size := 31, bv := true, barrier := 0x7F0 })

/-- The declaration word of R292's example is 0x3F84_01F3_0000_0000. -/
theorem test_buffers :
    gives (.bdecl ⟨0, 5, 6⟩) (us [(5, 3), (6, 0x3F84_01F3_0000_0000)]) (fun t => t == (t.modCore 0 (fun c => c.setBuf 3 (c.buf 3))) &&
      t.me.buf 3 == (buf3 0 1 0 (us [])).me.buf 3) ∧
    gives (.bacq ⟨0, 5⟩) (buf3 0 3 0x1F (us [(5, 3)])) (fun t => (t.me.buf 3).state == 4 && (t.me.buf 3).owner == 0) ∧
    gives (.brel ⟨0, 5⟩) (buf3 0 1 0 (us [(5, 3)])) (fun t => (t.me.buf 3).state == 3 && (t.me.buf 3).owner == 0x1F) ∧
    gives (.brel ⟨0, 5⟩) (buf3 0 4 0 (us [(5, 3)])) (fun t => (t.me.buf 3).state == 1 && (t.me.buf 3).owner == 0x1F) ∧
    setsG (.bstat ⟨0, 6, 5⟩) (buf3 0 2 0x10 (us [(5, 3)])) 6 (0x3F84_01F3_0000_0000 + 0x10_0002) := by decide +kernel

/-- Context 2 waits for buffer 3. -/
def acquires (s : State) : State := s.modCtx 0 2 (fun c => { c with out := [outst 7 0 [] [] (.bacq 3)] })

/-- Hypotheses and results of DeclaredBuffers. -/
theorem wit_DeclaredBuffers :
    trapIs (.bdecl ⟨0, 5, 6⟩) (us [(5, 32)]) 1 0 11 ∧ trapIs (.bacq ⟨0, 5⟩) (us [(5, 32)]) 1 0 11 ∧
    trapIs (.brel ⟨0, 5⟩) (us [(5, -1)]) 1 0 11 ∧ trapIs (.bstat ⟨0, 6, 5⟩) (us [(5, 32)]) 1 0 11 ∧
    trapIs (.bdecl ⟨0, 5, 6⟩) (us [(5, 3), (6, 1)]) 1 0 11 ∧ trapIs (.bdecl ⟨0, 5, 6⟩) (us [(5, 3), (6, 0x0F84_01F3_0000_0008)]) 1 0 11 ∧
    trapIs (.bdecl ⟨0, 5, 6⟩) (us [(5, 3), (6, 8)]) 8 0 0x803 ∧ trapIs (.bdecl ⟨0, 5, 6⟩) (buf3 0 3 0x1F (us [(5, 3), (6, 8)])) 8 0 0xB03 ∧
    trapIs (.bdecl ⟨0, 5, 6⟩) (buf3 0 1 0 (us [(5, 4), (6, 0x3F84_01F3_0000_0000)])) 8 0 0x804 ∧
    gives (.bdecl ⟨0, 5, 6⟩) (buf3 0 1 0 (us [(5, 3), (6, 8)])) (fun t => t.me.buf 3 == {}) ∧
    trapIs (.bacq ⟨0, 5⟩) (us [(5, 31)]) 8 0 0x81F ∧ trapIs (.brel ⟨0, 5⟩) (buf3 0 3 0x1F (us [(5, 3)])) 8 0 0xB03 ∧
    trapIs (.brel ⟨0, 5⟩) (buf3 0 4 1 (us [(5, 3)])) 8 0 0xC03 ∧
    gives (.bacq ⟨0, 5⟩) (buf3 0 1 0x1F (us [(5, 3)])) (fun t => (t.me.buf 3).state == 1 && (t.me.buf 3).owner == 0) ∧
    gives (.bacq ⟨0, 5⟩) (buf3 0 4 0 (us [(5, 3)])) (fun t => t.cur.out == [] && (t.me.buf 3).state == 4) ∧
    gives (.bacq ⟨0, 5⟩) (buf3 0 4 1 (us [(5, 3)])) (fun t => t.cur.out.map (fun o => o.pend) == [.bacq 3]) ∧
    gives (.bacq ⟨0, 5⟩) (buf3 0 2 0x10 (us [(5, 3)])) (fun t => t.cur.out.map (fun o => o.pend) == [.bacq 3]) ∧
    gives (.evBacqGrant 0 3) (acquires (buf3 0 3 0x1F (us []))) (fun t => (t.ctx 0 2).out.map (fun o => o.pend) == [.ready] &&
      (t.me.buf 3).owner == 2 && (t.me.buf 3).state == 4) ∧
    (us []).canRelease 0x200000000 = true ∧ (posted [storeEntry 0x4_0000] (us [])).canRelease 0x200000000 = false ∧
    gives (.brel ⟨0, 5⟩) (posted [storeEntry 0x4_0000] (buf3 0 1 0 (us [(5, 3)]))) (fun t => t.cur.state == .waiting .retry) := by decide +kernel

/-- A task record (R71): entry 0x1_0000_0000, buffer 3 in slot 0, arguments 7 and 8. -/
def record : List Byte := leBytes 8 0x1_0000_0000 ++ leBytes 8 0x83 ++ leBytes 8 7 ++ leBytes 8 8

/-- The task of that record; the slot pins it. -/
def task3 : Task := ⟨0x0100_0001_0000_0000, 0x83, 7, 8, none⟩

/-- A task without slots. -/
def free : Task := ⟨0x1_0000_0000, 0, 7, 8, none⟩

/-- Core h runs launch 0 and has these tasks. -/
def tasked (h : Nat) (ts : List Task) (st : Steal) (s : State) : State :=
  s.modCore h (fun c => { c with launch := some 0, deque := ts, steal := st })

/-- Contexts 1 .. 10 of core 0 are busy. -/
def busy (s : State) : State := (List.range 10).foldl (fun t k => t.modCtx 0 (k + 1) (fun c => { c with state := .ready })) s

/-- Context 0 waits at `done`. -/
def atDone (s : State) : State := s.modCtx 0 0 (fun c => { c with state := .waiting .done })

theorem test_tasks :
    gives (.spawn ⟨0, 6, 5⟩) (buf3 0 2 0x10 (loc (us [(5, nw 0x100)]) 0x100 record)) (fun t => t.g 6 == 1 && t.me.deque == [task3]) ∧
    gives (.evTaskStart 0) (buf3 0 3 0x1F (tasked 0 [task3] (.next 0) (us []))) (fun t => (t.ctx 0 1).pc == 0x1_0000_0000 &&
      SMap.get (t.ctx 0 1).g 0 2 == 7 && SMap.get (t.ctx 0 1).g 0 3 == 8 && (t.ctx 0 1).state == .ready && t.me.deque == [] && (t.me.buf 3).state == 4 &&
      (t.me.buf 3).owner == 1 && locNat t 0x1_5008 8 == 0x83) ∧
    gives (.evTaskStart 0) (buf3 0 1 0 (tasked 0 [task3] (.next 0) (us []))) (fun t => (t.ctx 0 1).state == .idle && t.me.deque == [task3]) ∧
    gives (.evLaunchPartEnd 0) (buf3 0 1 0 (tasked 0 [task3] (.next 0) (atDone (us []))))
      (fun t => t.me.ended && t.me.lostTasks == 1 && t.me.deque == []) := by decide +kernel

/-- Hypotheses and results of TasksAndStealing. -/
theorem wit_TasksAndStealing :
    trapIs (.spawn ⟨0, 6, 5⟩) (us [(5, nw 0x110)]) 4 (nw 0x110) 5 ∧ trapIs (.spawn ⟨0, 6, 5⟩) (loc (us [(5, nw 0x100)]) 0x100 [1]) 1 (nw 0x100) 11 ∧
    trapIs (.spawn ⟨0, 6, 5⟩) (loc (us [(5, nw 0x100)]) 0x100 record) 8 0 3 ∧
    gives (.spawn ⟨0, 6, 5⟩) (tasked 0 (List.replicate 64 task3) (.next 0) (loc (us [(5, nw 0x100)]) 0x100 (record.set 8 0))) (fun t =>
      t.g 6 == 0 && t.me.deque.length == 64) ∧
    gives (.spawn ⟨0, 6, 5⟩) (tasked 0 (List.replicate 64 free) (.next 0) (loc (us [(5, nw 0x100)]) 0x100 (record.set 8 0))) (fun t =>
      t.g 6 == 1 && t.me.deque.length == 64 && (t.ctx 0 1).state == .ready) ∧
    taskIds record = [3] ∧ (us []).canRelease (dieScope 0) = true ∧
    gives (.evStealRequest 0) (tasked 0 [] (.next 30) (us [])) (fun t => t.me.steal == .asked 30) ∧ ((us []).victims 0).length = 31 ∧
    ((tasked 5 [] (.next 0) (us [])).victims 5).take 3 = [4, 6, 3] ∧
    gives (.evStealVictimAnswer 0) (tasked 1 [free, task3, free] (.next 0) (tasked 0 [] (.asked 0) (us [])))
      (fun t => t.me.steal == .answer 0 (some free) && (t.core 1).deque == [task3] && (t.core 1).lost == 1 && (t.ctx 1 1).pc == 0x1_0000_0000) ∧
    gives (.evStealVictimAnswer 0) (tasked 1 [task3] (.next 0) (tasked 0 [] (.asked 0) (us [])))
      (fun t => t.me.steal == .answer 0 none && (t.core 1).deque == [task3]) ∧
    gives (.evStealAnswerArrival 0) (tasked 0 [] (.answer 0 (some free)) (us [])) (fun t => (t.ctx 0 1).pc == 0x1_0000_0000 && t.me.stolen == 1) ∧
    gives (.evStealAnswerArrival 0) (busy (tasked 0 [] (.answer 0 (some free)) (us []))) (fun t => t.me.slot == some free && t.me.stolen == 1) ∧
    gives (.evStealAnswerArrival 0) (tasked 0 [] (.answer 29 none) (us [])) (fun t => t.me.steal == .next 30) ∧
    gives (.evStealAnswerArrival 0) (tasked 0 [] (.answer 30 none) (us [])) (fun t => t.me.steal == .round 1024) ∧
    gives (.evStealRoundWaitExpiry 0) (tasked 0 [] (.round 0) (us [])) (fun t => t.me.steal == .next 0) ∧
    gives (.evStealRoundWaitExpiry 0) (tasked 0 [] (.round 1) (us [])) (fun t => t.me.steal == .round 1) ∧
    gives (.evTaskStart 0) ((tasked 0 [] (.next 0) (us [])).modCore 0 (fun c => { c with slot := some free }))
      (fun t => (t.ctx 0 1).pc == 0x1_0000_0000 && t.me.slot == none) ∧
    gives (.evTaskStart 0) ((tasked 0 [free] (.next 0) (us [])).modCore 0 (fun c => { c with layers := [(9, { pending := some task3 })] }))
      (fun t => (t.ctx 0 1).pc == 0x1_0000_0000 && t.me.deque == [] && t.me.layers == [(9, { pending := some task3 })]) := by decide +kernel

/-- Fan-out group 2, with theta 2, qmax 100, step 5 and one destination: core (1, 0), index 10, layer 3. -/
def group2 (s : State) : State :=
  loc s 0x80 (leBytes 4 2 ++ leBytes 4 100 ++ leBytes 4 5 ++ [1, 0, 0, 0] ++ leBytes 2 1 ++ leBytes 2 10 ++ leBytes 2 3)

/-- Lane 0 is 7. -/
def lane7 (gs : List (Reg × Word)) : State := vregs [(9, vec 32 (fun j => if j = 0 then 7 else 0))] (us gs)

/-- A value of 7 against a state of 0 emits 6 and keeps 1. -/
theorem test_event_senders :
    gives (.sdenc ⟨0, false, 9, 5, 6, 1⟩) (group2 (lane7 [(5, nw 0x1000), (6, 20), (1, 2)])) (fun t =>
      t.me.sendq.map (fun e => e.w) == [eventBits 1 false 5 3 6 30] && locNat t 0x1000 4 == 7 && locNat t 0x1080 4 == 1) ∧
    gives (.pennant ⟨0, 5⟩) (group2 (us [(5, 2)])) (fun t => t.me.sendq.map (fun e => e.w) == [eventBits 1 true 5 3 0 0] && locNat t 0x88 4 == 6) := by
  decide +kernel

/-- Hypotheses and results of EventSenders. -/
theorem wit_EventSenders :
    trapIs (.sdenc ⟨0, false, 9, 5, 6, 1⟩) (us [(5, 0x1_0000_0000)]) 17 0x1_0000_0000 0 ∧
    trapIs (.sdenc ⟨0, false, 9, 5, 6, 1⟩) (us [(5, nw 0x2_0000)]) 17 (nw 0x2_0000) 0 ∧
    trapIs (.sdenc ⟨0, false, 9, 5, 6, 1⟩) (us [(5, nw 0x1_FF80)]) 17 (nw 0x2_0000) 0 ∧
    trapIs (.sdenc ⟨0, false, 9, 5, 6, 1⟩) (us [(5, nw 0x1_FF00 - 0x40)]) 4 (nw 0x1_FEC0) 0x207 ∧
    trapIs (.sdenc ⟨0, false, 9, 5, 6, 1⟩) (us [(5, nw 0x1_FF00), (6, 0xFFFE)]) 1 0 11 ∧
    trapIs (.sdenc ⟨0, false, 9, 5, 6, 1⟩) (us [(5, nw 0x1_FF00), (1, 16)]) 1 0 11 ∧
    trapIs (.sdenc ⟨0, false, 9, 5, 6, 1⟩) (us [(5, nw 0x1_FF00), (1, 2)]) 1 (nw 0x80) 11 ∧
    trapIs (.sdenc ⟨0, false, 9, 5, 6, 1⟩) (group2 (us [(5, nw 0x1_FF00), (6, 0xFFD5), (1, 2)])) 1 (nw 0x80) 11 ∧
    gives (.sdenc ⟨0, false, 9, 5, 6, 1⟩) (group2 (us [(5, nw 0x1_FF00), (6, 0xFFD4), (1, 2)])) (fun t => t.cur.cause == 0 && t.me.sendq == []) ∧
    trapIs (.pennant ⟨0, 5⟩) (us [(5, 16)]) 1 0 11 ∧ trapIs (.pennant ⟨0, 5⟩) (us [(5, 15)]) 1 (nw 0x3C0) 11 ∧ (us []).sendRoom 0 = 512 ∧
    gives (.pennant ⟨0, 5⟩) (posted [storeEntry 0x4_0000] (group2 (us [(5, 2)]))) (fun t => t.me.sendq == [] &&
      t.cur.out.map (fun o => o.pend) == [.pennants [eventBits 1 true 5 3 0 0]]) := by decide +kernel

/-- Context 1 runs the handler of layer 3, and layer 3 has this state. -/
def handles (l : Layer) (ib : List InEntry) (s : State) : State :=
  ((s.modCur (fun c => { c with layer := some 3, hentry := l.entry })).modCore 0 (fun c => { c with layers := [(3, l)], inbox := ib, launch := some 0 }))

/-- An entry: handler at evbase + 0x1000 × 2^0, one pennant a step, a batch of one, valid. -/
def entry3 : Word := 0x0000_1000_0102_0500

/-- Core 0 has queued an event for core d: layer 3, step 0, index 30, delta 6. -/
def sends (d : Nat) (s : State) : State :=
  (s.modCore 0 (fun c => { c with sendq := [⟨7, 0, eventBits d false 0 3 6 30⟩] })).modCur (fun c => { c with out := [outst 7 0 [] [] .events] })

/-- Core 1 has a full inbox and this spill area. -/
def fullInbox (base : Word) (s : State) : State :=
  s.modCore 1 (fun c => { c with inbox := List.replicate 256 ⟨0, 0, 0, 0⟩, spillbase := base, launch := some 0 })

theorem test_events :
    gives (.evtab ⟨0, 5, 6⟩) (us [(5, 3), (6, entry3)]) (fun t => (t.me.layer 3).entry == entry3) ∧
    gives (.evpop ⟨0, 6⟩) (handles {} [⟨2, 0, 1, 1⟩, ⟨3, 0, 9, -5⟩] (us [])) (fun t => t.g 6 == 0xFFFF_FFFB_0000_0009 && t.me.inbox == [⟨2, 0, 1, 1⟩]) ∧
    gives (.evpop ⟨0, 6⟩) (handles { entry := entry3, p0 := 1, step := 4 } [] (us [])) (fun t => t.g 6 == 0x4_FFFF_FFFE) ∧
    gives (.evpop ⟨0, 6⟩) (handles { entry := entry3 } [] (us [])) (fun t => t.g 6 == -1) ∧
    gives (.evadv ⟨0⟩) (handles { entry := entry3, p0 := 1, p1 := 2, p2 := 3 } [] (us [])) (fun t => t.me.layer 3 == ({ entry := entry3, step := 1, p0 := 2, p1 := 3 } : Layer)) ∧
    gives (.evEventArrival 0 1) (sends 1 (us [])) (fun t => (t.core 1).inbox == [⟨3, 0, 30, 6⟩] && t.me.sendq == [] &&
      t.cur.out.map (fun o => o.pend) == [.ready]) := by decide +kernel

/-- Hypotheses and results of EventsInTheInbox. -/
theorem wit_EventsInTheInbox :
    trapIs (.evtab ⟨0, 5, 6⟩) (us [(5, 64)]) 1 0 11 ∧ trapIs (.evtab ⟨0, 5, 6⟩) (us [(6, 0x2_0000)]) 1 0 11 ∧ trapIs (.evtab ⟨0, 5, 6⟩) (us [(6, 0x80)]) 1 0 11 ∧
    trapIs (.evpop ⟨0, 6⟩) (us []) 1 0 11 ∧ trapIs (.evadv ⟨0⟩) (us []) 1 0 11 ∧
    gives (.evadv ⟨0⟩) (handles { entry := entry3 } [] (us [])) (fun t => t.cur.state == .waiting .evadv) ∧
    gives (.evEvadvStepEnd 0 0) (handles { entry := entry3, p0 := 1 } [] ((us []).modCur (fun c => { c with state := .waiting .evadv, wlen := 2 })))
      (fun t => (t.me.layer 3).step == 1 && t.cur.state == .ready && t.cur.pc == (us []).cur.pc + 2) ∧
    gives (.evHandlerTaskCreate 0 9) ((us []).modCore 0 (fun c => { c with launch := some 0, layers := [(9, { entry := entry3, p0 := 1 })], evbase := 0x1_0000_0000 }))
      (fun t => (t.me.layer 9).pending == some ⟨0x0300_0001_0000_1000, 0x85, 9, 0, some 9⟩) ∧
    gives (.evEventArrival 0 1) (fullInbox 0 (sends 1 (us []))) (fun t => t.me.sendq.length == 1 && t.me.holds == [(1, 64)] && (t.core 1).nacks == 1) ∧
    gives (.evEventArrival 0 1) (fullInbox 0x1_0000_0000 (sends 1 (us []))) (fun t => t.me.sendq == [] && (t.core 1).spillN == 1 &&
      leNat (t.pocBytes (.device 0) 0x4_0000 8) == (eventBits 1 false 0 3 6 30).toNat) ∧
    gives (.evEventArrival 0 1) ((sends 1 (us [])).modCore 1 (fun c => { c with ended := true })) (fun t => t.me.sendq == [] && (t.core 1).lostEvents == 1) ∧
    gives (.evNackResendTimer 0 1) ((sends 1 (us [])).modCore 0 (fun c => { c with holds := [(1, 0)] })) (fun t => (t.core 1).inbox.length == 1 && t.me.holds == []) ∧
    gives (.evNackResendTimer 0 1) ((sends 1 (us [])).modCore 0 (fun c => { c with holds := [(1, 1)] })) (fun t => t.me.sendq.length == 1) ∧
    gives (.evSpillRefill 0) (word (eventBits 0 false 0 3 6 30).toNat ((us []).modCore 0 (fun c => { c with spillbase := 0x1_0000_0000, spillN := 1 })))
      (fun t => t.me.inbox == [⟨3, 0, 30, 6⟩] && t.me.spillN == 0 && t.me.spillAt == 1) ∧
    gives (.evSpillbaseSwitch 0) ((us []).modCore 0 (fun c => { c with spillnext := some 0x100 })) (fun t => t.me.spillbase == 0x100 && t.me.spillnext == none) := by
  decide +kernel

/-- A barrier at offset 0x7F00: phase, arrivals, sectors, reload. -/
def barrier (p a x r : Nat) (s : State) : State := loc s 0x7F00 (leBytes 16 (p + a * 2 ^ 16 + x * 2 ^ 36 + r * 2 ^ 64))

/-- An arrival of 64 bytes on its way to it. -/
def arriving (n : Nat) (s : State) : State := { s with arrivals := [⟨7, 0, 0, 0x7F00, n⟩] }

theorem test_barriers :
    gives (.xbinit ⟨0, 5, 6⟩) (barrier 9 0 0 0 (us [(5, nw 0x7F00), (6, 2)])) (fun t => locNat t 0x7F00 16 == 9 + 2 * 2 ^ 16 + 2 * 2 ^ 64) ∧
    gives (.xbarr ⟨0, 0, 0, 5, 6⟩) (us [(5, nw 0x7F00), (6, 64)]) (fun t => t.arrivals.length == 1 && t.cur.pc == (us []).cur.pc + 4) ∧
    gives (.evBarrierArrival 7) (arriving 64 (barrier 9 1 0 2 (us []))) (fun t => locNat (t.openCycle 0) 0x7F00 16 == 9 + 2 * 2 ^ 36 + 2 * 2 ^ 64) ∧
    gives (.evBarrierArrival 7) (arriving 0 (buf3 0 2 0x10 (barrier 15 1 0 2 (us [])))) (fun t => t.me.barq == [⟨0x7F00, true, 0⟩] && (t.me.buf 3).state == 2 &&
      locNat (t.openCycle 0) 0x7F00 16 == 2 * 2 ^ 16 + 2 * 2 ^ 64 && ((t.openCycle 0).me.buf 3).state == 3) ∧
    gives (.xbwait ⟨0, 0, 0, 5, 6⟩) (barrier 9 1 0 2 (us [(5, nw 0x7F00), (6, 8)])) (fun t => t.cur.state == .ready && t.cur.pc == (us []).cur.pc + 4) ∧
    gives (.xbtry ⟨0, 0, 0, 7, 5, 6⟩) (barrier 9 1 0 2 (us [(5, nw 0x7F00), (6, 8)])) (fun t => t.g 7 == 1) := by decide +kernel

/-- Hypotheses and results of Barriers. -/
theorem wit_Barriers :
    trapIs (.xbinit ⟨0, 5, 6⟩) (us [(5, nw 0x7F08), (6, 2)]) 4 (nw 0x7F08) 0x104 ∧ trapIs (.xbinit ⟨0, 5, 6⟩) (us [(5, nw 0x7F00)]) 1 0 11 ∧
    trapIs (.xbinit ⟨0, 5, 6⟩) (us [(5, nw 0x7F00), (6, 0xFFFFF)]) 1 0 11 ∧
    gives (.xbinit ⟨0, 5, 6⟩) (us [(5, nw 0x7F00), (6, 0xFFFFE)]) (fun t => bReload (barrierBits t 0 0x7F00) == 0xFFFFE) ∧
    trapIs (.xbarr ⟨0, 2, 9, 5, 6⟩) (us [(9, 0x7_0000_0000)]) 16 0 0x7_0000_0000 ∧ trapIs (.xbarr ⟨0, 0, 0, 5, 6⟩) (us [(5, nw 0x7F08)]) 4 (nw 0x7F08) 0x204 ∧
    trapIs (.xbarr ⟨0, 0, 0, 5, 6⟩) (us [(5, nw 0x7F00), (6, 33)]) 1 0 11 ∧ trapIs (.xbarr ⟨0, 0, 0, 5, 6⟩) (us [(5, nw 0x7F00), (6, 0x400_0020)]) 1 0 11 ∧
    gives (.xbarr ⟨0, 0, 0, 5, 6⟩) (us [(5, nw 0x7F00), (6, 0x400_0000)]) (fun t => t.arrivals.length == 1) ∧
    (arriving 0 (us [])).launchOf 0 = some probeLaunch ∧
    gives (.evBarrierArrival 7) (arriving 32 (barrier 9 0 0xFFF_FFFF 2 (us []))) (fun t => bArrivals (barrierBits (t.openCycle 0) 0 0x7F00) == 0xFFFFF &&
      bSectors (barrierBits (t.openCycle 0) 0 0x7F00) == 0) ∧
    trapIs (.xbwait ⟨0, 0, 9, 5, 6⟩) (us [(9, 0x7_0000_0000)]) 16 0 0x7_0000_0000 ∧ trapIs (.xbtry ⟨0, 0, 0, 7, 5, 6⟩) (us [(5, nw 0x7F08)]) 4 (nw 0x7F08) 4 ∧
    trapIs (.xbwait ⟨0, 0, 0, 5, 6⟩) (us [(5, nw 0x7F00), (6, 16)]) 1 0 11 ∧ trapIs (.xbtry ⟨0, 0, 0, 7, 5, 6⟩) (us [(5, nw 0x7F00), (6, 16)]) 1 0 11 ∧
    gives (.xbwait ⟨0, 0, 0, 5, 6⟩) (barrier 15 1 0 2 (us [(5, nw 0x7F00), (6, 15)])) (fun t => t.cur.state == .waiting (.xbwait 0 0x7F00 15)) ∧
    gives (.xbtry ⟨0, 0, 0, 7, 5, 6⟩) (barrier 15 1 0 2 (us [(5, nw 0x7F00), (6, 15), (7, 9)])) (fun t => t.g 7 == 0) ∧
    gives (.evXbwaitWake 0 0) (barrier 0 1 0 2 ((us []).modCur (fun c => { c with state := .waiting (.xbwait 0 0x7F00 15), wlen := 4 })))
      (fun t => t.cur.state == .ready && t.cur.pc == (us []).cur.pc + 4) := by decide +kernel

/-! ## Copies, batches, shapes, copy queues, engines (R111 .. R125, R301 .. R310) -/

/-- Tile register 2 holds 7 in byte 0 of row 0 and 9 in word 1 of row 1. -/
def tileHeld (s : State) : State := trow 2 0 7 (trow 2 1 (9 * 2 ^ 64) s)

/-- A transfer word with a message of tag 5, and a credit of the barrier at 0x7F00. -/
def transfer : Word := 0x5_C7F0

/-- A byte of the given sector of the only delivery. -/
def sectorByte (t : State) (n b : Nat) : Option Byte :=
  ((t.dels.head?.bind (fun d => d.todo[n]?)).bind (fun x => x[b / 8]?)).bind (fun g => g.bytes[b % 8]?)

theorem test_tile_copies :
    gives (.cpt ⟨0, 5, 2, 1⟩) (tileHeld (us [(5, nw 0x1000), (1, transfer)])) (fun t => t.ops.length == 1 && sectorByte t 0 0 == some 7 &&
      sectorByte t 4 8 == some 9 && t.dels.map (fun d => (d.h, d.off, d.bv, d.xb)) == [(some 0, 0x1000, true, 0x7F00)] &&
      t.cur.openB.ops.length == 1) ∧
    gives (.cptIn ⟨0, 5, 6, 1⟩) (us [(5, nw 0x1000), (6, 0x1_0000_0000), (1, transfer)]) (fun t =>
      t.dels.map (fun d => d.todo.map (fun x => x.length)) == [List.replicate 64 4]) ∧
    gives (.cptOut ⟨0, 5, 6, 1⟩) (loc (us [(5, 0x1_0000_0000), (6, nw 0x1000)]) 0x1020 [8]) (fun t => sectorByte t 1 0 == some 8 &&
      t.cur.openB.global) ∧
    gives (.cpm ⟨0, 6, 5, 2, 1⟩) (tileHeld (us [(5, 0x1000), (6, 0b1110)])) (fun t => t.dels.map (fun d => d.h) == [some 1, some 2, some 3]) := by
  decide +kernel

/-- Buffer 3 of core h covers 2,048 bytes at 0x1000, in this state. -/
def bufAt (h st : Nat) (s : State) : State :=
  s.modCore h (fun c => c.setBuf 3 { state := st, owner := 0x1F, base := 0x40, size := 31, bv := true, barrier := 0x7F0 })

/-- A copy whose one delivery to core (0, 0) has one sector left, for offset 0x1000. -/
def lands (checked : Bool) (x : List Sector) (s : State) : State :=
  { s with
    serial := 60, ops := [⟨50, 0, 0, 0, true, 5, false, 1, false, none⟩]
    dels := [⟨51, 50, 0, some 0, 0x1000, checked, true, 0x7F00, x⟩] }

/-- A sector of known bytes 7, for four granules of own local memory from an offset on. -/
def sector (off : Nat) : Sector :=
  (List.range 4).map (fun g => ⟨none, List.replicate 8 7, ⟨.local_ 0, localKey 0 (off + 8 * g)⟩⟩)

/-- The last granule of such a sector for device memory. -/
def sectorOut : Sector := [⟨none, List.replicate 8 7, ⟨.device 0, 0x4_0018⟩⟩]

/-- Hypotheses and results of TileCopies. -/
theorem wit_TileCopies :
    (us []).canRelease 0x2_0000_0000 = true ∧ (us []).quiet [(ownAt (us []) 0x1000, 2048)] = .ok () ∧
    trapIs (.cpt ⟨0, 5, 2, 1⟩) (us [(5, nw 0x1000), (1, 0x2000)]) 1 0 11 ∧ trapIs (.cpt ⟨0, 5, 2, 1⟩) (us [(5, 0x1_0000_0000), (1, 0x4000)]) 1 0 11 ∧
    trapIs (.cpt ⟨0, 5, 2, 1⟩) (us [(5, 0x1_0000_0020)]) 4 0x1_0000_0020 0x106 ∧
    trapIs (.cpt ⟨0, 5, 2, 1⟩) (us [(5, nw 0 - 64)]) 17 (nw 0 - 64) 0 ∧
    gives (.cpt ⟨0, 5, 2, 1⟩) (us [(5, 0x1_0000_F800)]) (fun t => t.dels.length == 1 && t.cur.openB.global) ∧
    gives (.cpt ⟨0, 5, 2, 1⟩) (bufAt 0 3 (us [(5, nw 0x1000)])) (fun t => t.dels == [] && t.ops.map (fun o => (o.left, o.refused)) == [(0, true)]) ∧
    gives (.cpt ⟨0, 5, 2, 1⟩) (bufAt 0 1 (us [(5, nw 0x1000)])) (fun t => (t.me.buf 3).state == 2 && (t.me.buf 3).owner == 0x10) ∧
    trapIs (.cptIn ⟨0, 5, 6, 1⟩) (us [(5, nw 0x1000), (6, 0x1_0000_0020)]) 4 0x1_0000_0020 6 ∧
    trapIs (.cptIn ⟨0, 5, 6, 1⟩) (us [(5, nw 0x1000), (6, nw 0x2000)]) 17 (nw 0x2000) 0 ∧
    trapIs (.cptOut ⟨0, 5, 6, 1⟩) (us [(5, 0x1_0000_0020), (6, nw 0x1000)]) 4 0x1_0000_0020 0x106 ∧
    trapIs (.cpm ⟨0, 6, 5, 2, 1⟩) (us [(5, 0x1040)]) 4 0x1040 0x107 ∧ trapIs (.cpm ⟨0, 6, 5, 2, 1⟩) (us [(5, 0x1000)]) 1 0 11 ∧
    trapIs (.cpm ⟨0, 6, 5, 2, 1⟩) (us [(5, 0x2_1000), (6, 1)]) 1 0 11 ∧ trapIs (.cpm ⟨0, 6, 5, 2, 1⟩) (us [(5, 0x1000), (6, 0x1_0001)]) 1 0 11 ∧
    gives (.evCopyDeliveryCheck 51) (bufAt 0 3 (lands false [sector 0x1000] (us []))) (fun t => t.dels == [] && t.ops.map (fun o => (o.left, o.refused)) == [(0, true)]) ∧
    gives (.evCopyDeliveryCheck 51) (bufAt 0 1 (lands false [sector 0x1000] (us []))) (fun t => t.dels.map (fun d => d.checked) == [true] && (t.me.buf 3).state == 2) ∧
    gives (.evDeliverySectorCredit 51 0 false) (bufAt 0 2 (barrier 9 0 1 2 (lands true [(sector 0x1000).drop 3] (us [])))) (fun t => locNat t 0x1018 8 == 0x0707070707070707 &&
      bPhase (barrierBits (t.openCycle 0) 0 0x7F00) == 10 && ((t.openCycle 0).me.buf 3).state == 3 && t.dels == [] && t.ops.map (fun o => o.left) == [0]) ∧
    gives (.evDeliverySectorCredit 51 0 true) (lands true [[⟨some (⟨.device 0, 0x4_0000⟩, 8), [], ⟨.local_ 0, localKey 0 0x1000⟩⟩]] (us [])) (fun t =>
      t.dels.map (fun d => d.todo.map (fun x => x.map (fun g => g.bytes.length))) == [[[8]]]) ∧
    gives (.evCopyOperationEnd 50) (lands true [] (us [])) (fun t => t.ops.length == 1) := by decide +kernel

/-- An operation that has ended, and one whose delivery goes to global memory. -/
def endedOp (refused : Bool) (s : State) : State :=
  { s with ops := [⟨50, 0, 0, 0, true, 5, true, 0, refused, none⟩] }.modCur (fun c => { c with closed := [⟨[50], true⟩] })
def landsOut (s : State) : State :=
  { s with serial := 60, ops := [⟨50, 0, 0, 0, true, 5, true, 1, false, none⟩], dels := [⟨51, 50, 0, none, 0, true, false, 0, [sectorOut]⟩] }

/-- The end of a copy, and of its last sector. -/
theorem wit_TileCopies_ends :
    gives (.evCopyOperationEnd 50) (endedOp true (us [])) (fun t => t.ops == [] && t.cur.closed == [] && t.cur.retGlob &&
      t.msgs == [⟨0, 0, none, 0x0500_0000_0000_0005, true⟩]) ∧
    gives (.evDeliverySectorCredit 51 0 false) (landsOut (us [])) (fun t => leNat (t.pocBytes (.device 0) 0x4_0018 8) == 0x0707070707070707 &&
      t.dels == [] && t.ops.map (fun o => o.left) == [0]) := by decide +kernel

/-- Eight closed batches of one operation each. -/
def eightClosed (s : State) : State := s.modCur (fun c => { c with closed := (List.range 8).map (fun i => ⟨[i], false⟩) })

/-- The core has a completion message. -/
def told (g : Bool) (s : State) : State := s.modCore 0 (fun c => { c with compq := [(77, g)] })

/-- The executing context waits here. -/
def waitsAt (w : Wait) (s : State) : State := s.modCur (fun c => { c with state := .waiting w, wlen := 2 })

/-- A message on its way to core (0, 0). -/
def message (s : State) : State := { s with msgs := [⟨0, 0, none, 77, true⟩] }

/-- Results, and the states they start in: hypotheses of BatchesAndMessages. -/
theorem wit_BatchesAndMessages :
    gives (.batch ⟨0⟩) ((us []).modCur (fun c => { c with openB := ⟨[4], true⟩ })) (fun t => t.cur.closed == [⟨[4], true⟩] && t.cur.openB == ⟨[], false⟩) ∧
    gives (.batch ⟨0⟩) ((us []).modCur (fun c => { c with openB := ⟨[], true⟩ })) (fun t => t.cur.closed == [] && t.cur.retGlob) ∧
    gives (.batch ⟨0⟩) (eightClosed (us [])) (fun t => t.cur.state == .waiting .batch) ∧
    gives (.evBatchSlotFree 0 0) (waitsAt .batch (us [])) (fun t => t.cur.state == .ready && t.cur.pc == (us []).cur.pc + 2) ∧
    trapIs (.waitb ⟨0, 9⟩) (us []) 1 0 11 ∧ gives (.waitb ⟨0, 8⟩) (eightClosed (us [])) (fun t => t.cur.state == .ready) ∧
    gives (.waitb ⟨0, 7⟩) (eightClosed (us [])) (fun t => t.cur.state == .waiting (.waitb 7)) ∧
    gives (.evWaitbSatisfied 0 0) (waitsAt (.waitb 8) (lineIn 0x1000 1 (eightClosed ((us []).modCur (fun c => { c with retGlob := true })))))
      (fun t => t.cur.state == .ready && t.me.l1 == [] && !t.cur.retGlob) ∧
    gives (.inboxq ⟨0, 6⟩) (told true (us [])) (fun t => t.g 6 == 1) ∧
    gives (.inbox ⟨0, 6⟩) (told true (lineIn 0x1000 1 (us []))) (fun t => t.g 6 == 77 && t.me.compq == [] && t.me.l1 == []) ∧
    gives (.inbox ⟨0, 6⟩) (us []) (fun t => t.cur.state == .waiting (.inbox 6 0)) ∧
    gives (.evInboxMessageTaken 0) (waitsAt (.inbox 6 0) (told false (us []))) (fun t => t.cur.state == .ready && t.g 6 == 77) ∧
    gives (.evCompletionMessageDeliver 0) (message (us [])) (fun t => t.msgs == [] && t.me.compq == [(77, true)]) := by decide +kernel

/-- A descriptor of one dimension: two-byte elements, generation 5, extent 4, strides 2 and 6. -/
def descriptor (ndim sst : Nat) : List Byte := [BitVec.ofNat 8 ndim, 1, 5, 0, 0, 0, 0, 0] ++ leBytes 4 4 ++ leBytes 4 0 ++ leBytes 8 sst ++ leBytes 8 6

/-- A copy queue with its header at 0x1_0000_0000: counts, six-bit slots at 0x1_0000_1000. -/
def queue (w r : Nat) (s : State) : State :=
  s.setRaws 0x4_0000 (leBytes 8 w ++ leBytes 8 r ++ leBytes 8 0x1_0000_1000 ++ [6])

theorem test_shapes_and_appends :
    gives (.shape ⟨0, 5, 6⟩) (loc (us [(5, nw 0x2000), (6, nw 0x100)]) 0x100 (descriptor 1 2)) (fun t => locNat t 0x2000 8 == 0x5_0101 &&
      locNat t 0x2020 4 == 4 && locNat t 0x2040 8 == 2 && locNat t 0x2080 8 == 6) ∧
    gives (.qput ⟨0, 7, 5, 6⟩) (queue 0x47 0x10 (loc (us [(5, 0x1_0000_0000), (6, nw 0x100)]) 0x100 [3])) (fun t => t.g 7 == 0x47 &&
      leNat (t.pocBytes (.device 0) 0x4_0000 8) == 0x48 && leNat (t.pocBytes (.device 0) 0x4_11C0 8) == 3 &&
      leNat (t.pocBytes (.device 0) 0x4_11F8 8) == 3 && t.ops.length == 1 && t.cur.openB.ops.length == 1) := by decide +kernel

/-- The claim of slot i of that queue for a packet of zeros, by operation 1. -/
def claim (i : Nat) : Claim := ⟨0x1_0000_0000, i, 6, 0x1_0000_1000, List.replicate 64 0, 1⟩

/-- Hypotheses and results of ShapesAndAppends. -/
theorem wit_ShapesAndAppends :
    trapIs (.shape ⟨0, 5, 6⟩) (us [(5, nw 0x2000), (6, nw 0x104)]) 4 (nw 0x104) 3 ∧ trapIs (.shape ⟨0, 5, 6⟩) (us [(5, nw 0x2020), (6, nw 0x100)]) 4 (nw 0x2020) 0x106 ∧
    trapIs (.shape ⟨0, 5, 6⟩) (us [(5, nw 0x2000), (6, nw 0x100)]) 12 (nw 0x100) 1 ∧
    trapIs (.shape ⟨0, 5, 6⟩) (loc (us [(5, nw 0x2000), (6, nw 0x100)]) 0x100 (descriptor 9 2)) 12 (nw 0x100) 1 ∧
    trapIs (.shape ⟨0, 5, 6⟩) (loc (us [(5, nw 0x2000), (6, nw 0x100)]) 0x100 (descriptor 1 3)) 12 (nw 0x100) 4 ∧
    trapIs (.shape ⟨0, 5, 6⟩) (loc (us [(5, nw 0x2000), (6, nw 0x100)]) 0x100 (descriptor 2 2)) 12 (nw 0x100) 0x13 ∧
    trapIs (.qput ⟨0, 7, 5, 6⟩) (us [(5, 0x1_0000_0020)]) 4 0x1_0000_0020 0x206 ∧ trapIs (.qput ⟨0, 7, 5, 6⟩) (us [(5, 0x1_0000_0000), (6, nw 0x120)]) 4 (nw 0x120) 6 ∧
    trapIs (.qput ⟨0, 7, 5, 6⟩) (us [(5, nw 0), (6, nw 0x100)]) 17 (nw 0) 0 ∧
    trapIs (.qput ⟨0, 7, 5, 6⟩) (queue 0 0 (loc (us [(5, 0x1_0000_0000), (6, nw 0x100)]) 0x138 [1])) 1 (nw 0x100) 11 ∧
    trapIs (.qput ⟨0, 7, 5, 6⟩) (us [(5, 0x1_0000_0000), (6, nw 0x100)]) 1 0x1_0000_0000 11 ∧
    gives (.qput ⟨0, 7, 5, 6⟩) (queue 0x50 0x10 (us [(5, 0x1_0000_0000), (6, nw 0x100)])) (fun t => t.g 7 == 0x50 &&
      t.cur.state == .waiting (.qput 0 (claim 0x50)) && SMap.has t.cur.claims t.cur.pc.toNat) ∧
    gives (.evQputRingRoom 0 0) (waitsAt (.qput 0 (claim 0x4F)) (queue 0x50 0x10 (us []))) (fun t =>
      t.cur.state == .ready && leNat (t.pocBytes (.device 0) 0x4_13F8 8) == 3) ∧
    (us []).global 0x1_0000_0000 { rd := true, wr := true } = .ok ⟨.device 0, 0x4_0000⟩ ∧
    (us []).checkData 0x1_0000_0000 ⟨.device 0, 0x4_0000⟩ 64 true = .ok () ∧ (us []).canLoad ⟨.device 0, 0x4_0000⟩ 32 = true ∧
    (us []).canWrite ⟨.device 0, 0x4_0000⟩ 8 0#2 0x3_0000_0000 = true := by decide +kernel

/-- Device context 0 is live, and entry 0 of engine 0 is bound to the queue at 0x1_0000_0000. -/
def bound (s : State) : State :=
  { s with ctl := SMap.put (SMap.put (SMap.put s.ctl (dctxRec 0 0 + 0x18) 1#64) (bindAt 0 0) 0x1_0000_0000#64) (bindAt 0 0 + 8) 1#64 }

/-- A FILL packet in slot 0, for the shape record at 0x1_0000_2000. -/
def fillPacket (s : State) : State :=
  (queue 1 0 (bound s)).setRaws 0x4_1000 (leBytes 8 (2 + 5 * 2 ^ 48) ++ leBytes 8 0xAB ++ leBytes 8 0x1_0000_3000 ++ leBytes 8 0x1_0000_2000 ++ leBytes 24 0 ++
    leBytes 8 1)

/-- The shape record: four bytes, two apart. -/
def fillShape : Machine.Shape := ⟨1, 0, 5, [4], [0], [2]⟩
def shapeRecord (s : State) : State :=
  (s.setRaws 0x4_2000 [1, 0, 5, 0]).setRaws 0x4_2020 [4] |>.setRaws 0x4_2080 [2]

/-- A job with these words at its piece 0. -/
def job (ws : List Word) (sh : Machine.Shape) (checked : Bool) (credit : Nat) (st : Option (Nat × Nat)) (s : State) : State :=
  { bound s with serial := 60, jobs := [⟨50, 0, 0, 0, 0, ws, ⟨.device 0, 0x4_0000⟩, 0, sh, 0, [], checked, credit, st, none, false, 0⟩] }

/-- The state after an event that is taken. -/
def after (i : Instr) (s : State) : State :=
  match exec i s with
  | .next t => t
  | _ => s

/-- Hypotheses and results of CopyEngines. -/
theorem wit_CopyEngines :
    gives (.evEngineSlotFetch 0 0) (shapeRecord (fillPacket (us []))) (fun t => t.jobs.map (fun j => (j.status, j.shape)) == [(none, fillShape)] &&
      leNat (t.pocBytes (.device 0) 0x4_0008 8) == 1) ∧
    gives (.evEngineSlotFetch 0 0) (fillPacket (us [])) (fun t => t.jobs.length == 1 && t.jobs.all (fun j => j.status.isSome)) ∧
    gives (.evEnginePiece 50 []) (job [2, 0xAB, 0x1_0000_3000, 0, 0, 0, 0, 0] fillShape false 0 none (us [])) (fun t =>
      t.jobs.map (fun j => (j.open_.map List.length, j.status)) == [([4], none)]) ∧
    gives (.evEnginePiece 50 []) (after (.evEnginePiece 50 []) (job [2, 0xAB, 0x1_0000_3000, 0, 0, 0, 0, 0] fillShape false 0 none (us []))) (fun t =>
      leNat (t.pocBytes (.device 0) 0x4_3000 8) == 0x00AB_00AB_00AB_00AB && t.jobs.map (fun j => j.status) == [some (0, 0)]) ∧
    gives (.evEnginePiece 50 []) (job [2, 0xAB, 0x2_0000_3000, 0, 0, 0, 0, 0] fillShape false 0 none (us [])) (fun t =>
      t.jobs.map (fun j => j.status) == [some (1, 0)]) ∧
    gives (.evEnginePiece 50 []) (bufAt 0 1 (job [0x2_0001, 0x1000, 0x1_0000_3000, 0, 0, 0, 0, 0] fillShape false 0 none (us []))) (fun t =>
      t.jobs.map (fun j => j.status) == [some (5, 0)]) ∧
    gives (.evCopyDeliveryCheck 50) (bufAt 0 3 (after (.evEnginePiece 50 []) (job [0x1_0002, 0xAB, 0x1000, 0, 0, 0, 0, 0] fillShape false 0 none (us [])))) (fun t =>
      t.jobs.map (fun j => j.status) == [some (5, 0)]) ∧
    gives (.evCopyDeliveryCheck 50) (bufAt 0 1 (after (.evEnginePiece 50 []) (job [0x1_0002, 0xAB, 0x1000, 0, 0, 0, 0, 0] fillShape false 0 none (us [])))) (fun t =>
      t.jobs.map (fun j => j.checked) == [true] && (t.me.buf 3).state == 2) ∧
    gives (.evDeliverySectorCredit 50 0 false) (barrier 9 1 1 2 (job [0x3F84_0001_0002, 0xAB, 0x1000, 0, 0, 0, 0, 0] fillShape true 64 none (us []))) (fun t =>
      bSectors (barrierBits (t.openCycle 0) 0 0x7F00) == 0 && t.jobs.map (fun j => j.credit) == [32]) ∧
    gives (.evPacketCompletion 50) (job [2, 0xAB, 0x1_0000_3000, 0, 0x1_0000_4000, 99, 0x3_0000_0000, 0] fillShape false 0 (some (1, 3)) (us [])) (fun t =>
      leNat (t.pocBytes (.device 0) 0x4_4000 8) == 99 && leNat (t.pocBytes (.device 0) 0x4_4008 8) == 0x0100_0000_0000_0003 && t.jobs == []) := by
  decide +kernel

/-- The shape, its last element, and its displacement. -/
theorem wit_CopyEngines_shape :
    GoodShape fillShape ∧ elemCount fillShape = 4 ∧ Displaced fillShape fillShape.dst 3 6 ∧ ElemAddr false 0x1_0000_3000 6 1 0x1_0000_3006 := by
  refine ⟨by unfold GoodShape; decide, by decide, ⟨fun _ => 3, by decide, by decide, by decide⟩, by unfold ElemAddr; decide⟩

/-! ## Supervisor instructions, walks, the fault buffer, launches (R314 .. R375) -/

/-- Supervisor mode saved from user mode and back. -/
theorem test_supervisor :
    gives (.sret ⟨0, 5⟩) (sv [(5, 0x1_0000_0100)]) (fun t => t.cur.pc == 0x1_0000_0100 && !t.cur.supervisor) ∧
    gives (.icinv ⟨0, 5, 6⟩) (sv [(5, 0x1_0000_0000), (6, 64)]) (fun t => t.cur.pc == (us []).cur.pc + 4) ∧
    gives (.tlbinv ⟨0, 5, 6⟩) ((sv [(5, 0x1_0000_0000)]).modCore 0 (fun c => { c with tlb := [⟨0, 0x1_0000, 3, 0x4_003F, 0⟩] })) (fun t => t.me.tlb == []) ∧
    gives (.replay ⟨0, 5⟩) ((sv [(5, 0)]).modCtx 1 0 (fun c => { c with state := .parked })) (fun t => (t.ctx 1 0).state == .ready) := by decide +kernel

/-- Hypotheses and results of SupervisorInstructions. -/
theorem wit_SupervisorInstructions :
    trapIs (.sret ⟨0, 5⟩) (us []) 3 0 0 ∧ trapIs (.replay ⟨0, 5⟩) (us []) 3 0 0 ∧ trapIs (.tlbinv ⟨0, 5, 6⟩) (us []) 3 0 0 ∧
    trapIs (.icinv ⟨0, 5, 6⟩) (us []) 3 0 0 ∧ (us []).now.words.getLast? = some 0 ∧ (sv []).cur.supervisor = true ∧
    trapIs (.sret ⟨0, 5⟩) (sv [(5, 0x1_0000_0101)]) 4 0x1_0000_0101 0x301 ∧
    gives (.sret ⟨0, 5⟩) ((sv []).modCur (fun c => { c with out := [outst 7 0 [] [] .ready] })) (fun t => t.cur.state == .waiting .retry) ∧
    trapIs (.replay ⟨0, 5⟩) (sv [(5, 64)]) 1 0 11 ∧ gives (.replay ⟨0, 5⟩) (posted [storeEntry 0x4_0000] (sv [])) (fun t => t.cur.state == .waiting .retry) ∧
    trapIs (.tlbinv ⟨0, 5, 6⟩) (sv [(5, 1), (6, 1)]) 1 0 11 ∧ trapIs (.tlbinv ⟨0, 5, 6⟩) (sv [(6, 2)]) 1 0 11 ∧
    (sv []).framesQuiet 0 ((sv []).droppedFrames 0 0 none) = true ∧ trapIs (.icinv ⟨0, 5, 6⟩) (sv [(6, 0x400_0001)]) 1 0 11 ∧
    trapIs (.icinv ⟨0, 5, 6⟩) (sv [(5, nw 0), (6, 1)]) 17 (nw 0) 0 ∧ (sv []).canRelease 0x3_0000_0000 = true := by decide +kernel

/-- Context 1 of core 0 walks the tables for a write at an address. -/
def walks (va : Nat) (s : State) : State := s.modCtx 0 1 (fun c => { c with pc := 0x2000, state := .waiting (.walk va 2) })

/-- The die has a fault message. -/
def faulted (e : Die) (s : State) : State := s.modDie 0 (fun _ => { e with faultIn := [⟨false, 0, 5, 1, 3, 4, 2⟩] })

/-- A slot of page 5. -/
def slot5 : FSlot := ⟨true, false, false, 0, 5, 255, 2, 0, 0, 0⟩

/-- The owner is at link 0, and the panel is ready. -/
def owned (s : State) : State := { s with ctl := SMap.put (SMap.put s.ctl (mg 8) 0x171#64) (mg 0x10) 0x10#64 }

/-- The type of the newest record of the event log. -/
def logType (t : State) : Option Nat := (SMap.get t.log ⟨0, 0, 0, 0⟩ (t.logw - 1)).w0.toNat % 256 |> some

/-- The root of the page tables lies where no memory is. -/
def rootless (s : State) : State := { s with ctl := SMap.put s.ctl (dctxRec 0 0) 0x800_0000_0000#64 }

/-- The instruction ends in a fault at a physical address that does not exist. -/
def faultsAt (i : Instr) (s : State) (pa : Nat) : Bool :=
  match exec i s with
  | .fault (.noSuchPhysical a) => a == pa
  | _ => false

/-- Hypotheses and results of WalksAndFaults. -/
theorem wit_WalksAndFaults :
    gives (.evPageWalk 0 1) (walks 0x1_0000_0000 (us [])) (fun t => (t.ctx 0 1).state == .ready && (t.die 0).tlb.length == 1) ∧
    gives (.evPageWalk 0 1) (walks 0x1_0001_0008 (us [])) (fun t => (t.ctx 0 1).state == .parked && (t.ctx 0 1).finfo == 0x302 &&
      (t.die 0).faultIn == [⟨false, 0, 0x1_0001, 2, 0, 0, 1⟩]) ∧
    gives (.evPageWalk 0 1) (walks 0x1_0000_0000 (leafIs 0x4_C03F (us []))) (fun t => (t.ctx 0 1).cause == 5 && (t.ctx 0 1).finfo == 0xC03F_1302) ∧
    faultsAt (.evPageWalk 0 1) (walks 0x1_0000_0000 (rootless (us []))) 0x800_0000_0000 = true ∧
    gives (.evFaultRecord 0) (faulted {} (us [])) (fun t => Safety.slotOf (t.die 0) 0 == ⟨true, false, false, 0, 5, 1, 1, 3, 4, 2⟩ && t.outputs == [.msix 0] &&
      (t.die 0).faultIn == []) ∧
    gives (.evFaultRecord 0) (faulted { slots := [(3, slot5)] } (us [])) (fun t => Safety.slotOf (t.die 0) 3 == { slot5 with access := 3 } && t.outputs == []) ∧
    gives (.evFaultRecord 0) (faulted { slots := (List.range 8).map (fun i => (i, { slot5 with vpn := 9 })) } (us [])) (fun t => (t.die 0).dropped && t.outputs == [.msix 0]) ∧
    gives (.evFbclrWrite 0 0 0x1_0201) (owned (faulted { slots := [(0, slot5), (1, slot5)], dropped := true } (us []))) (fun t => Safety.slotOf (t.die 0) 0 == {} &&
      Safety.slotOf (t.die 0) 1 == { slot5 with fatal := true } && !(t.die 0).dropped) ∧
    gives (.evFbclrWrite 0 0 0x101) (owned (us [])) (fun t => logType t == some 12) ∧ gives (.evFbclrWrite 1 0 1) (owned (us [])) (fun t => logType t == some 9) ∧
    gives (.evCsReplayWrite 0 0 0) (owned ((us []).modCtx 1 0 (fun c => { c with state := .parked }))) (fun t => (t.ctx 1 0).state == .ready) ∧
    gives (.evCsTlbinvWrite 0 0 1) (owned ((us []).modCore 0 (fun c => { c with tlb := [⟨0, 0x1_0000, 3, 0x4_003F, 0⟩] }))) (fun t => t.me.tlb == []) := by
  decide +kernel

/-- A launch packet (R361): one level (chorus), entry 0x1_0000_0000, arguments 7 and 8, completion scope system. -/
def launchPacket (w0 : Nat) : List Byte :=
  leBytes 8 (w0 + 2 ^ 16) ++ leBytes 8 0x1_0000_0000 ++ leBytes 8 7 ++ leBytes 8 8 ++ leBytes 8 0 ++ leBytes 8 0x1_0000_5000 ++ leBytes 8 99 ++
    leBytes 8 0x3_0000_0000 ++ leBytes 8 0x1_0003 ++ leBytes 56 0

/-- Queue 0 of device 0: sixteen slots at 0x10_0000, enabled, `launch` allowed, holding n packets; the first one is this. -/
def queued (n : Nat) (p : List Byte) (s : State) : State :=
  let a := qAddr 0 0
  ({ owned (bound s) with ctl := SMap.put (SMap.put (SMap.put (owned (bound s)).ctl a 0x10_0000#64) (a + 8) 0x405#64) (a + 0x10) (BitVec.ofNat 64 n) }).setRaws 0x10_0000 p

/-- Hypotheses and results of QueuesAndLaunches. -/
theorem wit_QueuesAndLaunches :
    trapIs (.launch ⟨0, 6, 5, 7⟩) (us [(5, nw 0x1040)]) 4 (nw 0x1040) 7 ∧ trapIs (.launch ⟨0, 6, 5, 7⟩) (us [(5, nw 0x1000), (7, -1)]) 1 0 11 ∧
    trapIs (.launch ⟨0, 6, 5, 7⟩) (us [(5, nw 0x1000)]) 6 (nw 0x1000) 0x7000 ∧
    gives (.launch ⟨0, 6, 5, 7⟩) (queued 3 [] (loc (us [(5, nw 0x1000)]) 0x1000 [1])) (fun t => t.g 6 == 1 && leNat (t.rawBytes (0x10_0000 + 3 * 128) 8) == 1 &&
      qHolds t 0 0 == 4) ∧
    gives (.launch ⟨0, 6, 5, 7⟩) (queued 16 [] (us [(5, nw 0x1000)])) (fun t => t.g 6 == 0 && qHolds t 0 0 == 16) ∧
    gives (.evQueueDoorbell 0 0 0 16) (queued 3 [] (us [])) (fun t => qHolds t 0 0 == 16) ∧
    gives (.evQueueDoorbell 0 0 0 17) (queued 3 [] (us [])) (fun t => qHolds t 0 0 == 3 && (qCtl t 0 0).getLsbD 1) ∧
    gives (.evDctxStateWrite 0 0 5 1) (owned (us [])) (fun t => t.dctxState 0 5 == 1) ∧ gives (.evDctxStateWrite 0 0 5 2) (owned (us [])) (fun t => logType t == some 12) ∧
    gives (.evDispatcherSelect 0) (queued 1 (launchPacket 1) (us [])) (fun t => t.launches.map (fun l => l.chor) == [[0], [1]] && qHolds t 0 0 == 0 &&
      (t.ctx 256 0).pc == 0x1_0000_0000 && SMap.get (t.ctx 256 0).g 0 2 == 7 && (t.ctx 256 0).state == .ready && (t.core 256).launch == some 1) ∧
    gives (.evDispatcherSelect 0) (queued 1 (launchPacket 0x101) (us [])) (fun t => t.launches.length == 1 && qHolds t 0 0 == 0 &&
      leNat (t.pocBytes (.device 0) 0x4_5000 8) == 99 && leNat (t.pocBytes (.device 0) 0x4_5008 8) == 0x0300_0000_0000_0000) := by decide +kernel

/-! ## Pre-emption, completion, links, scale-out, management (R358 .. R436) -/

/-- Chorus 0 has been asked to stop, or is out. -/
def asked (s : State) : State := { s with launches := s.launches.map (fun l => { l with stops := [0] }) }
def away (s : State) : State := { s with launches := s.launches.map (fun l => { l with outs := [0] }) }

/-- Hypotheses and results of Preemption; the image of core (0, 0) in launch 0 has handle 0x1_0000. -/
theorem wit_Preemption :
    gives (.evPecmdWrite 0 0 0) (owned (us [])) (fun t => t.launches.map (fun l => l.stops) == [[0]]) ∧
    gives (.evPecmdWrite 0 0 2048) (owned (us [])) (fun t => logType t == some 12) ∧
    gives (.evChorusPreempt 0) (asked (us [(5, 77)])) (fun t => t.launches.map (fun l => l.outs) == [[0]] && (t.ctx 0 0).state == .idle &&
      SMap.get (t.ctx 0x1_0000 0).g 0 5 == 77 && (t.core 0).launch == none) ∧
    gives (.evChorusRestore 0) (away ((owned (bound (us []))).modCtx 0x1_0000 0 (fun c => { c with state := .ready, pc := 0x2000 }))) (fun t =>
      t.launches.map (fun l => l.outs) == [[]] && (t.ctx 0 0).pc == 0x2000) ∧
    InChorus 0 31 ∧ imageOf 0 5 = 0x1_0005 ∧ (asked (us [])).restCore 0 = true := by
  refine ⟨by decide +kernel, by decide +kernel, by decide +kernel, by decide +kernel, by unfold InChorus; decide, by decide, by decide +kernel⟩

/-- Every core of launch 0 has ended. -/
def allEnded (s : State) : State := (List.range 32).foldl (fun t h => t.modCore h (fun c => { c with launch := some 0, ended := true, lostTasks := 2 })) s

/-- Hypotheses and results of CompletionAndTeardown. -/
theorem wit_CompletionAndTeardown :
    gives (.evLaunchCompletion 0) (allEnded ({ us [] with launches := [{ probeLaunch with packet := [1, 0, 0, 0, 0, 0x1_0000_5000, 99] }] })) (fun t => t.launches == [] &&
      (t.ctx 0 0).state == .idle && (t.core 0).launch == none && leNat (t.pocBytes (.device 0) 0x4_5000 8) == 99 &&
      leNat (t.pocBytes (.device 0) 0x4_5010 8) == 64 * 2 ^ 32) ∧
    gives (.evLaunchCompletion 0) (us []) (fun t => t.launches.length == 1) ∧
    (queued 3 [] (us [])).dctxState 0 0 = 1 ∧ (queued 3 [] (us [])).queueCount = 64 ∧ bits (qCtl (queued 3 [] (us [])) 0 0) 31 16 = 0 ∧
    gives (.evTdcmdWrite 0 0 1) (queued 3 [] (us [])) (fun t => logType t == some 12) ∧
    gives (.evTeardownComplete 0 0) ({ bound (us []) with launches := [], tears := [⟨0, 0, 3, 4, 1⟩] }) (fun t => t.dctxState 0 0 == 0 &&
      t.ctlReg (dispBlock 0 + 0x108) == 3 && t.ctlReg (dispBlock 0 + 0x110) == 4 && t.outputs == [.msix 64] && t.tears == []) ∧
    gives (.evTeardownComplete 0 0) ({ bound (us []) with tears := [⟨0, 0, 3, 4, 1⟩] }) (fun t => t.dctxState 0 0 == 1) := by
  decide +kernel

/-- This panel is number 2; peer 1 is on link 0 and may send requests and atomics. -/
def panel2 (s : State) : State :=
  { s with ctl := SMap.put (SMap.put s.ctl (routeAddr 1) 0xE0#64) peeridAddr 0x102#64, links := [(0, { lanes := 16 })] }

/-- A packet's header, from peer 1 to peer d, number 5 on its link, with tag 7. -/
def hdr (type d flits op addr : Nat) : BitVec 128 :=
  BitVec.ofNat 128 (type * 2 ^ 120 + d * 2 ^ 112 + 2 ^ 104 + 5 * 2 ^ 96 + flits * 2 ^ 88 + op * 2 ^ 76 + 7 * 2 ^ 64 + addr)

/-- The tag of a packet. -/
def tagOf (h : BitVec 128) (p : List Byte) : BitVec 64 := crc64 (leBytes 16 h.toNat ++ p)

/-- The types of the packets sent on link 0. -/
def sentTypes (t : State) : List Byte := t.outputs.map (fun o => match o with | .packet 0 b => b.getD 15 0 | _ => 0)

/-- The check value of R380. -/
theorem test_crc64 : crc64 [0x31, 0x32, 0x33, 0x34, 0x35, 0x36, 0x37, 0x38, 0x39] = 0x62EC_59E3_F1A4_F00A#64 := by decide +kernel

/-- A line of bytes 3. -/
def threes (n : Nat) : List Byte := List.replicate n 3

/-- An atomic add of peer 1 that waits at its home, and one of the host. -/
def peerReq (s : State) : State :=
  { s with reqs := [⟨0, 64, ⟨.device 1, 0x4_0000⟩, 0x0303030303030303,
    [⟨0, 0, 0, .rmw .add 8 0x0303030303030303, 0, .peer 0 (hdr 4 2 1 0 0x4_0000)⟩], false, 0⟩] }
def hostReq (b : Word) (s : State) : State :=
  { s with reqs := [⟨0, 64, ⟨.device 1, 0x4_0000⟩, b, [⟨0, 0, 0, .rmw .add 8 b, 0, .host 0⟩], false, 0⟩] }

/-- Hypotheses and results of PeerRequests: served, for another panel, not let in, with a bad tag, on a link that waits. -/
theorem wit_PeerRequests :
    gives (.evStolrusWrite 0 (hdr 1 2 1 0 0x4_0000) (threes 32) (tagOf (hdr 1 2 1 0 0x4_0000) (threes 32)) false) (panel2 (us [])) (fun t =>
      leNat (t.rawBytes 0x4_0018 8) == 0 && sentTypes t == [] && t.inwrites.map (fun w => (w.whole, w.todo.length)) == [(true, 4)]) ∧
    gives (.evStolrusWrite 0 (hdr 1 2 1 0 0x4_0000) (threes 32) 0 true) (panel2 (us [])) (fun t => leNat (t.rawBytes 0x4_0018 8) == 0 &&
      sentTypes t == [] && (t.link 0).bad && t.inwrites.map (fun w => (w.whole, w.todo.length)) == [(false, 4)]) ∧
    gives (.evEnginePiece (2 ^ 65 + (us []).serial) [3]) (after (.evStolrusWrite 0 (hdr 1 2 1 0 0x4_0000) (threes 32) (tagOf (hdr 1 2 1 0 0x4_0000) (threes 32)) false)
      (panel2 (us []))) (fun t => leNat (t.rawBytes 0x4_0018 8) == 0x0303030303030303 && leNat (t.rawBytes 0x4_0000 8) == 0 && sentTypes t == []) ∧
    gives (.evEnginePiece (2 ^ 65 + (us []).serial) []) (after (.evStolrusWrite 0 (hdr 1 2 1 0 0x4_0000) (threes 32) (tagOf (hdr 1 2 1 0 0x4_0000) (threes 32)) false)
      (panel2 (us []))) (fun t => leNat (t.rawBytes 0x4_0000 8) == 0x0303030303030303 && sentTypes t == [6] && (t.link 0).seq == 1 &&
      (t.link 0).unacked.length == 1 && t.inwrites == []) ∧
    gives (.evStolrusWrite 0 (hdr 1 2 1 0 0x4_0000) (threes 32) 0 false) (panel2 (us [])) (fun t => leNat (t.rawBytes 0x4_0018 8) == 0 && (t.link 0).bad) ∧
    gives (.evStolrusWrite 0 (hdr 1 3 1 0 0x4_0000) (threes 32) (tagOf (hdr 1 3 1 0 0x4_0000) (threes 32)) false) (panel2 (us [])) (fun t =>
      leNat (t.rawBytes 0x4_0018 8) == 0 && sentTypes t == [7] && logType t == some 8) ∧
    gives (.evStolrusReadRequest 0 (hdr 2 2 0 0 0x4_0008) [] (tagOf (hdr 2 2 0 0 0x4_0008) [])) (word 77 (panel2 (us []))) (fun t => sentTypes t == [3] &&
      t.outputs.map (fun o => match o with | .packet 0 b => leNat ((b.drop 16).take 8) | _ => 0) == [77]) ∧
    gives (.evStolrusReadRequest 0 (hdr 2 2 0 0 0x800_0000_0000) [] (tagOf (hdr 2 2 0 0 0x800_0000_0000) [])) (panel2 (us [])) (fun t => sentTypes t == [7]) ∧
    gives (.evStolrusAtomicRequest 0 (hdr 4 2 1 0 0x4_0000) (threes 32) (tagOf (hdr 4 2 1 0 0x4_0000) (threes 32))) (panel2 (us [])) (fun t =>
      t.reqs.map (fun r => r.loc) == [⟨.device 1, 0x4_0000⟩] && sentTypes t == []) ∧
    gives (.evAtomicPerform (.req 0) false) (peerReq (word 4 (panel2 (us [])))) (fun t =>
      leNat (t.rawBytes 0x4_0000 8) == 0x0303030303030307 && sentTypes t == [5] && t.reqs == []) ∧
    gives (.evAtomicPerform (.req 0) false) (hostReq 5 (word 4 (us []))) (fun t => leNat (t.rawBytes 0x4_0000 8) == 9 &&
      t.outputs == [.completion 0 (some 4)]) ∧
    gives (.evStolrusAtomicRequest 0 (hdr 4 2 1 0x3FF 0x4_0000) (threes 32) (tagOf (hdr 4 2 1 0x3FF 0x4_0000) (threes 32))) (panel2 (us [])) (fun t => sentTypes t == [7]) ∧
    gives (.evStolrusUnknownType 0 (hdr 9 2 0 0 0x4_0000) [] (tagOf (hdr 9 2 0 0 0x4_0000) [])) (panel2 (us [])) (fun t => logType t == some 8) ∧
    (∃ id, (panel2 (us [])).myPeer = some id ∧ id = 2) ∧ (panel2 (us [])).physical 0x4_0000 = true := by
  have id2 : ∃ id, (panel2 (us [])).myPeer = some id ∧ id = 2 := ⟨2, by decide +kernel, rfl⟩
  and_intros <;> first | exact id2 | decide +kernel

/-- The executing context waits for a load of peer 1's memory, numbered 7. -/
def peerLoad (s : State) : State :=
  (panel2 s).modCur (fun c => { c with
    post := [⟨7, 0, 0, ⟨.peer 0 0, peerKey 1 0x1000⟩, .load 8 none, 0⟩], out := [outst 7 0 [] [] (.loads (.g 6 false))] })

/-- As an atomic add. -/
def peerAdd (s : State) : State :=
  (panel2 s).modCur (fun c => { c with
    post := [⟨7, 0, 0x4_0000_0000, ⟨.peer 0 0, peerKey 1 0x1000⟩, .atomic (.rmw .add 8 1) (.g 6), 100⟩], out := [outst 7 0 [] [] .reply] })

/-- As a store in the core path. -/
def peerStore (s : State) : State := (panel2 s).modCore 0 (fun c => { c with path := [⟨7, 0, ⟨.peer 0 0, peerKey 1 0x1000⟩, threes 8⟩] })

/-- A reply of a type from peer 1, with its tag. -/
def peerSays (type : Nat) (p : List Byte) : BitVec 128 × BitVec 64 := (hdr type 2 (p.length / 32) 0 0x1000, tagOf (hdr type 2 (p.length / 32) 0 0x1000) p)

/-- Hypotheses and results of PeerReplies. -/
theorem wit_PeerReplies :
    (peerLoad (us [])).requestOf 1 7 = some (0, 0, 0) ∧ (peerLoad (us [])).requestOf 1 8 = none ∧ ((peerLoad (us [])).link 0).lanes = 16 ∧
    ((peerLoad (us [])).link 0).bad = false ∧ gives (.evStolrusReadReply 0 (hdr 6 2 0 0 0) [] 0) (peerLoad (us [])) (fun t => t == peerLoad (us [])) ∧
    gives (.evLoadSatisfy 0 0 0 0) ((peerLoad (us [])).setRaws (peerKey 1 0x1000) (threes 8)) (fun t =>
      t.cur.post == [] && t.cur.out == [outst 7 0 [] [.g 6 0x0303030303030303] .ready]) ∧
    gives (.evStolrusAtomicReply 0 (peerSays 5 (threes 32)).1 (threes 32) (peerSays 5 (threes 32)).2) (peerAdd (us [])) (fun t =>
      t.cur.post == [] && t.cur.out == [outst 7 0 [] [.g 6 0x0303030303030303] .ready]) ∧
    gives (.evStolrusWriteAcknowledgement 0 (peerSays 6 []).1 [] (peerSays 6 []).2) (peerStore (us [])) (fun t => t.me.path == []) ∧
    gives (.evStolrusRefusal 0 (peerSays 7 []).1 [] (peerSays 7 []).2) (peerLoad (us [])) (fun t => t.cur.cause == 13 && t.cur.finfo == 5 && t.cur.fpc == 0x1000 &&
      t.cur.out == [] && t.cur.post == []) ∧
    gives (.evStolrusRefusal 0 (peerSays 7 []).1 [] (peerSays 7 []).2) (peerStore (us [])) (fun t => t.me.path == [] && t.cur.atomstat == 4 && logType t == some 1) ∧
    gives (.evStolrusRetransmit 0 1) ({ us [] with links := [(0, { lanes := 4, unacked := [[1], [2]] })] }) (fun t => t.outputs == [.packet 0 [2]] && (t.link 0).unacked == [[2]]) ∧
    gives (.evLinkLaneLoss 0) (panel2 (us [])) (fun t => (t.link 0).lanes == 8 && logType t == some 6 && t.bwevents == [0x200]) ∧
    gives (.evLinkLaneLoss 0) ({ us [] with links := [(0, { lanes := 4 })] }) (fun t => (t.link 0).lanes == 0 && logType t == some 7) ∧
    gives (.evLinkLaneLoss 1) (us []) (fun t => t.logw == 0) := by
  decide +kernel

/-- Scale-out port 0 has the IPv4 address 0x0A00_0001. -/
def ported (s : State) : State := { s with ctl := SMap.put s.ctl 0x0_F000_0A80_0008 0x0A00_0001#64 }

/-- Channel 3 of engine 0 is enabled for device context 0; the other end is channel 4 of engine 5. -/
def channel (ch : Chan) (s : State) : State :=
  { s with ctl := SMap.put (ported (bound s)).ctl (chanRec 0 3 + 0x10) 0x1_0405_0000#64, chans := [(3, ch)] }

/-- A frame for port 0 with a payload. -/
def frame (b : List Byte) : Frame := ⟨0, none, false, 0x0A00_0002, 0x0A00_0001, 0x4D52, 0x4D52, b⟩

/-- A DATA datagram of one segment of eight bytes 3 for an address, of number n. -/
def data (n va : Nat) : Frame := frame <| sealDg ⟨1, 0, 3, n, 1, 3, 0, 0, 0⟩ (segBytes va (threes 8))

/-- An acknowledgement or a NAK. -/
def ack (a : Nat) : Frame := frame <| sealDg ⟨2, 0, 3, 0, 0, 0, 0, 0, a⟩ []
def nak (code a : Nat) : Frame := frame <| sealDg ⟨3, 0, 3, 0, 0, 0, code, 0, a⟩ []

/-- Two datagrams that are not acknowledged, of packet 50. -/
def twoSent : Chan := { unacked := [⟨5, 50, 0, [1], 0, 0⟩, ⟨6, 50, 1, [2], 0, 0⟩] }

/-- A SEND packet whose datagrams have been sent. -/
def sending (s : State) : State := job [0x30_0003, 0, 0, 0, 0, 0, 0, 0] fillShape false 0 none (channel twoSent s)

/-- The code of the last datagram sent, and its acknowledged number. -/
def lastDg (t : State) : List (Nat × Nat × Nat) :=
  (t.outputs.getLast?.map (fun o => match o with | .datagram _ f => (bytesAt f.payload 1 1, bytesAt f.payload 10 1, bytesAt f.payload 16 4) | _ => (0, 0, 0))).toList

/-- The payloads of the frames that port 0 has sent. -/
def sent (t : State) : List (List Byte) := t.outputs.map (fun o => match o with | .datagram 0 f => f.payload | _ => [])

/-- Hypotheses and results of Datagrams. -/
theorem wit_Datagrams :
    (readDg (data 0 0x1_0000_0010).payload).isSome = true ∧ (readDg (ack 5).payload).isSome = true ∧ (readDg (nak 1 5).payload).isSome = true ∧
    gives (.evChannelRecordWrite 0 0 3 0x10 0x1_0405_0000) (owned (us [])) (fun t => t.chanEn 0 3) ∧
    gives (.evChannelRecordWrite 0 0 3 0x10 0x4_0000_0000) (owned (us [])) (fun t => logType t == some 12) ∧
    gives (.evDatagramData ⟨0, data 0 0x1_0000_0010⟩ true) (channel {} (us [])) (fun t => (t.chan 0 3).landing ==
      [⟨none, threes 8, ⟨.device 0, 0x4_0010⟩⟩] && t.recvPsn 0 3 == 0) ∧
    gives (.evEnginePiece (2 ^ 64 + 3) []) (after (.evDatagramData ⟨0, data 0 0x1_0000_0010⟩ true) (channel {} (us []))) (fun t =>
      leNat (t.pocBytes (.device 0) 0x4_0010 8) == 0x0303030303030303 && t.recvPsn 0 3 == 1 && (t.chan 0 3).owed == 1) ∧
    gives (.evEnginePiece (2 ^ 64 + 3) []) (after (.evDatagramData ⟨0, data 0 0x1_0000_0010⟩ true) (channel { owed := 15 } (us []))) (fun t => lastDg t == [(2, 0, 0)] && (t.chan 0 3).owed == 0) ∧
    gives (.evDatagramData ⟨0, data 0 0x1_0000_0010⟩ false) (channel {} (us [])) (fun t => t.recvPsn 0 3 == 0 && t.outputs == []) ∧
    gives (.evDatagramData ⟨0, data 1 0x1_0000_0010⟩ true) (channel {} (us [])) (fun t => lastDg t == [(3, 1, 0xFF_FFFF)] && (t.chan 0 3).gap) ∧
    gives (.evDatagramData ⟨0, data 0xFF_FFFF 0x1_0000_0010⟩ true) (channel {} (us [])) (fun t => t.outputs == []) ∧
    gives (.evDatagramData ⟨0, data 0 0x1_0000_0010⟩ true) (us []) (fun t => t == us []) ∧
    gives (.evDatagramData ⟨0, data 0 0x1_0000_0010⟩ true) (ported (us [])) (fun t => lastDg t == [(3, 5, 0xFF_FFFF)]) ∧
    gives (.evDatagramData ⟨0, data 0 0x2_0000_0010⟩ true) (channel {} (us [])) (fun t => t.recvPsn 0 3 == 1 && lastDg t == [(3, 2, 0xFF_FFFF)]) ∧
    gives (.evDatagramAck ⟨0, ack 5⟩ true) (channel twoSent (us [])) (fun t => (t.chan 0 3).unacked.map (fun d => d.psn) == [6]) ∧
    gives (.evDatagramNak ⟨0, nak 1 5⟩ true) (channel twoSent (us [])) (fun t => (t.chan 0 3).unacked.map (fun d => (d.psn, d.tries)) == [(6, 1)] && sent t == [[2]]) ∧
    gives (.evDatagramNak ⟨0, nak 4 4⟩ true) (sending (us [])) (fun t => t.jobs.map (fun j => j.status) == [some (6, 0)]) ∧
    gives (.evDatagramNak ⟨0, nak 5 6⟩ true) (sending (us [])) (fun t => t.jobs.map (fun j => j.status) == [some (7, 0)] && !t.chanEn 0 3 && (t.chan 0 3).unacked == []) ∧
    gives (.evScaleoutAckTimer 0 3) ({ channel { owed := 1 } (us []) with dclk := [(0, 10000)] }) (fun t => lastDg t == [(2, 0, 0xFF_FFFF)]) ∧
    gives (.evScaleoutAckTimer 0 3) ({ channel { owed := 1 } (us []) with dclk := [(0, 9999)] }) (fun t => t.outputs == []) ∧
    gives (.evScaleoutResendTimer 0 3) ({ channel twoSent (us []) with dclk := [(0, 100000)] }) (fun t => sent t == [[1], [2]]) ∧
    gives (.evScaleoutResendTimer 0 3) ({ channel twoSent (us []) with dclk := [(0, 99999)] }) (fun t => t.outputs == []) ∧
    gives (.evCxlMemHostAccess 0x4_0000 [1, 2]) (us []) (fun t => leNat (t.rawBytes 0x4_0000 2) == 0x201) ∧
    gives (.evCxlMemHostAccess (2 ^ 43 - 1) [1, 2]) (us []) (fun t => t.rawByte (2 ^ 43 - 1) == 0) := by decide +kernel

/-- A start is at a step; it has failed so often. -/
def starting (n failed : Nat) (s : State) : State :=
  { s with ctl := SMap.put s.ctl (mg 8) (BitVec.ofNat 64 (0x100 + 16 * n + failed * 1024)) }

/-- The images that a start finds are such as step 5 accepts. -/
def signedImage : Firmware := ⟨Config.minVersion, 0, 0, Config.keyHash, true⟩
def signed (s : State) : State := { s with flash := signedImage, flashMc := signedImage }

/-- They are. -/
theorem wit_Starts_images (s : State) : ImagesAccepted (signed s) := by
  rintro f (rfl | rfl) <;> exact ⟨rfl, rfl, rfl, Nat.le_refl _⟩

/-- Hypotheses and results of Starts: beginnings, steps, and the ways a start ends. -/
theorem wit_Starts :
    gives .evPowerOn (us []) (fun t => t.ctlReg (mg 8) == 0x110 && t.launches == [] && t.cores == []) ∧
    gives (.evColdStart 0) (owned (us [])) (fun t => bits (t.ctlReg (mg 8)) 9 8 == 1 && bits (t.ctlReg (mg 8)) 1 0 == 0 && t.launches == []) ∧
    gives (.evColdStart 1) (owned (us [])) (fun t => logType t == some 9) ∧
    gives (.evWarmStart 0) (owned (word 77 (us []))) (fun t => bits (t.ctlReg (mg 8)) 9 8 == 2 && leNat (t.rawBytes 0x4_0000 8) == 77) ∧
    gives (.evColdStart 0) (starting 1 0 (owned (us []))) (fun t => logType t == some 12) ∧
    ((starting 4 0 (us [])).nextStep 0 []).ctlReg (mg 8) = 0x40_0150 ∧ (starting 7 0 (us [])).nextStep 0 [] = starting 7 0 (us []) ∧
    ({ starting 2 0 (us []) with failed := [81] } : State).nextStep 0 [] = { starting 2 0 (us []) with failed := [81] } ∧
    ((starting 2 0 (us [])).nextStep 5 []).ctlReg (mg 8) = 0x3E_0130 ∧ (((starting 2 0 (us [])).nextStep 5 []).die 2).dead = true ∧
    gives (.evStartFinish 3 0 [] [] []) (starting 3 0 (us [])) (fun t => bits (t.ctlReg (mg 8)) 15 0 == 0x132) ∧
    gives (.evStartFinish 3 0 [] [] []) (starting 2 0 (us [])) (fun t => t == starting 2 0 (us [])) ∧
    gives (.evStartFinish 0 (-1) [] [] []) (starting 2 0 (us [])) (fun t => t.ctlReg (mg 8) == 0x122) ∧
    gives (.evStartFinish 0 0 [] [] []) ({ starting 2 0 (us []) with failed := [81] }) (fun t => bits (t.ctlReg (mg 8)) 15 0 == 0x122) ∧
    gives (.evStartFinish 0 0 [] [] []) (starting 3 0 (us [])) (fun t => t == starting 3 0 (us [])) ∧
    gives (.evStartFinish 0 0 [] [] []) (owned (us [])) (fun t => t == owned (us [])) ∧
    (∀ x ∈ (us []).images, memPart x.1 ≠ none) ∧ SMap.sorted (us []).dies = true := by decide +kernel

/-- Which dies a start marks dead. -/
theorem wit_Starts_map : MarkedDead (us []) (-1) 63 ∧ ¬MarkedDead (us []) 0 63 ∧ MarkedDead { us [] with failed := [64] } 0 0 ∧
    TestsFail { us [] with failed := [81] } 0 ∧ ¬TestsFail (us []) 0 := by
  have live : ¬MarkedDead (us []) 0 63 := by
    rintro ⟨-, h | h | ⟨x, h, -⟩⟩
    · exact absurd h (by decide +kernel)
    · exact absurd h (by decide +kernel)
    · exact absurd h (by rw [show (us []).failed = [] by decide +kernel]; exact List.not_mem_nil)
  refine ⟨⟨by decide, .inl (by rw [if_neg (by decide +kernel)]; decide)⟩, live, ⟨by decide, .inr (.inr ⟨64, by decide, by decide, by decide, by decide⟩)⟩,
    .inl ⟨81, by decide, by decide⟩, ?_⟩
  rintro (⟨x, h, -⟩ | h)
  · exact absurd h (by rw [show (us []).failed = [] by decide +kernel]; exact List.not_mem_nil)
  · exact live (h 63 (by decide))

/-- A start at step 5 with refused images ends there: accepted ones do not end it. -/
theorem wit_Starts_five : exec (.evStartFinish 0 0 [] [] []) (signed (starting 5 0 (us []))) = .next (signed (starting 5 0 (us []))) := by
  show execEvStartFinish 0 0 [] [] [] _ = _
  have h : (signed (starting 5 0 (us []))).imagesOk = true := by simp [State.imagesOk, signed, Firmware.accepted, signedImage]
  simp only [execEvStartFinish, h]
  rw [if_neg (by decide +kernel), if_neg (by decide), if_neg (by decide +kernel), if_neg (by decide +kernel)]

/-- A start at step 7 becomes ready. -/
theorem wit_Starts_ready : gives (.evStartFinish 0 0 [] [16, 7] [8]) (signed (starting 7 0 (us []))) (fun t => t.ctlReg (mg 8) == 0x40_0171 &&
    (t.link 0).lanes == 16 && (t.link 1).lanes == 0 && SMap.get t.ports 0 0 == 8) = true := by
  have h : (signed (starting 7 0 (us []))).imagesOk = true := by simp [State.imagesOk, signed, Firmware.accepted, signedImage]
  have e : exec (.evStartFinish 0 0 [] [16, 7] [8]) (signed (starting 7 0 (us []))) =
      .next ((signed (starting 7 0 (us []))).startReady [16, 7] [8]) := by
    show execEvStartFinish 0 0 [] [16, 7] [8] _ = _
    simp only [execEvStartFinish, h]
    rw [if_neg (by decide +kernel), if_neg (by decide), if_neg (by decide +kernel), if_pos (by decide +kernel)]
  unfold gives
  rw [e]
  decide +kernel

/-- Port 3 has trained, and nobody owns the panel. -/
def trainedPort (s : State) : State := { s with ports := [(3, 16)] }

/-- Hypotheses and results of Ownership. -/
theorem wit_Ownership :
    gives (.evOwnclaim [3, 8] 0xC1A1_0000_0000_0000) (trainedPort (us [])) (fun t => t.ctlReg (mg 0x10) == 0x113 && logType t == some 10) ∧
    gives (.evOwnclaim [3] 1) (trainedPort (us [])) (fun t => logType t == some 12) ∧ gives (.evOwnclaim [2] 0xC1A1_0000_0000_0000) (trainedPort (us [])) (fun t => t.logw == 0) ∧
    gives (.evOwnclaim [8] 0xC1A1_0000_0000_0000) (owned (us [])) (fun t => t == owned (us [])) ∧
    gives (.evOwnxfer 0 3) (trainedPort (owned (us []))) (fun t => t.ctlReg (mg 0x10) == 0x113) ∧
    gives (.evOwnxfer 0 4) (trainedPort (owned (us []))) (fun t => t.ctlReg (mg 0x10) == 0x100) ∧ gives (.evOwnxfer 0 9) (owned (us [])) (fun t => logType t == some 12) ∧
    gives .evOwnerLinkDown (owned (us [])) (fun t => t.ctlReg (mg 0x10) == 0x100) ∧ gives .evOwnerLinkDown (us []) (fun t => t.logw == 0) ∧
    ClaimLink (trainedPort (us [])) 3 ∧ ClaimLink (us []) 8 ∧ ¬ClaimLink (us []) 9 := by
  have no : ¬ClaimLink (us []) 9 := by rintro (h | ⟨h, -⟩) <;> simp at h
  and_intros <;> first | exact no | exact .inl rfl | exact .inr ⟨by decide, by decide +kernel⟩ | decide +kernel

/-- Hypotheses and results of SummariesReportsAndErrors. -/
theorem wit_SummariesReportsAndErrors :
    gives (.evResync 0 1) (owned (us [])) (fun t => t.ctlReg (mg 0x100) == 1 && t.ctlReg (mg 0x108) == 0x10 && t.ctlReg (mg 0x110) == 0x171) ∧
    gives (.evResync 0 2) (owned (us [])) (fun t => logType t == some 12) ∧
    gives (.evAttestationRequest [1, 2, 3, 4, 5, 6, 7, 8]) (us []) (fun t => t.attq == [[1, 2, 3, 4, 5, 6, 7, 8]] && t.ctlReg (mg 0x2_0038) == 8) ∧
    gives .evAttestationReportReady ({ us [] with attq := [[1, 2, 3, 4, 5, 6, 7, 8]] }) (fun t => t.attq == [] && t.attrep.length == 0x100 + 2592 + 4627) ∧
    gives .evAttestationReportReady (us []) (fun t => t.attrep == []) ∧
    gives (.evCorrectableError 5 0x40) (us []) (fun t => t.errC == 1 && logType t == some 2) ∧
    gives (.evUncorrectableNotConsumed 5 0x4_0008) (us []) (fun t => t.errU == 1 && SMap.get t.poison false 0x8001 && logType t == some 3) ∧
    gives (.evDieFailure 0) (us []) (fun t => t.launches.map (fun l => l.torn) == [true] && logType t == some 11) ∧
    gives (.evDieFailure 63) ({ us [] with ctl := SMap.put (us []).ctl pmodeAddr 2#64 }) (fun t => t.launches.map (fun l => l.torn) == [false]) ∧
    gives (.evDieFailure 84) (us []) (fun t => t.logw == 0) := by decide +kernel

/-- Nothing is allocated on the panel. -/
def idle (s : State) : State := owned { s with launches := [] }

/-- Hypotheses and results of ControlSpace. -/
theorem wit_ControlSpace :
    gives (.evPmodeWrite 0 1 []) (idle (us [])) (fun t => t.ctlReg pmodeAddr == 1) ∧ gives (.evPmodeWrite 0 1 []) (owned (bound (us []))) (fun t => t.ctlReg pmodeAddr == 4) ∧
    gives (.evPmodeWrite 0 3 []) (idle (us [])) (fun t => t.ctlReg pmodeAddr == 4) ∧ gives (.evPmodeWrite 0 4 []) (idle (us [])) (fun t => logType t == some 12) ∧
    gives (.evNscarveWrite 0 0 2 []) (idle (us [])) (fun t => t.ctlReg (dieBlock 0 + 0x920) == 2 && SMap.get t.nsEra 0 0 == 1) ∧
    gives (.evPeeridWrite 0 0x102) (idle (us [])) (fun t => t.myPeer == some 2) ∧ gives (.evPeeridWrite 0 0x202) (idle (us [])) (fun t => logType t == some 12) ∧
    gives (.evSyncOverflowWrite 0 5 false 0x8_0000) (idle (us [])) (fun t => t.ctlReg (dieBlock 5 + 0x900) == 0x8_0000) ∧
    gives (.evSyncOverflowWrite 0 5 true 0x1_0000) (idle (us [])) (fun t => logType t == some 12) ∧
    gives (.evControlSpaceWrite 0 (routeAddr 255) 0x9FFF) (idle (us [])) (fun t => t.ctlReg (routeAddr 255) == 0x9FFF) ∧
    gives (.evControlSpaceWrite 0 (routeAddr 255) 0x2000) (idle (us [])) (fun t => logType t == some 12) ∧
    gives (.evControlSpaceWrite 0 (routeAddr 0 + 4) 0) (idle (us [])) (fun t => logType t == some 12) ∧
    gives (.evControlSpaceWrite 0 (dieBlock 63 + 0x88) 7) (idle (us [])) (fun t => (t.die 63).fbsel == 7) ∧
    gives (.evControlSpaceWrite 0 (dieBlock 0 + 0xA8) 0x8000_0000_0A00_0008) (idle (us [])) (fun t => (t.die 0).fbsvc == 0x8000_0000_0A00_0008) ∧
    gives (.evControlSpaceWrite 0 (dieBlock 0 + 0xC0 + 56) 5) (idle (us [])) (fun t => SMap.get (t.die 0).mthr 0 7 == 5) ∧
    PlainReg (us []) (routeAddr 255) 0x9FFF ∧ (idle (us [])).allFree = true ∧ (idle (us [])).devFree 0 = true := by
  and_intros <;> first | exact .inr (.inr (.inr (.inl ⟨255, by decide, rfl, rfl⟩))) | decide +kernel

/-! ## Fetching, issuing, and the machine as a whole -/

/-- A long-latency instruction at 0x1000 has its window open and writes `g6`. -/
def windowOpen (s : State) : State := s.modCur (fun c => { c with out := [outst 7 1 [⟨.g, 6, false, true⟩] [] .reply] })

/-- The executing instruction uses these registers. -/
def uses (us : List RegUse) (s : State) : State := { s with now := { s.now with uses := us } }

/-- The gate's answer, when it refuses. -/
def gateRefuses (i : Instr) (s : State) (e : Stop) : Bool :=
  match s.issueGate i with
  | .error x => x == e
  | .ok _ => false

/-- Four long-latency instructions whose windows are full of further instructions. -/
def fourOut (s : State) : State := s.modCur (fun c => { c with out := (List.range 4).map (fun n => outst n 9 [] [] .reply) })

/-- Hypotheses and results of FetchingAndIssue. -/
theorem wit_FetchingAndIssue :
    (us []).issueGate (.sret ⟨0, 5⟩) = .ok () ∧
    gateRefuses (.add ⟨1, 6, 2⟩) (windowOpen (uses [⟨.g, 2, true, false⟩, ⟨.g, 6, true, false⟩] (us []))) (.trap .lookahead 0x1000 6) ∧
    gateRefuses (.add ⟨6, 1, 2⟩) (windowOpen (uses [⟨.g, 6, false, true⟩] (us []))) (.trap .lookahead 0x1000 0x86) ∧
    (windowOpen (uses [⟨.g, 2, true, false⟩] (us []))).issueGate (.add ⟨1, 2, 2⟩) = .ok () ∧
    gateRefuses (.ldD ⟨0, 0, 0, 6, 5, 0⟩) (fourOut (us [])) (.wait .retry) ∧ (fourOut (us [])).issueGate (.add ⟨1, 2, 2⟩) = .ok () ∧
    gateRefuses (.add ⟨1, 2, 2⟩) ((us []).modCur (fun c => { c with out := [outst 7 0 [] [] .reply] })) (.wait .window) ∧
    trapIs (.evFetchRefused (NW + 2)) (us []) 6 (nw 2) 0x3004 ∧
    gives (.evFetchRefused 0x1_0001_0000) (us []) (fun t => t.cur.state == .parked && t.cur.finfo == 0x304 && (t.die 0).faultIn.length == 1) ∧
    trapIs (.evFetchRefused 0x1_0000_0000) (leafIs 0x4_C03F (us [])) 5 0x1_0000_0000 0xC03F_1304 ∧
    trapIs (.evFetchRefused 0x1_0000_0000) (leafIs 0x4_002F (us [])) 6 0x1_0000_0000 0x2F_3304 ∧
    trapIs (.evFetchRefused 0x1_0000_0000) (leafIs 0x4_001F (us [])) 6 0x1_0000_0000 0x1F_4304 ∧
    gives (.evFetchRefused 0x1_0000_0000) (us []) (fun t => t == us []) ∧
    gives (.evEncodingNotAnInstruction 0xF1FF 1 3) (us []) (fun t => t.cur.cause == 1 && t.cur.faddr == (us []).cur.pc + 2 && t.cur.finfo == 0xF1FF_0103) := by
  decide +kernel

/-- Reset with the words of an instruction where the next one is fetched. -/
def fetches (ws : List IWord) : State := State.reset.withCode ((ws ++ [0#16, 0#16, 0#16]).flatMap (fun x : IWord => leBytes 2 x.toNat))

/-- The step answers a next state that passes a test. -/
def stepGives (s : State) (p : State → Bool) : Bool :=
  match step s with
  | .next t => p t
  | _ => false

/-- Hypotheses and results of StepRunsTheDecodedInstruction: `li g6, -5`, `div g6, g4, g3` by zero, and words that are no instruction. -/
theorem wit_StepRunsTheDecodedInstruction :
    (fetches [0xC180]).agenda = [.issue 0 false] ∧ ({ fetches [0xC180] with agenda := [] } : State).mayIssue 0 = true ∧
    (({ fetches [0xC180] with agenda := [] } : State).openCycle 0).ranked 0 = [0] ∧
    stepGives (fetches (encode (.li ⟨6, -5⟩))) (fun t => SMap.get (t.ctx 0 0).g 0 6 == -5 && (t.ctx 0 0).pc == 0x1_0000_0002 && t.agenda == []) ∧
    stepGives (fetches [0xF1FF]) (fun t => (t.ctx 0 0).cause == 1 && (t.ctx 0 0).pc == (t.core 0).tvec) ∧
    stepGives (fetches [0xF880, 0x3003]) (fun t => (t.ctx 0 0).cause == 0x0E && (t.ctx 0 0).supervisor) := by decide +kernel

/-- Hypotheses of EncodedInstructionsDecode and DecodedInstructionsAreWellFormed: instructions of one and of five words, an event. -/
theorem wit_EncodedInstructionsDecode :
    (Instr.add ⟨31, 31, 31⟩).wellFormed = true ∧ encode (.add ⟨31, 31, 31⟩) ≠ [] ∧ (encode (.ldD ⟨3, 1, 9, 6, 12, 136⟩)).length = 5 ∧
    decode (encode (.ldD ⟨3, 1, 9, 6, 12, 136⟩)) = .ok (.ldD ⟨3, 1, 9, 6, 12, 136⟩) 5 ∧ encode .evPowerOn = [] ∧ toRaw .evPowerOn = none := by
  decide +kernel

/-- Hypotheses of UserModeIsLeftByTraps, with a trap that the conclusion is about. -/
theorem wit_UserModeIsLeftByTraps :
    (toRaw (.sys ⟨0⟩)).isSome = true ∧ (us []).cur.state = .ready ∧ (us []).cur.supervisor = false ∧
    gives (.sys ⟨0⟩) (us []) (fun t => t.cur.supervisor && t.cur.cause == 14) ∧ gives .nop (us []) (fun t => !t.cur.supervisor) := by decide +kernel

/-- Hypotheses of StepsKeepMemoryCanonical: a step that stores. -/
theorem wit_StepsKeepMemoryCanonical :
    (fetches (encode (.stB ⟨0, 0, 0, 6, 5, 0⟩))).mem.wf = true ∧ (fetches []).mem.length ≠ 0 ∧
    stepGives (fetches (encode (.stB ⟨0, 0, 0, 6, 5, 0⟩))) (fun t => t.mem.wf) := by decide +kernel

/-- The reset values that the spec states. -/
theorem test_reset :
    State.reset.readCsr 5 10 0x001 = 0x50A ∧ State.reset.readCsr 0 0 0x008 = 0x3_0000_0000 ∧ State.reset.readCsr 0 0 0x051 = 0x0100_0000 ∧
    State.reset.mem = [] := by decide +kernel

/-- Reads of control space (R348, R358, R419, R436): an address no rule names, a die's `fbstat`, `logw` after two writes that are not
the owner's, a record of them, the port's UDP number, a device that mode one does not make, and a write-only register. -/
theorem test_readControl :
    let s := (State.reset.notOwner 3 8).notOwner 2 0x0_F000_0A00_0000
    s.readControl 0x0_F000_0B00_0000 = some 0 ∧ s.readControl 0x0_F000_0000_0080 = some 0 ∧ s.readControl 0x0_F000_0C00_0200 = some 2 ∧
    s.readControl 0x0_F000_0C01_0020 = some 0x62_0000_0109 ∧ s.readControl 0x0_F000_0C01_0028 = some 0x0_F000_0A00_0000 ∧
    s.readControl 0x0_F000_0A80_0000 = some 0x4D52_0000_0000_0000 ∧ s.readControl 0x0_F000_0110_0000 = some 0 ∧
    s.readControl 0x0_F000_0C00_0000 = none := by decide +kernel

/-! ## More hypotheses and results -/

/-- The mapped page is homed on die 1, which has failed. -/
def lostHome (s : State) : State :=
  { s.modDie 1 (fun e => { e with dead := true }) with
    ctl := SMap.put (SMap.put s.ctl (hashBlock 0 + 0x20) 0x4_0000#64) (hashBlock 0 + 0x108) 1#64 }

/-- Hypotheses and results of LoadsAndStores for lines that can, and cannot, be reached (R409). -/
theorem wit_LoadsAndStores_home :
    (us []).lostByte (us []).myDev ⟨.device 0, 0x4_0000⟩ 8 = none ∧ (lostHome (us [])).lostByte 0 ⟨.device 0, 0x4_0000⟩ 8 = some 0 ∧
    trapIs (.stD ⟨0, 0, 0, 6, 5, 0⟩) (lostHome (us [(5, 0x1_0000_0000)])) 13 0x1_0000_0000 3 := by decide +kernel

/-- A write of the core to the line's copy is on its way. -/
def onWay (s : State) : State := s.modCore 0 (fun c => { c with path := [⟨99, 0, ⟨.host 2 0, hostKey 0x4_0000⟩, [1, 2]⟩] })

/-- Hypotheses and results of CacheInstructionsComplete and of the rest of CacheMaintenance. -/
theorem wit_CacheInstructionsComplete :
    gives (.cwb ⟨0, 0, 5, 6⟩) (us [(5, 0x1_0000_0000)]) (fun t => t.cur.pc == 0x1_0000_0004) ∧
    (us []).scopeOk (us []).myDev ((us []).scopeOf 0) = true ∧ (0x1_0000_0000 + 0x400_0000 ≤ NW) ∧
    gives (.cwb ⟨0, 0, 5, 6⟩) (onWay (heldLine (us [(5, 0x1_0000_0000), (6, 64)]))) (fun t => t.cur.state == .waiting .retry) ∧
    gives (.cwb ⟨0, 0, 5, 6⟩) (posted [acquireEntry] (heldLine (us [(5, 0x1_0000_0000), (6, 64)])))
      (fun t => t.cur.post.length == 9 && t.cur.out.length == 1 && t.cur.pc == 0x1_0000_0004) ∧
    gives (.cinv ⟨0, 0, 5, 6⟩) (heldLine (us [(5, 0x1_0000_0000), (6, 64)])) (fun t => t.devLines == []) ∧
    gives (.evPrefetchFill 0 1) ((us []).modCore 0 (fun c => { c with pf := [⟨.device 0, 0x4_0040⟩] })) (fun t => t.me.pf.length == 1 && t.me.l1 == []) ∧
    gives (.evPrefetchFill 0 0) (lostHome ((us []).modCore 0 (fun c => { c with pf := [⟨.device 0, 0x4_0000⟩] })))
      (fun t => t.me.pf == [] && t.me.l1 == []) := by decide +kernel

/-- A range of lines, and lines that are busy or not. -/
theorem wit_LinesBusy : ¬LinesBusy (us []) [(.host 2 0, hostKey 0x4_0000 / 64, hostKey 0x4_0000 / 64)] ∧
    LinesBusy (onWay (us [])) [(.host 2 0, hostKey 0x4_0000 / 64, hostKey 0x4_0000 / 64)] := by
  refine ⟨?_, .inr ⟨⟨99, 0, ⟨.host 2 0, hostKey 0x4_0000⟩, [1, 2]⟩, by decide +kernel, _, List.mem_singleton.mpr rfl, by decide +kernel⟩⟩
  rintro (⟨e, h, -⟩ | ⟨w, h, -⟩)
  · exact absurd h (by rw [show (us []).cur.post = [] by decide +kernel]; exact List.not_mem_nil)
  · exact absurd h (by rw [show (us []).me.path = [] by decide +kernel]; exact List.not_mem_nil)

/-- Hypotheses of QueuedWritesPerform and CombiningAndSync: nothing earlier of the core is in the fabric, or an earlier request is. -/
theorem wit_clearFor :
    (us []).clearFor 0 99 ⟨.device 0, 0x4_0000⟩ = true ∧ twoAdds.clearFor 0 9 ⟨.host 0 0, hostKey 0x4_0000⟩ = false ∧
    twoAdds.clearFor 0 9 ⟨.device 0, 0x4_0000⟩ = true ∧ (addWaits 1).sendable 0 7 ⟨.device 0, 0x4_0000⟩ 0x3_0000_0000 = true ∧
    twoAdds.sendable 0 9 ⟨.host 0 0, hostKey 0x4_0000⟩ 0x3_0000_0000 = false ∧ (addWaits 1).me.cycle.toNat < 1 ∧
    SMap.has ((syncCopy 3 0).die 0).homes 0x1000 = true := by decide +kernel

/-- The two requests may merge at the leaf switch. -/
theorem wit_MayMerge : MayMerge twoAdds 64 (.req 1) (.req 2) (hostAdd 1 3) (hostAdd 2 4) := by
  have e : twoAdds.reqs = [hostAdd 1 3, hostAdd 2 4] := rfl
  have q : InQueue twoAdds 64 (.req 1) (hostAdd 1 3) := ⟨⟨1, rfl⟩, by decide +kernel⟩
  refine ⟨trivial, trivial, by decide +kernel, by rw [e]; decide, by rw [e]; decide, fun _ => rfl, fun _ => ⟨rfl, q, by decide⟩,
    by rw [e]; decide, fun h => absurd q h, fun h => absurd ⟨⟨2, rfl⟩, by decide +kernel⟩ h⟩

/-- The entries of an element at own offset 0x1000 of a long-array addition, its loads satisfied: n of them. -/
def elemQueue (n : Nat) : List PEntry :=
  (List.range n).map (fun i => ⟨7, 0, 0, ownAt (us []) (0x1000 + 8 * i), .load 8 (some (leBytes 8 (if i % 8 = 0 then 5 else 0))), 0⟩) ++
    (List.range 8).map (fun i => ⟨7, 0, 0, ownAt (us []) (0x1000 + 8 * i), .later 8, 0⟩)

/-- Hypotheses and results of LongArrays: an `xacc` that waits, and elements of `xacc` and of `xadd` whose loads are satisfied: 5 + 3,
and 5 - 5. -/
theorem wit_LongArrays_queued :
    (posted [acquireEntry] (us [])).canLoad (ownAt (us []) 0x1000) 32768 = false ∧
    (elemQueue 8).length = 16 ∧ (elemQueue 16).length = 24 ∧
    (settleElems (localKey 0 0x1000) false (List.replicate 512 { v := 3 }) 1 (elemQueue 8)).map (fun e => e.kind) =
      (List.range 8).map (fun i => .store (leBytes 8 (if i = 0 then 8 else 0))) ∧
    (settleElems (localKey 0 0x1000) true [] 1 (elemQueue 16)).map (fun e => e.kind) = List.replicate 8 (.store (leBytes 8 0)) := by
  decide +kernel

/-- A gang of row 1 of cores (0, 1) with this mask, in redundant mode or not; it and the gang of row 0 are at `mma`. -/
def twoRows (red red' : Bool) (s : State) : State :=
  let t := rows01 (gangOf 1 [0] none (s.modCtx 256 0 (fun c => { c with state := .waiting .gang })))
  { (t.modCore 256 (fun c => { c with launch := some 0 })) with gangs := t.gangs.map (fun g => { g with red := red }) ++
    [⟨6, 1, 1, 0, false, red', [⟨256, 0, 0, 2, [], 2, 0, 4, 60⟩], none⟩] }

/-- Hypotheses and results of MatrixMultiply for a pair of rows: two gangs that agree, and two whose modifiers differ. -/
theorem wit_MatrixMultiply_rows :
    (twoRows true true (us [])).gangs.map (fun g => (twoRows true true (us [])).hasPartner g) = [true, true] ∧
    (twoRows true true (us [])).gangs.map (fun g => (twoRows true true (us [])).gangLaunch g) = [some 0, some 0] ∧
    gives (.evGangComplete 5) (banked 1 0 (banked 1 256 (twoRows true true (us []))))
      (fun t => t.gangs.map (fun g => g.turn) == [some 60, some 60] && (t.ctx 256 0).state == .ready && (t.ctx 256 0).pc == 2) ∧
    gives (.evGangComplete 5) (banked 1 0 (banked 1 256 (twoRows true false (us []))))
      (fun t => t.gangs == [] && (t.ctx 0 0).cause == 10 && (t.ctx 256 0).cause == 10 && (t.ctx 256 0).finfo == 0x1_0000_0001) := by
  decide +kernel
/-- A mask of every lane, the lanes, and an address. -/
def allMasked (a : Word) : State := vregs [(1, vec 32 id), (2, vec 32 (fun _ => 2 ^ 31))] (us [(5, a)])

/-- Results of VectorMemory at the edges of the near window's rows: a row that ends, and bytes on both sides of it. -/
theorem wit_VectorMemory_rows :
    (us []).oneRow [(NW + 0x100, 4), (NW + 0x17C, 4)] = .ok () ∧
    trapIs (.vstm ⟨0, 0, 0, 0, 1, 5, 0, 2⟩) (allMasked (nw 0 - 64)) 17 (nw 0 - 64) 0 ∧
    trapIs (.vstm ⟨0, 0, 0, 0, 1, 5, 0, 2⟩) (allMasked (nw 0x1_FFC0)) 17 (nw 0x2_0000) 0 ∧
    gives (.vstm ⟨0, 0, 0, 0, 1, 5, 0, 2⟩) (allMasked (nw 0x1_FF80)) (fun t => locNat t 0x1_FFFC 4 == 31) := by decide +kernel

/-- Hypotheses of TasksAndStealing: a core that works, its lowest idle eft, and a cycle in which nothing but a start happens. -/
theorem wit_TasksAndStealing_start :
    Working (tasked 0 [] (.next 0) (us [])) 0 ∧ LowestIdle (us []) 0 1 ∧ LowestIdle (withEfts (fun e => if e < 10 then .ready else .idle) (us [])) 0 10 ∧
    OnlyStarts (us []) 0 ∧ OnlyStarts ((us []).modCore 0 (fun c => { c with stepped := true, due := [0x7F00] })) 0 := by
  refine ⟨by unfold Working; decide +kernel, by unfold LowestIdle; decide +kernel, by unfold LowestIdle; decide +kernel,
    ⟨by decide +kernel, .inr (by decide +kernel), ?_, ?_⟩, ⟨by decide +kernel, .inl (by decide +kernel), ?_, ?_⟩⟩
  · have e : ∀ k ≤ 10, ((us []).ctx 0 k).out = [] := by decide +kernel
    intro k hk o ho; rw [e k hk] at ho; exact absurd ho List.not_mem_nil
  · have e : ∀ k ≤ 10, ((us []).ctx 0 k).state = .idle ∨ ((us []).ctx 0 k).state = .ready := by decide +kernel
    intro k hk d j; rcases e k hk with h | h <;> rw [h] <;> simp
  · have e : ∀ k ≤ 10, (((us []).modCore 0 (fun c => { c with stepped := true, due := [0x7F00] })).ctx 0 k).out = [] := by decide +kernel
    intro k hk o ho; rw [e k hk] at ho; exact absurd ho List.not_mem_nil
  · have e : ∀ k ≤ 10, (((us []).modCore 0 (fun c => { c with stepped := true, due := [0x7F00] })).ctx 0 k).state = .idle ∨
      (((us []).modCore 0 (fun c => { c with stepped := true, due := [0x7F00] })).ctx 0 k).state = .ready := by decide +kernel
    intro k hk d j; rcases e k hk with h | h <;> rw [h] <;> simp

/-- Core 1 is out of its chorus, with this spill area in its image. -/
def outWith (base : Word) (s : State) : State := (away s).modCore 0x1_0001 (fun c => { c with spillbase := base, launch := some 0 })

/-- Hypotheses and results of EventsInTheInbox: where events spill to; an event for a core that is out; one of a step that is past. -/
theorem wit_EventsInTheInbox_spill :
    ((fullInbox 0x1_0000_0000 (us [])).core 1).spillArea = 0x1_0000_0000 ∧ ((us []).core 1).spillArea = 0 ∧
    (us []).unitLoc 1 0x1_0000_0000 { wr := true } = some ⟨.device 0, 0x4_0000⟩ ∧
    (away (us [])).handleFor ((away (us [])).core 0) 1 = 0x1_0001 ∧
    gives (.evEventArrival 0 1) (outWith 0x1_0000_0000 (sends 1 (us []))) (fun t => t.me.sendq == [] && (t.core 0x1_0001).spillN == 1 &&
      (t.core 0x1_0001).inbox == [] && leNat (t.pocBytes (.device 0) 0x4_0000 8) == (eventBits 1 false 0 3 6 30).toNat) ∧
    gives (.evEventArrival 0 1) (outWith 0 (sends 1 (us []))) (fun t => t.me.holds == [(1, 64)] && (t.core 0x1_0001).nacks == 1) ∧
    gives (.evEventArrival 0 1) ((sends 1 (us [])).modCore 1 (fun c => { c with layers := [(3, { step := 1 })], launch := some 0 }))
      (fun t => t.me.holds == [(1, 64)] && (t.core 1).nacks == 1 && (t.core 1).inbox == []) := by decide +kernel

/-- Hypotheses and results of Barriers: a barrier step that is due, a barrier that is stuck until it is initialised, a wait for a core
that is out. -/
theorem wit_Barriers_step :
    ((us []).modCore 0 (fun c => { c with due := [0x7F00] })).me.stepped = false ∧
    ((barrier 15 0 0 2 ((us []).modCore 0 (fun c => { c with due := [0x7F00] }))).openCycle 0).me.due = [] ∧
    locNat ((barrier 15 0 0 2 ((us []).modCore 0 (fun c => { c with due := [0x7F00] }))).openCycle 0) 0x7F00 16 = 2 * 2 ^ 16 + 2 * 2 ^ 64 ∧
    locNat ((barrier 15 0 0 2 ((us []).modCore 0 (fun c => { c with due := [0x7F00], stuck := [0x7F00] }))).openCycle 0) 0x7F00 16 = 15 + 2 * 2 ^ 64 ∧
    gives (.evBarrierArrival 7) (arriving 0 (barrier 9 0 0 2 (us []))) (fun t => (t.openCycle 0).me.stuck == [0x7F00] && (t.openCycle 0).me.due == [0x7F00]) ∧
    gives (.xbinit ⟨0, 5, 6⟩) ((us [(5, nw 0x7F00), (6, 2)]).modCore 0 (fun c => { c with stuck := [0x7F00, 0x7E00] })) (fun t => t.me.stuck == [0x7E00]) ∧
    ({ us [] with launches := [{ probeLaunch with outs := [0] }] } : State).nearLoc (NW + 0x10_0000 + 3 * 0x2_0000) 16 = .ok (0x1_0003, 0) ∧
    gives (.xbwait ⟨0, 0, 0, 5, 6⟩) ({ us [(5, nw 0x16_0000), (6, 15)] with launches := [{ probeLaunch with outs := [0] }] })
      (fun t => t.cur.state == .waiting (.xbwait 3 0 15)) := by decide +kernel

/-- Hypotheses of ShapesAndAppends: the claimed slot can be filled; the ring is full. -/
theorem wit_ShapesAndAppends_slot :
    SlotReady (queue 0x48 0x10 (us [])) (claim 0x47) ⟨.device 0, 0x4_0000⟩ ⟨.device 0, 0x4_11C0⟩ ∧
    RingRead (queue 0x50 0x10 (us [])) (claim 0x50).va ⟨.device 0, 0x4_0000⟩ 0x10 ∧ 2 ^ (claim 0x50).lgn ≤ ((claim 0x50).i + 2 ^ 64 - 0x10) % 2 ^ 64 ∧
    gives (.qput ⟨0, 7, 5, 6⟩) ((queue 0x48 0x10 (us [])).modCur (fun c => { c with claims := [(c.pc.toNat, claim 0x47)] }))
      (fun t => t.cur.claims == [] && leNat (t.pocBytes (.device 0) 0x4_11F8 8) == 3 && t.cur.pc == 0x1_0000_0004) ∧
    gives (.qput ⟨0, 7, 5, 6⟩) ((queue 0x51 0x10 (us [])).modCur (fun c => { c with claims := [(c.pc.toNat, claim 0x50)] }))
      (fun t => t.cur.state == .waiting (.qput 0 (claim 0x50))) := by
  refine ⟨⟨⟨0x10, ⟨by decide +kernel, by decide +kernel, by decide +kernel, by decide +kernel⟩, by decide⟩, by decide, by decide +kernel,
    by decide +kernel, by simp, by decide +kernel, by decide +kernel, by decide +kernel⟩, 
    ⟨by decide +kernel, by decide +kernel, by decide +kernel, by decide +kernel⟩, by decide, by decide +kernel, by decide +kernel⟩

/-- A COPY job to global memory, from this word 1 and destination, with granules of its piece. -/
def copyJob (w0 w1 w2 : Word) (gs : List (List Granule)) (s : State) : State :=
  let t := job [w0, w1, w2, 0, 0, 0, 0, 0] fillShape false 0 none s
  { t with jobs := t.jobs.map (fun j => { j with open_ := gs }) }

/-- A granule of known bytes for device memory, and one of bytes to read. -/
def known (a : Nat) : List Granule := [⟨none, [1, 2], ⟨.device 0, a⟩⟩]
def toRead (a : Nat) : List Granule := [⟨some (⟨.device 0, 0x4_0000⟩, 2), [], ⟨.device 0, a⟩⟩]

/-- Hypotheses and results of CopyEngines: which entry has a packet, and a packet whose words hold an error; granules read and written
one by one; a barred source, and elements that fail. -/
theorem wit_CopyEngines_granules :
    HasPacket (shapeRecord (fillPacket (us []))) 0 0 0 0 ⟨.device 0, 0x4_0000⟩ 0 ⟨.device 0, 0x4_1000⟩ ∧
    gives (.evEngineSlotFetch 0 0) ({ shapeRecord (fillPacket (us [])) with poison := [(0x4_1008 / 8, true)] })
      (fun t => t.jobs.map (fun j => j.status) == [some (6, 0)]) ∧
    gives (.evEngineSlotFetch 0 1) (shapeRecord (fillPacket (us []))) (fun t => t.jobs == []) ∧
    gives (.evEnginePiece 50 [2]) (copyJob 1 0 0 [known 0x4_3000, toRead 0x4_3010] (word 7 (us []))) (fun t =>
      t.jobs.map (fun j => j.open_.map (fun g => g.map (fun x => x.bytes.length))) == [[[2], [2]]]) ∧
    gives (.evEnginePiece 50 [3]) (copyJob 1 0 0 [known 0x4_3000, toRead 0x4_3010] (word 7 (us []))) (fun t =>
      leNat (t.pocBytes (.device 0) 0x4_3010 2) == 7 && t.jobs.map (fun j => j.open_) == [[known 0x4_3000]]) ∧
    gives (.evEnginePiece 50 []) (copyJob 1 0x1_0000_2000 (-4) [] (us [])) (fun t => t.jobs.map (fun j => j.status) == [some (1, 0)]) ∧
    gives (.evEnginePiece 50 []) ({ copyJob 1 0x1_0000_2000 0x1_0000_3000 [] (us []) with poison := [(0x4_2000 / 8, true)] })
      (fun t => t.jobs.map (fun j => j.status) == [some (6, 0)]) ∧
    (us []).unitWalk 0 0 0x2_0000_2000 { rd := true } = .error 1 := by
  refine ⟨⟨?_, ?_, ?_, ?_, ?_, ?_, ?_, ?_, ?_, ?_, ?_, ?_, ?_⟩, ?_⟩ <;> decide +kernel

/-- A job whose source lies in a buffer that it may not read. -/
def barredJob : State := bufAt 0 1 (job [0x2_0001, 0x1000, 0x1_0000_3000, 0, 0, 0, 0, 0] fillShape false 0 none (us []))

theorem wit_CopyEngines_barred : ∃ j, barredJob.jobs = [j] ∧ InPiece j 0 ∧ SourceBarred barredJob j 0 := by
  refine ⟨_, rfl, by unfold InPiece; decide +kernel, by decide +kernel, by decide +kernel, 0, 0x1000,
    ⟨fun _ => 0, by decide +kernel, by decide +kernel, by decide +kernel⟩, by unfold ElemAddr; decide +kernel, 0,
    by decide +kernel, 3, by decide, ?_⟩
  refine ⟨by unfold Hits; decide +kernel, by decide +kernel, ?_⟩
  rintro ⟨-, o, h, -⟩
  exact absurd h (by rw [show barredJob.ops = [] by decide +kernel]; exact List.not_mem_nil)

/-- Hypotheses and results of SupervisorInstructions: the order of the checks of `icinv`, and a `tlbinv` that waits. -/
theorem wit_SupervisorInstructions_more :
    trapIs (.icinv ⟨0, 5, 6⟩) (sv [(5, nw 0), (6, 0x400_0001)]) 17 (nw 0) 0 ∧
    (let s := posted [storeEntry 0x4_0000] ((sv [(5, 0x1_0000_0000)]).modCore 0 (fun c => { c with tlb := [⟨0, 0x1_0000, 3, 0x4_003F, 0⟩] }))
     s.framesQuiet 0 (s.droppedFrames 0 0 (some 0x1_0000_0000)) = false ∧
       gives (.tlbinv ⟨0, 5, 6⟩) s (fun t => t.cur.state == .waiting .retry && t.me.tlb.length == 1)) := by decide +kernel

/-- Hypotheses and results of QueuesAndLaunches: a head that has passed its check, a late one, and a record that cannot be written; the
arbiter's order. -/
theorem wit_QueuesAndLaunches_more :
    (queued 1 (launchPacket 1) (us [])).headOf 0 0 = ((List.range 16).map (fun i => BitVec.ofNat 64 (leNat ((launchPacket 1).drop (8 * i) |>.take 8)))) ∧
    gives (.evDispatcherSelect 0) ({ queued 1 (launchPacket 0x101) (us []) with checked := [(0, 1)] }) (fun t => t.launches.length == 2) ∧
    gives (.evDispatcherSelect 0) ({ queued 1 ((launchPacket 0x201).set 32 1) (us []) with dclk := [(0, 5)] }) (fun t => t.launches.length == 1 &&
      qHolds t 0 0 == 0 && leNat (t.pocBytes (.device 0) 0x4_5008 8) == 0x0200_0000_0000_0000) ∧
    gives (.evDispatcherSelect 0) (queued 1 ((launchPacket 1).set 40 1) (us [])) (fun t => t.launches.length == 1 && (qCtl t 0 0).getLsbD 1) ∧
    gives (.evQueueDoorbell 0 0 1 0) ({ queued 3 [] (us []) with arbiter := [(0, 9)] }) (fun t => t.arbiter == [(0, 4)] && t.dclk == [(0, 1)]) ∧
    gives (.evQueueDoorbell 0 0 1 0) ({ queued 3 [] (us []) with arbiter := [(0, 2)] }) (fun t => t.arbiter == [(0, 4)] && t.dclk == []) := by decide +kernel

/-- The image slots of context 0 lie at 0x40_0000, and chorus 0 is out with this mark of phases that completed meanwhile. -/
def slotted (s : State) : State := { bound s with ctl := SMap.put (bound s).ctl (dctxRec 0 0 + 0x10) 0x40_0000#64 }

/-- Hypotheses and results of Preemption: a header word that does not stand, an image that is saved, and a buffer whose phase completed
while the core was out. -/
theorem wit_Preemption_slot :
    (slotted (us [])).headerStands 0x40_0000 = false ∧
    gives (.evChorusPreempt 0) (slotted (asked (us []))) (fun t => (t.core 0x1_0000).saved && t.launches.map (fun l => l.outs) == [[0]]) ∧
    gives (.evChorusRestore 0) (away ((owned (bound (bufAt 0x1_0000 2 (us [])))).modCore 0x1_0000 (fun c => { c with fills := [0x7F00] })))
      (fun t => (t.me.buf 3).state == 3 && (t.me.buf 3).owner == 0x1F && t.me.fills == []) ∧
    gives (.evChorusRestore 0) ({ owned (bound (us [])) with launches := [{ probeLaunch with outs := [0] }, { probeLaunch with serial := 1 }] })
      (fun t => t.launches.map (fun l => l.outs) == [[0], []]) ∧
    (slotted (us [])).mem.wf = true ∧ (∀ p ∈ (slotted (us [])).cores, p.2.tagWait = []) ∧ (slotted (us [])).images = [] ∧
    partOf (localKey 0x1_0000 0) ≠ 0x40_0000 := by decide +kernel

/-- An engine's packet of context 0, with granules of its piece or none, and a channel of that context. -/
def tearing (gs : List (List Granule)) : State :=
  let t := channel {} (job [1, 0x1_0000_2000, 0x1_0000_3000, 0, 0, 0, 0, 0] fillShape false 0 none (queued 3 [] (us [])))
  { t with ctl := SMap.put t.ctl (qAddr 0 0 + 8) 5#64, jobs := t.jobs.map (fun j => { j with open_ := gs }) }

/-- Hypotheses of CompletionAndTeardown: bindings and channels of the context. -/
theorem wit_CompletionAndTeardown_engines :
    (tearing []).boundTo 0 (bits ((tearing []).ctlReg (bindAt 0 0 + 8)) 63 48) = some (0, 0) ∧
    (tearing []).boundTo 0 ((tearing []).chanDctx 0 3) = some (0, 0) := by decide +kernel

/-- A packet of the context that has granules left is halted, its channel is off. -/
theorem wit_CompletionAndTeardown_halt :
    gives (.evTdcmdWrite 0 0 0) (owned (tearing [[⟨none, [1], ⟨.device 0, 0x4_3000⟩⟩]])) (fun t => t.jobs.map (fun j => j.halt) == [true] &&
      !t.chanEn 0 3 && t.launches.map (fun l => l.torn) == [true]) := by decide +kernel

/-- A packet of the context is left: the teardown is not complete. -/
theorem wit_CompletionAndTeardown_left :
    gives (.evTeardownComplete 0 0) ({ tearing [] with launches := [], tears := [⟨0, 0, 3, 4, 1⟩] }) (fun t => t.tears.length == 1) := by decide +kernel

/-- Hypotheses and results of PeerReplies: packets that waited; a link that goes down hands its packets on; a reply for another panel. -/
theorem wit_PeerReplies_held :
    gives (.evStolrusRetransmit 0 2) ({ us [] with links := [(0, { lanes := 4, unacked := [[1], [2]], held := [[3]] })] })
      (fun t => t.outputs == [.packet 0 [3]] && (t.link 0).held == []) ∧
    gives (.evLinkLaneLoss 0) ({ us [] with links := [(0, { lanes := 4, seq := 7, unacked := [List.replicate 32 0] })] })
      (fun t => (t.link 0).lanes == 0 && (t.link 0).seq == 7 && (t.link 0).unacked == []) ∧
    (panel2 (us [])).myPeer = some 2 ∧
    gives (.evStolrusWriteAcknowledgement 0 (hdr 6 3 0 0 0x1000) [] (tagOf (hdr 6 3 0 0 0x1000) [])) (peerStore (us []))
      (fun t => t.me.path.length == 1 && logType t == some 8) := by decide +kernel

/-- Hypotheses and results of Datagrams: the rest of a SEND that failed is dropped; a channel of a context that none is. -/
theorem wit_Datagrams_drop :
    gives (.evDatagramData ⟨0, frame (sealDg ⟨1, 0, 3, 0, 1, 2, 0, 0, 0⟩ (segBytes 0x1_0000_0010 (threes 8)))⟩ true) (channel { drop := true } (us []))
      (fun t => (t.chan 0 3).landing == [] && t.recvPsn 0 3 == 1) ∧
    gives (.evDatagramData ⟨0, data 0 0x1_0000_0010⟩ true) (channel { drop := true } (us [])) (fun t => (t.chan 0 3).landing.length == 1 && !(t.chan 0 3).drop) ∧
    ({ channel {} (us []) with ctl := SMap.put (channel {} (us [])).ctl (chanRec 0 3 + 0x10) 0x1_0405_0000#64 } : State).boundTo 0 256 = none ∧
    (∃ h segs, Received (channel {} (us [])) 0 1 (data 0 0x1_0000_0010) true h segs) ∧
    ((after (.evDatagramData ⟨0, data 0 0x1_0000_0010⟩ true) (channel {} (us []))).chan 0 3).landing ≠ [] := by
  refine ⟨by decide +kernel, by decide +kernel, by decide +kernel, ⟨⟨1, 0, 3, 0, 1, 3, 0, 0, 0⟩, [(0x1_0000_0010, threes 8)], ?_⟩, by decide +kernel⟩
  unfold Received
  decide +kernel

/-- Hypotheses and results of Ownership and ControlSpace: a transfer to the owner's own link; words of a nonce. -/
theorem wit_Ownership_own :
    gives (.evOwnxfer 0 0) (owned (us [])) (fun t => t == owned (us [])) ∧
    gives (.evControlSpaceWrite 5 (mg 0x2_0018) 9) (owned (us [])) (fun t => t.ctlReg (mg 0x2_0018) == 9 && t.attq == [] && t.logw == 0) ∧
    gives (.evControlSpaceWrite 5 (mg 0x2_0038) 9) (owned (us [])) (fun t => t.attq == [[0, 0, 0, 0, 0, 0, 0, 9]]) ∧
    gives (.evNscarveWrite 0 0 0 []) (idle (us [])) (fun t => SMap.get t.nsEra 0 0 == 0) := by decide +kernel

/-- Hypotheses and results of FetchingAndIssue: a unit that is busy, a full window. -/
theorem wit_FetchingAndIssue_unit :
    gateRefuses (.tzeroT ⟨0, 2, 6⟩) ((us []).modCtx 0 1 (fun c => { c with out := [outst 7 3 [] [] (.loads (.elems 0 false []))] })) (.wait .retry) ∧
    ((us []).modCtx 0 1 (fun c => { c with out := [outst 7 3 [] [] (.loads (.elems 0 false []))] })).busyUnits 0 = [.tilePort] ∧
    unitOf (.tzeroT ⟨0, 2, 6⟩) = some .tilePort ∧ unitOf (.add ⟨1, 2, 2⟩) = none ∧ (us []).busyUnits 0 = [] ∧
    privileged (.sret ⟨0, 5⟩) = true ∧ privileged (.add ⟨1, 2, 2⟩) = false := by decide +kernel

/-- Hypotheses and results of StepRunsTheDecodedInstruction for an instruction that the gate holds: the turn passes to eft 1, whose `nop`
issues. -/
theorem wit_StepRuns_stalled :
    stepGives ((fetches [0xC180]).modCtx 0 0 (fun c => { c with out := [outst 7 0 [] [] .reply] })) (fun t =>
      (t.ctx 0 0).pc == 0x1_0000_0000 && (t.ctx 0 0).state == .waiting .window && t.agenda == []) := by decide +kernel

/-! ## Readings of the second review -/

/-- A data error is recorded at a cell. -/
def erring (a : Nat) (s : State) : State := { s with poison := [(a / 8, true)] }

/-- The instruction that waits has ended with MCHK from this source. -/
def mchk (s : State) (src : Word) : Bool := s.cur.cause == 13 && s.cur.finfo == src && s.cur.post == [] && s.cur.out == []

/-- Two words of one granule, stored by one instruction, and one by another. -/
def mates : List PEntry :=
  [⟨99, 0, 0, ⟨.device 0, 0x4_0000⟩, .store [1, 1, 1, 1], 0⟩, ⟨98, 0, 0, ⟨.device 0, 0x4_0040⟩, .store [3], 0⟩,
    ⟨99, 0, 0, ⟨.device 0, 0x4_0004⟩, .store [2, 2, 2, 2], 0⟩]

/-- Hypotheses and results of QueuedWritesPerform: a load from the L1, one whose line is not there, loads whose data hold an error, the
writes of a granule. -/
theorem wit_QueuedWritesPerform_more :
    gives (.evLoadSatisfy 0 0 0 2) (lineIn 0x1000 (5 * 2 ^ 64) (loadWaits (.device 0) 0x4_0008 (us [])))
      (fun t => t.cur.post == [] && t.cur.out == [outst 7 0 [] [.g 6 5] .ready]) ∧
    gives (.evLoadSatisfy 0 0 0 2) (lineIn 0x1001 5 (loadWaits (.device 0) 0x4_0008 (us []))) (fun t => t.cur.post.length == 1) ∧
    gives (.evLoadSatisfy 0 0 0 2) (erring (l1Key 0 0x4_0008) (lineIn 0x1000 0 (loadWaits (.device 0) 0x4_0008 (us []))))
      (fun t => mchk t 2) ∧
    gives (.evLoadSatisfy 0 0 0 0) (erring (llcKey 0x4_0008) (loadWaits (.device 0) 0x4_0008 (us []))) (fun t => mchk t 3) ∧
    gives (.evLoadSatisfy 0 0 0 1) (erring 0x4_0008 (loadWaits (.device 0) 0x4_0008 (us []))) (fun t => mchk t 4) ∧
    gives (.evWriteLeavePostQueue 0 0 0) (posted mates (us [])) (fun t => t.cur.post.map (fun e => e.id) == [98] &&
      t.me.path.map (fun w => w.b) == [[1, 1, 1, 1], [2, 2, 2, 2]]) ∧
    gives (.evWritePerform 0 0) (after (.evWriteLeavePostQueue 0 0 0) (posted mates (us []))) (fun t =>
      leNat (t.rawBytes 0x4_0000 8) == 0x0202020201010101 && t.me.path == []) := by decide +kernel

/-- A mode-11 page whose thread 0 has its threshold at n. -/
def threshold (n : Nat) (s : State) : State := (leafIs 0x4_00FF s).modDie 0 (fun e => { e with mthr := [(0, BitVec.ofNat 64 n)] })

/-- Hypotheses and results of WalksAndAccessChecks for the counter of a mode-11 page: below its threshold, and at it. -/
theorem wit_WalksAndAccessChecks_counts :
    gives (.ldD ⟨0, 0, 0, 6, 5, 0⟩) (threshold 2 (us [(5, 0x1_0000_0000)])) (fun t => (t.die 0).faultIn == [] && (t.die 0).tlb.map (fun e => e.count) == [1]) ∧
    gives (.stD ⟨0, 0, 0, 6, 5, 0⟩) (threshold 1 (us [(5, 0x1_0000_0000)])) (fun t =>
      (t.die 0).faultIn == [⟨true, 0, 0x1_0000, 2, 0, 0, 0⟩] && (t.die 0).tlb.map (fun e => e.count) == [0]) := by decide +kernel

/-- The ring lies at 0x14_0000, on die 1, which has failed. -/
def lostRing (s : State) : State := { lostHome s with ctl := SMap.put (lostHome s).ctl (qAddr 0 0) 0x14_0000#64 }

/-- Results of EventsInTheInbox and QueuesAndLaunches: a spill area that cannot be written; a launch with pre set that lacks one chorus, one
whose deadline comes later, and one that asked for it before; a ring slot that cannot be reached. -/
theorem wit_spill_victims_ring :
    gives (.evEventArrival 0 1) (fullInbox 0x2_0000_0000 (sends 1 (us []))) (fun t => (t.core 1).spf && (t.core 1).nacks == 1 &&
      t.me.sendq.length == 1 && (t.core 1).spillN == 0) ∧
    gives (.evDispatcherSelect 0) (queued 1 ((launchPacket (0x401 + 2047 * 2 ^ 20)).set 32 1) (us [])) (fun t =>
      t.launches.map (fun l => l.stops) == [[0]] && qHolds t 0 0 == 1) ∧
    gives (.evDispatcherSelect 0) (queued 1 (launchPacket (0x401 + 2047 * 2 ^ 20)) (us [])) (fun t =>
      t.launches.map (fun l => l.stops) == [[]] && qHolds t 0 0 == 1) ∧
    gives (.evDispatcherSelect 0) (asked (queued 1 ((launchPacket (0x401 + 2047 * 2 ^ 20)).set 32 1) (us []))) (fun t =>
      t.launches.map (fun l => l.stops) == [[0]]) ∧
    trapIs (.launch ⟨0, 6, 5, 7⟩) (lostRing (queued 3 [] (us [(5, nw 0x1000)]))) 13 0x14_0180 3 := by
  decide +kernel

/-- Results of CombiningAndSync: a lost record, of which A's part may still be handed on; the copy that is dropped leaves the mask. -/
theorem wit_CombiningAndSync_lost :
    gives (.evDecombineReply 9 true) decombining (fun t => t.recs == [] && t.logw == 1 && t.cur.post.length == 2) ∧
    gives (.evDecombineReply (2 ^ 64 + 9) true) decombining (fun t => t.recs == [] && t.logw == 1 && t.cur.post.length == 1) ∧
    gives (.evSyncCopyDrop 3 0x1000) (syncCopy 3 0) (fun t => !SMap.has (t.die 0).homes 0x1000) ∧
    gives (.evSyncCopyDrop 2 0x1000) (syncCopy 3 0) (fun t => SMap.get (t.die 0).homes 0 0x1000 == 8) := by decide +kernel

/-- Results of MatrixMultiply, LongArrays and VectorMemory: a redundant gang without a partner row; a drained value that rounds to zero; a
`vspld` whose turn leaves its reads to events. -/
theorem wit_gang_drain_sparse :
    gives (.evGangComplete 5) (let s := gangOf 6 [1, 2] none (us []); { s with gangs := s.gangs.map (fun g => { g with red := true }) })
      (fun t => t.gangs == [] && (t.ctx 1 0).cause == 10 && (t.ctx 2 0).finfo == 0x6_0000_0108) ∧
    gives (.mdrain ⟨0, 0, false, 2⟩) (accIs 0 { v := -1 } (us [])) (fun t => t.me.tileRow 2 0 == 0) ∧
    gives (.vspld ⟨0, 0, 0, 9, 5, 0, 0⟩) ((loc (block (header 0 8 2 128) 2 [] (us [(5, nw 0x100)])) 0x110 (leBytes 8 (2 ^ 62) ++ [7, 9])).takeUp 0 0
      true [0xF840#16, 0#16] []) (fun t => t.cur.post.length == 1 && t.cur.out.length == 1) := by
  decide +kernel

/-- Results of ShapesAndAppends and CopyEngines: a claim on a peer's page that forbids atomics; a reserved byte of a dimension; a granule
whose source holds an error. -/
theorem wit_appends_more :
    trapIs (.qput ⟨0, 7, 5, 6⟩) ((leafIs 0x0010_0000_0004_033F (peerPage (us [(5, 0x1_0000_0000), (6, nw 0x100)]))).setRaws (peerKey 1 0x4_0018) [6]) 7 0x1_0000_0000 0x033F_1303 ∧
    trapIs (.shape ⟨0, 5, 6⟩) (loc (us [(5, nw 0x2000), (6, nw 0x100)]) 0x100 ((descriptor 2 2 ++ leBytes 4 4 ++ leBytes 4 1).set 12 0 ++ leBytes 16 0)) 12 (nw 0x100) 0x17 ∧
    gives (.evEnginePiece 50 [0]) (erring 0x4_0000 (copyJob 1 0 0 [toRead 0x4_3010] (us []))) (fun t =>
      t.jobs.map (fun j => (j.status, j.open_)) == [(some (6, 0), [])]) := by decide +kernel

/-- Results of Starts: steps 2 and 6 of a start, by steps of the machine. -/
theorem wit_Starts_steps :
    stepGives ({ starting 2 0 (us []) with agenda := [.startStep 5 []] }) (fun t => t.ctlReg (mg 8) == 0x3E_0130 && (t.die 0).dead && !(t.die 1).dead) ∧
    stepGives ({ starting 6 0 (us []) with agenda := [.startStep 5 [64]] }) (fun t => t.ctlReg (mg 8) == 0x40_0170 &&
      t.ctlReg (hashBlock 0) == 64 && t.ctlReg (hashBlock 0 + 0x100 + 8 * 63) == 63) ∧
    TestsFail { starting 2 0 (us []) with failed := [97] } 0 := by
  refine ⟨by decide +kernel, by decide +kernel, .inl ⟨97, List.mem_singleton.mpr rfl, by decide⟩⟩

/-- An atomic add to peer 1 in the fabric, with its request. -/
def sentAdd (s : State) : State :=
  { (panel2 s).modCur (fun c => { c with
      post := [⟨7, 0, 0x4_0000_0000, ⟨.peer 0 0, peerKey 1 0x1000⟩, .sent (.rmw .add 8 1) (.g 6), 100⟩], out := [outst 7 0 [] [] .reply] }) with
    reqs := [⟨0, 0, ⟨.peer 0 0, peerKey 1 0x1000⟩, 1, [⟨0, 0, 7, .rmw .add 8 1, 0x4_0000_0000, .core⟩], false, 0⟩], serial := 9 }

/-- Results of PeerReplies and ReliabilityEvents: a refusal of a request that is in the fabric; an I/O die that fails. -/
theorem wit_refused_sent :
    gives (.evStolrusRefusal 0 (hdr 7 2 0 0 0x1000) [] (tagOf (hdr 7 2 0 0 0x1000) [])) (sentAdd (us [])) (fun t =>
      t.cur.cause == 13 && t.cur.finfo == 5 && t.cur.post == [] && t.reqs == []) ∧
    gives (.evDieFailure 96) (us []) (fun t => t.launches.map (fun l => l.torn) == [false] && logType t == some 11 && t.failed == [96]) ∧
    gives (.evDieFailure 95) (us []) (fun t => t.failed == []) := by decide +kernel

end Sys2Proof.Tests
end

section
/-! Rules that proofs about single instructions share: how an instruction's checks decide its outcome, how an outcome satisfies `Traps`,
`Ends` and `Leads`, what the start of a context gives, and what the end of a wait gives. -/

namespace Sys2Proof.Proofs

open Sys2Proof.Machine Sys2Proof.Safety Sys2Proof.Laws

/-! ## Checks and outcomes -/

section
variable (s : State)

/-- A check that comes first decides between the rest of the instruction and its own stop. -/
@[simp] theorem run_must (b : Bool) (e : Stop) (f : Unit → Except Stop State) :
    s.run (must b e >>= f) = if b = true then s.run (f ()) else s.stop e := by
  cases b <;> rfl

@[simp] theorem run_ok (t : State) : s.run (.ok t) = .next t := rfl

@[simp] theorem stop_trap (c : Cause) (a x : Word) : s.stop (.trap c a x) = .next (s.raise c a x) := rfl

@[simp] theorem stop_wait (w : Wait) :
    s.stop (.wait w) = .next (s.modCur (fun c => { c with state := .waiting w, wlen := s.len, wuses := s.now.uses })) := rfl

end

/-- An outcome that is a next state has the properties of that state. -/
theorem leads_of_eq {o : Out} {p : State → Prop} {t : State} (h : o = .next t) (ht : p t) : Leads o p := ⟨t, h, ht⟩

/-- An instruction that raises a cause traps with its code (R219). -/
theorem traps_of_raise {i : Instr} {s : State} {c : Cause} {a x : Word} (h : exec i s = .next (s.raise c a x)) :
    Traps i s c.code a x :=
  leads_of_eq h (raise_trapped s c a x)

/-- An instruction whose results are computed ends with its writes (R69, R180). -/
theorem ends_of_endLong {i : Instr} {s : State} {l : BitVec 4} {ws : List RegWrite} (h : exec i s = .next (s.endLong l ws)) :
    Ends i s l ws :=
  leads_of_eq h (endLong_ended s l ws)

/-! ## The lowest IDLE eft (R221) -/

theorem idleEft_eq_none {s : State} {h : Nat} (busy : ∀ j, 1 ≤ j → j ≤ 10 → (s.ctx h j).state ≠ .idle) :
    s.idleEft h = none := by
  simp only [State.idleEft, List.find?_map, Option.map_eq_none_iff, List.find?_eq_none, List.mem_range]
  intro i hi
  simpa using busy (i + 1) (by omega) (by omega)

theorem idleEft_eq_some {s : State} {h e : Nat} (h1 : 1 ≤ e) (h10 : e ≤ 10) (idle : (s.ctx h e).state = .idle)
    (busy : ∀ j, 1 ≤ j → j < e → (s.ctx h j).state ≠ .idle) : s.idleEft h = some e := by
  obtain ⟨i, rfl⟩ : ∃ i, e = i + 1 := ⟨e - 1, by omega⟩
  simp only [State.idleEft, List.find?_map, Option.map_eq_some_iff]
  refine ⟨i, List.find?_range_eq_some.mpr ⟨by simpa using idle, List.mem_range.mpr (by omega), fun j hj => ?_⟩, rfl⟩
  simpa using busy (j + 1) (by omega) (by omega)

/-! ## Contexts -/

theorem onlyCtx_setCtx (s : State) (h k : Nat) (c : Ctx) : OnlyCtx s (s.setCtx h k c) h k :=
  ⟨rfl, fun _ _ ne => ctx_setCtx_other s c ne, fun _ _ => rfl⟩

/-- What a `g` register reads after a write, by the register that is read (R9). -/
theorem gr_setG_of_read (c : Ctx) (d r : Reg) (x : Word) : (c.setG d x).gr r = if r = d ∧ r ≠ 0#5 then x else c.gr r := by
  rw [gr_setG]
  exact if_congr (and_congr_right fun e => e ▸ Iff.rfl) rfl rfl

/-- Registers that hold nothing read zero. -/
theorem gr_of_no_g {c : Ctx} (r : Reg) (empty : c.g = []) : c.gr r = 0#64 := by simp [Ctx.gr, empty]

/-- `begin` starts a context as R10 says. -/
theorem begin_started (s : State) (h k : Nat) (entry g2 g3 g30 : Word) (byStart : Bool) (layer : Option Nat) :
    Started s (s.begin h k entry g2 g3 g30 byStart layer) h k entry g2 g3 g30 byStart layer := by
  refine ⟨onlyCtx_setCtx s h k _, ?_, fun r => ?_⟩
  · simp only [State.begin, ctx_setCtx_same]
    rfl
  · simp only [State.begin, ctx_setCtx_same, gr_setG, Core.stackTop]
    rw [gr_of_no_g _ rfl]
    by_cases h2 : r = 2#5
    · simp [h2]
    by_cases h3 : r = 3#5
    · simp [h3]
    by_cases h30 : r = 30#5
    · simp [h30]
    simp [h2, h3, h30]

/-- The end of a wait that delivers one register (R12): only that register, the state and the pc of the context change. -/
theorem endWait_writesG (s : State) (h k : Nat) (d : Reg) (x : Word) :
    OnlyCtx s (s.endWait h k [.g d x]) h k ∧
      (s.endWait h k [.g d x]).ctx h k = { s.ctx h k with
        g := ((s.endWait h k [.g d x]).ctx h k).g, state := .ready, pc := (s.ctx h k).pc + (s.ctx h k).wlen } ∧
      ∀ r, ((s.endWait h k [.g d x]).ctx h k).gr r = if r = d ∧ r ≠ 0#5 then x else (s.ctx h k).gr r := by
  refine ⟨onlyCtx_setCtx s h k _, ?_, fun r => ?_⟩
  · simp only [State.endWait, ctx_modCtx_same, Ctx.writes, List.foldl, Ctx.write, Ctx.advance, Ctx.setG]
    split <;> rfl
  · simp only [State.endWait, ctx_modCtx_same, Ctx.writes, List.foldl, Ctx.write]
    exact gr_setG_of_read (s.ctx h k) d r x

end Sys2Proof.Proofs
end

section
/-! `brk` and `sys` (R205, R224), and the context instructions `start`, `join` and `ctxq` (R221 .. R223). -/

namespace Sys2Proof.Proofs

open Sys2Proof.Machine Sys2Proof.Safety Sys2Proof.Laws

section
variable (s : State)
theorem exec_brk (o : BrkOps) : exec (.brk o) s = .next (s.raise .brk 0#64 (o.k.setWidth 64)) := rfl
theorem exec_sys (o : L0) : exec (.sys o) s = .next (s.raise .sys 0#64 0#64) := rfl
theorem exec_start (o : L4) : exec (.start o) s = execStart o s := rfl
theorem exec_join (o : L2) : exec (.join o) s = execJoin o s := rfl
theorem exec_ctxq (o : L2) : exec (.ctxq o) s = execCtxq o s := rfl
theorem exec_evJoinWake (h k : Nat) : exec (.evJoinWake h k) s = execEvJoinWake h k s := rfl
end

/-! ## `brk` and `sys` -/

/-- Three bits of a register field need no XR. -/
theorem hi2_setWidth : ∀ x : BitVec 3, hi2 (x.setWidth 5) = 0#2 := by
  decide

/-- The words of an instruction from its fields. -/
theorem encode_of_toRaw {i : Instr} {r : Raw} (h : toRaw i = some r) : encode i = r.words := by
  rw [encode, h]

/-- `brk` is its base word alone: its code fills the register and function fields of the base word (R205). -/
theorem encode_brk_length (o : BrkOps) : (encode (.brk o)).length = 1 := by
  have noXR : xrOf 7#5 ((o.k.extractLsb' 6 3).setWidth 5) ((o.k.extractLsb' 3 3).setWidth 5) 0#4 = none :=
    if_pos ⟨by decide, hi2_setWidth _, hi2_setWidth _, rfl⟩
  rw [encode_of_toRaw (i := .brk o) rfl, Raw.words]
  simp [noXR]

/-- `sys` is XP and a base word that holds no operand (R224). -/
theorem encode_sys (o : L0) : encode (.sys o) = [(⟨2, o.l, 0⟩ : XP).word, 0x3003#16] := by
  have noXR : xrOf 0#5 0#5 0#5 0#4 = none := by decide
  have base : (⟨3#4, lo3 0#5, lo3 0#5, lo3 0#5, 3#3⟩ : Base).word = 0x3003#16 := by decide
  rw [encode_of_toRaw (i := .sys o) rfl, Raw.words]
  simp [noXR, base]

/-- Settles O5: each raises its cause, and the fields of its encoding need no XS, XR or XI. -/
theorem breakAndSystemCall : Obligations.BreakAndSystemCall := by
  refine ⟨fun o s => ⟨traps_of_raise (exec_brk s o), encode_brk_length o⟩, fun o s => ⟨traps_of_raise (exec_sys s o), ?_⟩⟩
  simp [encode_sys]

/-! ## `start` (R221) -/

section
variable (o : L4) (s : State)

theorem exec_start_of_odd (odd : (s.g o.a).getLsbD 0 = true) :
    exec (.start o) s = .next (s.raise .misalign (s.g o.a) 0x301#64) := by
  simp only [exec_start, execStart, run_must, odd, Bool.not_true, Bool.false_eq_true, if_false, misalign, stop_trap]

theorem exec_start_of_high (even : (s.g o.a).getLsbD 0 = false) (high : NW ≤ (s.g o.a).toNat) :
    exec (.start o) s = .next (s.raise .illegal 0 11#64) := by
  simp only [exec_start, execStart, run_must, even, Bool.not_false, if_true, decide_eq_true_eq,
    if_neg (Nat.not_lt.mpr high), illegal11, stop_trap]

theorem exec_start_of_none (even : (s.g o.a).getLsbD 0 = false) (low : (s.g o.a).toNat < NW) (noIdle : s.idleEft s.now.h = none) :
    exec (.start o) s = .next (s.endLong o.l [.g o.d 0#64]) := by
  simp only [exec_start, execStart, run_must, even, Bool.not_false, if_true, decide_eq_true_eq,
    if_pos low, noIdle, run_ok]

theorem exec_start_of_some {e : Nat} (even : (s.g o.a).getLsbD 0 = false) (low : (s.g o.a).toNat < NW)
    (lowest : s.idleEft s.now.h = some e) :
    exec (.start o) s = .next ((s.begin s.now.h e (s.g o.a) (s.g o.b) (s.g (cReg o.c)) 0#64 true none).endLong o.l
      [.g o.d (BitVec.ofNat 64 e)]) := by
  simp only [exec_start, execStart, run_must, even, Bool.not_false, if_true, decide_eq_true_eq,
    if_pos low, lowest, run_ok]

end

/-! ## `join` (R222) -/

theorem joinReady_iff (s : State) (h e : Nat) :
    s.joinReady h e = true ↔ (s.ctx h e).state = .idle ∧ s.canStart h = false := by
  simp [State.joinReady]

section
variable (o : L2) (s : State)

theorem exec_join_of_invalid (bad : (s.g o.a).toNat = 0 ∨ 10 < (s.g o.a).toNat ∨ (s.g o.a).toNat = s.now.k) :
    exec (.join o) s = .next (s.raise .illegal 0 11#64) := by
  have refused : ¬((decide (1 ≤ (s.g o.a).toNat ∧ (s.g o.a).toNat ≤ 10) && (s.g o.a).toNat != s.now.k) = true) := by
    simp only [Bool.and_eq_true, decide_eq_true_eq, bne_iff_ne]
    omega
  simp only [exec_join, execJoin, run_must, if_neg refused]
  rfl

variable (h1 : 1 ≤ (s.g o.a).toNat) (h10 : (s.g o.a).toNat ≤ 10) (other : (s.g o.a).toNat ≠ s.now.k)
include h1 h10 other

theorem exec_join_of_ready (ready : s.joinReady s.now.h (s.g o.a).toNat = true) :
    exec (.join o) s = .next (s.endLong o.l [.g o.d (s.ctx s.now.h (s.g o.a).toNat).result]) := by
  simp [exec_join, execJoin, h1, h10, other, ready]

theorem exec_join_of_not_ready (unready : s.joinReady s.now.h (s.g o.a).toNat = false) :
    exec (.join o) s = .next (s.modCur (fun c =>
      { c with state := .waiting (.join o.d (s.g o.a).toNat), wlen := s.len, wuses := s.now.uses })) := by
  simp [exec_join, execJoin, h1, h10, other, unready]

end

theorem exec_evJoinWake_of_ready {s : State} {h k e : Nat} {d : Reg} (core : h < 65536)
    (waits : (s.ctx h k).state = .waiting (.join d e)) (ready : s.joinReady h e = true) :
    exec (.evJoinWake h k) s = .next (s.endWait h k [.g d (s.ctx h e).result]) := by
  simp [exec_evJoinWake, execEvJoinWake, waits, core, ready]

/-! ## `ctxq` (R223) -/

theorem code_lt (c : CtxState) : c.code < 4 := by
  cases c <;> simp [CtxState.code]

/-- The fields of the snapshot word. -/
theorem snapshot_fields : ∀ st evt : Bool, ∀ n < 4,
    let x := BitVec.ofNat 64 ((if st then 8 else 0) + (if evt then 4 else 0) + n)
    bits x 63 4 = 0 ∧ x.getLsbD 3 = st ∧ x.getLsbD 2 = evt ∧ bits x 1 0 = n := by
  decide

section
variable (o : L2) (s : State)

theorem exec_ctxq_of_high (high : 10 < (s.g o.a).toNat) : exec (.ctxq o) s = .next (s.raise .illegal 0 11#64) := by
  simp [exec_ctxq, execCtxq, Nat.not_le.mpr high, illegal11]

theorem exec_ctxq_of_le (low : (s.g o.a).toNat ≤ 10) :
    exec (.ctxq o) s = .next (s.endLong o.l [.g o.d (BitVec.ofNat 64
      ((if (s.ctx s.now.h (s.g o.a).toNat).byStart then 8 else 0) + (if (s.ctx s.now.h (s.g o.a).toNat).layer.isSome then 4 else 0) +
        (if (s.g o.a).toNat = s.now.k then 1 else (s.ctx s.now.h (s.g o.a).toNat).state.code)))]) := by
  simp [exec_ctxq, execCtxq, low]

end

/-! ## The obligation on the three -/

/-- Settles O9, by the cases of each instruction's checks (log entry 13 is the reading of `joinReady`: the dispatcher must have nothing to
start). -/
theorem startJoinAndSnapshot : Obligations.StartJoinAndSnapshot := by
  refine ⟨?started, ?none, ?odd, ?high, ?join, ?wake, ?snapshot⟩
  case started =>
    intro o s e even low _ h1 h10 idle busy
    have lowest : s.idleEft s.now.h = some e := idleEft_eq_some h1 h10 idle busy
    exact leads_of_eq (exec_start_of_some o s even low lowest) ⟨_, begin_started .., endLong_ended ..⟩
  case none =>
    intro o s even low busy
    exact ends_of_endLong (exec_start_of_none o s even low (idleEft_eq_none busy))
  case odd => exact fun o s odd => traps_of_raise (exec_start_of_odd o s odd)
  case high => exact fun o s even high => traps_of_raise (exec_start_of_high o s even high)
  case join =>
    refine fun o s => ⟨fun bad => traps_of_raise (exec_join_of_invalid o s bad), fun h1 h10 other =>
      ⟨fun ready => ?_, fun notReady => ?_⟩⟩
    · exact ends_of_endLong (exec_join_of_ready o s h1 h10 other ((joinReady_iff ..).mpr ready))
    · have unready := Bool.eq_false_iff.mpr fun ready => notReady ((joinReady_iff ..).mp ready)
      exact leads_of_eq (exec_join_of_not_ready o s h1 h10 other unready) ⟨onlyCur_modCur .., cur_modCur ..⟩
  case wake =>
    intro h k d e s core waits idle free
    exact leads_of_eq (exec_evJoinWake_of_ready core waits ((joinReady_iff ..).mpr ⟨idle, free⟩)) (endWait_writesG ..)
  case snapshot =>
    refine fun o s => ⟨fun high => traps_of_raise (exec_ctxq_of_high o s high), fun low => ?_⟩
    have code : (if (s.g o.a).toNat = s.now.k then 1 else (s.ctx s.now.h (s.g o.a).toNat).state.code) < 4 := by
      split
      · decide
      · exact code_lt _
    exact ⟨_, ends_of_endLong (exec_ctxq_of_le o s low), snapshot_fields _ _ _ code⟩

end Sys2Proof.Proofs
end

section
/-! Floating point: the real value of a decoded number, and the integer that `roundAt` rounds to (R27, R44). -/

namespace Sys2Proof.Proofs

open Sys2Proof.Machine Sys2Proof.Safety

/-! ## The value of a finite number -/

/-- The real number (-1)^s × m × 2^e. -/
noncomputable def finVal (s : Bool) (m : Nat) (e : Int) : ℝ := (if s = true then -1 else 1) * (m : ℝ) * (2 : ℝ) ^ e

section
variable (s t : Bool) (m n : Nat) (e d : Int)

@[simp] theorem val_fin (x : ℝ) : Val (.fin s m e) x ↔ x = finVal s m e := by
  constructor
  · rintro ⟨s', m', e', same, rfl⟩
    cases same
    rfl
  · exact fun h => ⟨s, m, e, rfl, h⟩

@[simp] theorem not_val_nan (x : ℝ) : ¬Val .nan x := fun ⟨_, _, _, h, _⟩ => FVal.noConfusion h

@[simp] theorem not_val_inf (x : ℝ) : ¬Val (.inf s) x := fun ⟨_, _, _, h, _⟩ => FVal.noConfusion h

theorem two_zpow_pos : (0 : ℝ) < (2 : ℝ) ^ e := by positivity

theorem abs_finVal : |finVal s m e| = (m : ℝ) * (2 : ℝ) ^ e := by
  have h : (0 : ℝ) ≤ (m : ℝ) * (2 : ℝ) ^ e := by positivity
  cases s <;> simp [finVal, abs_of_nonneg h, neg_mul]

theorem finVal_eq_zero : finVal s m e = 0 ↔ m = 0 := by
  rw [← abs_eq_zero, abs_finVal, mul_eq_zero, Nat.cast_eq_zero, or_iff_left (two_zpow_pos e).ne']

@[simp] theorem finVal_zero : finVal s 0 e = 0 := (finVal_eq_zero s 0 e).mpr rfl

theorem finVal_mul : finVal s m e * finVal t n d = finVal (s != t) (m * n) (e + d) := by
  rw [finVal, finVal, finVal, zpow_add₀ two_ne_zero]
  cases s <;> cases t <;> simp <;> ring

variable {m}

theorem finVal_lt_zero (nonzero : m ≠ 0) : finVal s m e < 0 ↔ s = true := by
  have pos : (0 : ℝ) < (m : ℝ) * (2 : ℝ) ^ e := by positivity
  cases s <;> simp [finVal, pos, pos.le]

end

/-- A natural number over a lower power of two. -/
theorem natCast_mul_zpow_sub (m : Nat) {e u : Int} (le : u ≤ e) :
    ((m * 2 ^ (e - u).toNat : Nat) : ℝ) * (2 : ℝ) ^ u = (m : ℝ) * (2 : ℝ) ^ e := by
  have same : (2 : ℝ) ^ (e - u).toNat = (2 : ℝ) ^ (e - u) := by
    rw [← zpow_natCast, Int.toNat_of_nonneg (by omega)]
  rw [Nat.cast_mul, Nat.cast_pow, Nat.cast_ofNat, same, mul_assoc, ← zpow_add₀ two_ne_zero, sub_add_cancel]

theorem sigAt_mul_zpow (s : Bool) (m : Nat) {e u : Int} (le : u ≤ e) : (sigAt s m e u : ℝ) * (2 : ℝ) ^ u = finVal s m e := by
  rw [sigAt, finVal, Int.cast_mul, Int.cast_natCast, mul_assoc, natCast_mul_zpow_sub m le]
  cases s <;> simp

/-! ## Rounding to an integer (R44) -/

section
variable {mode : RMode} {s : Bool} {y : ℝ} {q : Nat}

/-- A rounded number lies within one of the number. -/
theorem abs_sub_lt_one_of_roundsInt (h : RoundsInt mode s y q) : |(q : ℝ) - y| < 1 := by
  rw [abs_lt]
  cases mode <;> cases s <;> simp only [RoundsInt, abs_le] at h <;> constructor <;> linarith [h.1, h.2]

/-- Rounding does not pass an integer from below. -/
theorem roundsInt_le {n : Nat} (h : RoundsInt mode s y q) (le : y ≤ n) : q ≤ n := by
  have near := (abs_lt.mp (abs_sub_lt_one_of_roundsInt h)).2
  have : (q : ℝ) < ((n + 1 : Nat) : ℝ) := by push_cast; linarith
  exact Nat.lt_succ_iff.mp (by exact_mod_cast this)

/-- Rounding does not pass an integer from above. -/
theorem le_roundsInt {n : Nat} (h : RoundsInt mode s y q) (le : n ≤ y) : n ≤ q := by
  have near := (abs_lt.mp (abs_sub_lt_one_of_roundsInt h)).1
  have : (n : ℝ) < ((q + 1 : Nat) : ℝ) := by push_cast; linarith
  exact Nat.lt_succ_iff.mp (by exact_mod_cast this)

end

/-- An integer rounds to itself. -/
theorem roundsInt_self (mode : RMode) (s : Bool) (q : Nat) : RoundsInt mode s (q : ℝ) q := by
  cases mode <;> cases s <;> norm_num [RoundsInt]

/-- Whether a mode rounds q + ρ up, for 0 ≤ ρ < 1. -/
def RoundsUp (mode : RMode) (s : Bool) (q : Nat) (ρ : ℝ) : Prop :=
  match mode with
  | .rne => 1 / 2 < ρ ∨ ρ = 1 / 2 ∧ q % 2 = 1
  | .rtz => False
  | .rdn => s = true ∧ ρ ≠ 0
  | .rup => s = false ∧ ρ ≠ 0
  | .rna => 1 / 2 ≤ ρ

section
variable {mode : RMode} {s : Bool} {q : Nat} {ρ : ℝ}

theorem roundsInt_succ_of_roundsUp (lt : ρ < 1) (up : RoundsUp mode s q ρ) (nonneg : 0 ≤ ρ) :
    RoundsInt mode s (q + ρ) (q + 1) := by
  have distance : ((q + 1 : Nat) : ℝ) - (q + ρ) = 1 - ρ := by push_cast; ring
  have nearest (half : 1 / 2 ≤ ρ) : |((q + 1 : Nat) : ℝ) - (q + ρ)| ≤ 1 / 2 := by
    rw [distance, abs_of_pos (by linarith)]; linarith
  have tie (eq : |((q + 1 : Nat) : ℝ) - (q + ρ)| = 1 / 2) : ρ = 1 / 2 := by
    rw [distance, abs_of_pos (by linarith)] at eq; linarith
  cases mode with
  | rne =>
    refine ⟨nearest ?_, fun eq => ?_⟩
    · rcases up with h | h <;> linarith
    · rcases up with h | h
      · linarith [tie eq]
      · omega
  | rtz => exact up.elim
  | rdn =>
    obtain ⟨rfl, ne⟩ := up
    have pos := lt_of_le_of_ne nonneg (Ne.symm ne)
    exact ⟨by linarith, by push_cast; linarith⟩
  | rup =>
    obtain ⟨rfl, ne⟩ := up
    have pos := lt_of_le_of_ne nonneg (Ne.symm ne)
    exact ⟨by linarith, by push_cast; linarith⟩
  | rna => exact ⟨nearest up, fun _ => by push_cast; linarith⟩

theorem roundsInt_of_not_roundsUp (nonneg : 0 ≤ ρ) (lt : ρ < 1) (down : ¬RoundsUp mode s q ρ) :
    RoundsInt mode s (q + ρ) q := by
  have distance : |(q : ℝ) - (q + ρ)| = ρ := by rw [sub_add_cancel_left, abs_neg, abs_of_nonneg nonneg]
  cases mode with
  | rne =>
    simp only [RoundsUp, not_or, not_lt, not_and] at down
    exact ⟨distance.trans_le down.1, fun eq => by have := down.2 (distance.symm.trans eq); omega⟩
  | rtz => exact ⟨by linarith, by linarith⟩
  | rdn =>
    cases s with
    | false => exact ⟨by linarith, by linarith⟩
    | true =>
      have zero : ρ = 0 := by simpa [RoundsUp] using down
      exact ⟨by linarith, by linarith⟩
  | rup =>
    cases s with
    | true => exact ⟨by linarith, by linarith⟩
    | false =>
      have zero : ρ = 0 := by simpa [RoundsUp] using down
      exact ⟨by linarith, by linarith⟩
  | rna =>
    simp only [RoundsUp, not_le] at down
    exact ⟨distance.trans_le down.le, fun eq => by linarith⟩

end

/-! ## `roundAt` -/

/-- The part of a magnitude below its significand: 0 < δ < 1 when sticky, else 0. -/
structure StickyPart (sticky : Bool) (δ : ℝ) : Prop where
  nonneg : 0 ≤ δ
  lt_one : δ < 1
  ne_zero_iff : δ ≠ 0 ↔ sticky = true

theorem stickyPart_zero : StickyPart false 0 := ⟨le_rfl, one_pos, by simp⟩

/-- How `roundAt` decides to round up, when it shifts `r` out. -/
def bitsUp (mode : RMode) (s sticky : Bool) (q r half : Nat) : Bool :=
  match mode with
  | .rne => decide (half < r) || (r == half && (sticky || q % 2 == 1))
  | .rtz => false
  | .rdn => s && (r != 0 || sticky)
  | .rup => !s && (r != 0 || sticky)
  | .rna => decide (half ≤ r)

theorem roundAt_of_le {mode : RMode} {s : Bool} {m : Nat} {e u : Int} (sticky : Bool) (le : u ≤ e) :
    roundAt mode s m e sticky u = (m * 2 ^ (e - u).toNat, sticky) := if_pos le

theorem roundAt_of_lt {mode : RMode} {s : Bool} {m : Nat} {e u : Int} (sticky : Bool) {k : Nat} (lt : u = e + (k + 1)) :
    roundAt mode s m e sticky u =
      (if bitsUp mode s sticky (m / 2 ^ (k + 1)) (m % 2 ^ (k + 1)) (2 ^ k) = true then m / 2 ^ (k + 1) + 1 else m / 2 ^ (k + 1),
        m % 2 ^ (k + 1) != 0 || sticky) := by
  have shift : (u - e).toNat = k + 1 := by omega
  rw [roundAt, if_neg (by omega), shift]
  cases mode <;> rfl

section
variable {sticky : Bool} {δ : ℝ} (part : StickyPart sticky δ)
include part

/-- The bits that are shifted out, compared with their half and with zero. -/
theorem bitsUp_iff (mode : RMode) (s : Bool) (q r k : Nat) :
    bitsUp mode s sticky q r (2 ^ k) = true ↔ RoundsUp mode s q ((r + δ) / 2 ^ (k + 1)) := by
  obtain ⟨nonneg, lt, sticks⟩ := part
  have scale : (0 : ℝ) < 2 ^ k := by positivity
  have pow : (2 : ℝ) ^ (k + 1) = 2 * 2 ^ k := pow_succ' 2 k
  have inexact : (r + δ) / 2 ^ (k + 1) ≠ 0 ↔ r ≠ 0 ∨ sticky = true := by
    rw [← sticks, ne_eq, div_eq_zero_iff, or_iff_left (by positivity),
      add_eq_zero_iff_of_nonneg (by positivity) nonneg, Nat.cast_eq_zero, not_and_or]
  have atLeast : 1 / 2 ≤ (r + δ) / 2 ^ (k + 1) ↔ 2 ^ k ≤ r := by
    rw [pow, div_le_div_iff₀ two_pos (by positivity)]
    constructor
    · intro h
      have : ((2 ^ k : Nat) : ℝ) < ((r + 1 : Nat) : ℝ) := by push_cast; linarith
      exact Nat.lt_succ_iff.mp (by exact_mod_cast this)
    · intro h
      have : ((2 ^ k : Nat) : ℝ) ≤ r := by exact_mod_cast h
      push_cast at this
      linarith
  have tie : (r + δ) / 2 ^ (k + 1) = 1 / 2 ↔ r = 2 ^ k ∧ sticky = false := by
    rw [← Bool.not_eq_true, ← sticks, not_not, pow, div_eq_div_iff (by positivity) two_ne_zero]
    constructor
    · intro h
      have ge : 2 ^ k ≤ r := by
        rw [← atLeast, pow, div_le_div_iff₀ two_pos (by positivity)]; linarith
      have le : (r : ℝ) ≤ ((2 ^ k : Nat) : ℝ) := by push_cast; linarith
      have eq : r = 2 ^ k := le_antisymm (by exact_mod_cast le) ge
      refine ⟨eq, ?_⟩
      rw [eq] at h
      push_cast at h
      linarith
    · rintro ⟨rfl, rfl⟩
      push_cast
      ring
  cases mode with
  | rne =>
    have above : 1 / 2 < (r + δ) / 2 ^ (k + 1) ↔ 2 ^ k ≤ r ∧ ¬(r = 2 ^ k ∧ sticky = false) := by
      rw [← atLeast, ← tie, lt_iff_le_and_ne, ne_comm]
    simp only [bitsUp, RoundsUp, above, tie]
    cases sticky <;> simp <;> omega
  | rtz => simp [bitsUp, RoundsUp]
  | rdn => simp [bitsUp, RoundsUp, inexact]
  | rup => simp [bitsUp, RoundsUp, inexact]
  | rna => simp only [bitsUp, RoundsUp, decide_eq_true_eq, atLeast]

/-- What is delivered when r of 2^(k + 1) is shifted out below q. -/
theorem roundsInt_bitsUp (mode : RMode) (s : Bool) (q k : Nat) {r : Nat} (small : r < 2 ^ (k + 1)) :
    let n := if bitsUp mode s sticky q r (2 ^ k) = true then q + 1 else q
    let y : ℝ := q + (r + δ) / 2 ^ (k + 1)
    RoundsInt mode s y n ∧ ((r != 0 || sticky) = true ↔ (n : ℝ) ≠ y) := by
  have scale : (0 : ℝ) < 2 ^ (k + 1) := by positivity
  have nonneg : 0 ≤ (r + δ) / 2 ^ (k + 1) := div_nonneg (add_nonneg (by positivity) part.nonneg) scale.le
  have below : (r + δ) / 2 ^ (k + 1) < 1 := by
    rw [div_lt_one scale]
    have : ((r + 1 : Nat) : ℝ) ≤ ((2 ^ (k + 1) : Nat) : ℝ) := by exact_mod_cast small
    push_cast at this
    linarith [part.lt_one]
  have inexact : (r != 0 || sticky) = true ↔ (r + δ) / 2 ^ (k + 1) ≠ 0 := by
    simpa [bitsUp, RoundsUp] using bitsUp_iff part .rdn true q r k
  have decides := bitsUp_iff part mode s q r k
  simp only [inexact]
  generalize (r + δ) / 2 ^ (k + 1) = ρ at nonneg below decides
  by_cases up : RoundsUp mode s q ρ
  · have nonzero : ρ ≠ 0 := by
      rintro rfl
      cases mode <;> norm_num [RoundsUp] at up
    rw [if_pos (decides.mpr up)]
    refine ⟨roundsInt_succ_of_roundsUp below up nonneg, iff_of_true nonzero fun eq => ?_⟩
    push_cast at eq
    linarith
  · rw [if_neg (decides.not.mpr up)]
    exact ⟨roundsInt_of_not_roundsUp nonneg below up, by simp⟩

/-- R44: `roundAt` rounds (m + δ) × 2^e to a multiple of 2^u, and tells whether it differs. -/
theorem roundAt_spec (mode : RMode) (s : Bool) (m : Nat) (e u : Int) (fine : sticky = true → e < u) :
    RoundsInt mode s ((m + δ) * (2 : ℝ) ^ e / (2 : ℝ) ^ u) (roundAt mode s m e sticky u).1 ∧
      ((roundAt mode s m e sticky u).2 = true ↔
        ((roundAt mode s m e sticky u).1 : ℝ) ≠ (m + δ) * (2 : ℝ) ^ e / (2 : ℝ) ^ u) := by
  by_cases le : u ≤ e
  · have noSticky : sticky = false := Bool.eq_false_iff.mpr fun h => absurd (fine h) (not_lt.mpr le)
    have zero : δ = 0 := by simpa [noSticky] using part.ne_zero_iff
    have value : (m + δ) * (2 : ℝ) ^ e / (2 : ℝ) ^ u = ((m * 2 ^ (e - u).toNat : Nat) : ℝ) := by
      rw [zero, add_zero, div_eq_iff (two_zpow_pos u).ne', natCast_mul_zpow_sub m le]
    rw [roundAt_of_le sticky le, value, noSticky]
    exact ⟨roundsInt_self .., by simp⟩
  · obtain ⟨k, lt⟩ : ∃ k : Nat, u = e + (k + 1) := ⟨(u - e - 1).toNat, by omega⟩
    have value : (m + δ) * (2 : ℝ) ^ e / (2 : ℝ) ^ u =
        (m / 2 ^ (k + 1) : Nat) + ((m % 2 ^ (k + 1) : Nat) + δ) / 2 ^ (k + 1) := by
      have split : (m : ℝ) = 2 ^ (k + 1) * (m / 2 ^ (k + 1) : Nat) + (m % 2 ^ (k + 1) : Nat) := by
        exact_mod_cast (Nat.div_add_mod m (2 ^ (k + 1))).symm
      have pow : (2 : ℝ) ^ u = (2 : ℝ) ^ e * 2 ^ (k + 1) := by
        rw [lt, zpow_add₀ two_ne_zero]; norm_cast
      rw [pow, mul_comm ((m : ℝ) + δ), mul_div_mul_left _ _ (two_zpow_pos e).ne', add_div' _ _ _ (by positivity),
        ← add_assoc, mul_comm _ ((2 : ℝ) ^ (k + 1)), ← split]
    rw [roundAt_of_lt sticky lt, value]
    exact roundsInt_bitsUp part mode s _ k (Nat.mod_lt m (by positivity))

end

end Sys2Proof.Proofs
end

section
/-! Floating point: one rounding to a format (R33, R43, R46), for every format whose encodings hold its values faithfully. -/

namespace Sys2Proof.Proofs

open Sys2Proof.Machine Sys2Proof.Safety

/-! ## The numbers of a format -/

/-- q × 2^u is written on the grid of its binade, or on the format's lowest grid. -/
structure OnGrid (f : Fmt) (q : Nat) (u : Int) : Prop where
  ulp0_le : f.ulp0 ≤ u
  lt_top : q < 2 ^ (f.m + 1)
  lowest_or_normal : u = f.ulp0 ∨ 2 ^ f.m ≤ q

/-- The model's test for a number beyond the largest finite one. -/
abbrev Beyond (f : Fmt) (q : Nat) (u : Int) : Prop := f.umax < u ∨ u = f.umax ∧ f.qmax < q

/-- The encodings of a format hold every finite number of its grids (R27). -/
structure Faithful (f : Fmt) : Prop where
  ulp0_le_umax : f.ulp0 ≤ f.umax
  normal_qmax : 2 ^ f.m ≤ f.qmax
  qmax_lt : f.qmax < 2 ^ (f.m + 1)
  encode_lt : ∀ s q u, OnGrid f q u → ¬Beyond f q u → f.encode s q u < 2 ^ f.width
  neg_encode : ∀ s q u, OnGrid f q u → ¬Beyond f q u → f.neg? (f.encode s q u) = s
  decode_encode : ∀ s q u, OnGrid f q u → ¬Beyond f q u → f.decode (f.encode s q u) = .fin s q u

/-- A number on a grid below the top one is below every number with a full significand on the top one. -/
theorem beyond_iff {f : Fmt} (faithful : Faithful f) {q : Nat} {u : Int} (grid : OnGrid f q u) :
    Beyond f q u ↔ (f.qmax : ℝ) * (2 : ℝ) ^ f.umax < (q : ℝ) * (2 : ℝ) ^ u := by
  have top : (f.qmax : ℝ) + 1 ≤ 2 * (2 : ℝ) ^ f.m := by
    rw [← pow_succ']; exact_mod_cast faithful.qmax_lt
  have unit : (2 : ℝ) ^ (f.umax + 1) = 2 * (2 : ℝ) ^ f.umax := by rw [zpow_add_one₀ two_ne_zero, mul_comm]
  have pos := two_zpow_pos f.umax
  rcases lt_trichotomy u f.umax with lower | same | higher
  · refine iff_of_false (by rintro (h | h) <;> omega) (not_lt.mpr ?_)
    have small : (q : ℝ) + 1 ≤ 2 * (2 : ℝ) ^ f.m := by
      rw [← pow_succ']; exact_mod_cast grid.lt_top
    have normal : (2 : ℝ) ^ f.m ≤ f.qmax := by exact_mod_cast faithful.normal_qmax
    have le : (2 : ℝ) ^ (u + 1) ≤ (2 : ℝ) ^ f.umax := zpow_le_zpow_right₀ one_le_two (by omega)
    rw [zpow_add_one₀ two_ne_zero] at le
    nlinarith [two_zpow_pos u]
  · rw [same, mul_lt_mul_iff_left₀ pos, Nat.cast_lt]
    exact ⟨fun h => h.elim (fun h => absurd h (lt_irrefl _)) And.right, fun h => .inr ⟨rfl, h⟩⟩
  · have normal : (2 : ℝ) ^ f.m ≤ q := by
      have := faithful.ulp0_le_umax
      exact_mod_cast grid.lowest_or_normal.resolve_left (by omega)
    have le : (2 : ℝ) ^ (f.umax + 1) ≤ (2 : ℝ) ^ u := zpow_le_zpow_right₀ one_le_two (by omega)
    refine iff_of_true (.inl higher) ?_
    rw [unit] at le
    nlinarith [mul_le_mul normal le (by positivity) (by positivity)]

/-! ## The grid of a magnitude -/

/-- The exponent of the grid that a magnitude of about m × 2^e is rounded to. -/
def gridOf (f : Fmt) (m : Nat) (e : Int) : Int := max ((Nat.log2 m : Int) + e) f.emin - (f.m : Int)

theorem ulp0_le_gridOf (f : Fmt) (m : Nat) (e : Int) : f.ulp0 ≤ gridOf f m e := by
  rw [Fmt.ulp0, gridOf]; omega

section
variable {δ : ℝ} {m : Nat} (e : Int)

theorem two_zpow_log2_le (nonneg : 0 ≤ δ) (nonzero : m ≠ 0) : (2 : ℝ) ^ ((Nat.log2 m : Int) + e) ≤ (m + δ) * (2 : ℝ) ^ e := by
  have low : ((2 ^ Nat.log2 m : Nat) : ℝ) ≤ m := by exact_mod_cast Nat.log2_self_le nonzero
  rw [zpow_add₀ two_ne_zero, zpow_natCast]
  push_cast at low
  exact mul_le_mul_of_nonneg_right (by linarith) (two_zpow_pos e).le

theorem lt_two_zpow_log2 (lt_one : δ < 1) : (m + δ) * (2 : ℝ) ^ e < (2 : ℝ) ^ ((Nat.log2 m : Int) + e + 1) := by
  have high : ((m + 1 : Nat) : ℝ) ≤ ((2 ^ (Nat.log2 m + 1) : Nat) : ℝ) := by exact_mod_cast Nat.lt_log2_self
  have split : (Nat.log2 m : Int) + e + 1 = ((Nat.log2 m + 1 : Nat) : Int) + e := by push_cast; ring
  rw [split, zpow_add₀ two_ne_zero, zpow_natCast]
  push_cast at high
  exact mul_lt_mul_of_pos_right (by linarith) (two_zpow_pos e)

variable (nonneg : 0 ≤ δ) (lt_one : δ < 1) (nonzero : m ≠ 0)
include nonneg lt_one nonzero

theorem lt_two_zpow_iff (k : Int) : (m + δ) * (2 : ℝ) ^ e < (2 : ℝ) ^ k ↔ (Nat.log2 m : Int) + e < k := by
  constructor
  · exact fun h => (zpow_lt_zpow_iff_right₀ one_lt_two).mp ((two_zpow_log2_le e nonneg nonzero).trans_lt h)
  · exact fun h => (lt_two_zpow_log2 e lt_one).trans_le (zpow_le_zpow_right₀ one_le_two (by omega))

theorem lt_two_zpow_gridOf (f : Fmt) : (m + δ) * (2 : ℝ) ^ e < (2 : ℝ) ^ (gridOf f m e + f.m + 1) := by
  rw [lt_two_zpow_iff e nonneg lt_one nonzero, gridOf]; omega

theorem gridOf_lowest_or_le (f : Fmt) :
    gridOf f m e = f.ulp0 ∨ (2 : ℝ) ^ (gridOf f m e + f.m) ≤ (m + δ) * (2 : ℝ) ^ e := by
  rw [← not_lt, lt_two_zpow_iff e nonneg lt_one nonzero, gridOf, Fmt.ulp0]; omega

end

/-! ## One rounding -/

/-- A rounded significand that reaches the next binade is written on that binade's grid. -/
def renormed (f : Fmt) (q : Nat) (u : Int) : Nat × Int := if q = 2 ^ (f.m + 1) then (2 ^ f.m, u + 1) else (q, u)

theorem renormed_value (f : Fmt) (q : Nat) (u : Int) :
    ((renormed f q u).1 : ℝ) * (2 : ℝ) ^ (renormed f q u).2 = (q : ℝ) * (2 : ℝ) ^ u := by
  rw [renormed]
  split
  · rename_i full
    rw [full, zpow_add_one₀ two_ne_zero]
    push_cast
    ring
  · rfl

theorem renormed_of_lt {f : Fmt} {q : Nat} {u : Int} (lt : q < 2 ^ (f.m + 1)) : renormed f q u = (q, u) := if_neg (by omega)

theorem renormed_onGrid {f : Fmt} {q : Nat} {u : Int} (ulp0_le : f.ulp0 ≤ u) (le : q ≤ 2 ^ (f.m + 1))
    (normal : u = f.ulp0 ∨ 2 ^ f.m ≤ q) : OnGrid f (renormed f q u).1 (renormed f q u).2 := by
  rw [renormed]
  split
  · exact ⟨by dsimp only; omega, Nat.pow_lt_pow_right one_lt_two (by omega), .inr le_rfl⟩
  · exact ⟨ulp0_le, by dsimp only; omega, normal⟩

/-- `Fmt.round` of a magnitude that is not zero. -/
theorem round_eq (f : Fmt) (mode : RMode) (s : Bool) {m : Nat} (e : Int) (sticky : Bool) (nonzero : m ≠ 0) :
    f.round mode s m e sticky =
      let r := roundAt mode s m e sticky (gridOf f m e)
      let p := renormed f r.1 (gridOf f m e)
      if Beyond f p.1 p.2 then (f.overflow mode s, { of_ := true, nx := true })
      else (f.encode s p.1 p.2, { uf := r.2 && decide ((Nat.log2 m : Int) + e < f.emin), nx := r.2 }) := by
  rw [Fmt.round, if_neg (fun h => nonzero h.1)]
  rfl

@[simp] theorem round_zero (f : Fmt) (mode : RMode) (s : Bool) (e : Int) : f.round mode s 0 e false = (f.signed s 0, {}) :=
  if_pos ⟨rfl, rfl⟩

theorem overflow_eq (f : Fmt) (mode : RMode) (s : Bool) : f.overflow mode s = overflowOf f mode s := by
  cases mode <;> cases s <;> rfl

/-- R43: `Fmt.round` rounds a number of magnitude (m + δ) × 2^e once; with a part below the significand, the significand must hold
more bits than the format. -/
theorem round_roundsIn {f : Fmt} (faithful : Faithful f) (mode : RMode) {s sticky : Bool} {m : Nat} {e : Int} {δ x : ℝ}
    (part : StickyPart sticky δ) (nonzero : m ≠ 0) (fine : sticky = true → 2 ^ (f.m + 1) ≤ m)
    (magnitude : |x| = (m + δ) * (2 : ℝ) ^ e) (negative : s = true ↔ x < 0) :
    RoundsIn f mode x (f.round mode s m e sticky) := by
  have lowBits : sticky = true → e < gridOf f m e := fun h => by
    have : f.m + 1 ≤ Nat.log2 m := (Nat.le_log2 nonzero).mpr (fine h)
    rw [gridOf]; omega
  have tiny := lt_two_zpow_iff e part.nonneg part.lt_one nonzero f.emin
  have upper := lt_two_zpow_gridOf e part.nonneg part.lt_one nonzero f
  have lower := gridOf_lowest_or_le e part.nonneg part.lt_one nonzero f
  have lowest := ulp0_le_gridOf f m e
  obtain ⟨rounds, inexact⟩ := roundAt_spec part mode s m e (gridOf f m e) lowBits
  rw [round_eq f mode s e sticky nonzero]
  rw [← magnitude] at tiny upper lower rounds inexact
  generalize gridOf f m e = u at *
  generalize roundAt mode s m e sticky u = r at *
  obtain ⟨q, nx⟩ := r
  have unit := two_zpow_pos u
  have le : q ≤ 2 ^ (f.m + 1) := roundsInt_le rounds (by
    rw [add_assoc, zpow_add₀ two_ne_zero] at upper
    rw [div_le_iff₀ unit]
    push_cast
    exact upper.le.trans_eq (mul_comm _ _))
  have normal : u = f.ulp0 ∨ 2 ^ f.m ≤ q := lower.imp_right fun h => le_roundsInt rounds (by
    rw [zpow_add₀ two_ne_zero] at h
    rw [le_div_iff₀ unit]
    push_cast
    exact (mul_comm _ _).trans_le h)
  have grid := renormed_onGrid lowest le normal
  have value := renormed_value f q u
  have beyond := beyond_iff faithful grid
  have changed : nx = true ↔ (q : ℝ) * (2 : ℝ) ^ u ≠ |x| := by
    rw [inexact, ne_eq, eq_div_iff unit.ne']
  rw [value] at beyond
  refine ⟨s, u, q, negative, lowest, upper, lower, rounds, fun within => ?_, fun exceeds => ?_⟩
  · have inRange := mt beyond.mp (not_lt.mpr within)
    simp only [if_neg inRange]
    refine ⟨faithful.encode_lt _ _ _ grid inRange, faithful.neg_encode _ _ _ grid inRange, ?_, trivial, trivial, trivial, changed, ?_⟩
    · rw [faithful.decode_encode _ _ _ grid inRange, val_fin, finVal, mul_assoc, mul_assoc, value]
    · rw [Bool.and_eq_true, decide_eq_true_eq, changed, tiny]
  · simp only [if_pos (beyond.mpr exceeds), overflow_eq]

/-- A finite value that is not zero, rounded once. -/
theorem round_finVal_roundsIn {f : Fmt} (faithful : Faithful f) (mode : RMode) (s : Bool) {m : Nat} (e : Int) (nonzero : m ≠ 0) :
    RoundsIn f mode (finVal s m e) (f.round mode s m e false) :=
  round_roundsIn faithful mode stickyPart_zero nonzero (fun h => absurd h (by decide)) (by rw [abs_finVal, add_zero])
    (finVal_lt_zero s e nonzero).symm

/-! ## Values that a format holds -/

/-- A value whose significand the format holds is encoded as it is, without a flag. -/
theorem round_of_holds {f : Fmt} (mode : RMode) (s : Bool) {m : Nat} {e : Int} (nonzero : m ≠ 0)
    (fits : gridOf f m e ≤ e) (inRange : ¬Beyond f (m * 2 ^ (e - gridOf f m e).toNat) (gridOf f m e))
    (lt : m * 2 ^ (e - gridOf f m e).toNat < 2 ^ (f.m + 1)) :
    f.round mode s m e false = (f.encode s (m * 2 ^ (e - gridOf f m e).toNat) (gridOf f m e), {}) := by
  rw [round_eq f mode s e false nonzero, roundAt_of_le false fits]
  simp only [renormed_of_lt lt, if_neg inRange, Bool.false_and]

end Sys2Proof.Proofs
end

section
/-! Floating point: the fields of an encoding with infinities and NaNs (R27), and that such formats are faithful. -/

namespace Sys2Proof.Proofs

open Sys2Proof.Machine Sys2Proof.Safety

/-! ## Sign, exponent and fraction -/

/-- A format with infinities and NaNs, whose bias stands in the middle of its exponents. -/
structure IsIeee (f : Fmt) : Prop where
  kind : f.kind = .ieee
  bias : f.bias = 2 ^ (f.ew - 1) - 1
  two_le : 2 ≤ f.ew

theorem isIeee_fp32 : IsIeee .fp32 := ⟨rfl, rfl, by decide⟩
theorem isIeee_bf16 : IsIeee .bf16 := ⟨rfl, rfl, by decide⟩
theorem isIeee_fp16 : IsIeee .fp16 := ⟨rfl, rfl, by decide⟩

/-- The encoding with this sign, exponent and fraction. -/
def ofFields (f : Fmt) (s : Bool) (E t : Nat) : Nat := f.signed s (E * 2 ^ f.m + t)

section
variable {f : Fmt}

theorem width_sub_one (f : Fmt) : f.width - 1 = f.ew + f.m := by rw [Fmt.width]; omega

theorem signed_lt (s : Bool) {y : Nat} (lt : y < 2 ^ (f.ew + f.m)) : f.signed s y < 2 ^ f.width := by
  have double : 2 ^ f.width = 2 * 2 ^ (f.ew + f.m) := by rw [← pow_succ', Fmt.width]; congr 1; omega
  rw [Fmt.signed, width_sub_one, double]
  split <;> omega

theorem neg_signed (s : Bool) {y : Nat} (lt : y < 2 ^ (f.ew + f.m)) : f.neg? (f.signed s y) = s := by
  have zero : y / 2 ^ (f.ew + f.m) = 0 := Nat.div_eq_of_lt lt
  have one : (2 ^ (f.ew + f.m) + y) / 2 ^ (f.ew + f.m) = 1 := by
    rw [Nat.add_div_left _ (by positivity), zero]
  rw [Fmt.neg?, Fmt.signed, width_sub_one]
  cases s <;> simp [zero, one]

/-- Every word of the format's width has a sign and a rest. -/
theorem exists_signed {x : Nat} (lt : x < 2 ^ f.width) :
    x = f.signed (f.neg? x) (x % 2 ^ (f.ew + f.m)) := by
  have double : 2 ^ f.width = 2 * 2 ^ (f.ew + f.m) := by rw [← pow_succ', Fmt.width]; congr 1; omega
  have split := Nat.div_add_mod x (2 ^ (f.ew + f.m))
  have small : x / 2 ^ (f.ew + f.m) < 2 := Nat.div_lt_of_lt_mul (by omega)
  rw [Fmt.signed, Fmt.neg?, width_sub_one]
  generalize x / 2 ^ (f.ew + f.m) = b at *
  interval_cases b <;> simp <;> omega

section
variable (s : Bool) {E t : Nat} (ht : t < 2 ^ f.m)
include ht

theorem fields_lt (hE : E < 2 ^ f.ew) : E * 2 ^ f.m + t < 2 ^ (f.ew + f.m) := by
  calc E * 2 ^ f.m + t < (E + 1) * 2 ^ f.m := by rw [add_one_mul]; omega
    _ ≤ 2 ^ f.ew * 2 ^ f.m := Nat.mul_le_mul_right _ hE
    _ = 2 ^ (f.ew + f.m) := (pow_add ..).symm

theorem ofFields_mod : ofFields f s E t % 2 ^ f.m = t := by
  have shift : ofFields f s E t = ((if s = true then 2 ^ f.ew else 0) + E) * 2 ^ f.m + t := by
    rw [ofFields, Fmt.signed, width_sub_one]
    split <;> ring
  rw [shift, mul_comm, Nat.mul_add_mod, Nat.mod_eq_of_lt ht]

theorem ofFields_exponent (hE : E < 2 ^ f.ew) : ofFields f s E t / 2 ^ f.m % 2 ^ f.ew = E := by
  have shift : ofFields f s E t = 2 ^ f.m * ((if s = true then 2 ^ f.ew else 0) + E) + t := by
    rw [ofFields, Fmt.signed, width_sub_one]
    split <;> ring
  rw [shift, Nat.mul_add_div (by positivity), Nat.div_eq_of_lt ht, add_zero]
  cases s <;> simp [Nat.mod_eq_of_lt hE]

/-- R27: the value of an encoding from its fields. -/
theorem decode_ofFields (ieee : IsIeee f) (hE : E < 2 ^ f.ew) :
    f.decode (ofFields f s E t) =
      if E = f.etop then (if t = 0 then .inf s else .nan)
      else if E = 0 then .fin s t f.ulp0 else .fin s (t + 2 ^ f.m) (f.ulp0 + E - 1) := by
  have sign : (ofFields f s E t / 2 ^ (f.width - 1) % 2 == 1) = s := neg_signed s (fields_lt ht hE)
  simp only [Fmt.decode, ieee.kind, sign, ofFields_mod s ht, ofFields_exponent s ht hE]

end

/-- Every word of the format's width has fields. -/
theorem exists_ofFields {x : Nat} (lt : x < 2 ^ f.width) :
    ∃ s E t, E < 2 ^ f.ew ∧ t < 2 ^ f.m ∧ x = ofFields f s E t := by
  refine ⟨f.neg? x, x % 2 ^ (f.ew + f.m) / 2 ^ f.m, x % 2 ^ (f.ew + f.m) % 2 ^ f.m, ?_, Nat.mod_lt _ (by positivity), ?_⟩
  · exact Nat.div_lt_of_lt_mul (by rw [← pow_add, add_comm f.m]; exact Nat.mod_lt _ (by positivity))
  · rw [ofFields, mul_comm, Nat.div_add_mod]
    exact exists_signed lt

theorem etop_lt (f : Fmt) : f.etop < 2 ^ f.ew := by
  have : 0 < 2 ^ f.ew := by positivity
  rw [Fmt.etop]; omega

/-! ## Faithfulness -/

section
variable (ieee : IsIeee f)
include ieee

/-- The exponent of the largest finite value is one below the top. -/
theorem etop_eq : f.etop = 2 * f.bias + 1 := by
  obtain ⟨n, hn⟩ : ∃ n, f.ew = n + 1 := ⟨f.ew - 1, by have := ieee.two_le; omega⟩
  have pos : 0 < 2 ^ n := by positivity
  rw [Fmt.etop, ieee.bias, hn, Nat.add_sub_cancel, pow_succ']
  omega

theorem one_le_bias : 1 ≤ f.bias := by
  have : 2 ^ 1 ≤ 2 ^ (f.ew - 1) := Nat.pow_le_pow_right two_pos (by have := ieee.two_le; omega)
  rw [ieee.bias]; omega

theorem umax_eq : f.umax = (f.bias : Int) - f.m := by rw [Fmt.umax, ieee.kind]
theorem qmax_eq : f.qmax = 2 ^ (f.m + 1) - 1 := by rw [Fmt.qmax, ieee.kind]

theorem inf_eq (s : Bool) : f.inf s = ofFields f s f.etop 0 := by rw [Fmt.inf, ieee.kind]; rfl

/-- Each infinity has one encoding. -/
theorem eq_inf_of_decode {x : Nat} (lt : x < 2 ^ f.width) {s : Bool} (inf : f.decode x = .inf s) : x = f.inf s := by
  obtain ⟨s', E, t, hE, ht, rfl⟩ := exists_ofFields lt
  rw [decode_ofFields s' ht ieee hE] at inf
  split at inf
  · rename_i top
    split at inf <;> cases inf
    rename_i zero
    rw [inf_eq ieee, top, zero]
  · split at inf <;> cases inf

/-- The fields of a number on a grid. -/
theorem encode_eq_ofFields (s : Bool) {q : Nat} {u : Int} (grid : OnGrid f q u) (inRange : ¬Beyond f q u) :
    ∃ E t, E < f.etop ∧ t < 2 ^ f.m ∧ f.encode s q u = ofFields f s E t ∧
      (E = 0 ∧ q = t ∧ u = f.ulp0 ∨ E ≠ 0 ∧ q = t + 2 ^ f.m ∧ u = f.ulp0 + E - 1) := by
  obtain ⟨low, high, normal⟩ := grid
  have top := etop_eq ieee
  rw [pow_succ] at high
  by_cases sub : q < 2 ^ f.m
  · refine ⟨0, q, by omega, sub, ?_, .inl ⟨rfl, rfl, normal.resolve_right (by omega)⟩⟩
    rw [Fmt.encode, if_pos sub, ofFields, zero_mul, zero_add]
  · have le : u ≤ f.umax := not_lt.mp fun h => inRange (.inl h)
    rw [umax_eq ieee] at le
    have bottom : f.ulp0 = 1 - (f.bias : Int) - f.m := rfl
    refine ⟨(u - f.ulp0).toNat + 1, q - 2 ^ f.m, by omega, by omega, ?_, .inr ⟨by omega, by omega, by omega⟩⟩
    rw [Fmt.encode, if_neg sub, ofFields]

/-- R27: a format with infinities and NaNs holds every finite number of its grids. -/
theorem faithful_of_ieee : Faithful f := by
  have pos : 0 < 2 ^ f.m := by positivity
  have double : 2 ^ (f.m + 1) = 2 * 2 ^ f.m := pow_succ' 2 f.m
  have topLt := etop_lt f
  refine ⟨?_, ?_, ?_, ?_, ?_, ?_⟩
  · have := one_le_bias ieee
    rw [umax_eq ieee, Fmt.ulp0, Fmt.emin]; omega
  · rw [qmax_eq ieee]; omega
  · rw [qmax_eq ieee]; omega
  all_goals
    intro s q u grid inRange
    obtain ⟨E, t, hE, ht, eq, fields⟩ := encode_eq_ofFields ieee s grid inRange
    rw [eq]
  · exact signed_lt s (fields_lt ht (hE.trans topLt))
  · exact neg_signed s (fields_lt ht (hE.trans topLt))
  · rw [decode_ofFields s ht ieee (hE.trans topLt), if_neg hE.ne]
    rcases fields with ⟨rfl, rfl, rfl⟩ | ⟨ne, rfl, rfl⟩
    · exact if_pos rfl
    · exact if_neg ne

/-- A finite value is encoded with a significand below the top of its grid, on the lowest grid or normal. -/
theorem decode_fin_onGrid {x : Nat} (lt : x < 2 ^ f.width) {s : Bool} {m : Nat} {e : Int} (fin : f.decode x = .fin s m e) :
    OnGrid f m e ∧ ¬Beyond f m e ∧ x = f.encode s m e := by
  obtain ⟨s', E, t, hE, ht, rfl⟩ := exists_ofFields lt
  have top := etop_eq ieee
  have umax := umax_eq ieee
  have qmax := qmax_eq ieee
  have bottom : f.ulp0 = 1 - (f.bias : Int) - f.m := rfl
  have double : 2 ^ (f.m + 1) = 2 * 2 ^ f.m := pow_succ' 2 f.m
  have bias := one_le_bias ieee
  rw [decode_ofFields s' ht ieee hE] at fin
  split at fin
  · split at fin <;> cases fin
  · have below : E < f.etop := by rw [Fmt.etop] at *; omega
    split at fin <;> cases fin
    · rename_i zero
      subst zero
      refine ⟨⟨le_rfl, by omega, .inl rfl⟩, by rintro (h | h) <;> omega, ?_⟩
      rw [Fmt.encode, if_pos ht, ofFields, zero_mul, zero_add]
    · rename_i nonzero
      refine ⟨⟨by omega, by omega, .inr (by omega)⟩, by rintro (h | h) <;> omega, ?_⟩
      have shift : (f.ulp0 + E - 1 - f.ulp0).toNat + 1 = E := by omega
      rw [Fmt.encode, if_neg (by omega), shift, Nat.add_sub_cancel, ofFields]

end

end

theorem faithful_fp32 : Faithful .fp32 := faithful_of_ieee isIeee_fp32

end Sys2Proof.Proofs
end

section
/-! Floating point: the exact operations and their special cases (R227). -/

namespace Sys2Proof.Proofs

open Sys2Proof.Machine Sys2Proof.Safety

/-! ## Sums and products -/

/-- A sum in units of 2^e, rounded once; an exact zero has the sign given (R43). -/
theorem roundInt_roundsIn {f : Fmt} (faithful : Faithful f) {n : Int} (nonzero : n ≠ 0) (e : Int) (zsign : Bool) :
    RoundsIn f .rne ((n : ℝ) * (2 : ℝ) ^ e) (f.roundInt n e zsign) := by
  have unit := two_zpow_pos e
  rw [Fmt.roundInt, if_neg nonzero]
  refine round_roundsIn faithful .rne stickyPart_zero (Int.natAbs_ne_zero.mpr nonzero) (fun h => absurd h (by decide)) ?_ ?_
  · rw [abs_mul, abs_of_pos unit, add_zero, Nat.cast_natAbs, Int.cast_abs]
  · rw [decide_eq_true_eq, ← Int.cast_lt_zero (R := ℝ), ← mul_lt_mul_iff_left₀ unit, zero_mul]

theorem roundInt_zero (f : Fmt) (e : Int) (zsign : Bool) : f.roundInt 0 e zsign = (f.signed zsign 0, {}) := if_pos rfl

/-- R227: `Fmt.addVal` is the sum. -/
theorem addVal_sumOf {f : Fmt} (faithful : Faithful f) (a b : FVal) : SumOf f a b (f.addVal a b) := by
  refine ⟨?nan, ?same, ?opposite, ?left, ?right, ?finite⟩
  case nan => rintro (rfl | rfl) <;> [rfl; cases a <;> rfl]
  case same => rintro s rfl rfl; exact if_pos rfl
  case opposite => rintro s rfl rfl; exact if_neg (by cases s <;> decide)
  case left => rintro s t m e rfl rfl; rfl
  case right => rintro s t m e rfl rfl; rfl
  case finite =>
    rintro s t m n d e rfl rfl x y hx hy
    rw [val_fin, ← sigAt_mul_zpow s m (min_le_left d e)] at hx
    rw [val_fin, ← sigAt_mul_zpow t n (min_le_right d e)] at hy
    have sum : x + y = ((sigAt s m d (min d e) + sigAt t n e (min d e) : Int) : ℝ) * (2 : ℝ) ^ min d e := by
      rw [hx, hy]; push_cast; ring
    rw [sum, mul_eq_zero, or_iff_left (two_zpow_pos _).ne', Int.cast_eq_zero]
    exact ⟨fun zero => by rw [Fmt.addVal, zero, roundInt_zero],
      fun nonzero => roundInt_roundsIn faithful (fun h => nonzero (by rw [h, Int.cast_zero, zero_mul])) _ _⟩

section
variable {f : Fmt} (ieee : IsIeee f)
include ieee

theorem ofVal_inf (mode : RMode) (s : Bool) : f.ofVal mode (.inf s) = (f.inf s, {}) := by
  rw [Fmt.ofVal, ieee.kind]

/-- R33, R45: `Fmt.ofVal` converts. -/
theorem ofVal_convertsTo (mode : RMode) (a : FVal) : ConvertsTo f mode a (f.ofVal mode a) := by
  refine ⟨?nan, ?inf, ?zero, ?finite⟩
  case nan => rintro rfl; rfl
  case inf => rintro s rfl; rw [ofVal_inf ieee, ieee.kind]; rfl
  case zero => rintro s e rfl; exact round_zero ..
  case finite =>
    rintro x ⟨s, m, e, rfl, value⟩ nonzero
    rw [show x = finVal s m e from value] at nonzero ⊢
    exact round_finVal_roundsIn (faithful_of_ieee ieee) mode s e ((finVal_eq_zero s m e).not.mp nonzero)

/-- R227: `Fmt.mul` is the product. -/
theorem mul_productOf (x y : Nat) : ProductOf f (f.decode x) (f.decode y) (f.mul x y) := by
  rw [Fmt.mul]
  generalize f.decode x = a
  generalize f.decode y = b
  refine ⟨?nan, ?inf, ?mixed, ?finite⟩
  case nan => rintro (rfl | rfl) <;> [rfl; cases a <;> rfl]
  case inf => rintro s t rfl rfl; exact ofVal_inf ieee ..
  case mixed =>
    rintro s t m e (⟨rfl, rfl⟩ | ⟨rfl, rfl⟩) <;> refine ⟨fun zero => ?_, fun nonzero => ?_⟩
    · simp only [FVal.mul, if_pos zero, Fmt.invalid]
    · simp only [FVal.mul, if_neg nonzero, ofVal_inf ieee]
    · simp only [FVal.mul, if_pos zero, Fmt.invalid]
    · simp only [FVal.mul, if_neg nonzero, ofVal_inf ieee, bne_comm]
  case finite =>
    rintro s t m n d e rfl rfl x y hx hy
    rw [val_fin] at hx hy
    rw [hx, hy, finVal_mul, finVal_eq_zero]
    refine ⟨fun zero => ?_, fun nonzero => ?_⟩
    · simp only [FVal.mul, Fmt.ofVal, zero, round_zero]
    · exact round_finVal_roundsIn (faithful_of_ieee ieee) .rne _ _ ((finVal_eq_zero ..).not.mp nonzero)

/-- R227: `Fmt.fma` is the product and sum with one rounding. -/
theorem fma_fusedOf (x y z : Nat) : FusedOf f (f.decode x) (f.decode y) (f.decode z) (f.fma x y z) := by
  have faithful := faithful_of_ieee ieee
  rw [Fmt.fma]
  generalize f.decode x = a
  generalize f.decode y = b
  generalize f.decode z = c
  refine ⟨?nan, ?invalid, ?inf, ?mixed, ?finite⟩
  case nan => rintro (rfl | rfl) <;> [rfl; cases a <;> rfl]
  case invalid => rintro s t e (⟨rfl, rfl⟩ | ⟨rfl, rfl⟩) <;> rfl
  case inf => rintro s t rfl rfl; exact addVal_sumOf faithful _ _
  case mixed =>
    rintro s t m e nonzero (⟨rfl, rfl⟩ | ⟨rfl, rfl⟩)
    · simpa only [FVal.mul, if_neg nonzero] using addVal_sumOf faithful _ _
    · simpa only [FVal.mul, if_neg nonzero, bne_comm (a := t)] using addVal_sumOf faithful _ _
  case finite => rintro s t m n d e rfl rfl; exact addVal_sumOf faithful _ _

end

/-! ## The quotient -/

/-- The exact quotient of naturals is the whole part and a part below it. -/
theorem stickyPart_div (a : Nat) {b : Nat} (pos : 0 < b) : StickyPart (a % b != 0) ((a % b : Nat) / (b : ℝ)) := by
  have posR : (0 : ℝ) < b := by exact_mod_cast pos
  refine ⟨by positivity, ?_, ?_⟩
  · rw [div_lt_one posR]; exact_mod_cast Nat.mod_lt a pos
  · rw [ne_eq, div_eq_zero_iff, or_iff_left posR.ne', Nat.cast_eq_zero, bne_iff_ne]

theorem cast_div_add_mod (a : Nat) {b : Nat} (pos : 0 < b) : ((a / b : Nat) : ℝ) + (a % b : Nat) / (b : ℝ) = (a : ℝ) / b := by
  have posR : (b : ℝ) ≠ 0 := by exact_mod_cast pos.ne'
  have split : (a : ℝ) = b * (a / b : Nat) + (a % b : Nat) := by exact_mod_cast (Nat.div_add_mod a b).symm
  rw [eq_div_iff posR, add_mul, div_mul_cancel₀ _ posR, mul_comm, ← split]

/-- The quotient of two significands of at most f.m + 1 bits, with 64 more bits, rounded once. -/
theorem round_div_roundsIn {f : Fmt} (faithful : Faithful f) (narrow : f.m < 32) (s t : Bool) {m n : Nat} (e d : Int)
    (hm : m ≠ 0) (hn : n ≠ 0) (small : n < 2 ^ (f.m + 1)) :
    RoundsIn f .rne (finVal s m e / finVal t n d)
      (f.round .rne (s != t) (m * 2 ^ 64 / n) (e - d - 64) (m * 2 ^ 64 % n != 0)) := by
  have posN : 0 < n := Nat.pos_of_ne_zero hn
  have large : 2 ^ (f.m + 1) ≤ m * 2 ^ 64 / n := by
    rw [Nat.le_div_iff_mul_le posN]
    calc 2 ^ (f.m + 1) * n ≤ 2 ^ 32 * 2 ^ 32 :=
          Nat.mul_le_mul (Nat.pow_le_pow_right two_pos narrow) (small.le.trans (Nat.pow_le_pow_right two_pos narrow))
      _ ≤ m * 2 ^ 64 := by rw [← pow_add]; exact Nat.le_mul_of_pos_left _ (Nat.pos_of_ne_zero hm)
  have nonzero : m * 2 ^ 64 / n ≠ 0 := (lt_of_lt_of_le (by positivity) large).ne'
  refine round_roundsIn faithful .rne (stickyPart_div _ posN) nonzero (fun _ => large) ?_ ?_
  · rw [abs_div, abs_finVal, abs_finVal, cast_div_add_mod _ posN, sub_sub, zpow_sub₀ two_ne_zero, zpow_add₀ two_ne_zero]
    push_cast
    field_simp
    norm_num
  · rw [div_eq_mul_inv, mul_neg_iff, inv_pos, inv_lt_zero, finVal_lt_zero t d hn, finVal_lt_zero s e hm,
      ← not_le, ← not_le, le_iff_lt_or_eq, le_iff_lt_or_eq, finVal_lt_zero t d hn, finVal_lt_zero s e hm,
      finVal_eq_zero, finVal_eq_zero]
    cases s <;> cases t <;> simp [hm, hn]

/-- R227: `Fmt.div` is the quotient of two encodings. -/
theorem div_quotientOf {f : Fmt} (ieee : IsIeee f) (narrow : f.m < 32) (x : Nat) {y : Nat} (hy : y < 2 ^ f.width) :
    QuotientOf f (f.decode x) (f.decode y) (f.div x y) := by
  have bounded := @decode_fin_onGrid f ieee y hy
  rw [Fmt.div]
  generalize f.decode x = a
  generalize f.decode y = b at bounded
  refine ⟨?nan, ?inf, ?left, ?right, ?finite⟩
  case nan => rintro (rfl | rfl) <;> [rfl; cases a <;> rfl]
  case inf => rintro s t rfl rfl; rfl
  case left => rintro s t m e rfl rfl; rfl
  case right => rintro s t m e rfl rfl; simp only [bne_comm]
  case finite =>
    rintro s t m n d e rfl rfl x y hx hy
    rw [val_fin] at hx hy
    subst hx hy
    simp only [finVal_eq_zero, ne_eq]
    refine ⟨fun hm hn => ?_, fun hm hn => ?_, fun hm hn => ?_, fun hm hn => ?_⟩
    · rw [if_pos hn, if_pos hm, Fmt.invalid]
    · rw [if_pos hn, if_neg hm]
    · rw [if_neg hn, if_pos hm]
    · rw [if_neg hn, if_neg hm]
      exact round_div_roundsIn (faithful_of_ieee ieee) narrow s t d e hm hn (bounded rfl).1.lt_top

/-! ## The square root -/

/-- `isqrt` finds the square root of n below 2^(2k), bit by bit. -/
theorem isqrtFrom_spec (n : Nat) (r k : Nat) (low : r * r ≤ n) (high : n < (r + 2 ^ k) * (r + 2 ^ k)) :
    isqrtFrom n r k * isqrtFrom n r k ≤ n ∧ n < (isqrtFrom n r k + 1) * (isqrtFrom n r k + 1) := by
  induction k generalizing r with
  | zero => exact ⟨low, high⟩
  | succ k ih =>
    rw [pow_succ'] at high
    rw [isqrtFrom]
    split
    · exact ih _ ‹_› (by rwa [add_assoc, ← two_mul])
    · exact ih _ low (by omega)

theorem isqrt_spec {n k : Nat} (lt : n < 2 ^ (2 * k)) :
    isqrt k n * isqrt k n ≤ n ∧ n < (isqrt k n + 1) * (isqrt k n + 1) :=
  isqrtFrom_spec n 0 k (Nat.zero_le n) (by rwa [zero_add, ← pow_add, ← two_mul])

/-- The square root of n is its whole part and a part below it. -/
theorem stickyPart_sqrt {n r : Nat} (low : r * r ≤ n) (high : n < (r + 1) * (r + 1)) :
    StickyPart (r * r != n) (√n - r) := by
  have le : (r : ℝ) ≤ √n := Real.le_sqrt_of_sq_le (by rw [sq]; exact_mod_cast low)
  have lt : √n < r + 1 := by
    rw [Real.sqrt_lt' (by positivity), sq]; exact_mod_cast high
  refine ⟨by linarith, by linarith, ?_⟩
  rw [sub_ne_zero, bne_iff_ne, not_iff_not, Real.sqrt_eq_iff_mul_self_eq (by positivity) (by positivity), eq_comm]
  exact_mod_cast Iff.rfl

/-- `evenExp` keeps the value, and makes the exponent even. -/
theorem evenExp_value (m : Nat) (e : Int) :
    ((evenExp m e).1 : ℝ) * (2 : ℝ) ^ (evenExp m e).2 = (m : ℝ) * (2 : ℝ) ^ e ∧ (evenExp m e).2 % 2 = 0 ∧
      m ≤ (evenExp m e).1 ∧ (evenExp m e).1 ≤ 2 * m := by
  rw [evenExp]
  split
  · exact ⟨rfl, ‹_›, by dsimp only; omega, by dsimp only; omega⟩
  · refine ⟨?_, by dsimp only; omega, by dsimp only; omega, le_rfl⟩
    have step : (2 : ℝ) ^ e = 2 * (2 : ℝ) ^ (e - 1) := by rw [← zpow_one_add₀ two_ne_zero, add_sub_cancel]
    rw [step]; push_cast; ring

/-- The root of a positive significand of at most f.m + 1 bits, with 32 more bits, rounded once. -/
theorem round_sqrt_roundsIn {f : Fmt} (faithful : Faithful f) (narrow : f.m < 30) {m : Nat} (e : Int) (hm : m ≠ 0)
    (small : m < 2 ^ (f.m + 1)) {y : ℝ} (pos : 0 < y) (root : y * y = finVal false m e) :
    RoundsIn f .rne y (f.round .rne false (isqrt 48 ((evenExp m e).1 * 2 ^ 64)) ((evenExp m e).2 / 2 - 32)
      (isqrt 48 ((evenExp m e).1 * 2 ^ 64) * isqrt 48 ((evenExp m e).1 * 2 ^ 64) != (evenExp m e).1 * 2 ^ 64)) := by
  obtain ⟨value, even, ge, le⟩ := evenExp_value m e
  generalize (evenExp m e).1 = n at *
  generalize (evenExp m e).2 = d at *
  have bound : n < 2 ^ 32 := by
    have : m < 2 ^ 31 := small.trans_le (Nat.pow_le_pow_right two_pos (by omega))
    omega
  obtain ⟨low, high⟩ := @isqrt_spec (n * 2 ^ 64) 48 (by omega)
  generalize isqrt 48 (n * 2 ^ 64) = r at *
  have large : 2 ^ 32 ≤ r := by
    by_contra less
    have : (r + 1) * (r + 1) ≤ 2 ^ 32 * 2 ^ 32 := Nat.mul_le_mul (by omega) (by omega)
    omega
  have bits : 2 ^ (f.m + 1) ≤ r := (Nat.pow_le_pow_right two_pos (by omega)).trans large
  refine round_roundsIn faithful .rne (stickyPart_sqrt low high) (by omega) (fun _ => bits) ?_
    (iff_of_false Bool.false_ne_true (not_lt.mpr pos.le))
  have whole : (2 : ℝ) ^ (d / 2 - 32) * (2 : ℝ) ^ (d / 2 - 32) * 2 ^ 64 = (2 : ℝ) ^ d := by
    rw [← zpow_add₀ two_ne_zero, ← zpow_natCast, ← zpow_add₀ two_ne_zero]
    congr 1
    omega
  rw [abs_of_pos pos, add_sub_cancel, ← mul_self_inj pos.le (by positivity), root]
  calc finVal false m e = n * (2 : ℝ) ^ d := by rw [value, finVal]; simp
    _ = (√(n * 2 ^ 64 : Nat) * √(n * 2 ^ 64 : Nat)) * ((2 : ℝ) ^ (d / 2 - 32) * (2 : ℝ) ^ (d / 2 - 32)) := by
      rw [Real.mul_self_sqrt (by positivity), ← whole]; push_cast; ring
    _ = _ := by ring

theorem sqrt_of_pos {f : Fmt} {x m : Nat} {e : Int} (fin : f.decode x = .fin false m e) (hm : m ≠ 0) :
    f.sqrt x = f.round .rne false (isqrt 48 ((evenExp m e).1 * 2 ^ 64)) ((evenExp m e).2 / 2 - 32)
      (isqrt 48 ((evenExp m e).1 * 2 ^ 64) * isqrt 48 ((evenExp m e).1 * 2 ^ 64) != (evenExp m e).1 * 2 ^ 64) := by
  rw [Fmt.sqrt, fin]
  simp only [if_neg hm, Bool.false_eq_true, if_false]

/-- R227: `Fmt.sqrt` is the square root of an encoding. -/
theorem sqrt_rootOf {f : Fmt} (ieee : IsIeee f) (narrow : f.m < 30) {x : Nat} (hx : x < 2 ^ f.width) :
    RootOf f (f.decode x) (f.sqrt x) := by
  refine ⟨fun nan => ?_, fun inf => ?_, fun inf => ?_, fun s m e fin value hv => ?_⟩
  · rw [Fmt.sqrt, nan]
  · rw [Fmt.sqrt, inf]; rfl
  · rw [Fmt.sqrt, inf]; rfl
  · rw [fin, val_fin] at hv
    subst hv
    refine ⟨fun zero => ?_, fun negative => ?_, fun positive y pos root => ?_⟩
    · simp only [Fmt.sqrt, fin, if_pos ((finVal_eq_zero ..).mp zero)]
    · have nonzero : m ≠ 0 := (finVal_eq_zero s m e).not.mp negative.ne
      simp only [Fmt.sqrt, fin, if_neg nonzero, if_pos ((finVal_lt_zero s e nonzero).mp negative), Fmt.invalid]
    · have nonzero : m ≠ 0 := (finVal_eq_zero s m e).not.mp positive.ne'
      have plus : s = false := Bool.eq_false_iff.mpr ((finVal_lt_zero s e nonzero).not.mp positive.not_gt)
      subst plus
      rw [sqrt_of_pos fin nonzero]
      exact round_sqrt_roundsIn (faithful_of_ieee ieee) narrow e nonzero (decode_fin_onGrid ieee hx fin).1.lt_top pos root

end Sys2Proof.Proofs
end

section
/-! Floating point: comparison, selection and class of operands (R228 .. R231). -/

namespace Sys2Proof.Proofs

open Sys2Proof.Machine Sys2Proof.Safety

/-! ## Comparison (R229) -/

theorem lt_fin_iff (s t : Bool) (m n : Nat) (e d : Int) :
    (FVal.fin s m e).lt (.fin t n d) = true ↔ finVal s m e < finVal t n d := by
  rw [← sigAt_mul_zpow s m (min_le_left e d), ← sigAt_mul_zpow t n (min_le_right e d),
    mul_lt_mul_iff_left₀ (two_zpow_pos _), Int.cast_lt]
  exact decide_eq_true_iff

theorem lt_iff_fpCond (a b : FVal) : a.lt b = true ↔ FpCond 1 a b := by
  cases a with
  | nan => simp [FVal.lt, FpCond]
  | inf s => cases b <;> simp [FVal.lt, FpCond]
  | fin s m e =>
    cases b with
    | fin t n d => rw [lt_fin_iff]; simp [FpCond]
    | _ => simp [FVal.lt, FpCond]

theorem eq_iff_fpCond (a b : FVal) : a.eq b = true ↔ FpCond 0 a b := by
  cases a with
  | nan => simp [FVal.eq, FVal.isNan, FpCond]
  | inf s =>
    cases b with
    | inf t => cases s <;> cases t <;> simp [FVal.eq, FVal.isNan, FVal.lt, FpCond]
    | nan => simp [FVal.eq, FVal.isNan, FpCond]
    | fin t n d => cases s <;> simp [FVal.eq, FVal.isNan, FVal.lt, FpCond]
  | fin s m e =>
    cases b with
    | nan => simp [FVal.eq, FVal.isNan, FpCond]
    | inf t => cases t <;> simp [FVal.eq, FVal.isNan, FVal.lt, FpCond]
    | fin t n d =>
      simp only [FVal.eq, FVal.isNan, Bool.not_false, Bool.true_and, Bool.and_eq_true, Bool.not_eq_true', ← Bool.not_eq_true,
        lt_fin_iff, not_lt, ← le_antisymm_iff, FpCond, val_fin, exists_eq_left]
      simp [eq_comm]

theorem isNan_iff (a : FVal) : a.isNan = true ↔ a = .nan := by cases a <;> simp [FVal.isNan]

/-- R229: `Fmt.cond` is the condition on the values. -/
theorem cond_iff (f : Fmt) (c a b : Nat) : f.cond c a b = true ↔ FpCond c (f.decode a) (f.decode b) := by
  match c with
  | 0 => exact eq_iff_fpCond _ _
  | 1 => exact lt_iff_fpCond _ _
  | 2 => exact Bool.or_eq_true_iff.trans (or_congr (lt_iff_fpCond _ _) (eq_iff_fpCond _ _))
  | _ + 3 => exact Bool.or_eq_true_iff.trans (or_congr (isNan_iff _) (isNan_iff _))

/-! ## The order of encodings -/

/-- The value of the encoding y without its sign, in units of the lowest grid. -/
def magnitude (f : Fmt) (y : Nat) : Nat :=
  if y < 2 ^ f.m then y else (y % 2 ^ f.m + 2 ^ f.m) * 2 ^ (y / 2 ^ f.m - 1)

/-- An encoding read as sign and magnitude. -/
def rank (f : Fmt) (x : Nat) : Int :=
  if f.neg? x = true then -((x % 2 ^ (f.ew + f.m) : Nat) : Int) else (x % 2 ^ (f.ew + f.m) : Nat)

section
variable (f : Fmt)

theorem magnitude_subnormal {t : Nat} (ht : t < 2 ^ f.m) : magnitude f t = t := if_pos ht

theorem magnitude_normal {E t : Nat} (ht : t < 2 ^ f.m) : magnitude f ((E + 1) * 2 ^ f.m + t) = (t + 2 ^ f.m) * 2 ^ E := by
  have pos : 0 < 2 ^ f.m := by positivity
  have high : ¬(E + 1) * 2 ^ f.m + t < 2 ^ f.m := by
    rw [add_one_mul]; omega
  have low : ((E + 1) * 2 ^ f.m + t) % 2 ^ f.m = t := by rw [mul_comm, Nat.mul_add_mod, Nat.mod_eq_of_lt ht]
  have exponent : ((E + 1) * 2 ^ f.m + t) / 2 ^ f.m = E + 1 := by
    rw [mul_comm, Nat.mul_add_div pos, Nat.div_eq_of_lt ht, add_zero]
  rw [magnitude, if_neg high, low, exponent, Nat.add_sub_cancel]

/-- A greater encoding is a greater magnitude. -/
theorem magnitude_strictMono : StrictMono (magnitude f) := by
  refine strictMono_nat_of_lt_succ fun y => ?_
  have pos : 0 < 2 ^ f.m := by positivity
  obtain ⟨E, t, ht, rfl⟩ : ∃ E t, t < 2 ^ f.m ∧ y = E * 2 ^ f.m + t :=
    ⟨y / 2 ^ f.m, y % 2 ^ f.m, Nat.mod_lt _ pos, by rw [mul_comm, Nat.div_add_mod]⟩
  by_cases carry : t + 1 < 2 ^ f.m
  · cases E with
    | zero =>
      rw [zero_mul, zero_add, magnitude_subnormal f ht, magnitude_subnormal f carry]
      exact Nat.lt_succ_self t
    | succ E =>
      rw [add_assoc, magnitude_normal f ht, magnitude_normal f carry]
      exact Nat.mul_lt_mul_of_pos_right (by omega) (by positivity)
  · have successor : E * 2 ^ f.m + t + 1 = (E + 1) * 2 ^ f.m + 0 := by rw [add_one_mul]; omega
    rw [successor, magnitude_normal f pos, zero_add]
    cases E with
    | zero =>
      rw [zero_mul, zero_add, magnitude_subnormal f ht, pow_zero, mul_one]
      exact ht
    | succ E =>
      rw [magnitude_normal f ht, pow_succ', ← mul_assoc]
      exact Nat.mul_lt_mul_of_pos_right (by omega) (by positivity)

/-- With their signs too, magnitudes stand in the order of the encodings. -/
theorem signed_magnitude_lt_iff (s t : Bool) (y z : Nat) :
    (if s = true then -1 else 1) * (magnitude f y : ℝ) < (if t = true then -1 else 1) * (magnitude f z : ℝ) ↔
      (if s = true then -(y : Int) else y) < if t = true then -(z : Int) else z := by
  have mono := magnitude_strictMono f
  have zero : magnitude f 0 = 0 := magnitude_subnormal f (by positivity)
  have posIff (x : Nat) : 0 < magnitude f x ↔ 0 < x := by simpa [zero] using mono.lt_iff_lt (a := 0) (b := x)
  have yz := mono.lt_iff_lt (a := y) (b := z)
  have zy := mono.lt_iff_lt (a := z) (b := y)
  have py := posIff y
  have pz := posIff z
  generalize magnitude f y = my at *
  generalize magnitude f z = mz at *
  have cast (a b : Int) (x y : ℝ) (hx : x = a) (hy : y = b) : x < y ↔ a < b := by rw [hx, hy, Int.cast_lt]
  rw [cast (if s = true then -(my : Int) else my) (if t = true then -(mz : Int) else mz)]
  · cases s <;> cases t <;> simp only [if_true, if_false, Bool.false_eq_true] <;> omega
  · cases s <;> simp
  · cases t <;> simp

variable {f} (ieee : IsIeee f)
include ieee

/-- What an encoding that is not a NaN holds: an infinity, above every finite magnitude, or its magnitude. -/
theorem decode_of_not_nan {x : Nat} (lt : x < 2 ^ f.width) (number : f.decode x ≠ .nan) :
    (x % 2 ^ (f.ew + f.m) = f.etop * 2 ^ f.m ∧ f.decode x = .inf (f.neg? x)) ∨
      (x % 2 ^ (f.ew + f.m) < f.etop * 2 ^ f.m ∧ ∃ m e, f.decode x = .fin (f.neg? x) m e ∧
        finVal (f.neg? x) m e =
          (if f.neg? x = true then -1 else 1) * (magnitude f (x % 2 ^ (f.ew + f.m)) : ℝ) * (2 : ℝ) ^ f.ulp0) := by
  obtain ⟨s, E, t, hE, ht, rfl⟩ := exists_ofFields lt
  have below := fields_lt ht hE
  have neg : f.neg? (ofFields f s E t) = s := neg_signed s below
  have rest : ofFields f s E t % 2 ^ (f.ew + f.m) = E * 2 ^ f.m + t := by
    rw [ofFields, Fmt.signed, width_sub_one]
    split
    · rw [Nat.add_mod_left, Nat.mod_eq_of_lt below]
    · rw [zero_add, Nat.mod_eq_of_lt below]
  rw [neg, rest]
  rw [decode_ofFields s ht ieee hE] at number ⊢
  split at number
  · rename_i top
    split at number
    · rename_i zero
      exact .inl ⟨by rw [top, zero, add_zero], by rw [if_pos top, if_pos zero]⟩
    · exact absurd rfl number
  · rename_i top
    have small : E * 2 ^ f.m + t < f.etop * 2 ^ f.m := by
      have less : E + 1 ≤ f.etop := by rw [Fmt.etop] at *; omega
      calc E * 2 ^ f.m + t < (E + 1) * 2 ^ f.m := by rw [add_one_mul]; omega
        _ ≤ f.etop * 2 ^ f.m := Nat.mul_le_mul_right _ less
    refine .inr ⟨small, ?_⟩
    rw [if_neg top]
    cases E with
    | zero => exact ⟨t, f.ulp0, if_pos rfl, by rw [zero_mul, zero_add, magnitude_subnormal f ht, finVal]⟩
    | succ E =>
      refine ⟨t + 2 ^ f.m, f.ulp0 + E, by rw [if_neg (Nat.succ_ne_zero E)]; congr 1; push_cast; ring, ?_⟩
      rw [magnitude_normal f ht, finVal, add_comm f.ulp0, zpow_add₀ two_ne_zero, zpow_natCast]
      push_cast
      ring

/-- Values stand in the order of their encodings, read as sign and magnitude. -/
theorem lt_iff_rank {a b : Nat} (ha : a < 2 ^ f.width) (hb : b < 2 ^ f.width) (na : f.decode a ≠ .nan) (nb : f.decode b ≠ .nan) :
    (f.decode a).lt (f.decode b) = true ↔ rank f a < rank f b := by
  have top : 0 < f.etop * 2 ^ f.m := Nat.mul_pos (by rw [etop_eq ieee]; omega) (by positivity)
  rw [rank, rank]
  rcases decode_of_not_nan ieee ha na with ⟨la, da⟩ | ⟨la, m, e, da, va⟩ <;>
    rcases decode_of_not_nan ieee hb nb with ⟨lb, db⟩ | ⟨lb, n, d, db, vb⟩ <;> rw [da, db]
  case inr.inr => rw [lt_fin_iff, va, vb, mul_lt_mul_iff_left₀ (two_zpow_pos _), signed_magnitude_lt_iff]
  all_goals
    cases f.neg? a <;> cases f.neg? b <;>
      simp only [FVal.lt, Bool.not_true, Bool.not_false, Bool.and_true, Bool.and_false, Bool.false_eq_true, if_true, if_false,
        true_iff, false_iff] <;> omega

/-- Values are equal when their encodings are equal, or both zeros. -/
theorem eq_iff_rank {a b : Nat} (ha : a < 2 ^ f.width) (hb : b < 2 ^ f.width) (na : f.decode a ≠ .nan) (nb : f.decode b ≠ .nan) :
    (f.decode a).eq (f.decode b) = true ↔ rank f a = rank f b := by
  have isNumber (x : FVal) (h : x ≠ .nan) : x.isNan = false := Bool.eq_false_iff.mpr fun nan => h ((isNan_iff x).mp nan)
  rw [FVal.eq, isNumber _ na, isNumber _ nb, Bool.not_false, Bool.true_and, Bool.true_and, Bool.and_eq_true, Bool.not_eq_true',
    Bool.not_eq_true', ← Bool.not_eq_true, ← Bool.not_eq_true, lt_iff_rank ieee ha hb na nb, lt_iff_rank ieee hb ha nb na]
  omega

end

/-! ## Selection (R228) -/

section
variable {f : Fmt}

/-- A selection of two words by an order is their minimum or maximum, where the order is that of the words. -/
theorem selected_of_lt {a b r : Nat} {lo : Bool} (same : a = b → r = a ∨ r = b) (less : a < b → r = if lo = true then a else b)
    (more : b < a → r = if lo = true then b else a) : r = if lo = true then Nat.min a b else Nat.max a b := by
  change r = if lo = true then min a b else max a b
  rcases lt_trichotomy a b with lt | rfl | gt
  · rw [less lt, Nat.min_eq_left lt.le, Nat.max_eq_right lt.le]
  · rw [or_self_iff.mp (same rfl), Nat.min_self, Nat.max_self, ite_self]
  · rw [more gt, Nat.min_eq_right gt.le, Nat.max_eq_left gt.le]

theorem rank_nonneg {x : Nat} (pos : f.neg? x = false) : 0 ≤ rank f x := by
  rw [rank, pos]
  exact Int.natCast_nonneg _

theorem rank_nonpos {x : Nat} (neg : f.neg? x = true) : rank f x ≤ 0 := by
  rw [rank, neg]
  exact Int.neg_nonpos_of_nonneg (Int.natCast_nonneg _)

theorem rank_of_pos {x : Nat} (lt : x < 2 ^ f.width) (pos : f.neg? x = false) : rank f x = x := by
  have whole := exists_signed lt
  rw [pos, Fmt.signed, if_neg Bool.false_ne_true, zero_add] at whole
  rw [rank, pos, if_neg Bool.false_ne_true, ← whole]

theorem rank_of_neg {x : Nat} (lt : x < 2 ^ f.width) (neg : f.neg? x = true) : rank f x = (2 ^ (f.width - 1) : Nat) - (x : Int) := by
  have whole := exists_signed lt
  rw [neg, Fmt.signed, if_pos rfl] at whole
  rw [rank, neg, if_pos rfl]
  omega

/-- Two numbers selected by the order of their encodings are selected as R228 asks. -/
theorem selectsOf_of_rank {a b r : Nat} {lo : Bool} (ha : a < 2 ^ f.width) (hb : b < 2 ^ f.width)
    (na : f.decode a ≠ .nan) (nb : f.decode b ≠ .nan)
    (same : rank f a = rank f b → r = if f.neg? a = lo then a else b)
    (less : rank f a < rank f b → r = if lo = true then a else b)
    (more : rank f b < rank f a → r = if lo = true then b else a) : SelectsOf f lo a b r := by
  have either : rank f a = rank f b → r = a ∨ r = b := fun h => by
    rw [same h]
    exact ite_eq_or_eq ..
  refine ⟨fun h => absurd h na, fun h => absurd h na, fun _ h => absurd h nb, fun _ _ =>
    ⟨?oneOf, fun sa sb => ?below, fun sa sb => ?above, fun sa sb => ?positive, fun sa sb => ?negative⟩⟩
  case oneOf =>
    rcases lt_trichotomy (rank f a) (rank f b) with lt | eq | gt
    · rw [less lt]
      exact ite_eq_or_eq ..
    · exact either eq
    · rw [more gt]
      exact (ite_eq_or_eq ..).symm
  case below =>
    have le : rank f a ≤ rank f b := (rank_nonpos sa).trans (rank_nonneg sb)
    rcases le.lt_or_eq with lt | eq
    · exact less lt
    · rw [same eq, sa]
      simp only [eq_comm]
  case above =>
    have le : rank f b ≤ rank f a := (rank_nonpos sb).trans (rank_nonneg sa)
    rcases le.lt_or_eq with lt | eq
    · exact more lt
    · rw [same eq.symm, sa]
      cases lo <;> rfl
  case positive =>
    rw [rank_of_pos ha sa, rank_of_pos hb sb, Nat.cast_inj] at either
    rw [rank_of_pos ha sa, rank_of_pos hb sb, Nat.cast_lt] at less more
    exact selected_of_lt either less more
  case negative =>
    rw [rank_of_neg ha sa, rank_of_neg hb sb, sub_right_inj, Nat.cast_inj] at either
    rw [rank_of_neg ha sa, rank_of_neg hb sb, sub_lt_sub_iff_left, Nat.cast_lt] at less more
    have selected := selected_of_lt (lo := !lo) either (fun lt => (more lt).trans (by cases lo <;> rfl))
      (fun gt => (less gt).trans (by cases lo <;> rfl))
    exact selected.trans (by cases lo <;> rfl)

/-- `Fmt.min` and `Fmt.max` as one selection. -/
def selection (f : Fmt) (lo : Bool) (a b : Nat) : Nat :=
  if (f.decode a).isNan = true then (if (f.decode b).isNan = true then f.nan else b)
  else if (f.decode b).isNan = true then a
  else if (f.decode a).eq (f.decode b) = true then (if f.neg? a = lo then a else b)
  else if (f.decode a).lt (f.decode b) = true then (if lo = true then a else b)
  else if lo = true then b else a

theorem min_eq_selection (a b : Nat) : f.min a b = selection f true a b := rfl

theorem max_eq_selection (a b : Nat) : f.max a b = selection f false a b := by
  rw [Fmt.max, selection]
  cases f.neg? a <;> rfl

/-- R228: the smaller or larger operand. -/
theorem selection_selectsOf (ieee : IsIeee f) {a b : Nat} (lo : Bool) (ha : a < 2 ^ f.width) (hb : b < 2 ^ f.width) :
    SelectsOf f lo a b (selection f lo a b) := by
  have less := lt_iff_rank ieee ha hb
  have same := eq_iff_rank ieee ha hb
  rw [selection]
  by_cases na : f.decode a = .nan
  · rw [if_pos ((isNan_iff _).mpr na)]
    exact ⟨fun _ nb => if_pos ((isNan_iff _).mpr nb), fun _ nb => if_neg ((isNan_iff _).not.mpr nb),
      fun h => absurd na h, fun h => absurd na h⟩
  · rw [if_neg ((isNan_iff _).not.mpr na)]
    by_cases nb : f.decode b = .nan
    · rw [if_pos ((isNan_iff _).mpr nb)]
      exact ⟨fun h => absurd h na, fun h => absurd h na, fun _ _ => rfl, fun _ h => absurd nb h⟩
    · simp only [if_neg ((isNan_iff _).not.mpr nb), same na nb, less na nb]
      exact selectsOf_of_rank ha hb na nb (fun h => if_pos h) (fun h => by rw [if_neg h.ne, if_pos h])
        (fun h => by rw [if_neg h.ne', if_neg h.not_gt])

end

/-! ## Class and sign (R230, R231) -/

/-- R230: `Fmt.classBit` is the class of an FP32 operand. -/
theorem classBit_classOf {x : Nat} (lt : x < 2 ^ 32) : ClassOf (Fmt.fp32.decode x) (Fmt.fp32.classBit x) := by
  have bounded := @decode_fin_onGrid _ isIeee_fp32 x lt
  rw [Fmt.classBit]
  generalize Fmt.fp32.decode x = a at bounded
  refine ⟨by rintro rfl; rfl, by rintro rfl; rfl, by rintro rfl; rfl, by rintro s e rfl; rfl, ?_⟩
  rintro s m e v rfl value nonzero
  obtain ⟨⟨low, -, normal⟩, -, -⟩ := bounded rfl
  rw [val_fin] at value
  subst value
  have hm : m ≠ 0 := (finVal_eq_zero s m e).not.mp nonzero
  have least : (2 : ℝ) ^ (-126 : ℤ) = (2 ^ 23 : Nat) * (2 : ℝ) ^ Fmt.fp32.ulp0 := by
    rw [show Fmt.fp32.ulp0 = -149 from rfl]; norm_num
  simp only [abs_finVal, if_neg hm, least]
  by_cases sub : m < 2 ^ 23
  · have lowest : e = Fmt.fp32.ulp0 := normal.resolve_right (not_le.mpr sub)
    rw [lowest, mul_lt_mul_iff_left₀ (two_zpow_pos _), Nat.cast_lt]
    exact ⟨fun _ => if_pos sub, fun h => absurd sub (not_lt.mpr (by
      exact_mod_cast (mul_le_mul_iff_left₀ (two_zpow_pos _)).mp h))⟩
  · have large : ((2 ^ 23 : Nat) : ℝ) * (2 : ℝ) ^ Fmt.fp32.ulp0 ≤ m * (2 : ℝ) ^ e :=
      mul_le_mul (by exact_mod_cast not_lt.mp sub) (zpow_le_zpow_right₀ one_le_two low) (by positivity) (by positivity)
    exact ⟨fun h => absurd h (not_lt.mpr large), fun _ => if_neg sub⟩

/-- The sign of an FP32 word is its top bit. -/
theorem neg_toNat (x : BitVec 32) : Fmt.fp32.neg? x.toNat = x.getLsbD 31 := by
  rw [BitVec.getLsbD, Nat.testBit_eq_decide_div_mod_eq]
  rfl

/-- The bits of an FP32 word with this sign and the other bits of y. -/
theorem getLsbD_signed (s : Bool) (y : Nat) (j : Nat) (lt : j < 32) :
    (BitVec.ofNat 32 (Fmt.fp32.signed s (y % 2 ^ 31))).getLsbD j = if j = 31 then s else y.testBit j := by
  have small : y % 2 ^ 31 < 2 ^ 31 := Nat.mod_lt _ (by positivity)
  have top : (y % 2 ^ 31).testBit 31 = false := Nat.testBit_lt_two_pow small
  have signed : Fmt.fp32.signed s (y % 2 ^ 31) = (if s = true then 2 ^ 31 else 0) + y % 2 ^ 31 := rfl
  rw [BitVec.getLsbD_ofNat, signed, decide_eq_true lt, Bool.true_and]
  by_cases last : j = 31
  · subst last
    cases s with
    | false => rw [if_neg Bool.false_ne_true, zero_add, top, if_pos rfl]
    | true => rw [if_pos rfl, Nat.testBit_two_pow_add_eq, top, if_pos rfl, Bool.not_false]
  · have less : j < 31 := by omega
    have kept : (y % 2 ^ 31).testBit j = y.testBit j := by
      rw [Nat.testBit_mod_two_pow, decide_eq_true less, Bool.true_and]
    rw [if_neg last]
    cases s with
    | false => rw [if_neg Bool.false_ne_true, zero_add, kept]
    | true => rw [if_pos rfl, Nat.testBit_two_pow_add_gt less, kept]

end Sys2Proof.Proofs
end

section
/-! Floating point: conversions to and from integers, to integral values and between formats (R232, R233). -/

namespace Sys2Proof.Proofs

open Sys2Proof.Machine Sys2Proof.Safety

/-! ## Integers -/

/-- A finite value rounded to an integer (R44). -/
theorem roundAt_zero_spec (mode : RMode) (s : Bool) (m : Nat) (e : Int) :
    RoundsInt mode s |finVal s m e| (roundAt mode s m e false 0).1 ∧
      ((roundAt mode s m e false 0).2 = true ↔ ((roundAt mode s m e false 0).1 : ℝ) ≠ |finVal s m e|) := by
  have spec := roundAt_spec stickyPart_zero mode s m e 0 (fun h => absurd h Bool.false_ne_true)
  rwa [add_zero, zpow_zero, div_one, ← abs_finVal s] at spec

/-- The signed integer is the value when the magnitude is. -/
theorem signed_cast_eq_finVal_iff (s : Bool) (m : Nat) (e : Int) (q : Nat) :
    ((if s = true then -(q : Int) else q : Int) : ℝ) = finVal s m e ↔ (q : ℝ) = |finVal s m e| := by
  rw [abs_finVal, finVal, mul_assoc]
  cases s <;> simp

/-- R45: `Fmt.toInt` converts to an integer in [lo, hi]. -/
theorem toInt_convertsInt (f : Fmt) (mode : RMode) {lo hi : Int} (le : lo ≤ hi) (x : Nat) :
    ConvertsInt mode lo hi (f.decode x) (f.toInt mode lo hi x) := by
  rw [Fmt.toInt]
  generalize f.decode x = a
  refine ⟨by rintro rfl; rfl, by rintro rfl; rfl, by rintro rfl; rfl, ?_⟩
  rintro s m e v rfl value
  rw [val_fin] at value
  subst value
  obtain ⟨rounds, inexact⟩ := roundAt_zero_spec mode s m e
  refine ⟨_, rounds, fun below => ?_, fun above => ?_, fun low high => ?_⟩
  · simp only [if_pos below]
  · simp only [if_neg (le.trans_lt above).not_gt, if_pos above]
  · simp only [if_neg low.not_gt, if_neg high.not_gt]
    exact ⟨trivial, trivial, trivial, trivial, trivial, inexact.trans (signed_cast_eq_finVal_iff ..).not.symm⟩

/-- `Fmt.fromInt` rounds an integer once. -/
theorem fromInt_roundsIn {f : Fmt} (faithful : Faithful f) (mode : RMode) {n : Int} (nonzero : n ≠ 0) :
    RoundsIn f mode (n : ℝ) (f.fromInt mode n) := by
  refine round_roundsIn faithful mode stickyPart_zero (Int.natAbs_ne_zero.mpr nonzero)
    (fun h => absurd h Bool.false_ne_true) ?_ ?_
  · rw [add_zero, zpow_zero, mul_one, Nat.cast_natAbs, Int.cast_abs]
  · rw [decide_eq_true_eq, Int.cast_lt_zero]

theorem fromInt_zero (f : Fmt) (mode : RMode) : f.fromInt mode 0 = (0, {}) := round_zero ..

/-! ## Values that FP32 holds -/

/-- A value of at most 24 bits on a grid that FP32 has is held as it is. -/
theorem round_fp32_of_holds (mode : RMode) (s : Bool) {m : Nat} {e : Int} (hm : m < 2 ^ 24) (low : -149 ≤ e) (high : e ≤ 80) :
    let r := Fmt.fp32.round mode s m e false
    r.2 = {} ∧ r.1 < 2 ^ 32 ∧ Fmt.fp32.neg? r.1 = s ∧ Val (Fmt.fp32.decode r.1) (finVal s m e) := by
  have faithful := faithful_fp32
  by_cases zero : m = 0
  · subst zero
    have small : 0 < 2 ^ (Fmt.fp32.ew + Fmt.fp32.m) := by positivity
    have value : Fmt.fp32.decode (Fmt.fp32.signed s 0) = .fin s 0 (-149) := by cases s <;> rfl
    simp only [round_zero, value, finVal_zero, val_fin]
    exact ⟨trivial, signed_lt s small, neg_signed s small, trivial⟩
  · have top : Nat.log2 m < 24 := (Nat.log2_lt zero).mpr hm
    have ulp0 : Fmt.fp32.ulp0 = -149 := rfl
    have umax : Fmt.fp32.umax = 104 := rfl
    have fits : gridOf .fp32 m e ≤ e := by
      rw [gridOf, show Fmt.fp32.emin = -126 from rfl, show Fmt.fp32.m = 23 from rfl]; omega
    have lowest := ulp0_le_gridOf .fp32 m e
    have upper := lt_two_zpow_gridOf e le_rfl one_pos zero .fp32
    have lower := gridOf_lowest_or_le e le_rfl one_pos zero .fp32
    have value := natCast_mul_zpow_sub m fits
    have unit := two_zpow_pos (gridOf .fp32 m e)
    rw [add_zero, ← value] at upper lower
    rw [add_assoc, zpow_add₀ two_ne_zero, mul_comm, mul_lt_mul_iff_right₀ unit] at upper
    rw [zpow_add₀ two_ne_zero, mul_comm, mul_le_mul_iff_left₀ unit] at lower
    have lt : m * 2 ^ (e - gridOf .fp32 m e).toNat < 2 ^ (Fmt.fp32.m + 1) := by exact_mod_cast upper
    have grid : OnGrid .fp32 (m * 2 ^ (e - gridOf .fp32 m e).toNat) (gridOf .fp32 m e) :=
      ⟨lowest, lt, lower.imp_right fun h => by exact_mod_cast h⟩
    have inRange : ¬Beyond .fp32 (m * 2 ^ (e - gridOf .fp32 m e).toNat) (gridOf .fp32 m e) := by
      rintro (h | h) <;> omega
    rw [round_of_holds mode s zero fits inRange lt]
    refine ⟨rfl, faithful.encode_lt _ _ _ grid inRange, faithful.neg_encode _ _ _ grid inRange, ?_⟩
    rw [faithful.decode_encode _ _ _ grid inRange, val_fin, finVal, finVal, mul_assoc, mul_assoc, value]

/-! ## Integral values (R232) -/

/-- A value with a fraction is below 2^23, and so is what it rounds to. -/
theorem le_of_inexact {mode : RMode} {s : Bool} {m : Nat} {e : Int} (hm : m < 2 ^ 24)
    (inexact : (roundAt mode s m e false 0).2 = true) : (roundAt mode s m e false 0).1 ≤ 2 ^ 23 := by
  have negative : e < 0 := by
    by_contra nonneg
    rw [roundAt_of_le false (not_lt.mp nonneg)] at inexact
    exact Bool.false_ne_true inexact
  refine roundsInt_le (roundAt_zero_spec mode s m e).1 ?_
  have half : (2 : ℝ) ^ e ≤ 2 ^ (-1 : ℤ) := zpow_le_zpow_right₀ one_le_two (by omega)
  have wide : (m : ℝ) ≤ 2 ^ 24 := by exact_mod_cast hm.le
  rw [abs_finVal]
  calc (m : ℝ) * (2 : ℝ) ^ e ≤ 2 ^ 24 * 2 ^ (-1 : ℤ) := mul_le_mul wide half (by positivity) (by positivity)
    _ = ((2 ^ 23 : Nat) : ℝ) := by norm_num

/-- R232: `Fmt.integral` rounds to an integral value. -/
theorem integral_integralOf (mode : RMode) {x : Nat} (lt : x < 2 ^ 32) : IntegralOf mode x (Fmt.fp32.integral mode x) := by
  refine ⟨fun nan => ?_, fun s inf => ?_, fun s m e v fin value => ?_⟩
  · rw [Fmt.integral, nan]
  · rw [Fmt.integral, inf]
    exact Prod.ext (eq_inf_of_decode isIeee_fp32 lt inf).symm rfl
  · rw [val_fin] at value
    subst value
    obtain ⟨rounds, inexact⟩ := roundAt_zero_spec mode s m e
    have small := (decode_fin_onGrid isIeee_fp32 lt fin).1.lt_top
    refine ⟨_, rounds, fun same => ?_, fun differs => ?_⟩
    · simp only [Fmt.integral, fin, if_neg (inexact.not.mpr (not_not.mpr same))]
    · have bound := le_of_inexact small (inexact.mpr differs)
      obtain ⟨-, -, neg, holds⟩ := round_fp32_of_holds mode s (e := 0) (bound.trans_lt (by norm_num)) (by norm_num) (by norm_num)
      simp only [Fmt.integral, fin, if_pos (inexact.mpr differs)]
      refine ⟨?_, neg, trivial⟩
      simpa [finVal] using holds

/-! ## Widening moves (R233) -/

theorem widenMove_of_number {f : Fmt} {x : Nat} (number : f.decode x ≠ .nan) :
    widenMove f x = (Fmt.fp32.ofVal .rne (f.decode x)).1 := by
  rw [widenMove]
  split
  · exact absurd ‹_› number
  · rfl

/-- A NaN keeps its sign and its payload. -/
theorem widenMove_of_nan {f : Fmt} {x : Nat} (nan : f.decode x = .nan) :
    widenMove f x = Fmt.fp32.signed (f.neg? x) (255 * 2 ^ 23 + x % 2 ^ f.m * 2 ^ (23 - f.m)) := by
  rw [widenMove, nan]

/-- FP32 holds every number of FP16. -/
theorem ofVal_fp32_of_fp16 {x : Nat} (lt : x < 2 ^ 16) (number : Fmt.fp16.decode x ≠ .nan) :
    (Fmt.fp32.ofVal .rne (Fmt.fp16.decode x)).2 = {} ∧ (Fmt.fp32.ofVal .rne (Fmt.fp16.decode x)).1 < 2 ^ 32 := by
  have bounded := @decode_fin_onGrid _ isIeee_fp16 x lt
  cases h : Fmt.fp16.decode x with
  | nan => exact absurd h number
  | inf s => cases s <;> decide
  | fin s m e =>
    obtain ⟨⟨low, high, -⟩, inRange, -⟩ := bounded h
    have top : e ≤ 5 := not_lt.mp fun above => inRange (.inl above)
    have bottom : -24 ≤ e := low
    have narrow : m < 2 ^ 11 := high
    obtain ⟨noFlag, small, -, -⟩ := round_fp32_of_holds .rne s (m := m) (e := e) (by omega) (by omega) (by omega)
    exact ⟨noFlag, small⟩

/-- A BF16 word is the upper half of the FP32 word with its fields. -/
theorem ofFields_bf16_mul (s : Bool) (E t : Nat) : ofFields .bf16 s E t * 2 ^ 16 = ofFields .fp32 s E (t * 2 ^ 16) := by
  have half : ofFields .bf16 s E t = (if s = true then 2 ^ 15 else 0) + (E * 2 ^ 7 + t) := rfl
  have full : ofFields .fp32 s E (t * 2 ^ 16) = (if s = true then 2 ^ 31 else 0) + (E * 2 ^ 23 + t * 2 ^ 16) := rfl
  rw [half, full]
  split <;> omega

/-- A BF16 number rounded to FP32: its significand with sixteen more bits, on the grid sixteen lower. -/
theorem round_fp32_of_bf16 (s : Bool) {m : Nat} {e : Int} (nonzero : m ≠ 0) (grid : OnGrid .bf16 m e) (inRange : ¬Beyond .bf16 m e) :
    Fmt.fp32.round .rne s m e false = (Fmt.fp32.encode s (m * 2 ^ 16) (e - 16), {}) := by
  obtain ⟨low, high, normal⟩ := grid
  have low : -133 ≤ e := low
  have high : m < 2 ^ 8 := high
  have normal : e = -133 ∨ 2 ^ 7 ≤ m := normal
  have top : e ≤ 120 := not_lt.mp fun above => inRange (.inl above)
  have upper : Nat.log2 m < 8 := (Nat.log2_lt nonzero).mpr high
  have lower : 2 ^ 7 ≤ m → 7 ≤ Nat.log2 m := (Nat.le_log2 nonzero).mpr
  have same : gridOf .fp32 m e = e - 16 := by
    rw [gridOf, show Fmt.fp32.emin = -126 from rfl, show Fmt.fp32.m = 23 from rfl]
    omega
  have shift : (e - (e - 16)).toNat = 16 := by omega
  have holds := round_of_holds (f := .fp32) .rne s (m := m) (e := e) nonzero
  rw [same, shift] at holds
  refine holds (by omega) ?_ (by rw [show Fmt.fp32.m = 23 from rfl]; omega)
  rw [Beyond, show Fmt.fp32.umax = 104 from rfl, show Fmt.fp32.qmax = 2 ^ 24 - 1 from rfl]
  omega

/-- A BF16 number converts to the FP32 word of which it is the upper half. -/
theorem round_fp32_of_decode_bf16 {s : Bool} {E t : Nat} (hE : E < 255) (ht : t < 2 ^ 7) {m : Nat} {e : Int}
    (fin : Fmt.bf16.decode (ofFields .bf16 s E t) = .fin s m e) :
    (Fmt.fp32.round .rne s m e false).1 = ofFields .fp32 s E (t * 2 ^ 16) := by
  have wide : t * 2 ^ 16 < 2 ^ Fmt.fp32.m := (Nat.mul_lt_mul_right (by norm_num)).mpr ht
  have exponent : E < 2 ^ Fmt.fp32.ew := hE.trans (by decide)
  have widthLt : ofFields .bf16 s E t < 2 ^ Fmt.bf16.width := signed_lt s (fields_lt ht exponent)
  obtain ⟨grid, inRange, -⟩ := decode_fin_onGrid isIeee_bf16 widthLt fin
  have shifted : Fmt.fp32.decode (ofFields .fp32 s E (t * 2 ^ 16)) = .fin s (m * 2 ^ 16) (e - 16) := by
    have notTop : E ≠ Fmt.fp32.etop := hE.ne
    rw [decode_ofFields s ht isIeee_bf16 exponent, if_neg (show E ≠ Fmt.bf16.etop from notTop)] at fin
    rw [decode_ofFields s wide isIeee_fp32 exponent, if_neg notTop]
    split at fin <;> cases fin
    · exact if_pos ‹_›
    · have significand : t * 2 ^ 16 + 2 ^ Fmt.fp32.m = (t + 2 ^ Fmt.bf16.m) * 2 ^ 16 := by
        rw [show Fmt.fp32.m = Fmt.bf16.m + 16 from rfl, pow_add, add_mul]
      have scale : Fmt.fp32.ulp0 + E - 1 = Fmt.bf16.ulp0 + E - 1 - 16 := by
        rw [show Fmt.fp32.ulp0 = Fmt.bf16.ulp0 - 16 from rfl]; ring
      rw [if_neg ‹_›, significand, scale]
  have encoded : ofFields .fp32 s E (t * 2 ^ 16) = Fmt.fp32.encode s (m * 2 ^ 16) (e - 16) :=
    (decode_fin_onGrid isIeee_fp32 (signed_lt s (fields_lt wide exponent)) shifted).2.2
  by_cases zero : m = 0
  · subst zero
    have lowest : e = -133 := grid.lowest_or_normal.resolve_right (by decide)
    rw [round_zero, encoded, lowest, zero_mul, Fmt.encode, if_pos (by positivity)]
  · rw [round_fp32_of_bf16 s zero grid inRange, encoded]

/-- R233: a BF16 word moved to FP32 is the upper half of the result. -/
theorem widenMove_bf16 {x : Nat} (lt : x < 2 ^ 16) : widenMove .bf16 x = x * 2 ^ 16 := by
  obtain ⟨s, E, t, hE, ht, rfl⟩ := exists_ofFields (f := .bf16) lt
  have decoded := decode_ofFields s ht isIeee_bf16 hE
  rw [ofFields_bf16_mul]
  by_cases top : E = Fmt.bf16.etop
  · rw [if_pos top] at decoded
    split at decoded
    · rename_i zero
      rw [widenMove_of_number (by rw [decoded]; exact FVal.noConfusion), decoded, ofVal_inf isIeee_fp32, inf_eq isIeee_fp32, top, zero]
      rfl
    · rw [widenMove_of_nan decoded, ofFields_mod s ht, ofFields, neg_signed s (fields_lt ht hE), ofFields, top]
      rfl
  · have below : E < 255 := lt_of_le_of_ne (Nat.lt_succ_iff.mp hE) top
    rw [if_neg top] at decoded
    split at decoded <;>
      rw [widenMove_of_number (by rw [decoded]; exact FVal.noConfusion), decoded] <;>
      exact round_fp32_of_decode_bf16 below ht decoded

end Sys2Proof.Proofs
end

section
/-! The scalar floating-point instructions of page 1 (R227 .. R234). -/

namespace Sys2Proof.Proofs

open Sys2Proof.Machine Sys2Proof.Safety Sys2Proof.Laws

section
variable (s : State)
theorem exec_fadd (o : L3) : exec (.fadd o) s = .next (s.endFp o.l o.d (Fmt.fp32.add (s.fn o.a) (s.fn o.b))) := rfl
theorem exec_fsub (o : L3) : exec (.fsub o) s = .next (s.endFp o.l o.d (Fmt.fp32.sub (s.fn o.a) (s.fn o.b))) := rfl
theorem exec_fmul (o : L3) : exec (.fmul o) s = .next (s.endFp o.l o.d (Fmt.fp32.mul (s.fn o.a) (s.fn o.b))) := rfl
theorem exec_fdiv (o : L3) : exec (.fdiv o) s = .next (s.endFp o.l o.d (Fmt.fp32.div (s.fn o.a) (s.fn o.b))) := rfl
theorem exec_fsqrt (o : L2) : exec (.fsqrt o) s = .next (s.endFp o.l o.d (Fmt.fp32.sqrt (s.fn o.a))) := rfl
theorem exec_ffma (o : L4) :
    exec (.ffma o) s = .next (s.endFp o.l o.d (Fmt.fp32.fma (s.fn o.a) (s.fn o.b) (s.fn (cReg o.c)))) := rfl
theorem exec_fmin (o : L3) : exec (.fmin o) s = .next (s.endFp o.l o.d (Fmt.fp32.min (s.fn o.a) (s.fn o.b), {})) := rfl
theorem exec_fmax (o : L3) : exec (.fmax o) s = .next (s.endFp o.l o.d (Fmt.fp32.max (s.fn o.a) (s.fn o.b), {})) := rfl
theorem exec_fcmp (o : FcmpOps) :
    exec (.fcmp o) s = .next (s.endLong o.l [.g o.d (ofBool64 (Fmt.fp32.cond o.cond.toNat (s.fn o.a) (s.fn o.b)))]) := rfl
theorem exec_fclass (o : L2) :
    exec (.fclass o) s = .next (s.endLong o.l [.g o.d (BitVec.ofNat 64 (2 ^ Fmt.fp32.classBit (s.fn o.a)))]) := rfl
theorem exec_fsgn (o : L3) : exec (.fsgn o) s = .next (s.endFp o.l o.d (Fmt.fp32.sgn (s.fn o.a) (s.fn o.b), {})) := rfl
theorem exec_fli (o : FliOps) : exec (.fli o) s = execFli o s := rfl
end

/-- An `f` operand is a word of FP32. -/
theorem fn_lt (s : State) (r : Reg) : s.fn r < 2 ^ 32 := (s.f r).isLt

/-- An instruction that ends with an FP32 result and its flags. -/
theorem ends_of_endFp {i : Instr} {s : State} {l : BitVec 4} {d : Reg} {r : Nat × Flags}
    (h : exec i s = .next (s.endFp l d r)) : Ends i s l (FpResult d r) :=
  ends_of_endLong h

theorem write_no_flags : ({} : Flags).write = [] := by decide

/-- An instruction that ends with an FP32 result and raises no flag. -/
theorem ends_of_endFp_unflagged {i : Instr} {s : State} {l : BitVec 4} {d : Reg} {x : Nat}
    (h : exec i s = .next (s.endFp l d (x, {}))) : Ends i s l [.f d (BitVec.ofNat 32 x)] := by
  rw [State.endFp, write_no_flags] at h
  exact ends_of_endLong h

/-- What R227 says of an instruction: it ends with a result that its specification allows. -/
def DeliversFp (i : Instr) (s : State) : Prop :=
  ∀ l d p, fpSpec i s = some (l, d, p) → ∃ r, p r ∧ Ends i s l (FpResult d r)

theorem deliversFp_of_none {i : Instr} {s : State} (none : fpSpec i s = none) : DeliversFp i s :=
  fun _ _ _ spec => nomatch none.symm.trans spec

theorem deliversFp_of_some {i : Instr} {s : State} {l : BitVec 4} {d : Reg} {p : Nat × Flags → Prop} {r : Nat × Flags}
    (some : fpSpec i s = some (l, d, p)) (run : exec i s = .next (s.endFp l d r)) (allowed : p r) : DeliversFp i s := by
  intro l' d' p' spec
  cases some.symm.trans spec
  exact ⟨r, allowed, ends_of_endFp run⟩

/-- R227: the arithmetic delivers results that are rounded once. -/
theorem deliversFp (i : Instr) (s : State) : DeliversFp i s := by
  cases i
  case fadd o => exact deliversFp_of_some rfl (exec_fadd s o) (addVal_sumOf faithful_fp32 ..)
  case fsub o => exact deliversFp_of_some rfl (exec_fsub s o) (addVal_sumOf faithful_fp32 ..)
  case fmul o => exact deliversFp_of_some rfl (exec_fmul s o) (mul_productOf isIeee_fp32 ..)
  case fdiv o => exact deliversFp_of_some rfl (exec_fdiv s o) (div_quotientOf isIeee_fp32 (by decide) _ (fn_lt s o.b))
  case fsqrt o => exact deliversFp_of_some rfl (exec_fsqrt s o) (sqrt_rootOf isIeee_fp32 (by decide) (fn_lt s o.a))
  case ffma o => exact deliversFp_of_some rfl (exec_ffma s o) (fma_fusedOf isIeee_fp32 ..)
  all_goals exact deliversFp_of_none rfl

/-- What R228 .. R234 say of an instruction: it ends with writes that its specification allows. -/
def Delivers (i : Instr) (s : State) : Prop := ∀ l p, fpMoreSpec i s = some (l, p) → ∃ ws, p ws ∧ Ends i s l ws

theorem delivers_of_none {i : Instr} {s : State} (none : fpMoreSpec i s = none) : Delivers i s :=
  fun _ _ spec => nomatch none.symm.trans spec

theorem delivers_of_some {i : Instr} {s : State} {l : BitVec 4} {p : List RegWrite → Prop} {ws : List RegWrite}
    (some : fpMoreSpec i s = some (l, p)) (ends : Ends i s l ws) (allowed : p ws) : Delivers i s := by
  intro l' p' spec
  cases some.symm.trans spec
  exact ⟨ws, allowed, ends⟩

/-! ## Selection, comparison, class, sign -/

/-- A flag register from a decided condition. -/
theorem isFlag_ofBool64 {b : Bool} {p : Prop} (h : b = true ↔ p) : IsFlag (ofBool64 b) p := by
  cases b
  · exact ⟨fun hp => absurd (h.mpr hp) Bool.false_ne_true, fun _ => rfl⟩
  · exact ⟨fun _ => rfl, fun hp => absurd (h.mp rfl) hp⟩

/-- What R228 selects is an encoding of the format. -/
theorem selection_lt {a b : Nat} (lo : Bool) (ha : a < 2 ^ 32) (hb : b < 2 ^ 32) : selection .fp32 lo a b < 2 ^ 32 := by
  have nan : Fmt.fp32.nan < 2 ^ 32 := by decide
  rw [selection]
  repeat' split
  all_goals assumption

/-- A word cut to the width it has. -/
theorem toNat_ofNat_of_lt {x : Nat} (lt : x < 2 ^ 32) : (BitVec.ofNat 32 x).toNat = x := by
  rw [BitVec.toNat_ofNat, Nat.mod_eq_of_lt lt]

/-- R231: the sign of A is changed by the sign of B. -/
theorem sgn_spec (a b : BitVec 32) :
    let x := BitVec.ofNat 32 (Fmt.fp32.sgn a.toNat b.toNat)
    (Fmt.fp32.decode a.toNat = .nan → x = 0x7FC00000#32) ∧
      (Fmt.fp32.decode a.toNat ≠ .nan → (∀ j < 31, x.getLsbD j = a.getLsbD j) ∧
        x.getLsbD 31 = (a.getLsbD 31 != b.getLsbD 31)) := by
  simp only [Fmt.sgn, isNan_iff]
  refine ⟨fun nan => by rw [if_pos nan]; rfl, fun number => ?_⟩
  have bit := getLsbD_signed (Fmt.fp32.neg? a.toNat != Fmt.fp32.neg? b.toNat) a.toNat
  rw [neg_toNat, neg_toNat] at bit
  rw [if_neg number, neg_toNat, neg_toNat]
  exact ⟨fun j lt => (bit j (by omega)).trans (if_neg lt.ne), (bit 31 (by decide)).trans (if_pos rfl)⟩

/-! ## Conversions (R232) -/

/-- R232, codes 5 and 6: a value rounded to a narrower format and held widened. -/
theorem rounded_narrowsTo {f : Fmt} (ieee : IsIeee f) (mode : RMode) (x : Nat) :
    NarrowsTo f mode (Fmt.fp32.decode x) (rounded f mode x) :=
  ⟨Fmt.fp32.convert f mode x, (f.convert .fp32 .rne (Fmt.fp32.convert f mode x).1).2, ofVal_convertsTo ieee mode _, rfl,
    ofVal_convertsTo isIeee_fp32 .rne _⟩

theorem ofCode_eq_modeOf {n : Nat} (lt : n < 5) : RMode.ofCode n = modeOf n := by
  interval_cases n <;> rfl

/-- A property of every three-bit code, from the eight codes. -/
theorem forall_code3 {P : BitVec 3 → Prop} (zero : P 0#3) (one : P 1#3) (two : P 2#3) (three : P 3#3) (four : P 4#3)
    (five : P 5#3) (six : P 6#3) (seven : P 7#3) (k : BitVec 3) : P k := by
  have codes : ∀ k : BitVec 3, k = 0#3 ∨ k = 1#3 ∨ k = 2#3 ∨ k = 3#3 ∨ k = 4#3 ∨ k = 5#3 ∨ k = 6#3 ∨ k = 7#3 := by decide
  rcases codes k with rfl | rfl | rfl | rfl | rfl | rfl | rfl | rfl <;> assumption

/-- R232: `fcvt` delivers the conversion of its code. -/
theorem fcvt_delivers (o : FcvtOps) (s : State) : Delivers (.fcvt o) s := by
  obtain ⟨l, mode, d, a, k⟩ := o
  by_cases modes : mode.toNat < 5
  · have same := ofCode_eq_modeOf modes
    have toInt {lo hi : Int} (le : lo ≤ hi) := toInt_convertsInt .fp32 (RMode.ofCode mode.toNat) le (s.fn a)
    have fromInt (n : Int) : (n = 0 → Fmt.fp32.fromInt (RMode.ofCode mode.toNat) n = (0, {})) ∧
        (n ≠ 0 → RoundsIn .fp32 (RMode.ofCode mode.toNat) n (Fmt.fp32.fromInt (RMode.ofCode mode.toNat) n)) :=
      ⟨fun zero => by rw [zero, fromInt_zero], fromInt_roundsIn faithful_fp32 _⟩
    induction k using forall_code3
    case zero => exact delivers_of_some (if_pos modes) (ends_of_endLong rfl) ⟨_, same ▸ toInt (by decide), rfl⟩
    case one => exact delivers_of_some (if_pos modes) (ends_of_endLong rfl) ⟨_, same ▸ toInt (by decide), rfl⟩
    case two => exact delivers_of_some (if_pos modes) (ends_of_endLong rfl) ⟨_, same ▸ toInt (by decide), rfl⟩
    case three => exact delivers_of_some (if_pos modes) (ends_of_endFp rfl) ⟨_, rfl, same ▸ fromInt (s.g a).toInt⟩
    case four => exact delivers_of_some (if_pos modes) (ends_of_endFp rfl) ⟨_, rfl, same ▸ fromInt (s.g a).toNat⟩
    case five => exact delivers_of_some (if_pos modes) (ends_of_endFp rfl) ⟨_, rfl, same ▸ rounded_narrowsTo isIeee_bf16 _ _⟩
    case six => exact delivers_of_some (if_pos modes) (ends_of_endFp rfl) ⟨_, rfl, same ▸ rounded_narrowsTo isIeee_fp16 _ _⟩
    case seven => exact delivers_of_some (if_pos modes) (ends_of_endFp rfl) ⟨_, rfl, same ▸ integral_integralOf _ (fn_lt s a)⟩
  · exact delivers_of_none (if_neg modes)

/-! ## Moves and constants (R233, R234) -/

/-- The low sixteen bits of a register. -/
theorem bits_15_0 (x : Word) : bits x 15 0 < 2 ^ 16 := Nat.mod_lt _ (by positivity)

/-- R233, code 4: an FP16 word widened. -/
theorem widenMove_fp16_spec {x : Nat} (lt : x < 2 ^ 16) :
    let w := BitVec.ofNat 32 (widenMove .fp16 x)
    (Fmt.fp16.decode x ≠ .nan → ConvertsTo .fp32 .rne (Fmt.fp16.decode x) (w.toNat, {})) ∧
      (Fmt.fp16.decode x = .nan → w.toNat = x / 2 ^ 15 * 2 ^ 31 + 255 * 2 ^ 23 + x % 2 ^ 10 * 2 ^ 13) := by
  refine ⟨fun number => ?_, fun nan => ?_⟩
  · obtain ⟨noFlag, small⟩ := ofVal_fp32_of_fp16 lt number
    have converts := ofVal_convertsTo isIeee_fp32 .rne (Fmt.fp16.decode x)
    rw [widenMove_of_number number, toNat_ofNat_of_lt small, ← noFlag]
    exact converts
  · have sign : Fmt.fp16.neg? x = decide (x / 2 ^ 15 = 1) := by
      have : x / 2 ^ 15 < 2 := Nat.div_lt_of_lt_mul lt
      rw [Fmt.neg?, show Fmt.fp16.width - 1 = 15 from rfl, Nat.mod_eq_of_lt this]
      rfl
    have whole : widenMove .fp16 x = x / 2 ^ 15 * 2 ^ 31 + 255 * 2 ^ 23 + x % 2 ^ 10 * 2 ^ 13 := by
      rw [widenMove_of_nan nan, sign, Fmt.signed, show Fmt.fp32.width - 1 = 31 from rfl, show Fmt.fp16.m = 10 from rfl]
      by_cases h : x / 2 ^ 15 = 1 <;> simp only [h, decide_true, decide_false, if_true, if_false, Bool.false_eq_true] <;> omega
    rw [whole, toNat_ofNat_of_lt (by omega)]

/-- R233: `fmov` delivers the move of its code. -/
theorem fmov_delivers (o : FmovOps) (s : State) : Delivers (.fmov o) s := by
  obtain ⟨l, d, a, k⟩ := o
  have half := bits_15_0 (s.g a)
  induction k using forall_code3
  case zero => exact delivers_of_some rfl (ends_of_endLong rfl) rfl
  case one => exact delivers_of_some rfl (ends_of_endLong rfl) ⟨_, rfl, BitVec.toNat_setWidth_of_le (by decide)⟩
  case two => exact delivers_of_some rfl (ends_of_endLong rfl) ⟨_, rfl, BitVec.toNat_setWidth ..⟩
  case three =>
    refine delivers_of_some rfl (ends_of_endLong rfl) ⟨_, rfl, ?_⟩
    rw [widenMove_bf16 half]
    exact toNat_ofNat_of_lt (by omega)
  case four => exact delivers_of_some rfl (ends_of_endLong rfl) ⟨_, rfl, widenMove_fp16_spec half⟩
  case five =>
    exact delivers_of_some rfl (ends_of_endLong rfl) ⟨_, ofVal_convertsTo isIeee_bf16 .rne (fv s a), rfl⟩
  case six =>
    exact delivers_of_some rfl (ends_of_endLong rfl) ⟨_, ofVal_convertsTo isIeee_fp16 .rne (fv s a), rfl⟩
  case seven => exact delivers_of_none rfl

section
variable {o : FliOps} {s : State}

/-- The immediate of `fli` has no bits above FP32. -/
theorem fli_check : (o.k.toNat != 3 || bits o.imm 35 32 == 0) = true ↔ ¬(o.k.toNat = 3 ∧ 2 ^ 32 ≤ o.imm.toNat) := by
  have imm := o.imm.isLt
  have high : bits o.imm 35 32 = o.imm.toNat / 2 ^ 32 := by
    rw [bits, Nat.shiftRight_eq_div_pow]; omega
  rw [high, Bool.or_eq_true, bne_iff_ne, beq_iff_eq]
  omega

theorem exec_fli_of_wide (wide : o.k.toNat = 3 ∧ 2 ^ 32 ≤ o.imm.toNat) :
    exec (.fli o) s = .next (s.raise .illegal 0 11#64) := by
  rw [exec_fli, execFli, run_must, if_neg (fli_check.not.mpr (not_not.mpr wide)), illegal11, stop_trap]

theorem exec_fli_of_narrow (narrow : ¬(o.k.toNat = 3 ∧ 2 ^ 32 ≤ o.imm.toNat)) :
    exec (.fli o) s = .next (s.endLong o.l [.f o.d (BitVec.ofNat 32
      (if (Fmt.fp32.decode (fliBits o.k.toNat o.imm.toNat)).isNan then Fmt.fp32.nan else fliBits o.k.toNat o.imm.toNat))]) := by
  rw [exec_fli, execFli, run_must, if_pos (fli_check.mpr narrow), run_ok]

end

/-- Every NaN as the canonical one. -/
theorem canonical_eq (x : Nat) : (if (Fmt.fp32.decode x).isNan = true then Fmt.fp32.nan else x) =
    if Fmt.fp32.decode x = .nan then 0x7FC00000 else x := by
  by_cases nan : Fmt.fp32.decode x = .nan
  · rw [if_pos ((isNan_iff _).mpr nan), if_pos nan]
    rfl
  · rw [if_neg ((isNan_iff _).not.mpr nan), if_neg nan]

/-- A property of every two-bit code, from the four codes. -/
theorem forall_code2 {P : BitVec 2 → Prop} (zero : P 0#2) (one : P 1#2) (two : P 2#2) (three : P 3#2) (k : BitVec 2) : P k := by
  have codes : ∀ k : BitVec 2, k = 0#2 ∨ k = 1#2 ∨ k = 2#2 ∨ k = 3#2 := by decide
  rcases codes k with rfl | rfl | rfl | rfl <;> assumption

/-- R234: `fli` places its immediate; every NaN becomes the canonical one. -/
theorem fli_delivers (o : FliOps) (s : State) : Delivers (.fli o) s := by
  obtain ⟨l, d, k, imm⟩ := o
  by_cases wide : k.toNat = 3 ∧ 2 ^ 32 ≤ imm.toNat
  · exact delivers_of_none (if_pos wide)
  · have run := ends_of_endLong (exec_fli_of_narrow (o := ⟨l, d, k, imm⟩) (s := s) wide)
    rw [canonical_eq] at run
    induction k using forall_code2
    case zero => exact delivers_of_some rfl run rfl
    case one => exact delivers_of_some rfl run rfl
    case two => exact delivers_of_some rfl run rfl
    case three =>
      have low : fliBits (BitVec.toNat 3#2) imm.toNat = imm.toNat := Nat.mod_eq_of_lt (not_le.mp fun high => wide ⟨rfl, high⟩)
      dsimp only at run
      rw [low] at run
      exact delivers_of_some (if_neg wide) run rfl

/-! ## The obligation -/

/-- R228 .. R234: every other scalar floating-point instruction delivers its results. -/
theorem delivers (i : Instr) (s : State) : Delivers i s := by
  cases i
  case fmin o =>
    have small := selection_lt true (fn_lt s o.a) (fn_lt s o.b)
    refine delivers_of_some rfl (ends_of_endFp_unflagged (exec_fmin s o)) ⟨_, rfl, ?_⟩
    rw [min_eq_selection, toNat_ofNat_of_lt small]
    exact selection_selectsOf isIeee_fp32 true (fn_lt s o.a) (fn_lt s o.b)
  case fmax o =>
    have small := selection_lt false (fn_lt s o.a) (fn_lt s o.b)
    refine delivers_of_some rfl (ends_of_endFp_unflagged (exec_fmax s o)) ⟨_, rfl, ?_⟩
    rw [max_eq_selection, toNat_ofNat_of_lt small]
    exact selection_selectsOf isIeee_fp32 false (fn_lt s o.a) (fn_lt s o.b)
  case fcmp o => exact delivers_of_some rfl (ends_of_endLong (exec_fcmp s o)) ⟨_, rfl, isFlag_ofBool64 (cond_iff ..)⟩
  case fclass o => exact delivers_of_some rfl (ends_of_endLong (exec_fclass s o)) ⟨_, rfl, classBit_classOf (fn_lt s o.a)⟩
  case fsgn o => exact delivers_of_some rfl (ends_of_endFp_unflagged (exec_fsgn s o)) ⟨_, rfl, sgn_spec ..⟩
  case fcvt o => exact fcvt_delivers o s
  case fmov o => exact fmov_delivers o s
  case fli o => exact fli_delivers o s
  all_goals exact delivers_of_none rfl

/-- The number of two words side by side. -/
theorem toNat_append_eq {v w : Nat} (x : BitVec v) (y : BitVec w) : (x ++ y).toNat = x.toNat * 2 ^ w + y.toNat := by
  rw [BitVec.toNat_append, ← Nat.shiftLeft_add_eq_or_of_lt y.isLt, Nat.shiftLeft_eq]

/-- The low fields of a base word (R167). -/
theorem bits_base_word (b : Base) : bits b.word 2 0 = b.f.toNat ∧ bits b.word 5 3 = b.b.toNat := by
  have hf := b.f.isLt
  have hb := b.b.isLt
  simp only [bits, Base.word, toNat_append_eq, Nat.shiftRight_eq_div_pow]
  omega

/-- The base word of `fclass` ends the instruction: f is 1, and the b field is zero (R230). -/
theorem encode_fclass_last (o : L2) : (encode (.fclass o)).getLast? = some (⟨2, lo3 o.d, lo3 o.a, lo3 0, 1⟩ : Base).word := by
  rw [encode_of_toRaw (i := .fclass o) rfl, Raw.words, List.getLast?_concat]
  rfl

/-- Settles O11: the arithmetic from one rounding of exact values, the other instructions one by one. -/
theorem fpScalar : Obligations.FpScalar := by
  refine ⟨fun i s => deliversFp i s, ⟨fun i s => delivers i s, fun o s k wide => ?_⟩, fun o => ?_⟩
  · exact traps_of_raise (exec_fli_of_wide ⟨k, wide⟩)
  · exact ⟨_, encode_fclass_last o, bits_base_word _⟩

end Sys2Proof.Proofs
end

section
/-! `batch`, `waitb`, `inbox` and `inboxq` (R308 .. R310), the events that let them go on, and completion messages (R119). -/

namespace Sys2Proof.Proofs

open Sys2Proof.Machine Sys2Proof.Safety Sys2Proof.Laws

section
variable (s : State)
theorem exec_batch (o : L0) : exec (.batch o) s = execBatch o s := rfl
theorem exec_waitb (o : WaitbOps) : exec (.waitb o) s = execWaitb o s := rfl
theorem exec_inbox (o : LD) : exec (.inbox o) s = execInbox o s := rfl
theorem exec_inboxq (o : LD) : exec (.inboxq o) s = .next (s.endLong o.l [.g o.d (BitVec.ofNat 64 s.me.compq.length)]) := rfl
theorem exec_evBatchSlotFree (h k : Nat) : exec (.evBatchSlotFree h k) s = execEvBatchSlotFree h k s := rfl
theorem exec_evWaitbSatisfied (h k : Nat) : exec (.evWaitbSatisfied h k) s = execEvWaitbSatisfied h k s := rfl
theorem exec_evInboxMessageTaken (h : Nat) : exec (.evInboxMessageTaken h) s = execEvInboxMessageTaken h s := rfl
theorem exec_evCompletionMessageDeliver (i : Nat) :
    exec (.evCompletionMessageDeliver i) s = execEvCompletionMessageDeliver i s := rfl
end

/-! ## Waits, and changes of one context and its core -/

/-- The executing context waits; nothing else differs. -/
theorem waits_modCur (s : State) (w : Wait) :
    OnlyCur s (s.modCur (fun c => { c with state := .waiting w, wlen := s.len, wuses := s.now.uses })) ∧
      (s.modCur (fun c => { c with state := .waiting w, wlen := s.len, wuses := s.now.uses })).cur =
        { s.cur with state := .waiting w, wlen := s.len, wuses := s.now.uses } :=
  ⟨onlyCur_modCur .., cur_modCur ..⟩

theorem onlyCoreOf_setCore (s : State) (h : Nat) (c : Core) : OnlyCoreOf s (s.setCore h c) h :=
  ⟨rfl, fun _ ne => core_setCore_other s c ne.symm, fun _ _ => rfl⟩

section
variable {s t : State} {h k : Nat}

/-- Changes of contexts and cores alone leave every byte. -/
theorem sameBytes_of_ctxs_cores (rest : t = { s with ctxs := t.ctxs, cores := t.cores }) : SameBytes s t := by
  intro sp a
  rw [rest]
  rfl

theorem onlyCtxCore_of_onlyCtx (only : OnlyCtx s t h k) : OnlyCtxCore s t h k := by
  obtain ⟨rest, others, bytes⟩ := only
  refine ⟨?_, others, fun _ _ => ?_, bytes⟩
  · rw [rest]
  · rw [rest]; rfl

theorem ctx_of_onlyCoreOf (only : OnlyCoreOf s t h) (h' k' : Nat) : t.ctx h' k' = s.ctx h' k' := by
  obtain ⟨rest, -⟩ := only
  rw [rest]
  rfl

theorem onlyCtxCore_of_onlyCoreOf (only : OnlyCoreOf s t h) : OnlyCtxCore s t h k := by
  have ⟨rest, others, bytes⟩ := only
  exact ⟨by rw [rest], fun h' k' _ => ctx_of_onlyCoreOf only h' k', others, bytes⟩

theorem now_of_onlyCtxCore (only : OnlyCtxCore s t h k) : t.now = s.now := by
  obtain ⟨rest, -⟩ := only
  rw [rest]

theorem onlyCtxCore_setCtx (c : Ctx) (only : OnlyCtxCore s t h k) : OnlyCtxCore s (t.setCtx h k c) h k := by
  obtain ⟨rest, ctxs, cores, -⟩ := only
  have rest' : t.setCtx h k c = { s with ctxs := (t.setCtx h k c).ctxs, cores := (t.setCtx h k c).cores } := by
    rw [rest]; rfl
  exact ⟨rest', fun h' k' ne => (ctx_setCtx_other t c ne).trans (ctxs h' k' ne), cores, sameBytes_of_ctxs_cores rest'⟩

theorem onlyCtxCore_setCore (c : Core) (only : OnlyCtxCore s t h k) : OnlyCtxCore s (t.setCore h c) h k := by
  obtain ⟨rest, ctxs, cores, -⟩ := only
  have rest' : t.setCore h c = { s with ctxs := (t.setCore h c).ctxs, cores := (t.setCore h c).cores } := by
    rw [rest]; rfl
  exact ⟨rest', ctxs, fun h' ne => (core_setCore_other t c ne.symm).trans (cores h' ne), sameBytes_of_ctxs_cores rest'⟩

end

/-- The context after the end of its wait (R12). -/
theorem ctx_endWait_same (s : State) (h k : Nat) (ws : List RegWrite) :
    (s.endWait h k ws).ctx h k =
      { (s.ctx h k).writes ws with state := .ready, pc := (s.ctx h k).pc + (s.ctx h k).wlen } := by
  simp [State.endWait, Ctx.advance]

/-! ## `batch` (R308) -/

section
variable (o : L0) (s : State)

theorem exec_batch_of_room (room : s.cur.closed.length < 8) :
    exec (.batch o) s = .next ((s.modCur Ctx.closeBatch).endLong o.l []) := by
  simp only [exec_batch, execBatch, run_must, room, decide_true, if_true, run_ok]

theorem exec_batch_of_full (full : 8 ≤ s.cur.closed.length) :
    exec (.batch o) s = .next (s.modCur (fun c => { c with state := .waiting .batch, wlen := s.len, wuses := s.now.uses })) := by
  simp only [exec_batch, execBatch, run_must, Nat.not_lt.mpr full, decide_false, Bool.false_eq_true, if_false, stop_wait]

end

theorem exec_evBatchSlotFree_of_room {s : State} {h k : Nat} (core : h < 65536) (waits : (s.ctx h k).state = .waiting .batch)
    (room : (s.ctx h k).closed.length < 8) :
    exec (.evBatchSlotFree h k) s = .next ((s.modCtx h k Ctx.closeBatch).endWait h k []) := by
  simp only [exec_evBatchSlotFree, execEvBatchSlotFree, core, waits, room, and_self, if_true]

/-! ## `waitb` (R309) -/

section
variable (s : State) (h k : Nat)

theorem onlyCtxCore_batchesSeen : OnlyCtxCore s (s.batchesSeen h k) h k := by
  have own := onlyCtxCore_of_onlyCtx (onlyCtx_setCtx s h k { s.ctx h k with retGlob := false })
  unfold State.batchesSeen
  split
  · exact onlyCtxCore_setCore _ own
  · exact own

theorem ctx_batchesSeen : (s.batchesSeen h k).ctx h k = { s.ctx h k with retGlob := false } := by
  have own := ctx_modCtx_same s h k (fun c => { c with retGlob := false })
  unfold State.batchesSeen
  split <;> exact own

theorem core_batchesSeen :
    (s.batchesSeen h k).core h = { s.core h with l1 := if (s.ctx h k).retGlob = true then [] else (s.core h).l1 } := by
  unfold State.batchesSeen
  split
  · exact core_modCore_same ..
  · rfl

end

section
variable (o : WaitbOps) (s : State)

theorem exec_waitb_of_high (high : 8 < o.n.toNat) : exec (.waitb o) s = .next (s.raise .illegal 0 11#64) := by
  simp only [exec_waitb, execWaitb, run_must, Nat.not_le.mpr high, decide_false, Bool.false_eq_true, if_false, illegal11, stop_trap]

variable (low : o.n.toNat ≤ 8)
include low

theorem exec_waitb_of_satisfied (few : s.cur.closed.length ≤ o.n.toNat) :
    exec (.waitb o) s = .next ((s.batchesSeen s.now.h s.now.k).endLong o.l []) := by
  simp only [exec_waitb, execWaitb, run_must, low, few, decide_true, if_true, run_ok]

theorem exec_waitb_of_many (many : o.n.toNat < s.cur.closed.length) :
    exec (.waitb o) s = .next (s.modCur (fun c =>
      { c with state := .waiting (.waitb o.n.toNat), wlen := s.len, wuses := s.now.uses })) := by
  simp only [exec_waitb, execWaitb, run_must, low, Nat.not_le.mpr many, decide_true, decide_false, if_true, Bool.false_eq_true,
    if_false, stop_wait]

end

theorem exec_evWaitbSatisfied_of_few {s : State} {h k m : Nat} (core : h < 65536)
    (waits : (s.ctx h k).state = .waiting (.waitb m)) (few : (s.ctx h k).closed.length ≤ m) :
    exec (.evWaitbSatisfied h k) s = .next ((s.batchesSeen h k).endWait h k []) := by
  simp only [exec_evWaitbSatisfied, execEvWaitbSatisfied, waits, core, few, and_self, if_true]

/-! ## `inbox` (R310) -/

/-- A context waits in `inbox`. -/
def InboxWaits (s : State) (h k : Nat) : Prop := ∃ d n, (s.ctx h k).state = .waiting (.inbox d n)

/-- Of two contexts that wait in `inbox`, listed with the number of their wait's beginning, the one that began first; ties to the
earlier in the list. -/
def firstWaiter (acc : Option (Nat × Nat × Reg)) (w : Nat × Nat × Reg) : Option (Nat × Nat × Reg) :=
  match acc with
  | none => some w
  | some a => if w.1 < a.1 then some w else some a

theorem foldl_firstWaiter_of_later {n : Nat} (ws : List (Nat × Nat × Reg)) (later : ∀ w ∈ ws, n < w.1) :
    ∀ a ∈ ws.foldl firstWaiter none, n < a.1 := by
  refine List.foldlRecOn (motive := fun acc : Option (Nat × Nat × Reg) => ∀ a ∈ acc, n < a.1) ws firstWaiter (by simp) ?_
  intro acc ih w mem a ha
  cases acc with
  | none => exact Option.mem_some.mp ha ▸ later w mem
  | some b =>
    simp only [firstWaiter] at ha
    split at ha
    · exact Option.mem_some.mp ha ▸ later w mem
    · exact ih a ha

theorem foldl_firstWaiter_of_not_earlier {a : Nat × Nat × Reg} (ws : List (Nat × Nat × Reg)) (notEarlier : ∀ w ∈ ws, a.1 ≤ w.1) :
    ws.foldl firstWaiter (some a) = some a := by
  refine List.foldlRecOn (motive := fun acc => acc = some a) ws firstWaiter rfl ?_
  rintro acc rfl w mem
  exact if_neg (Nat.not_lt.mpr (notEarlier w mem))

/-- The first of the waiters is one that those before it in the list began after, and those after it not before. -/
theorem foldl_firstWaiter_append {a : Nat × Nat × Reg} {ps qs : List (Nat × Nat × Reg)} (before : ∀ w ∈ ps, a.1 < w.1)
    (after : ∀ w ∈ qs, a.1 ≤ w.1) : (ps ++ a :: qs).foldl firstWaiter none = some a := by
  rw [List.foldl_append, List.foldl_cons]
  have least := foldl_firstWaiter_of_later ps before
  suffices firstWaiter (ps.foldl firstWaiter none) a = some a by
    rw [this]; exact foldl_firstWaiter_of_not_earlier qs after
  cases acc : ps.foldl firstWaiter none with
  | none => rfl
  | some b => exact if_pos (least b acc)

/-- What `inboxWaiters` lists for context k. -/
def waiterAt (s : State) (h k : Nat) : Option (Nat × Nat × Reg) :=
  match (s.ctx h k).state with
  | .waiting (.inbox d n) => some (n, k, d)
  | _ => none

theorem inboxWaiters_eq (s : State) (h : Nat) : s.inboxWaiters h = (List.range 11).filterMap (waiterAt s h) := rfl

section
variable {s : State} {h k : Nat}

theorem waiterAt_eq_some {w : Nat × Nat × Reg} :
    waiterAt s h k = some w ↔ (s.ctx h k).state = .waiting (.inbox w.2.2 w.1) ∧ w.2.1 = k := by
  obtain ⟨n, j, d⟩ := w
  unfold waiterAt
  split
  · next waits =>
    simp only [waits, Option.some.injEq, Prod.mk.injEq, CtxState.waiting.injEq, Wait.inbox.injEq]
    tauto
  · next none => exact ⟨nofun, fun ⟨waits, _⟩ => (none _ _ waits).elim⟩

theorem inboxWaiters_eq_nil : s.inboxWaiters h = [] ↔ ∀ k ≤ 10, ¬InboxWaits s h k := by
  simp only [inboxWaiters_eq, List.filterMap_eq_nil_iff, List.mem_range, Option.eq_none_iff_forall_ne_some, ne_eq, waiterAt_eq_some]
  constructor
  · exact fun none k le ⟨d, n, waits⟩ => none k (by omega) (n, k, d) ⟨waits, rfl⟩
  · exact fun none k lt w ⟨waits, _⟩ => none k (by omega) ⟨_, _, waits⟩

/-- The context that began to wait first, ties to the lower number (R310). -/
theorem firstWaiter_inboxWaiters {d : Reg} {n : Nat} (le : k ≤ 10) (waits : (s.ctx h k).state = .waiting (.inbox d n))
    (first : ∀ k' ≤ 10, ∀ d' n', (s.ctx h k').state = .waiting (.inbox d' n') → n < n' ∨ n = n' ∧ k ≤ k') :
    (s.inboxWaiters h).foldl firstWaiter none = some (n, k, d) := by
  obtain ⟨m, sum⟩ : ∃ m, 11 = k + (m + 1) := ⟨10 - k, by omega⟩
  have own : waiterAt s h k = some (n, k, d) := waiterAt_eq_some.mpr ⟨waits, rfl⟩
  rw [inboxWaiters_eq, sum, List.range_add, List.range_succ_eq_map, List.map_cons, List.filterMap_append, Nat.add_zero,
    List.filterMap_cons_some own]
  refine foldl_firstWaiter_append (fun w mem => ?before) (fun w mem => ?after)
  case before =>
    obtain ⟨j, lt, at_⟩ := List.mem_filterMap.mp mem
    have lt := List.mem_range.mp lt
    have := first j (by omega) _ _ (waiterAt_eq_some.mp at_).1
    exact this.resolve_right (by omega)
  case after =>
    obtain ⟨j, at_j, at_⟩ := List.mem_filterMap.mp mem
    have lt : j ≤ 10 := by
      simp only [List.map_map, List.mem_map, List.mem_range, Function.comp_apply] at at_j
      omega
    have := first j lt _ _ (waiterAt_eq_some.mp at_).1
    change n ≤ w.1
    omega

end

section
variable {s : State} {h : Nat} {w : Word} {g : Bool} {q : List (Word × Bool)} (oldest : (s.core h).compq = (w, g) :: q)
include oldest

/-- The oldest message is taken, and with it the L1 of its core when the operation wrote global memory (R147). -/
theorem core_takeMsg : (s.takeMsg h).core h = { s.core h with compq := q, l1 := if g = true then [] else (s.core h).l1 } := by
  cases g <;> simp [State.takeMsg, State.dropL1, oldest]

theorem exec_evInboxMessageTaken_of_first {k n : Nat} {d : Reg} (core : h < 65536)
    (first : (s.inboxWaiters h).foldl firstWaiter none = some (n, k, d)) :
    exec (.evInboxMessageTaken h) s = .next ((s.takeMsg h).endWait h k [.g d w]) := by
  have eq : exec (.evInboxMessageTaken h) s = .next (match (s.core h).compq, (s.inboxWaiters h).foldl firstWaiter none with
    | (w, _) :: _, some (_, k, d) => if h < 65536 then (s.takeMsg h).endWait h k [.g d w] else s
    | _, _ => s) := rfl
  simp only [eq, oldest, first, core, if_true]

end

theorem onlyCoreOf_takeMsg (s : State) (h : Nat) : OnlyCoreOf s (s.takeMsg h) h := by
  have once := onlyCoreOf_setCore s h { s.core h with compq := (s.core h).compq.drop 1 }
  unfold State.takeMsg
  split
  · obtain ⟨-, others, -⟩ := once
    exact ⟨rfl, fun h' ne => (core_modCore_other _ _ ne.symm).trans (others h' ne), fun _ _ => rfl⟩
  · exact once

section
variable (o : LD) (s : State)

theorem exec_inbox_of_free {w : Word} {g : Bool} {q : List (Word × Bool)} (oldest : s.me.compq = (w, g) :: q)
    (free : ∀ k ≤ 10, ¬InboxWaits s s.now.h k) :
    exec (.inbox o) s = .next ((s.takeMsg s.now.h).endLong o.l [.g o.d w]) := by
  simp only [exec_inbox, execInbox, oldest, inboxWaiters_eq_nil.mpr free, if_true]

theorem exec_inbox_of_not_free (notFree : s.me.compq = [] ∨ ∃ k ≤ 10, InboxWaits s s.now.h k) :
    exec (.inbox o) s = .next (s.modCur (fun c =>
      { c with state := .waiting (.inbox o.d s.me.issues), wlen := s.len, wuses := s.now.uses })) := by
  rw [exec_inbox, execInbox]
  split
  · next msgs =>
    obtain empty | ⟨k, le, waits⟩ := notFree
    · simp [empty] at msgs
    · rw [if_neg fun none => inboxWaiters_eq_nil.mp none k le waits, stop_wait]
  · exact stop_wait ..

end

/-! ## Completion messages (R119) -/

theorem exec_evCompletionMessageDeliver_of_room {s : State} {p q : List Msg} {m : Msg} {l : Launch} (held : s.msgs = p ++ m :: q)
    (oldest : ∀ x ∈ p, ¬(x.launch = m.launch ∧ x.h = m.h ∧ x.src = m.src)) (stands : s.launchOf m.launch = some l)
    (room : (s.core (l.handle m.h)).compq.length < 64) :
    exec (.evCompletionMessageDeliver p.length) s = .next (({ s with msgs := p ++ q } : State).modCore (l.handle m.h)
      (fun c => { c with compq := c.compq ++ [(m.w, m.global)] })) := by
  have at_ : s.msgs[p.length]? = some m := by simp [held]
  have before : (s.msgs.take p.length).any (fun x => x.launch == m.launch && x.h == m.h && x.src == m.src) = false := by
    simpa [held, and_assoc] using oldest
  have rest : s.msgs.eraseIdx p.length = p ++ q := by simp [held, List.eraseIdx_append_of_length_le]
  have landing (ms : List Msg) : ({ s with msgs := ms } : State).landing m.launch m.h = some (l.handle m.h) := by
    show (s.launchOf m.launch).map _ = _
    rw [stands]; rfl
  simp only [exec_evCompletionMessageDeliver, execEvCompletionMessageDeliver, at_, before, rest, landing, Bool.false_eq_true, if_false]
  rw [if_neg (Nat.not_le.mpr room)]

/-! ## The obligation on batches and messages -/

/-- Settles O37, by the cases of each instruction's checks; the context that takes a message is found by splitting the list of waiters at
it. -/
theorem batchesAndMessages : Obligations.BatchesAndMessages := by
  refine ⟨?batch, ?waitb, ?inbox, ?message⟩
  case batch =>
    refine fun o s => ⟨fun room => ?_, fun full => ?_, fun h k core waits room => ?_⟩
    · exact ⟨s.modCur Ctx.closeBatch, onlyCur_modCur .., cur_modCur ..,
        leads_of_eq (exec_batch_of_room o s room) (endLong_ended ..)⟩
    · exact leads_of_eq (exec_batch_of_full o s full) (waits_modCur ..)
    · refine leads_of_eq (exec_evBatchSlotFree_of_room core waits room) ⟨?_, (s.ctx h k).closeBatch, rfl, ?_⟩
      · exact ⟨rfl, fun _ _ ne => (ctx_modCtx_other _ _ ne).trans (ctx_modCtx_other _ _ ne), fun _ _ => rfl⟩
      · rw [ctx_endWait_same, ctx_modCtx_same]; rfl
  case waitb =>
    refine fun o s => ⟨fun high => ?_, fun low few => ?_, fun low many => ?_, fun h k m core waits few => ?_⟩
    · exact traps_of_raise (exec_waitb_of_high o s high)
    · have only := onlyCtxCore_batchesSeen s s.now.h s.now.k
      have now := now_of_onlyCtxCore only
      refine ⟨s.batchesSeen s.now.h s.now.k, only, ?_, ?_, leads_of_eq (exec_waitb_of_satisfied o s low few) (endLong_ended ..)⟩
      · rw [State.cur, now]; exact ctx_batchesSeen ..
      · rw [State.me, now]; exact core_batchesSeen ..
    · exact leads_of_eq (exec_waitb_of_many o s low many) (waits_modCur ..)
    · refine leads_of_eq (exec_evWaitbSatisfied_of_few core waits few)
        ⟨onlyCtxCore_setCtx _ (onlyCtxCore_batchesSeen s h k), ?_, core_batchesSeen s h k⟩
      rw [ctx_endWait_same, ctx_batchesSeen]; rfl
  case inbox =>
    refine fun o s => ⟨ends_of_endLong (exec_inboxq s o), fun w g q oldest free => ?_, fun notFree => ?_,
      fun h k d n w g q core le waits oldest first => ?_⟩
    · have only := onlyCoreOf_takeMsg s s.now.h
      have now := now_of_onlyCtxCore (onlyCtxCore_of_onlyCoreOf only (k := s.now.k))
      refine ⟨s.takeMsg s.now.h, only, ?_, leads_of_eq (exec_inbox_of_free o s oldest free) (endLong_ended ..)⟩
      show (s.takeMsg s.now.h).core (s.takeMsg s.now.h).now.h = _
      rw [now]
      exact core_takeMsg oldest
    · exact leads_of_eq (exec_inbox_of_not_free o s notFree) (waits_modCur ..)
    · have taken := firstWaiter_inboxWaiters le waits first
      have only := onlyCoreOf_takeMsg s h
      refine leads_of_eq (exec_evInboxMessageTaken_of_first oldest core taken)
        ⟨onlyCtxCore_setCtx _ (onlyCtxCore_of_onlyCoreOf only), core_takeMsg oldest, ?_⟩
      rw [ctx_endWait_same, ctx_of_onlyCoreOf only]
  case message =>
    rintro i s p m q l held rfl oldest stands h room
    exact leads_of_eq (exec_evCompletionMessageDeliver_of_room held oldest stands room)
      ⟨rfl, fun g ne => core_modCore_other _ _ ne.symm, core_modCore_same ..⟩

end Sys2Proof.Proofs
end

section
/-! Address ranges by page (R339, R341): all addresses of a page translate alike, and the lines of a range are those that hold a byte of
it. -/

namespace Sys2Proof.Proofs

open Sys2Proof.Machine Sys2Proof.Safety Sys2Proof.Laws

/-! ## Addresses of one page translate alike -/

theorem page_dvd_leafSpan (lvl : Nat) : 65536 ∣ leafSpan lvl := by
  unfold leafSpan
  split <;> decide

section
variable {va vb : Nat} (samePage : va / 65536 = vb / 65536)
include samePage

theorem div_eq_of_samePage {n : Nat} (pages : 65536 ∣ n) : va / n = vb / n := by
  obtain ⟨m, rfl⟩ := pages
  rw [← Nat.div_div_eq_div_mul, samePage, Nat.div_div_eq_div_mul]

theorem covers_of_samePage (t : TlbEntry) (dc : Nat) : t.covers dc va = t.covers dc vb := by
  simp only [TlbEntry.covers, div_eq_of_samePage samePage (page_dvd_leafSpan _)]

theorem vaIndex_of_samePage {lvl : Nat} (le : lvl ≤ 3) : vaIndex va lvl = vaIndex vb lvl := by
  have pages : 2 ^ 16 ∣ 2 ^ (52 - 12 * lvl) := Nat.pow_dvd_pow 2 (by omega)
  simp only [vaIndex, div_eq_of_samePage samePage pages]

theorem walkFrom_of_samePage (s : State) (dev t lvl fuel : Nat) (levels : lvl + fuel ≤ 4) :
    s.walkFrom dev va t lvl fuel = s.walkFrom dev vb t lvl fuel := by
  induction fuel generalizing t lvl with
  | zero => rfl
  | succ fuel ih =>
    simp only [State.walkFrom, vaIndex_of_samePage samePage (show lvl ≤ 3 by omega), ih _ (lvl + 1) (by omega)]

theorem translate_of_samePage (s : State) (h : Nat) : s.translate h va = s.translate h vb := by
  simp only [State.translate, State.walk, covers_of_samePage samePage, walkFrom_of_samePage samePage s _ _ 1 3 (by omega)]

/-- Within a page, location keys advance with the address. -/
theorem leafKey_of_samePage (e : Word) (lvl : Nat) : leafKey e lvl va + vb = leafKey e lvl vb + va := by
  have quot := div_eq_of_samePage samePage (page_dvd_leafSpan lvl)
  have a := Nat.div_add_mod va (leafSpan lvl)
  have b := Nat.div_add_mod vb (leafSpan lvl)
  rw [quot] at a
  unfold leafKey leafPa hostKey peerKey
  split <;> omega

end

/-! ## The parts of a range by page -/

section
variable {a n : Nat} {p : Nat × Nat}

theorem pageParts_bounds (mem : p ∈ pageParts a n) :
    0 < p.2 ∧ a ≤ p.1 ∧ p.1 + p.2 ≤ a + n ∧ (p.1 + p.2 - 1) / 65536 = p.1 / 65536 := by
  unfold pageParts at mem
  split at mem
  · simp at mem
  · obtain ⟨i, lt, rfl⟩ := List.mem_map.mp mem
    have lt := List.mem_range.mp lt
    refine ⟨?_, ?_, ?_, ?_⟩ <;> dsimp only <;> omega

/-- Every address of a range lies in the part of its page. -/
theorem exists_pagePart {va : Nat} (low : a ≤ va) (high : va < a + n) :
    ∃ p ∈ pageParts a n, p.1 ≤ va ∧ va < p.1 + p.2 := by
  rw [pageParts, if_neg (by omega)]
  refine ⟨_, List.mem_map.mpr ⟨va / 65536 - a / 65536, List.mem_range.mpr (by omega), rfl⟩, ?_, ?_⟩ <;> dsimp only <;> omega

end

/-- The lines from that of the first byte to that of the last are those of the bytes between. -/
theorem line_between_iff {k n line : Nat} (pos : 0 < n) :
    k / 64 ≤ line ∧ line ≤ (k + n - 1) / 64 ↔ ∃ i < n, line = (k + i) / 64 := by
  constructor
  · exact fun ⟨low, high⟩ => ⟨64 * line - k, by omega, by omega⟩
  · rintro ⟨i, lt, rfl⟩
    omega

/-! ## The lines of a range -/

section
variable (s : State) (a n : Nat)

/-- What `lineRuns` gives for the part of a page. -/
theorem mem_lineRuns {r : Space × Nat × Nat} : r ∈ s.lineRuns a n ↔ ∃ p ∈ pageParts a n, ∃ e lvl,
    s.translate s.now.h p.1 = .leaf e lvl ∧ permReason e {} s.cur.supervisor = 0 ∧
      r = (leafSpace s.myDev e, leafKey e lvl p.1 / 64, leafKey e lvl (p.1 + p.2 - 1) / 64) := by
  simp only [State.lineRuns, List.mem_filterMap]
  refine exists_congr fun p => and_congr_right fun _ => ?_
  cases walk : s.translate s.now.h p.1 with
  | leaf e lvl =>
    simp only [Walk.leaf.injEq, ite_eq_iff, Option.some.injEq, reduceCtorEq, and_false, or_false]
    constructor
    · exact fun ⟨user, eq⟩ => ⟨e, lvl, ⟨rfl, rfl⟩, user, eq.symm⟩
    · rintro ⟨_, _, ⟨rfl, rfl⟩, user, rfl⟩
      exact ⟨user, rfl⟩
  | miss _ | fatal _ _ | mchk _ | hole _ => simp

/-- A line lies in the runs of a range exactly when it holds a byte of the range that may be touched (R278, R317). -/
theorem inRuns_lineRuns_iff (line : Nat) : inRuns (s.lineRuns a n) line = true ↔ RangeLine s a n line := by
  simp only [inRuns, List.any_eq_true, Bool.and_eq_true, decide_eq_true_eq, mem_lineRuns]
  constructor
  · rintro ⟨_, ⟨p, mem, e, lvl, leaf, user, rfl⟩, between⟩
    obtain ⟨pos, low, high, page⟩ := pageParts_bounds mem
    have keyLast := leafKey_of_samePage page e lvl
    rw [show leafKey e lvl (p.1 + p.2 - 1) = leafKey e lvl p.1 + p.2 - 1 by omega] at between
    obtain ⟨i, lt, rfl⟩ := (line_between_iff pos).mp between
    have samePage : (p.1 + i) / 65536 = p.1 / 65536 := by omega
    have key := leafKey_of_samePage samePage e lvl
    exact ⟨p.1 + i, e, lvl, by omega, by omega, (translate_of_samePage samePage s _).trans leaf, user, by omega⟩
  · rintro ⟨va, e, lvl, low, high, leaf, user, rfl⟩
    obtain ⟨p, mem, first, last⟩ := exists_pagePart low high
    obtain ⟨pos, -, -, page⟩ := pageParts_bounds mem
    have samePage : p.1 / 65536 = va / 65536 := by omega
    have key := leafKey_of_samePage samePage e lvl
    have keyLast := leafKey_of_samePage page e lvl
    exact ⟨_, ⟨p, mem, e, lvl, (translate_of_samePage samePage s _).trans leaf, user, rfl⟩,
      Nat.div_le_div_right (by omega), Nat.div_le_div_right (by omega)⟩

end

end Sys2Proof.Proofs
end

section
/-! `sret`, `replay`, `tlbinv` and `icinv` (R314 .. R317): what a replay wakes (R349), what a `tlbinv` drops (R344), and what an `icinv` leaves
in the instruction caches. -/

namespace Sys2Proof.Proofs

open Sys2Proof.Machine Sys2Proof.Safety Sys2Proof.Laws

section
variable (s : State)
theorem exec_sret (o : LA) : exec (.sret o) s = execSret o s := rfl
theorem exec_replay (o : LA) : exec (.replay o) s = execReplay o s := rfl
theorem exec_tlbinv (o : LAB) : exec (.tlbinv o) s = execTlbinv o s := rfl
theorem exec_icinv (o : LAB) : exec (.icinv o) s = execIcinv o s := rfl
end

/-! ## The checks that the four share -/

section
variable (s : State) (f : Unit → Except Stop State)

theorem run_supervisorOnly_of_supervisor (mode : s.cur.supervisor = true) : s.run (s.supervisorOnly >>= f) = s.run (f ()) := by
  rw [State.supervisorOnly, run_must, if_pos mode]

/-- In user mode the check raises PRIV with the instruction's last word (R192, R220). -/
theorem run_supervisorOnly_of_user {w : IWord} (mode : s.cur.supervisor = false) (last : s.now.words.getLast? = some w) :
    s.run (s.supervisorOnly >>= f) = .next (s.raise .priv 0#64 (BitVec.ofNat 64 w.toNat)) := by
  rw [State.supervisorOnly, run_must, mode, if_neg Bool.false_ne_true, State.privTrap, stop_trap, List.getLastD_eq_getLast?, last]
  simp

theorem run_afterRelease_of_free {v : Word} (free : s.canRelease v = true) : s.run (s.afterRelease v >>= f) = s.run (f ()) := by
  rw [State.afterRelease, run_must, if_pos free]

theorem run_afterRelease_of_barred {v : Word} (barred : s.canRelease v = false) :
    s.run (s.afterRelease v >>= f) = s.stop (.wait .retry) := by
  rw [State.afterRelease, run_must, barred, if_neg Bool.false_ne_true]

end

theorem userMode_traps {s : State} {w : IWord} (mode : s.cur.supervisor = false) (last : s.now.words.getLast? = some w)
    {i : Instr} {f : Unit → Except Stop State} (checked : exec i s = s.run (s.supervisorOnly >>= f)) :
    Traps i s 3 0 (BitVec.ofNat 64 w.toNat) :=
  traps_of_raise (c := .priv) (checked.trans (run_supervisorOnly_of_user s f mode last))

/-! ## `sret` (R314) -/

section
variable (o : LA) {s : State} (mode : s.cur.supervisor = true)
include mode

theorem exec_sret_of_outstanding (busy : s.cur.out ≠ []) : exec (.sret o) s = s.stop (.wait .retry) := by
  rw [exec_sret, execSret, run_supervisorOnly_of_supervisor s _ mode, run_must, if_neg (by simpa using busy)]

variable (quiet : s.cur.out = [])
include quiet

theorem exec_sret_of_odd (odd : (s.g o.a).getLsbD 0 = true) :
    exec (.sret o) s = .next (s.raise .misalign (s.g o.a) 0x301#64) := by
  rw [exec_sret, execSret, run_supervisorOnly_of_supervisor s _ mode, run_must, if_pos (by simpa using quiet), run_must, odd,
    if_neg (by decide), misalign, stop_trap]

theorem exec_sret_of_even (even : (s.g o.a).getLsbD 0 = false) :
    exec (.sret o) s = .next (s.modCur (fun c => c.leave (s.g o.a))) := by
  rw [exec_sret, execSret, run_supervisorOnly_of_supervisor s _ mode, run_must, if_pos (by simpa using quiet), run_must, even,
    if_pos (by decide), run_ok]

end

/-- The mode after a return is `pmode`, and `pmode` is 0 (R314). -/
theorem leave_tstat (c : Ctx) (t : Word) :
    (c.leave t).tstat.getLsbD 0 = c.tstat.getLsbD 1 ∧ (c.leave t).tstat.getLsbD 1 = false ∧
      ∀ j, 2 ≤ j → (c.leave t).tstat.getLsbD j = c.tstat.getLsbD j := by
  refine ⟨?_, ?_, fun j above => bit_kept _ _ j ?_ above⟩
  · cases h : c.tstat[1] <;> simp [Ctx.leave, h]
  · cases h : c.tstat[1] <;> simp [Ctx.leave, h]
  · split <;> decide

/-! ## Maps whose values change -/

/-- Reading a map some of whose values have been changed, when the default stays. -/
theorem get_map_ite {α : Type} {C : Nat × α → Prop} [DecidablePred C] {f : Nat × α → α} {d : α} {k : Nat}
    (dflt : C (k, d) → f (k, d) = d) (m : SMap α) :
    SMap.get (m.map (fun p => if C p then (p.1, f p) else p)) d k =
      if C (k, SMap.get m d k) then f (k, SMap.get m d k) else SMap.get m d k := by
  induction m with
  | nil => exact (ite_eq_right_iff.mpr dflt).symm
  | cons p m ih =>
    obtain ⟨j, v⟩ := p
    have key : (if C (j, v) then (j, f (j, v)) else (j, v)) = (j, if C (j, v) then f (j, v) else v) := by
      split <;> rfl
    rw [List.map_cons, key, SMap.get, SMap.get, ih]
    split
    · next here => rw [here]
    · rfl

/-! ## Traps that become pending -/

/-- Of a pending trap and one more, that of the earlier instruction (R219). -/
def earlierTrap (t : Option PendTrap) (p : PendTrap) : PendTrap :=
  match t with
  | some u => if u.id < p.id then u else p
  | none => p

theorem pend_eq (c : Ctx) (p : PendTrap) : c.pend p = { c with state := .waiting .trap, trap := some (earlierTrap c.trap p) } := by
  unfold Ctx.pend earlierTrap
  cases h : c.trap with
  | none => rfl
  | some u =>
    dsimp only
    split
    · rw [← h]
    · rfl

theorem enter_entered (c : Ctx) (p : PendTrap) (tvec : Word) : Entered c (c.enter p.code p.fpc p.rpc p.addr p.info tvec) tvec p := by
  refine ⟨rfl, ?_, ?_, fun j above => bit_kept _ _ j ?_ above⟩
  · cases h : c.supervisor <;> simp [Ctx.enter, h]
  · cases h : c.supervisor <;> simp [Ctx.enter, h] <;> simpa [Ctx.supervisor] using h
  · split <;> decide

/-- A trap is entered once nothing of the context is outstanding, and is pending until then (R219). -/
theorem enterPending_pend (c : Ctx) (p : PendTrap) (tvec : Word) : TakesTrap c ((c.pend p).enterPending tvec) tvec p := by
  rw [pend_eq, Ctx.enterPending]
  refine ⟨fun quiet => ?_, fun busy => ?_⟩
  · split
    · next first _ pending =>
      cases pending
      exact enter_entered c (earlierTrap c.trap p) tvec
    · next other => exact (other _ quiet rfl).elim
  · split
    · next none _ => exact (busy none).elim
    · rfl

/-! ## `replay` (R315, R349) -/

theorem getLsbD_reasonMasks : ∀ j < 64, (0xF000#64).getLsbD j = decide (12 ≤ j ∧ j < 16) ∧ (0x2000#64).getLsbD j = decide (j = 13) := by
  decide

/-- A fault's `finfo` with the reason changed to 2 (R349). -/
theorem reason_replaced (x : Word) : bits (x &&& ~~~0xF000#64 ||| 0x2000#64) 15 12 = 2 ∧
    ∀ j, j < 12 ∨ 16 ≤ j → (x &&& ~~~0xF000#64 ||| 0x2000#64).getLsbD j = x.getLsbD j := by
  constructor
  · show ((x &&& ~~~0xF000#64 ||| 0x2000#64).extractLsb' 12 4).toNat = (2#4).toNat
    congr 1
    ext i lt
    simp only [BitVec.getElem_extractLsb', BitVec.getLsbD_or, BitVec.getLsbD_and, BitVec.getLsbD_not, getLsbD_reasonMasks (12 + i) (by omega)]
    interval_cases i <;> simp
  · intro j outside
    by_cases lt : j < 64
    · simp only [BitVec.getLsbD_or, BitVec.getLsbD_and, BitVec.getLsbD_not, getLsbD_reasonMasks j lt, lt]
      rw [decide_eq_false (by omega : ¬(12 ≤ j ∧ j < 16)), decide_eq_false (by omega : ¬j = 13)]
      simp
    · rw [BitVec.getLsbD_of_ge _ j (by omega), BitVec.getLsbD_of_ge _ j (by omega)]

/-- A parked context of a die that is replayed is woken as R349 says. -/
theorem wake_woken (s : State) (h : Nat) (c : Ctx) :
    Woken s h c ((s.die (hdie h)).wake (s.dctxOf h) s.serial (s.core h).tvec c) := by
  have fatal_iff : (List.range 8).any (fun i =>
        let x := SMap.get (s.die (hdie h)).slots {} i
        x.valid && x.fatal && x.dctx == s.dctxOf h && x.vpn == c.faddr.toNat / 65536) = true ↔
      ∃ i < 8, let x := Safety.slotOf (s.die (hdie h)) i
        x.valid = true ∧ x.fatal = true ∧ x.dctx = s.dctxOf h ∧ x.vpn = c.faddr.toNat / 65536 := by
    simp [Safety.slotOf, and_assoc]
  refine ⟨fun free => ?_, fun fatal => ?_⟩
  · exact if_neg fun any => free (fatal_iff.mp any)
  · obtain ⟨reason, rest⟩ := reason_replaced c.finfo
    refine ⟨_, reason, rest, ?_⟩
    rw [Die.wake, if_pos (fatal_iff.mpr fatal)]
    exact enterPending_pend ..

/-- What a replay of die d makes of a context of core h. -/
def replayedCtx (s : State) (d h : Nat) (c : Ctx) : Ctx :=
  if hdie h = d ∧ c.state = .parked then (s.die d).wake (s.dctxOf h) s.serial (s.core h).tvec c else c

theorem ctx_replayDie (s : State) (d h : Nat) {k : Nat} (le : k ≤ 10) :
    (s.replayDie d).ctx h k = replayedCtx s d h (s.ctx h k) := by
  have read : (s.replayDie d).ctx h k = replayedCtx s d (ctxKey h k / 16) (s.ctx h k) :=
    get_map_ite (fun parked => nomatch parked.2) s.ctxs
  rw [read, show ctxKey h k / 16 = h by unfold ctxKey; omega]

theorem slotOf_replayDie (s : State) (d i : Nat) : Safety.slotOf ((s.replayDie d).die d) i =
    if (Safety.slotOf (s.die d) i).valid = true ∧ (Safety.slotOf (s.die d) i).fatal = true then {} else Safety.slotOf (s.die d) i := by
  rw [State.replayDie, die_modDie_same]
  refine (get_map_ite (fun _ => rfl) (s.die d).slots).trans ?_
  simp only [Bool.and_eq_true]
  rfl

theorem replayDie_replayed (s : State) (d : Nat) : Replayed s (s.replayDie d) d := by
  refine ⟨rfl, fun h k le at_d parked => ?_, fun h k le apart => ?_, fun e ne => ?_, ?_, slotOf_replayDie s d⟩
  · rw [ctx_replayDie s d h le, replayedCtx, if_pos ⟨at_d, parked⟩, ← at_d]
    exact wake_woken ..
  · rw [ctx_replayDie s d h le, replayedCtx, if_neg fun both => apart.elim (· both.1) (· both.2)]
  · exact die_modDie_other _ _ ne.symm
  · rw [State.replayDie, die_modDie_same]
    rfl

section
variable (o : LA) {s : State} (mode : s.cur.supervisor = true)
include mode

theorem exec_replay_of_foreign
    (foreign : 64 ≤ (s.g o.a).toNat ∨ s.devOf (s.g o.a).toNat ≠ s.myDev ∨ s.dieLive (s.g o.a).toNat = false) :
    exec (.replay o) s = .next (s.raise .illegal 0 11#64) := by
  have refused : ¬(decide ((s.g o.a).toNat < 64) && s.devOf (s.g o.a).toNat == s.myDev && s.dieLive (s.g o.a).toNat) = true := by
    simp only [Bool.and_eq_true, decide_eq_true_eq, beq_iff_eq, not_and, Bool.not_eq_true]
    rintro ⟨low, own⟩
    exact (foreign.resolve_left (Nat.not_le.mpr low)).resolve_left (not_not_intro own)
  rw [exec_replay, execReplay, run_supervisorOnly_of_supervisor s _ mode, run_must, if_neg refused, illegal11, stop_trap]

variable (low : (s.g o.a).toNat < 64) (own : s.devOf (s.g o.a).toNat = s.myDev) (live : s.dieLive (s.g o.a).toNat = true)
include low own live

theorem exec_replay_of_own :
    exec (.replay o) s = s.run (s.afterRelease sysScope >>= fun _ => .ok ((s.replayDie (s.g o.a).toNat).endLong o.l [])) := by
  have allowed : (decide ((s.g o.a).toNat < 64) && s.devOf (s.g o.a).toNat == s.myDev && s.dieLive (s.g o.a).toNat) = true := by
    simp [low, own, live]
  rw [exec_replay, execReplay, run_supervisorOnly_of_supervisor s _ mode, run_must, if_pos allowed]

end

/-! ## `tlbinv` (R316, R344) -/

theorem dropped_eq (t : TlbEntry) (dc : Nat) (va : Option Nat) :
    t.dropped dc va = (t.dctx == dc && va.all (fun a => t.covers dc a)) := by
  cases va <;> rfl

theorem dropTlb_dropped (s : State) (dev dc : Nat) (va : Option Nat) : TlbDropped s (s.dropTlb dev dc va) dev dc va := by
  simp only [TlbDropped, ← dropped_eq]
  exact ⟨rfl, fun _ => get_map_ite (fun _ => rfl) s.cores, fun _ => get_map_ite (fun _ => rfl) s.dies⟩

/-- The address that a `tlbinv` names, if any (R316). -/
def tlbinvAddr (a b : Word) : Option Nat := if b = 0#64 then some (a.toNat % 2 ^ 52) else none

section
variable (o : LAB) {s : State} (mode : s.cur.supervisor = true)
include mode

theorem exec_tlbinv_of_invalid (invalid : s.g o.b ≠ 0 ∧ ¬(s.g o.b = 1 ∧ s.g o.a = 0)) :
    exec (.tlbinv o) s = .next (s.raise .illegal 0 11#64) := by
  have refused : ¬(s.g o.b == 0#64 || (s.g o.b == 1#64 && s.g o.a == 0#64)) = true := by simpa using invalid
  rw [exec_tlbinv, execTlbinv, run_supervisorOnly_of_supervisor s _ mode, run_must, if_neg refused, illegal11, stop_trap]

variable (valid : s.g o.b = 0 ∨ s.g o.b = 1 ∧ s.g o.a = 0)
include valid

theorem exec_tlbinv_of_valid : exec (.tlbinv o) s =
    if s.framesQuiet s.myDev (s.droppedFrames s.myDev (s.dctxOf s.now.h) (tlbinvAddr (s.g o.a) (s.g o.b))) = true then
      .next ((s.dropTlb s.myDev (s.dctxOf s.now.h) (tlbinvAddr (s.g o.a) (s.g o.b))).endLong o.l [])
    else s.stop (.wait .retry) := by
  have allowed : (s.g o.b == 0#64 || (s.g o.b == 1#64 && s.g o.a == 0#64)) = true := by simpa using valid
  rw [exec_tlbinv, execTlbinv, run_supervisorOnly_of_supervisor s _ mode, run_must, if_pos allowed, run_must]
  rfl

end

/-! ## `icinv` (R317) -/

theorem cachedIn_iff (dc a n tag : Nat) : cachedIn dc a n tag = true ↔
    tag / 2 ^ 52 = dc ∧ a / 64 ≤ tag % 2 ^ 52 / 64 ∧ tag % 2 ^ 52 / 64 ≤ (a + n - 1) / 64 := by
  simp [cachedIn, and_assoc]

/-- A halfword that an instruction cache of the executing core's device keeps, when a range is dropped. -/
def icacheKeeps (s : State) (a n : Nat) (q : Nat × IWord × Nat) : Bool :=
  !inRuns (s.lineRuns a n) (q.1 / 32) && !cachedIn (s.dctxOf s.now.h) a n q.2.2

/-- The instruction caches of the executing core's device lose a range. -/
def icacheDrop (s : State) (a n : Nat) : State :=
  { s with cores := s.cores.map (fun p =>
      if s.devOf (hdie p.1) = s.myDev then (p.1, { p.2 with icache := p.2.icache.filter (icacheKeeps s a n) }) else p) }

theorem core_icacheDrop (s : State) (a n h : Nat) : (icacheDrop s a n).core h =
    if s.devOf (hdie h) = s.myDev then { s.core h with icache := (s.core h).icache.filter (icacheKeeps s a n) } else s.core h :=
  get_map_ite (fun _ => rfl) s.cores

/-- What is left in an instruction cache of the device: neither what the range maps now, nor what was fetched at its addresses. -/
theorem mem_icache_icacheDrop {s : State} {a n h q : Nat} {x : IWord × Nat} (own : s.devOf (hdie h) = s.myDev) :
    (q, x) ∈ ((icacheDrop s a n).core h).icache ↔ (q, x) ∈ (s.core h).icache ∧ ¬RangeLine s a n (q / 32) ∧
      ¬(x.2 / 2 ^ 52 = s.dctxOf s.now.h ∧ a / 64 ≤ x.2 % 2 ^ 52 / 64 ∧ x.2 % 2 ^ 52 / 64 ≤ (a + n - 1) / 64) := by
  rw [core_icacheDrop, if_pos own, List.mem_filter]
  simp only [icacheKeeps, Bool.and_eq_true, Bool.not_eq_true', ← Bool.not_eq_true, inRuns_lineRuns_iff, cachedIn_iff]

section
variable (o : LAB) {s : State} (mode : s.cur.supervisor = true)
include mode

theorem exec_icinv_of_empty (empty : s.g o.b = 0#64) : exec (.icinv o) s = .next (s.endLong o.l []) := by
  rw [exec_icinv, execIcinv, run_supervisorOnly_of_supervisor s _ mode, if_pos empty, run_ok]

variable (nonempty : s.g o.b ≠ 0#64)
include nonempty

theorem exec_icinv_of_window (beyond : NW < (s.g o.a).toNat + (s.g o.b).toNat) :
    exec (.icinv o) s = .next (s.raise .window (s.g o.a) 0#64) := by
  rw [exec_icinv, execIcinv, run_supervisorOnly_of_supervisor s _ mode, if_neg nonempty, run_must,
    decide_eq_false (Nat.not_le.mpr beyond), if_neg Bool.false_ne_true, windowAt, stop_trap]

variable (below : (s.g o.a).toNat + (s.g o.b).toNat ≤ NW)
include below

theorem exec_icinv_of_long (long : 2 ^ 26 < (s.g o.b).toNat) : exec (.icinv o) s = .next (s.raise .illegal 0 11#64) := by
  rw [exec_icinv, execIcinv, run_supervisorOnly_of_supervisor s _ mode, if_neg nonempty, run_must, decide_eq_true below, if_pos rfl,
    run_must, decide_eq_false (Nat.not_le.mpr long), if_neg Bool.false_ne_true, illegal11, stop_trap]

theorem exec_icinv_of_range (short : (s.g o.b).toNat ≤ 2 ^ 26) (free : s.canRelease sysScope = true) :
    exec (.icinv o) s = .next ((icacheDrop s (s.g o.a).toNat (s.g o.b).toNat).endLong o.l []) := by
  rw [exec_icinv, execIcinv, run_supervisorOnly_of_supervisor s _ mode, if_neg nonempty, run_must, decide_eq_true below, if_pos rfl,
    run_must, decide_eq_true short, if_pos rfl, run_afterRelease_of_free s _ free, run_ok]
  rfl

end

/-! ## The obligation on the four -/

/-- Settles O40, by the mode and then the cases of each instruction's checks; what a replay wakes and what the caches lose is read key by
key. -/
theorem supervisorInstructions : Obligations.SupervisorInstructions := by
  refine ⟨?user, ?sretReplay, ?tlbinvIcinv⟩
  case user =>
    intro o p q r s w mode last
    exact ⟨userMode_traps mode last (exec_sret s o), userMode_traps mode last (exec_replay s p),
      userMode_traps mode last (exec_tlbinv s q), userMode_traps mode last (exec_icinv s r)⟩
  case sretReplay =>
    refine fun o s mode => ⟨fun busy => ?_, fun quiet odd => ?_, fun quiet even => ?_, fun foreign => ?_, fun low own live =>
      ⟨fun barred => ?_, fun free _ => ?_⟩⟩
    · exact leads_of_eq ((exec_sret_of_outstanding o mode busy).trans (stop_wait ..)) (waits_modCur ..)
    · exact traps_of_raise (exec_sret_of_odd o mode quiet odd)
    · refine leads_of_eq (exec_sret_of_even o mode quiet even) ⟨onlyCur_modCur .., ?_⟩
      rw [cur_modCur]
      exact ⟨rfl, leave_tstat ..⟩
    · exact traps_of_raise (exec_replay_of_foreign o mode foreign)
    · exact leads_of_eq ((exec_replay_of_own o mode low own live).trans ((run_afterRelease_of_barred s _ barred).trans (stop_wait ..)))
        (waits_modCur ..)
    · exact ⟨_, replayDie_replayed s _, leads_of_eq
        ((exec_replay_of_own o mode low own live).trans (run_afterRelease_of_free s _ free)) (endLong_ended ..)⟩
  case tlbinvIcinv =>
    refine fun o s mode => ⟨fun invalid => ?_, fun valid => ⟨fun quiet => ?_, fun busy => ?_⟩, fun empty => ?_,
      fun nonempty beyond => ?_, fun long below => ?_, fun nonempty short below free => ?_⟩
    · exact traps_of_raise (exec_tlbinv_of_invalid o mode invalid)
    · exact ⟨_, dropTlb_dropped .., leads_of_eq ((exec_tlbinv_of_valid o mode valid).trans (if_pos quiet)) (endLong_ended ..)⟩
    · exact leads_of_eq ((exec_tlbinv_of_valid o mode valid).trans ((if_neg (ne_true_of_eq_false busy)).trans (stop_wait ..)))
        (waits_modCur ..)
    · exact ends_of_endLong (exec_icinv_of_empty o mode empty)
    · exact traps_of_raise (exec_icinv_of_window o mode nonempty beyond)
    · have nonempty : s.g o.b ≠ 0#64 := by
        intro empty
        simp [empty] at long
      exact traps_of_raise (exec_icinv_of_long o mode nonempty below long)
    · refine ⟨icacheDrop s (s.g o.a).toNat (s.g o.b).toNat, rfl,
        leads_of_eq (exec_icinv_of_range o mode nonempty below short free) (endLong_ended ..),
        fun h => ⟨fun foreign => ?_, fun own => ⟨?_, fun q x => ?_⟩⟩⟩
      · rw [core_icacheDrop, if_neg foreign]
      · rw [core_icacheDrop, if_pos own]
      · exact mem_icache_icacheDrop own

end Sys2Proof.Proofs
end

section
/-! Accesses through a mode-10 page (R128): the device copy that one takes, and the byte of another device that shares the copy's key. The
kernel evaluates the states named here and below; nothing runs them, so they are not compiled. -/

namespace Sys2Proof.Proofs

open Sys2Proof.Machine Sys2Proof.Safety Sys2Proof.Laws

/-- What `f` reads in the next state that a turn answers. -/
noncomputable def nextValue {α : Type} (f : State → α) (o : Out) : Option α :=
  o.casesOn (some ∘ f) (fun _fault => none) (fun _refusal => none)

/-- A turn does not lead to states in which `f` reads something else than was seen in its next state. -/
theorem not_leads {o : Out} {p : State → Prop} {α : Type} (f : State → α) {x : α} (seen : nextValue f o ≠ some x) (leads : Leads o p)
    (read : ∀ t, p t → f t = x) : False :=
  leads.elim fun u next => seen ((congrArg (nextValue f) next.1).trans (congrArg some (read u next.2)))

theorem elim_two {β γ : Type} {p : β → γ → Prop} {q : Prop} (elim : ∀ u v, p u v → q) (found : ∃ u v, p u v) : q :=
  found.elim fun u found => found.elim (elim u)

/-- An instruction that ends leaves every byte as it was. -/
theorem sameBytes_of_ended {s t : State} {l : BitVec 4} {ws : List RegWrite} : Ended s t l ws → SameBytes s t :=
  And.left ∘ And.right ∘ And.right

/-- The first address whose line number, at device 0, makes the key of the host's first line at device 1. -/
noncomputable def aliasAddr : Nat := 2 ^ 70 + 2 ^ 52

/-- A core of device 1 of two that maps its first page to the host's in mode 10, with a byte written at `aliasAddr`. -/
noncomputable def aliasing : State :=
  { (((State.reset.setCtl pmodeAddr 1).setCtl (hashBlock 1 + 0x100) 4).setCore 128 { tlb := [⟨0, 0, 3, 0x2AF#64, 0⟩] }) with
    mem := Memory.setByte [] aliasAddr 1, now := { h := 128 } }

/-- The byte that device 0 reads at `aliasAddr`. -/
noncomputable def aliasByte (t : State) : Byte := t.pocByte (.host 2 0) aliasAddr

/-- An instruction that was seen to change the byte did not end after a step that leaves every byte as it reads. -/
theorem not_ends_of_caches {o : Out} {s u : State} {l : BitVec 4} {ws : List RegWrite} {q : Prop}
    (seen : nextValue aliasByte o ≠ some (aliasByte s)) (ends : q → Leads o (fun t => Ended u t l ws))
    (step : CachesOnly s u ∧ q) : False :=
  not_leads aliasByte seen (ends step.2) fun _t ended => (sameBytes_of_ended ended _ _).trans (step.1.2.2.2 _ _)

/-- Refutes O17: the load of `aliasing` takes the device copy of the host's line at device 1, whose key is that of device 0 and a line
2^64 further. There the byte at `aliasAddr` read 1 before. -/
theorem not_loadsAndStores : ¬Obligations.LoadsAndStores :=
  fun h => elim_two (fun _u _v => not_ends_of_caches (by decide +kernel) (And.right ∘ And.right))
    ((h.1 (.ldB ⟨0, 0, 0, 1, 0, 0⟩) aliasing _ _ _ _ ⟨.host 2 1, 2 ^ 52⟩ rfl (by decide +kernel) (by decide +kernel)).1 rfl
      (by decide +kernel))

/-- Refutes O26: the load of `aliasing` takes the device copies of its two lines, and what device 0 reads under the key of one of them is
no longer what it was. -/
theorem not_vectorMemory : ¬Obligations.VectorMemory :=
  fun h => elim_two (fun _u _v => not_ends_of_caches (by decide +kernel) And.right)
    (((h.1 (.vld ⟨0, 0, 0, 1, 0, 0⟩) aliasing _ _ _ rfl).2 (.inl rfl)).2 [(⟨.host 2 1, 2 ^ 52⟩, 128)]
      (by decide +kernel) (by decide +kernel) rfl (by decide +kernel))

/-- Refutes O18: a byte written to the first line of the host through device 1 makes its device copy, under the key that line 2^64 has
at device 0. -/
theorem not_queuedWritesPerform : ¬Obligations.QueuedWritesPerform :=
  fun h => absurd ((h.1 State.reset ⟨.host 2 1, 0⟩ [1]).2 (.host 2 0) (2 ^ 70) (.inr (by decide))) (by decide +kernel)

/-- `aliasing` with a prefetch of the host's first line on its way. -/
noncomputable def aliasedPrefetch : State := aliasing.modMe (fun c => { c with pf := [⟨.host 2 1, 2 ^ 52⟩] })

theorem aliasedPrefetch_fills : nextValue aliasByte (exec (.evPrefetchFill 128 0) aliasedPrefetch) ≠ some (aliasByte aliasedPrefetch) := by
  decide +kernel

/-- Refutes O19: the prefetch of `aliasedPrefetch` takes a device copy, whose key another device's line has. -/
theorem not_cacheMaintenance : ¬Obligations.CacheMaintenance :=
  fun h => not_leads _ aliasedPrefetch_fills
    (h.2.2.2.2.2.2.2.2 128 0 aliasedPrefetch ⟨.host 2 1, 2 ^ 52⟩ (by decide +kernel) rfl (by decide +kernel))
    (fun _t filled => filled.1 _ _)

/-- Refutes O20, as O19: the fill of that prefetch does not leave every byte as before. -/
theorem not_cacheInstructionsComplete : ¬Obligations.CacheInstructionsComplete :=
  fun h => not_leads _ aliasedPrefetch_fills (h.2.2.2.2 128 0 aliasedPrefetch) (fun _t filled => filled.2 _ _)

/-- An event for core 128. -/
noncomputable def aliasedEvent : QEvent := ⟨0, 0, 0x80_0000_0000_0000#64⟩

/-- `aliasing` where the core has an event for itself and spills what it takes. -/
noncomputable def aliasedSpill : State := aliasing.modMe (fun c => { c with sendq := [aliasedEvent], spillN := 1, spillbase := 64 })

/-- Where the second entry of the spill area lies. -/
noncomputable def spillLoc : Loc := ⟨.host 2 1, 2 ^ 52 + 72⟩

theorem spillLoc_writable : ¬Unwritable aliasedSpill (aliasedSpill.devOf (hdie 128)) spillLoc 8 :=
  fun h => h.elim (fun lost => lost (by decide +kernel)) fun refused => refused.elim fun _m refused => refused.elim fun _d refused =>
    Space.noConfusion refused.1

/-- Refutes O34: the event of `aliasedSpill` is spilled to a line of which device 1 takes a copy, whose key device 0 has for another
line. -/
theorem not_eventsInTheInbox : ¬Obligations.EventsInTheInbox :=
  fun h => not_leads (fun t => t.pocByte (.host 2 0) (2 ^ 70 + 2 ^ 52 + 78)) (by decide +kernel)
    ((h.2.1 128 128 aliasedSpill aliasedEvent (.evEventArrival 128 128) (by decide) (by decide +kernel)
      (.inl ⟨rfl, by decide +kernel⟩)).2.2.1 spillLoc (by decide +kernel) (by decide +kernel) (.inl (by decide +kernel)) (by decide +kernel)
      (by decide +kernel) (by decide +kernel) spillLoc_writable)
    (fun _t spilled => spilled.2.1.2 _ _ (.inr (by decide)))

end Sys2Proof.Proofs
end

section
/-! What the spec's own words decode to, memory at reset, and concrete states whose next state a statement rules out: a claim whose packet
has no bytes, and contexts that have two names. -/

namespace Sys2Proof.Proofs

open Sys2Proof.Machine Sys2Proof.Safety Sys2Proof.Laws

/-- Settles O60, by evaluating the decoder on each of the words. -/
theorem specWordsDecode : Obligations.SpecWordsDecode := by
  unfold Obligations.SpecWordsDecode
  decide

/-- Settles O58: nothing is written at reset. -/
theorem resetMemoryIsCanonical : Obligations.ResetMemoryIsCanonical := rfl

/-- A claim of the first slot of the queue at the start of `aliasing`'s page, with a packet of no bytes. -/
noncomputable def emptyClaim : Claim := ⟨0, 0, 6, 64, [], 0⟩

/-- `aliasing` where the core's first context waits for room for that claim. -/
noncomputable def emptyAppend : State := aliasing.modCur (fun c => { c with state := .waiting (.qput 0 emptyClaim) })

theorem emptyAppend_slotReady : SlotReady emptyAppend emptyClaim ⟨.host 2 1, 2 ^ 52⟩ ⟨.host 2 1, 2 ^ 52 + 64⟩ :=
  ⟨⟨0, ⟨by decide +kernel, by decide +kernel, rfl, rfl⟩, by decide⟩, by decide, by decide +kernel, by decide +kernel,
    fun _m _d peer => Space.noConfusion peer, rfl, by decide +kernel, rfl⟩

/-- The first byte that an instruction stored before it ended stands there. -/
theorem byte_of_stored {w u t : State} {loc : Loc} {bs : List Byte} {l : BitVec 4} (stored : StoredAt w u loc bs ∧ Ended u t l [])
    (b : Byte) (first : bs[0]? = some b) : t.pocByte loc.space loc.at_ = b :=
  (sameBytes_of_ended stored.2 _ _).trans (stored.1.1 0 b first)

theorem byte_of_filled {s t : State} {l : BitVec 4} {q : Claim} {loc : Loc} : SlotFilled s t l q loc → ∀ b,
    (q.img.take 56 ++ leBytes 8 (numAt q.img 61 3 * 2 ^ 40 + q.i / 2 ^ q.lgn % 2 * 2 + 1))[0]? = some b → t.pocByte loc.space loc.at_ = b :=
  Exists.rec fun _r => elim_two fun _w _u => byte_of_stored ∘ And.right ∘ And.right ∘ And.right ∘ And.right ∘ And.right ∘ And.right

/-- Refutes O38: `qput` writes the word with the phase bit at byte 56 of the slot, and not where its packet's bytes end, which in
`emptyAppend` is the slot's first byte. -/
theorem not_shapesAndAppends : ¬Obligations.ShapesAndAppends :=
  fun h => not_leads (p := fun t => SlotFilled emptyAppend t 0 emptyClaim ⟨.host 2 1, 2 ^ 52 + 64⟩)
    (fun t => t.pocByte (.host 2 1) (2 ^ 52 + 64)) (by decide +kernel)
    (h.2.2 128 0 emptyAppend _ _ _ _ (by decide) rfl emptyAppend_slotReady) fun _t filled => byte_of_filled filled 1 rfl

/-- A context that waits in a drain, context 0 of core 256 and, with a number beyond 15, a context of its partner, core 0. -/
noncomputable def sharedDrain : State := State.reset.setCtx 0 4096 { state := .waiting (.drain 0 0 false 2) }

theorem pc_of_given {p q : Prop} {c d : Ctx} (given : p) (equal : p → c = d ∧ q) : c.pc = d.pc := congrArg Ctx.pc (equal given).1

/-- Refutes O29: the drain of `sharedDrain` is compared with itself, and goes on twice. -/
theorem not_longArrays : ¬Obligations.LongArrays :=
  fun h => not_leads (x := 2#64) (fun t => (t.ctx 0 4096).pc) (by decide +kernel)
    (h.2.2.2.2.2 0 4096 0 sharedDrain 0 0 false 2 0 0 false 2 (by decide) rfl rfl (by decide) (by decide))
    (fun _t => elim_two fun _u _v => pc_of_given (by decide +kernel) ∘ And.left ∘ And.right ∘ And.right ∘ And.right ∘ And.right)

/-- The outstanding instruction of the second member of `sharedGang`. -/
noncomputable def soloPlanes : Outst := ⟨1, 0, 0, [], [], .planes⟩

/-- A released gang of core 0 in context 16, which is context 0 of core 1, and of core 1 there. -/
noncomputable def sharedGang : Gang := ⟨0, 0, 3, 0, false, false, [⟨0, 16, 0, 0, [], 0, 0, 0, 0⟩, ⟨1, 0, 0, 0, [], 0, 0, 0, 1⟩], some 0⟩

/-- The machine with that gang, whose second member's instruction is outstanding. -/
noncomputable def sharedPlanes : State := { (State.reset.setCtx 1 0 { out := [soloPlanes] }) with gangs := [sharedGang] }

theorem second_of_all {β : Type} {l : List β} {p q r : ∀ x, x ∈ l → Prop} {x : β} (listed : x ∈ l)
    (all : ∀ x listed, p x listed ∧ q x listed ∧ r x listed) : q x listed :=
  (all x listed).2.1

/-- Refutes O30: when the gang of `sharedPlanes` has run, the context of its first member has the second one's instruction ready too. -/
theorem not_matrixMultiply : ¬Obligations.MatrixMultiply :=
  fun h => not_leads (fun t => (t.ctx 0 16).out) (by decide +kernel)
    (h.2.2 0 sharedPlanes sharedGang 0 rfl rfl (by decide) (fun _y _mem _same _u _at => Nat.zero_le _) (by decide)
      ⟨0, 16, 0, 0, [], 0, 0, 0, 0⟩ (by decide) (by decide) (by decide) (by decide))
    (fun _t => second_of_all (List.mem_cons_self ..) ∘ And.right ∘ And.right)

end Sys2Proof.Proofs
end

section
/-! A pending trap without a cause of R220. -/

namespace Sys2Proof.Proofs

open Sys2Proof.Machine Sys2Proof.Safety Sys2Proof.Laws

/-- A READY context in user mode, nothing outstanding, with an earlier pending trap whose cause is no number of R220; its core's
accumulators are redundant, and the core is in no launch. -/
noncomputable def strayTrap : State :=
  { ((State.reset.setCtx 0 0 { state := .ready, trap := some ⟨0, 18, 0, 0, 0, 0⟩ }).setCore 0 { accMode := true }) with serial := 1 }

/-- A turn that was seen to reach a state with the property does so. -/
theorem not_never {o : Out} {p : State → Prop} [decided : DecidablePred p] :
    nextValue (fun t => decide (p t)) o = some true → (∀ t, o = .next t → ¬p t) → False :=
  o.casesOn (fun t seen never => never t rfl (of_decide_eq_true (Option.some.inj seen)))
    (fun _fault seen _never => Option.some_ne_none true seen.symm) (fun _refusal seen _never => Option.some_ne_none true seen.symm)

/-- Refutes O56: `mdrain` in redundant mode without a partner raises a trap at its context, of which an earlier one is entered instead:
in `strayTrap` that of code 18, which no trap has. -/
theorem not_userModeIsLeftByTraps : ¬Obligations.UserModeIsLeftByTraps :=
  fun h => not_never (o := exec (.mdrain ⟨0, 0, false, 0⟩) strayTrap)
    (p := fun t => (t.ctx 0 0).supervisor = true ∧ ¬(t.ctx 0 0).cause.toNat ≤ 17) (by decide +kernel)
    fun t next entered => entered.2 (h _ _ t rfl rfl rfl next entered.1).2.2

end Sys2Proof.Proofs
end

section
/-! A near-store address of no die, and an engine's number without a bound. -/

namespace Sys2Proof.Proofs

open Sys2Proof.Machine Sys2Proof.Safety Sys2Proof.Laws

/-- A core whose TLB maps its first page by a leaf of level 3 with the near aperture, for user reads, at 128 GiB above the first near
store. -/
noncomputable def farNear : State := State.reset.setCore 0 { tlb := [⟨0, 0, 3, 0x0000_1020_0000_0124#64, 0⟩] }

theorem g_of_ite {c a p r : Prop} [decided : Decidable c] {u v : Ctx} (h : if c then a else p ∧ u = v ∧ r) (no : ¬c) : u.g = v.g :=
  congrArg Ctx.g ((if_neg no).mp h).2.1

/-- The registers of an instruction that has ended without a window. -/
theorem g_of_ended {s t : State} {l : BitVec 4} {ws : List RegWrite} :
    Ended s t l ws → ¬(s.now.defer = true ∨ l ≠ 0#4) → t.cur.g = (s.cur.writes ws).g :=
  g_of_ite (v := { s.cur.writes ws with pc := s.cur.pc + s.len }) ∘ And.right ∘ And.right ∘ And.right

/-- `hashq` was not seen to write a value with that aperture to `g1`. -/
theorem not_ends_of_aperture {o : Out} {x : Word} (seen : nextValue (fun t => bits (SMap.get t.cur.g 0#64 1) 23 22) o ≠ some 1)
    (ends : Leads o (fun t => Ended farNear t 0 [.g 1 x])) (aperture : bits x 23 22 = 1) : False :=
  not_leads (fun t => bits (SMap.get t.cur.g 0#64 1) 23 22) seen ends fun _t ended =>
    (congrArg (fun g => bits (SMap.get g 0#64 1) 23 22) (g_of_ended ended (by decide))).trans aperture

/-- Refutes O7: `hashq` places the die of a near-store address at bit 16 without cutting it to six bits. The leaf of `farNear` maps 128 GiB
above the first near store, which would be die 128, so bit 23 is set beside bit 22, and the bits [23:22] are not the aperture 1. -/
theorem not_identityHomeAndCycle : ¬Obligations.IdentityHomeAndCycle :=
  fun h => (h.2.2.1 ⟨0, 1, 0⟩ farNear).elim fun _x home => not_ends_of_aperture (by decide +kernel) home.1
    ((home.2.2.2 0x0000_1020_0000_0124#64 3 (by decide) (by decide +kernel)).2 (by decide) (.inr (by decide))).2.1

theorem chan_of_set {s t : State} {n c : Nat} {x : Chan} : ChanSet s t n c x → t.chan n c = x := And.left ∘ And.right

theorem landing_of_set {p : Prop} {u v t : State} {n c : Nat} {x : Chan} (set : p → t = v ∧ ChanSet u v n c x) (given : p) :
    (t.chan n c).landing = x.landing :=
  congrArg Chan.landing ((set given).1 ▸ chan_of_set (set given).2)

/-- A channel that accepts a datagram keeps what it still has to perform. -/
theorem landing_of_accepts {s t : State} {n c : Nat} : Accepts s t n c → (s.chan n c).owed + 1 < 16 →
    (t.chan n c).landing = (s.chan n c).landing :=
  elim_two fun _u _v => (landing_of_set ∘ And.right ∘ And.right :)

/-- What a channel has left to perform when it has accepted a datagram, in the state that it was set in but for memory. -/
theorem landing_of_landed {s u v w t : State} {n c : Nat} {x : Chan} {p q : Prop} (few : x.owed + 1 < 16) (kept : w.chan n c = u.chan n c)
    (landed : ChanSet s u n c x ∧ v = w ∧ p ∧ q ∧ Accepts v t n c) : (t.chan n c).landing = x.landing := by
  have same := (congrArg (fun t => State.chan t n c) landed.2.1).trans (kept.trans (chan_of_set landed.1))
  exact same ▸ landing_of_accepts landed.2.2.2.2 (same ▸ few)

/-- A channel of an engine without bound on its number, with one granule to perform. -/
noncomputable def farChannel : State := State.reset.setChan (2 ^ 56) 0 { landing := [⟨none, [1], ⟨.device 0, 0⟩⟩] }

/-- Refutes O47: 2^64 + engine × 256 names a write of a peer here, of which there is none. The datagram of `farChannel` is still to be
performed then, while a channel that has accepted one has none. -/
theorem not_datagrams : ¬Obligations.Datagrams :=
  fun h => not_leads (x := 0) (fun t => (t.chan (2 ^ 56) 0).landing.length) (by decide +kernel)
    (h.2.2.2.1 (2 ^ 56) 0 farChannel (by decide) (by decide) (List.forall_mem_singleton.mpr ⟨rfl, .inl ⟨0, rfl⟩⟩) (by decide))
    fun _t => elim_two fun _u _v => congrArg List.length ∘ landing_of_landed (by decide) (by rfl)

end Sys2Proof.Proofs
end

section
/-! Branches and jumps (R201, R202). -/

namespace Sys2Proof.Proofs

open Sys2Proof.Machine Sys2Proof.Safety Sys2Proof.Laws

theorem jumpTo_of_even {s : State} {t : Word} (even : t.getLsbD 0 = false) : s.jumpTo t = .next (s.goto t) :=
  (run_must ..).trans (if_pos (congrArg not even))

theorem jumpTo_of_odd {s : State} {t : Word} (odd : t.getLsbD 0 = true) : s.jumpTo t = .next (s.raise .misalign t 0x301#64) :=
  (run_must ..).trans (if_neg (ne_true_of_eq_false (congrArg not odd)))

/-- Where each side of a branch goes to, on a condition and on its negation. -/
theorem goesTo_ite {s t u : State} {a b : Word} {c : Prop} [decided : Decidable c] (holds : GoesTo s t a) (fails : GoesTo s u b) :
    GoesTo s (if c then t else u) (if c then a else b) ∧ GoesTo s (if ¬c then u else t) (if c then a else b) :=
  decided.casesOn (fun _fails => ⟨fails, fails⟩) (fun _holds => ⟨holds, holds⟩)

/-- What a context was set to is what `f` makes of it, where it does so of the value. -/
theorem eq_of_value {d w : Ctx} (f : Ctx → Ctx) (value : d = w) (same : w = f w) : d = f d := value ▸ same

/-- The `g` registers of a context whose link register was written. -/
theorem gr_of_linked {c d w : Ctx} {x : Word} (linked : d = w) (same : w.gr = (c.setG 1#5 x).gr) (r : Reg) :
    d.gr r = if r = 1#5 then x else c.gr r :=
  (congrArg (fun c => Ctx.gr c r) linked).trans ((congrFun same r).trans
    ((gr_setG c 1#5 r x).trans (if_congr (and_iff_left (by decide)) rfl rfl)))

/-- Settles O3: a branch by the two values of its condition, a jump to a register's value by that value's bit 0. -/
theorem branchesAndJumps : Obligations.BranchesAndJumps :=
  ⟨fun _o s => leads_of_eq rfl (goesTo_ite (goesTo_modCur s _) (endBase_nil s)).1,
    fun _o s => leads_of_eq rfl (goesTo_ite (endBase_nil s) (goesTo_modCur s _)).2,
    fun _o s => leads_of_eq rfl (goesTo_modCur s _),
    fun o s => leads_of_eq rfl ⟨onlyCur_modCur ..,
      eq_of_value (fun c => { s.cur with g := c.g, pc := s.cur.pc + 2 * o.off }) (cur_modCur ..) rfl, gr_of_linked (cur_modCur ..) rfl⟩,
    fun _o s even => leads_of_eq (jumpTo_of_even even) (goesTo_modCur s _),
    fun s even => leads_of_eq (jumpTo_of_even even) (goesTo_modCur s _),
    fun _o _s odd => traps_of_raise (c := .misalign) (jumpTo_of_odd odd),
    fun _s odd => traps_of_raise (c := .misalign) (jumpTo_of_odd odd),
    fun s => leads_of_eq rfl (endBase_nil s)⟩

end Sys2Proof.Proofs
end

section FirstInstance

/-! ## A teardown that has something to stop

The check replays the text's constants in the order of their names' hashes, with what each one
uses before it. The evaluation behind `wit_CompletionAndTeardown_halt` is the largest of the
text; the instance below, which rests on it, comes early in that order, so the evaluation has the
memory that the check allows to itself. -/

namespace Sys2Proof.Proofs

open Sys2Proof.Machine Sys2Proof.Tests

/-- There is a state in which a write of `tdcmd` stops every engine job, switches the channel off
and marks the launch: the hypotheses of the teardown's clauses can be met together. -/
theorem tearingDown_stopsJobsAndLaunches :
    ∃ s : State, gives (.evTdcmdWrite 0 0 0) s (fun t =>
      t.jobs.map (fun j => j.halt) == [true] && !t.chanEn 0 3 &&
        t.launches.map (fun l => l.torn) == [true]) :=
  ⟨_, wit_CompletionAndTeardown_halt⟩

end Sys2Proof.Proofs

end FirstInstance

section
/-! `done` and `yield` (R203, R204), and the end of an eft (R78). -/

namespace Sys2Proof.Proofs

open Sys2Proof.Machine Sys2Proof.Safety Sys2Proof.Laws

section
variable (s : State)
theorem exec_done : exec .done s = execDone s := rfl
theorem exec_evEftDone (h k : Nat) : exec (.evEftDone h k) s = execEvEftDone h k s := rfl
end

/-- Reading a map every value of which has been changed, when the default stays. -/
theorem get_map_values {α : Type} {f : α → α} {d : α} (dflt : f d = d) (m : SMap α) (k : Nat) :
    SMap.get (m.map (fun p => (p.1, f p.2))) d k = f (SMap.get m d k) := by
  induction m with
  | nil => exact dflt.symm
  | cons p m ih =>
    rw [List.map_cons, SMap.get, SMap.get, ih]
    split <;> rfl

/-- What `done` of context k leaves of a descriptor (R57). -/
theorem buf_releaseBufs (c : Core) (k i : Nat) :
    (c.releaseBufs k).buf i =
      if ((c.buf i).state = 1 ∨ (c.buf i).state = 4) ∧ (c.buf i).owner = k then
        { c.buf i with state := 1, owner := 0x1F } else c.buf i :=
  get_map_values (f := fun b : Buf => if (b.state = 1 ∨ b.state = 4) ∧ b.owner = k then { b with state := 1, owner := 0x1F } else b)
    (d := {}) (if_neg fun declared => by simp at declared) c.bufs i

theorem onlyCtxCore_modCore_modCtx (s : State) (h k : Nat) (f : Core → Core) (g : Ctx → Ctx) :
    OnlyCtxCore s ((s.modCore h f).modCtx h k g) h k :=
  onlyCtxCore_setCtx _ (onlyCtxCore_of_onlyCoreOf (onlyCoreOf_setCore s h (f (s.core h))))

/-- The end of an eft is what R78 says. -/
theorem endEft_ends (s : State) (h k : Nat) : EftEnds s (s.endEft h k) h k := by
  have core : (s.endEft h k).core h = (s.core h).releaseBufs k := core_modCore_same s h (fun c => c.releaseBufs k)
  have only := onlyCtxCore_modCore_modCtx s h k (fun c => c.releaseBufs k)
    (fun c => { c with state := .idle, result := c.gr 2#5, layer := none, hentry := 0#64, byStart := false })
  refine ⟨only, ctx_modCtx_same .., ?_, fun i => ?_⟩
  · rw [core]; rfl
  · rw [core, buf_releaseBufs]

section
variable {s : State}

theorem exec_done_of_eft (eft : s.now.k ≠ 0) (quiet : s.cur.out = []) :
    exec .done s = .next (s.endEft s.now.h s.now.k) := by
  simp only [exec_done, execDone, if_neg eft, if_pos quiet]

theorem exec_done_of_busy_eft (eft : s.now.k ≠ 0) (busy : s.cur.out ≠ []) :
    exec .done s = .next (s.modCur (fun c => { c with state := .waiting .done })) := by
  simp only [exec_done, execDone, if_neg eft, if_neg busy]

theorem exec_done_of_control (control : s.now.k = 0) (quiet : s.cur.out = []) :
    exec .done s = .next ((s.modCore s.now.h (fun c => c.releaseBufs 0)).modCur (fun c => { c with state := .waiting .done })) := by
  simp only [exec_done, execDone, if_pos control, if_neg (not_not.mpr quiet)]

theorem exec_done_of_busy_control (control : s.now.k = 0) (busy : s.cur.out ≠ []) : exec .done s = s.stop (.wait .retry) := by
  simp only [exec_done, execDone, if_pos control, if_pos busy]

theorem exec_evEftDone_of_quiet {h k : Nat} (eft : k ≠ 0) (waits : (s.ctx h k).state = .waiting .done) (quiet : (s.ctx h k).out = []) :
    exec (.evEftDone h k) s = .next (s.endEft h k) := by
  simp only [exec_evEftDone, execEvEftDone, if_pos (show k ≠ 0 ∧ _ ∧ _ from ⟨eft, waits, quiet⟩)]

end

theorem me_releaseBufs (s : State) (k : Nat) : (s.modCore s.now.h (fun c => c.releaseBufs k)).me = s.me.releaseBufs k :=
  core_modCore_same ..

/-- The contexts that a `yield` defers to. -/
def yielded (s : State) : List Nat :=
  (List.range 11).filter (fun k => k != s.now.k && (s.ctx s.now.h k).state == .ready)

theorem mem_yielded (s : State) (k : Nat) :
    k ∈ yielded s ↔ k ≤ 10 ∧ k ≠ s.now.k ∧ (s.ctx s.now.h k).state = .ready := by
  simp only [yielded, List.mem_filter, List.mem_range, Bool.and_eq_true, bne_iff_ne, beq_iff_eq, Nat.lt_succ_iff]

theorem exec_yield (s : State) : exec .yield s = .next ((s.modCur (fun c => { c with yields := yielded s })).endBase []) := rfl

theorem onlyCur_trans {s t u : State} (one : OnlyCur s t) (two : OnlyCur t u) (now : t.now = s.now) : OnlyCur s u := by
  obtain ⟨rest, others, bytes⟩ := one
  obtain ⟨rest', others', bytes'⟩ := two
  refine ⟨?_, fun h k ne => ?_, fun sp a => (bytes' sp a).trans (bytes sp a)⟩
  · rw [rest', rest]
  · exact (others' h k (by rwa [now])).trans (others h k ne)

theorem cur_yield (s : State) : ((s.modCur (fun c => { c with yields := yielded s })).endBase []).cur =
    { s.cur with yields := yielded s, pc := s.cur.pc + s.len } := by
  rw [State.endBase, cur_modCur, cur_modCur]
  rfl

/-- Settles O4, by whether the context is the control context and whether it has instructions outstanding. -/
theorem doneAndYield : Obligations.DoneAndYield := by
  refine ⟨?eft, ?busyEft, ?control, ?busyControl, ?event, ?yield⟩
  case eft => exact fun s eft quiet => leads_of_eq (exec_done_of_eft eft quiet) (endEft_ends ..)
  case busyEft => exact fun s eft busy => leads_of_eq (exec_done_of_busy_eft eft busy) ⟨onlyCur_modCur .., cur_modCur ..⟩
  case control =>
    intro s control quiet
    refine leads_of_eq (exec_done_of_control control quiet) ⟨onlyCtxCore_modCore_modCtx .., ctx_modCtx_same .., ?_, fun i => ?_⟩
    · rw [me_modCur, me_releaseBufs]; rfl
    · rw [me_modCur, me_releaseBufs, buf_releaseBufs]
  case busyControl => exact fun s control busy => leads_of_eq ((exec_done_of_busy_control control busy).trans (stop_wait ..)) (waits_modCur ..)
  case event => exact fun h k s eft waits quiet => leads_of_eq (exec_evEftDone_of_quiet eft waits quiet) (endEft_ends ..)
  case yield =>
    intro s
    refine leads_of_eq (exec_yield s) ⟨onlyCur_trans (onlyCur_modCur ..) (onlyCur_modCur ..) rfl, ?_, fun k => ?_⟩
    · rw [cur_yield]
    · rw [cur_yield]
      exact mem_yielded s k

end Sys2Proof.Proofs
end

section
/-! The near window (R17 .. R19). -/

namespace Sys2Proof.Proofs

open Sys2Proof.Machine Sys2Proof.Safety Sys2Proof.Laws

section
variable (s : State)

/-- An access to the row of cluster peer p, at an offset in it (R18, R19). -/
def peerRow (va n p o : Nat) : Except Stop (Nat × Nat) :=
  if ¬s.liveFor s.me (peerHandle s.now.h p) ∧ p ≠ peerNo s.now.h then .error (windowDead (BitVec.ofNat 64 va) p)
  else if o + n ≤ 2 ^ 17 then .ok (if p = peerNo s.now.h then s.now.h else s.handleFor s.me (peerHandle s.now.h p), o)
  else .error (windowAt (BitVec.ofNat 64 (va + (2 ^ 17 - o))))

/-- An access at an offset in the near window (R17 .. R19). -/
def nearRow (va n off : Nat) : Except Stop (Nat × Nat) :=
  if off < 0x2_0000 then
    if off + n ≤ 0x2_0000 then .ok (s.now.h, off) else .error (windowAt (BitVec.ofNat 64 (NW + 0x2_0000)))
  else if off < 0x10_0000 ∨ 0x30_0000 ≤ off then .error (windowAt (BitVec.ofNat 64 va))
  else peerRow s va n ((off - 0x10_0000) / 0x2_0000) ((off - 0x10_0000) % 0x2_0000)

theorem nearLoc_eq (off n : Nat) : s.nearLoc (NW + off) n = nearRow s (NW + off) n off :=
  (if_neg (Nat.not_lt.2 (Nat.le_add_right ..))).trans (congrArg (nearRow s (NW + off) n) (Nat.add_sub_cancel_left ..))

/-- An access to the own row (R17). -/
theorem nearLoc_own {off : Nat} (n : Nat) (row : off < 2 ^ 17) :
    s.nearLoc (NW + off) n =
      if off + n ≤ 2 ^ 17 then .ok (s.now.h, off) else .error (windowAt (BitVec.ofNat 64 (NW + 2 ^ 17))) :=
  (nearLoc_eq ..).trans (if_pos row)

/-- An access outside every row (R19). -/
theorem nearLoc_gap {off : Nat} (n : Nat) (beyond : 2 ^ 17 ≤ off) (gap : off < 2 ^ 20 ∨ 3 * 2 ^ 20 ≤ off) :
    s.nearLoc (NW + off) n = .error (windowAt (BitVec.ofNat 64 (NW + off))) :=
  (nearLoc_eq ..).trans ((if_neg (Nat.not_lt.2 beyond)).trans (if_pos gap))

section
variable {p off : Nat} (row : off < 2 ^ 17)
include row

/-- An access to the row of a cluster peer (R18). -/
theorem nearLoc_peer (n : Nat) (peer : p < 16) :
    s.nearLoc (NW + 2 ^ 20 + p * 2 ^ 17 + off) n = peerRow s (NW + 2 ^ 20 + p * 2 ^ 17 + off) n p off := by
  have inside : p * 2 ^ 17 + off < 16 * 2 ^ 17 :=
    (Nat.add_lt_add_left row _).trans_le ((Nat.succ_mul p (2 ^ 17)).symm.trans_le (Nat.mul_le_mul_right _ peer))
  have far : ¬2 ^ 20 + (p * 2 ^ 17 + off) < 0x2_0000 := Nat.not_lt.2 (Nat.le_add_right_of_le (by decide))
  have among : ¬(2 ^ 20 + (p * 2 ^ 17 + off) < 0x10_0000 ∨ 0x30_0000 ≤ 2 ^ 20 + (p * 2 ^ 17 + off)) :=
    not_or.2 ⟨Nat.not_lt.2 (Nat.le_add_right ..), Nat.not_le.2 (Nat.add_lt_add_left inside _)⟩
  rw [Nat.add_assoc, Nat.add_assoc]
  refine (nearLoc_eq ..).trans ((if_neg far).trans ((if_neg among).trans ?_))
  rw [show 2 ^ 20 + (p * 2 ^ 17 + off) - 0x10_0000 = p * 2 ^ 17 + off from Nat.add_sub_cancel_left .., Nat.add_comm (p * _)]
  exact congrArg₂ (peerRow s _ n) ((Nat.add_mul_div_right _ _ (by decide)).trans ((congrArg (· + p) (Nat.div_eq_of_lt row)).trans (Nat.zero_add p)))
    ((Nat.add_mul_mod_self_right ..).trans (Nat.mod_eq_of_lt row))

/-- Where the row ends. -/
theorem rowEnd_eq : NW + 2 ^ 20 + p * 2 ^ 17 + off + (2 ^ 17 - off) = NW + 2 ^ 20 + (p + 1) * 2 ^ 17 := by
  rw [Nat.add_assoc _ off, Nat.add_sub_cancel' (Nat.le_of_lt row), Nat.succ_mul, Nat.add_assoc _ _ (2 ^ 17)]

end

theorem lt_of_fits {off n m : Nat} (fits : off + n ≤ m) (some : 1 ≤ n) : off < m := (Nat.add_le_add_left some off).trans fits

end

/-- Settles O15, by the row that the address lies in. -/
theorem nearWindowRows : Obligations.NearWindowRows := by
  refine ⟨?own, ?leaves, ?gap, ?peer, ?self, ?dead, ?peerLeaves⟩
  case own => exact fun s off n fits some => (nearLoc_own s n (lt_of_fits fits some)).trans (if_pos fits)
  case leaves => exact fun s off n row long => (nearLoc_own s n row).trans (if_neg (Nat.not_le.2 long))
  case gap => exact fun s off n beyond gap => nearLoc_gap s n beyond gap
  case peer =>
    intro s p off n peer other live fits some
    rw [nearLoc_peer s (lt_of_fits fits some) n peer, peerRow, if_neg (fun dead => dead.1 live), if_pos fits, if_neg other]
  case self =>
    intro s p off n peer self fits some
    rw [nearLoc_peer s (lt_of_fits fits some) n peer, peerRow, if_neg (fun dead => dead.2 self), if_pos fits, if_pos self]
  case dead =>
    intro s p off n peer other dead row
    rw [nearLoc_peer s row n peer, peerRow, if_pos ⟨ne_true_of_eq_false dead, other⟩]
  case peerLeaves =>
    intro s p off n peer live row long
    have live : ¬(¬s.liveFor s.me (peerHandle s.now.h p) = true ∧ p ≠ peerNo s.now.h) := fun dead =>
      live.elim dead.2 dead.1
    rw [nearLoc_peer s row n peer, peerRow, if_neg live, if_neg (Nat.not_le.2 long), rowEnd_eq row]

end Sys2Proof.Proofs
end

section
/-! What registers hold at reset. -/

namespace Sys2Proof.Proofs

open Sys2Proof.Machine Sys2Proof.Safety Sys2Proof.Laws

/-- The registers of control space that are not zero at reset are the ports' address records (R415). -/
theorem ctlReset_eq (a : Nat) : ctlReset a = ctlAtReset a := by
  refine if_congr (Iff.trans ⟨fun is => ?_, fun is => ?_⟩ List.mem_map.symm) rfl rfl
  · obtain ⟨j, eq⟩ := Nat.dvd_sub (Nat.dvd_of_mod_eq_zero is.2.2) (by decide : 0x100 ∣ 0x0_F000_0A80_0000)
    have few : 0x100 * j < 0x100 * 16 := eq ▸ Nat.sub_lt_left_of_lt_add is.1 is.2.1
    exact ⟨j, List.mem_range.2 (Nat.lt_of_mul_lt_mul_left few), (Nat.add_comm ..).trans (Nat.eq_add_of_sub_eq is.1 eq).symm⟩
  · obtain ⟨j, few, rfl⟩ := is
    exact ⟨Nat.le_add_right .., Nat.add_lt_add_left (Nat.mul_lt_mul_of_pos_left (List.mem_range.1 few) (by decide)) _,
      Nat.add_mul_mod_self_left ..⟩

theorem deqstat_default : ({} : Core).deqstat = 0 := by decide
theorem inboxstat_default : ({} : Core).inboxstat = 0 := by decide
theorem fbstat_default : ({} : Die).fbstat = 0 := by decide
theorem ent0_default : ({} : FSlot).ent0 = 0 := by decide
theorem ent1_default : ({} : FSlot).ent1 = 0 := by decide

/-- The CSRs that are zero at reset. -/
def zeroAtReset : List Nat :=
  [0x000, 0x002, 0x010, 0x011, 0x012, 0x013, 0x014, 0x015, 0x016, 0x017, 0x020, 0x021, 0x022, 0x030, 0x031, 0x032, 0x033, 0x050, 0x058,
   0x060, 0x070, 0x100, 0x101, 0x110, 0x111, 0x112, 0x113, 0x114, 0x115, 0x118, 0x119, 0x11A, 0x11B, 0x11C, 0x11D, 0x11E, 0x11F]

theorem mem_zeroAtReset : ∀ n ∈ csrNumbers, n ≠ 0x001 → n ≠ 0x008 → n ≠ 0x040 → n ≠ 0x041 → n ≠ 0x051 → n ∈ zeroAtReset := by
  decide

theorem forall_mem_cons_intro {α : Type} {p : α → Prop} {a : α} {l : List α} (head : p a) (tail : ∀ x ∈ l, p x) : ∀ x ∈ a :: l, p x :=
  List.forall_mem_cons.2 ⟨head, tail⟩

theorem readCsr_reset (h k : Nat) : ∀ n ∈ zeroAtReset, State.reset.readCsr h k n = 0 := by
  iterate 19 refine forall_mem_cons_intro rfl ?_
  refine forall_mem_cons_intro deqstat_default (forall_mem_cons_intro inboxstat_default ?_)
  refine forall_mem_cons_intro rfl (forall_mem_cons_intro rfl (forall_mem_cons_intro fbstat_default (forall_mem_cons_intro rfl ?_)))
  refine forall_mem_cons_intro ent0_default (forall_mem_cons_intro ent1_default ?_)
  iterate 10 refine forall_mem_cons_intro rfl ?_
  exact List.forall_mem_nil _

/-- `ctxid` names the die, the row, the column and the context (R218). -/
theorem ctxidWord_eq {h : Nat} (k : Nat) (core : h < 65536) :
    ctxidWord h k = BitVec.ofNat 64 (hdie h * 2 ^ 24 + h / 256 * 2 ^ 16 + h % 256 * 2 ^ 8 + k) := by
  simp only [ctxidWord, field, hy, hx, Nat.mod_eq_of_lt core]

theorem bankScale_reset {h : Nat} (m : MReg) (n j : Nat) : bankScale ((State.reset.core h).bankOf m) n j = 0x100 := by
  have same : (State.reset.core h).bankOf m = {} := ite_self ..
  rw [same]
  rfl

/-- Settles O57. -/
theorem resetValues : Obligations.ResetValues := by
  intro h k core _
  exact ⟨rfl, fun r => gr_of_no_g r rfl, fun n listed h1 h2 h3 h4 h5 => readCsr_reset h k n (mem_zeroAtReset n listed h1 h2 h3 h4 h5), ctxidWord_eq k core, rfl, rfl, rfl, rfl, fun _x => ⟨rfl, rfl⟩,
    fun m n j => bankScale_reset m n j, fun _x => rfl, rfl, rfl, rfl, ctlReset_eq⟩

end Sys2Proof.Proofs
end

section
/-! Completion of outstanding instructions (R69) and entry of pending traps (R219). -/

namespace Sys2Proof.Proofs

open Sys2Proof.Machine Sys2Proof.Safety Sys2Proof.Laws

section
variable (s : State)
theorem exec_evInstructionComplete (h k i : Nat) : exec (.evInstructionComplete h k i) s = execEvInstructionComplete h k i s := rfl
theorem exec_evTrapEntry (h k : Nat) : exec (.evTrapEntry h k) s = execEvTrapEntry h k s := rfl
end

/-! ## Completing writes -/

section
variable (c : Ctx) (ws : List RegWrite)

/-- What a completing write leaves in a `g` register. -/
theorem gr_write_of_ne (w : RegWrite) (r : Reg) (other : ∀ x, w ≠ .g r x) : (c.write w).gr r = c.gr r := by
  cases w with
  | g n x => exact gr_setG_other c x fun same => other x (same ▸ rfl)
  | _ => rfl

theorem gr_writes_of_not_mem (r : Reg) (none : ∀ x, .g r x ∉ ws) : (c.writes ws).gr r = c.gr r := by
  induction ws generalizing c with
  | nil => rfl
  | cons w ws ih =>
    refine (ih (c.write w) fun x listed => none x (List.mem_cons_of_mem w listed)).trans (gr_write_of_ne c w r fun x same => ?_)
    exact none x (same ▸ List.mem_cons_self ..)

theorem gr_writes_concat {r : Reg} (x : Word) (nonzero : r ≠ 0#5) : (c.writes (ws ++ [.g r x])).gr r = x := by
  rw [Ctx.writes, List.foldl_concat]
  exact gr_setG_same _ x nonzero

theorem fflags_write_of_ne (w : RegWrite) (other : ∀ b, w ≠ .fflags b) : (c.write w).fflags = c.fflags := by
  cases w with
  | fflags b => exact absurd rfl (other b)
  | g n x => exact (apply_ite Ctx.fflags ..).trans (ite_self _)
  | _ => rfl

theorem getLsbD_fflags_write (w : RegWrite) (j : Nat) :
    (c.write w).fflags.getLsbD j = true ↔ c.fflags.getLsbD j = true ∨ ∃ b, w = .fflags b ∧ b.getLsbD j = true := by
  by_cases flags : ∃ b, w = .fflags b
  · obtain ⟨b, rfl⟩ := flags
    refine ((congrArg (· = true) (BitVec.getLsbD_or ..)).to_iff.trans (Bool.or_eq_true _ _).to_iff).trans (or_congr_right ?_)
    exact ⟨fun bit => ⟨b, rfl, bit⟩, fun is => is.elim fun x both => RegWrite.fflags.inj both.1 ▸ both.2⟩
  · rw [fflags_write_of_ne c w fun b eq => flags ⟨b, eq⟩]
    exact ⟨.inl, fun is => is.resolve_right fun found => flags (found.imp fun _b => And.left)⟩

/-- The exception flags only gather (R46). -/
theorem getLsbD_fflags_writes (j : Nat) : (c.writes ws).fflags.getLsbD j = true ↔
    c.fflags.getLsbD j = true ∨ ∃ b, .fflags b ∈ ws ∧ b.getLsbD j = true := by
  induction ws generalizing c with
  | nil => simp [Ctx.writes]
  | cons w ws ih =>
    rw [Ctx.writes, List.foldl_cons]
    simp only [List.mem_cons, or_and_right, exists_or, @eq_comm _ _ w]
    rw [← or_assoc, ← getLsbD_fflags_write]
    exact ih (c.write w)

@[simp] theorem writes_state : (c.writes ws).state = c.state := by
  induction ws generalizing c with
  | nil => rfl
  | cons w ws ih => exact (ih (c.write w)).trans (write_state c w)

@[simp] theorem writes_out : (c.writes ws).out = c.out := by
  induction ws generalizing c with
  | nil => rfl
  | cons w ws ih => exact (ih (c.write w)).trans (write_out c w)

end

/-! ## Retiring -/

/-- The choice that a full window leaves. -/
theorem reopen_match {α : Sort _} (st : CtxState) (a b : α) :
    (match st with | .waiting .window => a | _ => b) = if st = .waiting .window then a else b := by
  cases st with
  | waiting w => cases w <;> rfl
  | _ => rfl

theorem reopen_eq (c : Ctx) : c.reopen =
    { c with state := if c.state = .waiting .window ∧ ∀ x ∈ c.out, x.left ≠ 0 then .ready else c.state } := by
  refine (reopen_match c.state _ c).trans ?_
  by_cases full : c.state = .waiting .window ∧ ∀ x ∈ c.out, x.left ≠ 0
  · rw [if_pos full.1, if_pos full, if_pos]
    exact List.all_eq_true.2 fun x listed => bne_iff_ne.2 (full.2 x listed)
  · rw [if_neg full]
    by_cases held : c.state = .waiting .window
    · rw [if_pos held, if_neg]
      exact fun all => full ⟨held, fun x listed => bne_iff_ne.1 (List.all_eq_true.1 all x listed)⟩
    · exact if_neg held

theorem complete_onlyCtxCore (s : State) (h k : Nat) (ws : List RegWrite) : OnlyCtxCore s (s.complete h k ws) h k := by
  have ctx := onlyCtxCore_of_onlyCtx (onlyCtx_setCtx s h k ((s.ctx h k).writes ws))
  unfold State.complete
  dsimp only
  split
  · exact onlyCtxCore_setCore _ ctx
  · exact ctx

theorem ctx_complete (s : State) (h k : Nat) (ws : List RegWrite) : (s.complete h k ws).ctx h k = (s.ctx h k).writes ws := by
  unfold State.complete
  dsimp only
  split
  · exact ctx_modCtx_same s h k (fun c => c.writes ws)
  · exact ctx_modCtx_same s h k (fun c => c.writes ws)

theorem core_complete (s : State) (h k : Nat) (ws : List RegWrite) :
    (s.complete h k ws).core h = ws.foldl Core.write (s.core h) := by
  unfold State.complete
  dsimp only
  split
  · exact core_modCore_same ..
  · next narrow => exact (writes_core_none ws (s.core h) (Bool.eq_false_iff.mpr narrow)).symm

/-- What is left of a context when an instruction retires: its writes are made, it is no longer outstanding, and a full window that held
the context may be open again (R69). -/
theorem ctx_retire (s : State) (h k : Nat) (o : Outst) :
    (s.retire h k o).ctx h k = { (s.ctx h k).writes o.writes with
      out := (s.ctx h k).out.filter (fun x => x.id != o.id)
      state := if (s.ctx h k).state = .waiting .window ∧ ∀ x ∈ (s.ctx h k).out.filter (fun x : Outst => x.id != o.id), x.left ≠ 0 then .ready
        else (s.ctx h k).state } := by
  rw [State.retire, ctx_modCtx_same, reopen_eq, ctx_complete]
  simp only [writes_state, writes_out]

theorem exec_evInstructionComplete_of_ready {s : State} {h k i : Nat} {o : Outst} (outstanding : (s.ctx h k).outOf i = some o)
    (ready : o.pend = .ready) (free : ∀ e ∈ (s.ctx h k).post, e.id = i → e.loc.space.held = false) :
    exec (.evInstructionComplete h k i) s = .next (s.retire h k o) := by
  have held : ((s.ctx h k).post.any fun e => e.id == i && e.loc.space.held) = false := by
    simp only [List.any_eq_false, Bool.and_eq_true, beq_iff_eq]
    exact fun e listed both => ne_true_of_eq_false (free e listed both.1) both.2
  simp only [exec_evInstructionComplete, execEvInstructionComplete, outstanding, ready, held, Bool.false_eq_true, if_false]

theorem exec_evTrapEntry_of_quiet {s : State} {h k : Nat} {p : PendTrap} (pending : (s.ctx h k).trap = some p)
    (quiet : (s.ctx h k).out = []) :
    exec (.evTrapEntry h k) s =
      .next (s.setCtx h k ((s.ctx h k).enter p.code p.fpc p.rpc p.addr p.info (s.core h).tvec)) := by
  simp only [exec_evTrapEntry, execEvTrapEntry, pending, if_pos quiet]

/-- Settles O10. -/
theorem completionAndPendingTraps : Obligations.CompletionAndPendingTraps := by
  refine ⟨⟨?completes, gr_writes_of_not_mem, ?last, ?zero, getLsbD_fflags_writes⟩, ?trap⟩
  case completes =>
    intro h k i o s outstanding ready free rest
    have id : o.id = i := beq_iff_eq.mp (List.find?_some (p := fun x : Outst => x.id == i) outstanding)
    refine leads_of_eq (exec_evInstructionComplete_of_ready outstanding ready free)
      ⟨onlyCtxCore_setCtx _ (complete_onlyCtxCore ..), ?_, core_complete ..⟩
    rw [ctx_retire, id]
  case last => exact fun c ws r x nonzero => gr_writes_concat c ws x nonzero
  case zero => exact fun c ws => rfl
  case trap =>
    intro h k s p pending quiet
    refine leads_of_eq (exec_evTrapEntry_of_quiet pending quiet) ⟨onlyCtx_setCtx .., ?_⟩
    rw [ctx_setCtx_same]
    exact enter_entered ..

end Sys2Proof.Proofs
end

section
/-! Records of the log, the owner's writes (R421, R423, R436), and the claim, the transfer and the loss of ownership. -/

namespace Sys2Proof.Proofs

open Sys2Proof.Machine Sys2Proof.Safety Sys2Proof.Laws

/-- A record that is written is the one that the log then holds. -/
theorem logEvent_logged (s : State) (type source addr : Nat) (detail : Word) :
    Logged s (s.logEvent type source (BitVec.ofNat 64 addr) detail) type source addr detail :=
  ⟨rfl, fun _x => get_put_same .., fun _x _y ne => get_put_other (m := s.log) _ _ ne.symm⟩

theorem setCtl_ctlSet (s : State) (a : Nat) (x : Word) : CtlSet s (s.setCtl a x) a x :=
  ⟨rfl, fun _x => (get_put (m := s.ctl) ..).trans (if_congr eq_comm rfl rfl)⟩

section
variable {i : Instr} {s : State} {link addr : Nat} {r : Option State} {ok : Prop} {p : State → Prop}

theorem isOwner_iff : s.isOwner link = true ↔ s.owned = true ∧ bits s.ownerReg 3 0 = link := by
  rw [State.isOwner, Bool.and_eq_true, beq_iff_eq]

theorem ownerWrite_other (other : ¬s.isOwner link = true) : s.ownerWrite link addr r = s.notOwner link addr :=
  if_pos (by rw [Bool.eq_false_of_not_eq_true other]; rfl)

theorem ownerWrite_owner (mine : s.isOwner link = true) : s.ownerWrite link addr r =
    if s.startState = 2 ∧ addr < mgmt 0 then s else r.getD (s.discard link addr) := by
  refine (if_neg (by rw [mine]; exact Bool.false_ne_true)).trans (if_congr Iff.rfl rfl ?_)
  cases r <;> rfl

/-- The rule of R436 for an instruction that is the owner's write with the effect `r`. -/
theorem ownerWrites_of_eq (e : exec i s = .next (s.ownerWrite link addr r)) (bad : ¬ok → r = none)
    (good : s.isOwner link = true → ok → ∃ t, r = some t ∧ p t) : OwnerWrites i s link addr ok p := by
  refine ⟨fun other => ?_, fun mine silent => ?_, fun mine loud no => ?_, fun mine loud yes => ?_⟩
  · exact leads_of_eq (e.trans (congrArg _ (ownerWrite_other (mt isOwner_iff.1 other)))) (logEvent_logged ..)
  all_goals replace e := e.trans (congrArg _ (ownerWrite_owner (isOwner_iff.2 mine)))
  · exact leads_of_eq (e.trans (congrArg _ (if_pos silent))) rfl
  all_goals replace e := e.trans (congrArg _ (if_neg loud))
  · rw [bad no] at e
    exact leads_of_eq e (logEvent_logged ..)
  · obtain ⟨t, rfl, pt⟩ := good (isOwner_iff.2 mine) yes
    exact leads_of_eq e pt

end

/-- A change of owner, to a link or to none. -/
theorem setOwner_changed (s : State) (to_ : Option Nat) :
    OwnerChanged s (s.setOwner to_) to_ (to_.getD (bits s.ownerReg 3 0)) :=
  ⟨_, setCtl_ctlSet .., logEvent_logged ..⟩

theorem linkUp_iff {s : State} {l : Nat} (le : l ≤ 8) : s.linkUp l = true ↔ ClaimLink s l := by
  rw [State.linkUp, Bool.or_eq_true, beq_iff_eq, bne_iff_ne, ClaimLink]
  exact or_congr_right' fun ne => ⟨fun up => ⟨Nat.lt_of_le_of_ne le ne, up⟩, And.right⟩

theorem le_of_claimLink {s : State} {l : Nat} (h : ClaimLink s l) : l ≤ 8 := h.elim Eq.le fun h => h.1.le

/-- The links of a claim that may make it. -/
def claiming (s : State) (links : List Nat) : List Nat := links.filter (fun l => decide (l ≤ 8) && s.linkUp l)

theorem mem_claiming {s : State} {links : List Nat} {l : Nat} : l ∈ claiming s links ↔ l ∈ links ∧ ClaimLink s l := by
  rw [claiming, List.mem_filter, Bool.and_eq_true, decide_eq_true_eq]
  exact and_congr_right fun _x => ⟨fun h => (linkUp_iff h.1).1 h.2, fun h => ⟨le_of_claimLink h, (linkUp_iff (le_of_claimLink h)).2 h⟩⟩

theorem exec_evOwnclaim_of_none {links : List Nat} {w : Word} {s : State} (none : ∀ l ∈ links, ¬ClaimLink s l) :
    exec (.evOwnclaim links w) s = .next s := by
  have e : claiming s links = [] := List.eq_nil_iff_forall_not_mem.2 fun l h => none l (mem_claiming.1 h).1 (mem_claiming.1 h).2
  unfold claiming at e
  rw [show exec (.evOwnclaim links w) s = execEvOwnclaim links w s from rfl, execEvOwnclaim, e]

/-- The claim is that of the least link that may make it. -/
theorem exec_evOwnclaim_of_least {links : List Nat} {w : Word} {s : State} {l : Nat} (mem : l ∈ links) (may : ClaimLink s l)
    (least : ∀ x ∈ links, ClaimLink s x → l ≤ x) : exec (.evOwnclaim links w) s =
      .next (if w ≠ 0xC1A1_0000_0000_0000#64 then s.discard l (mgmt 0x18) else if s.owned then s else s.setOwner (some l)) := by
  have least : (claiming s links).min? = some l :=
    List.min?_eq_some_iff.2 ⟨mem_claiming.2 ⟨mem, may⟩, fun x h => least x (mem_claiming.1 h).1 (mem_claiming.1 h).2⟩
  rw [show exec (.evOwnclaim links w) s = execEvOwnclaim links w s from rfl, execEvOwnclaim]
  unfold claiming at least
  revert least
  cases links.filter (fun l => decide (l ≤ 8) && s.linkUp l) with
  | nil => exact fun least => absurd least.symm (Option.some_ne_none l)
  | cons x xs => exact fun least => Option.some.inj least ▸ rfl

/-- A port goes down. -/
def portDown (s : State) (p : Nat) : State := { s with ports := SMap.del s.ports p }

theorem exec_evOwnerLinkDown (s : State) :
    exec .evOwnerLinkDown s = .next (if s.owned then (portDown s (bits s.ownerReg 3 0)).setOwner none else s) := rfl

section
variable {s : State} {link : Nat} {w : Word}

/-- The state after a transfer to another link (R423). -/
def transferred (s : State) (w : Word) : State := s.setOwner (if s.linkUp w.toNat = true then some w.toNat else none)

theorem transferred_changed (mine : s.isOwner link = true) (ok : w.toNat ≤ 8) :
    (ClaimLink s w.toNat → OwnerChanged s (transferred s w) (some w.toNat) w.toNat) ∧
      (¬ClaimLink s w.toNat → OwnerChanged s (transferred s w) none link) := by
  refine ⟨fun may => ?_, fun not => ?_⟩
  · rw [transferred, if_pos ((linkUp_iff ok).2 may)]
    exact setOwner_changed ..
  · rw [transferred, if_neg (mt (linkUp_iff ok).1 not), ← (isOwner_iff.1 mine).2]
    exact setOwner_changed ..

end

/-- Settles O49: each is the change of owner that R423 names. -/
theorem ownership : Obligations.Ownership := by
  refine ⟨?claim, ?transfer, ?loss⟩
  case claim =>
    intro links w s i o
    exact ⟨fun none => leads_of_eq (exec_evOwnclaim_of_none none) rfl, fun l mem may least =>
      ⟨fun no => leads_of_eq ((exec_evOwnclaim_of_least mem may least).trans (congrArg _ (if_pos no))) (logEvent_logged ..),
      fun yes held => leads_of_eq ((exec_evOwnclaim_of_least mem may least).trans
        (congrArg _ ((if_neg (not_not.2 yes)).trans (if_pos held)))) rfl,
      fun yes free => leads_of_eq ((exec_evOwnclaim_of_least mem may least).trans
        (congrArg _ ((if_neg (not_not.2 yes)).trans (if_neg (ne_true_of_eq_false free))))) (setOwner_changed ..)⟩⟩
  case transfer =>
    refine fun link w s => ownerWrites_of_eq rfl (fun no => if_pos (Nat.lt_of_not_le no)) fun mine ok => ?_
    by_cases own : w.toNat = link
    · exact ⟨s, (if_neg (Nat.not_lt.2 ok)).trans (if_pos own), fun _x => rfl, fun ne => absurd own ne, fun ne => absurd own ne⟩
    · exact ⟨transferred s w, (if_neg (Nat.not_lt.2 ok)).trans (if_neg own), fun eq => absurd eq own,
        fun _x may => (transferred_changed mine ok).1 may, fun _x not => (transferred_changed mine ok).2 not⟩
  case loss =>
    intro s o
    exact ⟨fun free => leads_of_eq ((exec_evOwnerLinkDown s).trans (congrArg _ (if_neg (ne_true_of_eq_false free)))) rfl,
      fun held => leads_of_eq ((exec_evOwnerLinkDown s).trans (congrArg _ (if_pos held))) ⟨portDown s _, rfl,
        fun _x => (get_del (m := s.ports) ..).trans (if_congr eq_comm rfl rfl), setOwner_changed (portDown s _) none⟩⟩

end Sys2Proof.Proofs
end

section
/-! The ring of a copy engine on a host page of mode 10. -/

namespace Sys2Proof.Proofs

open Sys2Proof.Machine Sys2Proof.Safety Sys2Proof.Laws

/-- `aliasing` where entry 0 of engine 16, which is device 1's, is bound to that device's context 0: its ring's header and first slot are
in the host's first two lines, with lgn 6, and a valid packet in the slot. -/
noncomputable def aliasedRing : State :=
  { (((aliasing.setCtl (bindAt 16 0 + 8) 1).setCtl (dctxRec 1 0 + 0x18) 1)) with
    mem := aliasing.mem.setBytes 0 [0xAF, 2] |>.setByte (2 ^ 52 + 16) 64 |>.setByte (2 ^ 52 + 24) 6 |>.setByte (2 ^ 52 + 120) 1 }

theorem aliasedRing_hasPacket : HasPacket aliasedRing 16 0 1 0 ⟨.host 2 1, 2 ^ 52⟩ 0 ⟨.host 2 1, 2 ^ 52 + 64⟩ := by
  unfold HasPacket
  decide +kernel

theorem aliasByte_of_jobs {s u t : State} {js : List Job} {sc : _} {sv : _} {loc : Loc} {bs : List Byte} {p q : Prop}
    (taken : p ∧ StoredAt s u loc bs ∧ t = { u with jobs := js, scache := sc, served := sv } ∧ q) (before : aliasAddr < loc.at_ ∨ loc.at_ + bs.length ≤ aliasAddr) :
    aliasByte t = aliasByte s :=
  (congrArg aliasByte taken.2.2.1).trans (taken.2.1.2 (.host 2 0) _ before)

/-- Refutes O39: when the engine counts the packet of `aliasedRing` as read, device 1 takes a copy of the header's line, under the key
that device 0 has for another line. -/
theorem not_copyEngines : ¬Obligations.CopyEngines :=
  fun h => not_leads aliasByte (x := aliasByte aliasedRing) (by decide +kernel)
    (h.1 16 0 aliasedRing 1 0 _ 0 _ 0 false (by decide) (by decide) (by decide +kernel) aliasedRing_hasPacket fun _i before => absurd before (Nat.not_lt_zero _))
    (fun _t => elim_two fun _u _j taken => aliasByte_of_jobs taken (.inr (by decide)))

end Sys2Proof.Proofs
end

section
/-! `fence` (R138, R288). -/

namespace Sys2Proof.Proofs

open Sys2Proof.Machine Sys2Proof.Safety Sys2Proof.Laws

theorem cur_stay (s : State) (l : BitVec 4) (ws : List RegWrite) (p : Pend) : (s.stay l ws p).cur =
    (s.cur.push ⟨s.serial, s.cur.pc, l.toNat, s.now.uses, ws, p⟩).advance s.len :=
  cur_modCur s fun c => (c.push ⟨s.serial, c.pc, l.toNat, s.now.uses, ws, p⟩).advance s.len

theorem ctx_stay_other (s : State) (l : BitVec 4) (ws : List RegWrite) (p : Pend) : OthersSame s (s.stay l ws p) :=
  fun _x _y ne => ctx_modCur_other s (fun c => (c.push ⟨s.serial, c.pc, l.toNat, s.now.uses, ws, p⟩).advance s.len) ne

/-- An instruction that stays outstanding with an entry in the post queue. -/
theorem enqueue_stay_queued (s : State) (e : PEntry) (l : BitVec 4) (ws : List RegWrite) (p : Pend) :
    Queued s ((s.enqueue e).stay l ws p) l [e] ws p :=
  ⟨rfl, fun h k ne => (ctx_stay_other (s.enqueue e) l ws p h k ne).trans (ctx_modCur_other s _ ne), fun _x _y => rfl,
    (cur_stay ..).trans (congrArg (fun c : Ctx => (c.push ⟨s.serial, c.pc, l.toNat, s.now.uses, ws, p⟩).advance s.len)
      (cur_modCur s _))⟩

/-- A core whose L1 is replaced. -/
def withL1 (c : Core) (l1 : SMap (BitVec 512)) : Core := { c with l1 := l1 }

/-- An acquire beyond the core empties the L1 of its core (R23, R136). -/
theorem acquired_onlyCoreOf (s : State) (v : Word) (acq : Bool) :
    let u := if acq = true then s.acquired s.now.h v else s
    OnlyCoreOf s u s.now.h ∧ u.me = withL1 s.me (if acq = true ∧ beyondCore v = true then [] else s.me.l1) := by
  intro u
  by_cases both : acq = true ∧ beyondCore v = true
  · have is : u = s.dropL1 s.now.h := (if_pos both.1).trans (if_pos both.2)
    rw [is, if_pos both]
    exact ⟨onlyCoreOf_setCore .., core_modCore_same s s.now.h fun c => withL1 c []⟩
  · have is : u = s := by
      by_cases takes : acq = true
      · exact (if_pos takes).trans (if_neg fun far => both ⟨takes, far⟩)
      · exact if_neg takes
    rw [is, if_neg both]
    exact ⟨⟨rfl, fun _x _y => rfl, fun _x _y => rfl⟩, rfl⟩

section
variable {o : FenceOps} {s : State}

theorem exec_fence_of_badScope (bad : s.scopeOk s.myDev (s.scopeOf o.xs) = false) :
    exec (.fence o) s = .next (s.raise .scope 0 (s.scopeOf o.xs)) := by
  change s.run (s.checkScope _ >>= _) = _
  rw [State.checkScope, bad]
  rfl

theorem exec_fence_of_scopeOk (ok : s.scopeOk s.myDev (s.scopeOf o.xs) = true) : exec (.fence o) s =
    .next (if (!s.now.defer && fenceReady s.cur.post (s.me.pathOf s.now.k) o.sem (s.scopeOf o.xs)) = true then
      (if semAcq o.sem then s.acquired s.now.h (s.scopeOf o.xs) else s).endLong o.l []
    else (s.enqueue ⟨s.serial, o.sem, s.scopeOf o.xs, ⟨.local_ s.now.h, 0⟩, .fence, 0⟩).stay o.l [] .fence) := by
  change s.run (s.checkScope _ >>= _) = _
  rw [State.checkScope, ok]
  exact (apply_ite s.run _ _ _).trans (apply_ite Host.Outcome.next _ _ _).symm

end

theorem all_not {α : Type} {l : List α} {f : α → Bool} (all : l.all (fun x => !f x) = true) {x : α} (listed : x ∈ l) : f x = false :=
  (Bool.not_eq_true' _).to_iff.1 (List.all_eq_true.1 all x listed)

theorem or_of_not_or {a b : Bool} (either : (!a || b) = true) (given : a = true) : b = true :=
  (Bool.or_eq_true_iff.1 either).resolve_left fun no => Bool.false_ne_true ((congrArg not given).symm.trans no)

/-- What a fence whose condition holds has waited for (R138). -/
theorem of_fenceReady {es : List PEntry} {ws : List CWrite} {sem : BitVec 2} {v : Word} (ready : fenceReady es ws sem v = true) :
    (∀ e ∈ es, e.openAcquire = false) ∧ (semAcq sem = true → ∀ e ∈ es, e.openLoad = false) ∧
      (semRel sem = true → (∀ e ∈ es, e.openLoad = false ∧ e.kind ≠ .bacq) ∧
        (∀ e ∈ es, e.writes = true → carries v e.loc.space = false) ∧ ∀ w ∈ ws, carries v w.loc.space = false) := by
  have parts := Bool.and_eq_true_iff.1 ready
  have before := Bool.and_eq_true_iff.1 parts.1
  refine ⟨fun e listed => all_not before.1 listed, fun acq e listed => all_not (or_of_not_or before.2 acq) listed, fun rel => ?_⟩
  have release := Bool.and_eq_true_iff.1 (or_of_not_or parts.2 rel)
  have each (e : PEntry) (listed : e ∈ es) := Bool.and_eq_true_iff.1 (List.all_eq_true.1 release.1 e listed)
  refine ⟨fun e listed => ?_, fun e listed wr => ?_, fun w listed => all_not release.2 listed⟩
  · have loads := Bool.and_eq_true_iff.1 (each e listed).1
    exact ⟨(Bool.not_eq_true' _).to_iff.1 loads.1, bne_iff_ne.1 loads.2⟩
  · have far := (each e listed).2
    rw [wr, Bool.true_and, Bool.not_eq_true', Bool.or_eq_false_iff] at far
    exact far.1

theorem exec_fence_of_ready {o : FenceOps} {s : State} (ok : s.scopeOk s.myDev (s.scopeOf o.xs) = true) (now : s.now.defer = false)
    (ready : fenceReady s.cur.post (s.me.pathOf s.now.k) o.sem (s.scopeOf o.xs) = true) : exec (.fence o) s =
      .next ((if semAcq o.sem then s.acquired s.now.h (s.scopeOf o.xs) else s).endLong o.l []) :=
  (exec_fence_of_scopeOk ok).trans (congrArg Host.Outcome.next (if_pos (Bool.and_eq_true_iff.2 ⟨congrArg not now, ready⟩)))

theorem exec_fence_of_waits {o : FenceOps} {s : State} (ok : s.scopeOk s.myDev (s.scopeOf o.xs) = true)
    (waits : ¬(s.now.defer = false ∧ fenceReady s.cur.post (s.me.pathOf s.now.k) o.sem (s.scopeOf o.xs) = true)) : exec (.fence o) s =
      .next ((s.enqueue ⟨s.serial, o.sem, s.scopeOf o.xs, ⟨.local_ s.now.h, 0⟩, .fence, 0⟩).stay o.l [] .fence) :=
  (exec_fence_of_scopeOk ok).trans (congrArg Host.Outcome.next (if_neg fun both => waits
    ((Bool.and_eq_true_iff.1 both).imp_left (Bool.not_eq_true' _).to_iff.1)))

/-- Settles O24. -/
theorem fences : Obligations.Fences := by
  intro o s v
  exact ⟨fun bad => traps_of_raise (exec_fence_of_badScope bad),
    fun ok now ready => ⟨_, (acquired_onlyCoreOf s (s.scopeOf o.xs) (semAcq o.sem)).1,
      (acquired_onlyCoreOf s (s.scopeOf o.xs) (semAcq o.sem)).2, leads_of_eq (exec_fence_of_ready ok now ready) (endLong_ended ..)⟩,
    fun ok waits => leads_of_eq (exec_fence_of_waits ok waits) (enqueue_stay_queued ..), fun _x _y => of_fenceReady⟩

end Sys2Proof.Proofs
end

section
/-! Declared buffers: `bdecl`, `bacq`, `brel`, `bstat` (R292 .. R295) and the grant of a waiting `bacq` (R58). -/

namespace Sys2Proof.Proofs

open Sys2Proof.Machine Sys2Proof.Safety Sys2Proof.Laws

/-! ## Fields of a word -/

/-- Fields of the given widths, the first one lowest. -/
def packed (fs : List (Nat × Nat)) : Nat := fs.foldr (fun f n => f.2 + 2 ^ f.1 * n) 0

theorem packed_cons (f : Nat × Nat) (fs : List (Nat × Nat)) : packed (f :: fs) = f.2 + 2 ^ f.1 * packed fs := rfl

/-- The same as a sum, each field at its place above the second argument. -/
def summed (fs : List (Nat × Nat)) : Nat → Nat := fs.foldr (fun f g lo => g (lo + f.1) + f.2 * 2 ^ lo) fun _lo => 0

theorem summed_eq (fs : List (Nat × Nat)) (lo : Nat) : summed fs lo = 2 ^ lo * packed fs := by
  induction fs generalizing lo with
  | nil => rfl
  | cons f fs ih =>
    refine (congrArg (· + f.2 * 2 ^ lo) (ih (lo + f.1))).trans (Eq.trans ?_ (Nat.mul_add ..).symm)
    rw [Nat.pow_add, Nat.mul_assoc, Nat.add_comm, Nat.mul_comm f.2]
    rfl

/-- Each field's value fits its width. -/
def FieldsFit (fs : List (Nat × Nat)) : Prop := ∀ f ∈ fs, f.2 < 2 ^ f.1

theorem fieldsFit_cons {w v : Nat} {fs : List (Nat × Nat)} (low : v < 2 ^ w) (rest : FieldsFit fs) : FieldsFit ((w, v) :: fs) :=
  List.forall_mem_cons.2 ⟨low, rest⟩

/-- A field reads back at the sum of the widths below it. -/
theorem packed_field {fs : List (Nat × Nat)} (fit : FieldsFit fs) (i : Nat) {w v : Nat} (is : fs[i]? = some (w, v)) :
    packed fs >>> ((fs.take i).map Prod.fst).sum % 2 ^ w = v := by
  induction fs generalizing i with
  | nil => exact absurd is.symm (Option.some_ne_none _)
  | cons f fs ih =>
    have low : f.2 < 2 ^ f.1 := fit f List.mem_cons_self
    cases i with
    | zero =>
      obtain rfl : f = (w, v) := Option.some.inj is
      exact (Nat.add_mul_mod_self_left ..).trans (Nat.mod_eq_of_lt low)
    | succ i =>
      refine Eq.trans ?_ (ih (fun g mem => fit g (List.mem_cons_of_mem f mem)) i is)
      rw [List.take_succ_cons, List.map_cons, List.sum_cons, Nat.shiftRight_add]
      refine congrArg (fun n => n >>> _ % 2 ^ w) ((Nat.shiftRight_eq_div_pow ..).trans ((Nat.add_mul_div_left _ _ (Nat.two_pow_pos _)).trans ?_))
      rw [Nat.div_eq_of_lt low, Nat.zero_add]
      rfl

theorem packed_lt {fs : List (Nat × Nat)} (fit : FieldsFit fs) : packed fs < 2 ^ (fs.map Prod.fst).sum := by
  induction fs with
  | nil => exact Nat.one_pos
  | cons f fs ih =>
    rw [List.map_cons, List.sum_cons, Nat.pow_add]
    calc f.2 + 2 ^ f.1 * packed fs < 2 ^ f.1 + 2 ^ f.1 * packed fs := Nat.add_lt_add_right (fit f List.mem_cons_self) _
      _ = 2 ^ f.1 * (packed fs + 1) := (Nat.add_comm ..).trans (Nat.mul_succ ..).symm
      _ ≤ _ := Nat.mul_le_mul_left _ (ih fun g mem => fit g (List.mem_cons_of_mem f mem))

section
variable {fs : List (Nat × Nat)} (fit : FieldsFit fs) (i : Nat) {hi lo v : Nat}
include fit

/-- The same in a word of 64 bits. -/
theorem bits_packed (wide : (fs.map Prod.fst).sum ≤ 64) (is : fs[i]? = some (hi - lo + 1, v))
    (place : ((fs.take i).map Prod.fst).sum = lo) : bits (BitVec.ofNat 64 (packed fs)) hi lo = v := by
  have small : packed fs < 2 ^ 64 := (packed_lt fit).trans_le (Nat.pow_le_pow_right Nat.two_pos wide)
  rw [bits, BitVec.toNat_ofNat, Nat.mod_eq_of_lt small, ← place]
  rw [← place] at is
  exact packed_field fit i is

theorem getLsbD_packed {b : Bool} (is : fs[i]? = some (1, b.toNat)) (place : ((fs.take i).map Prod.fst).sum = lo) (low : lo < 64) :
    (BitVec.ofNat 64 (packed fs)).getLsbD lo = b := by
  have bit := packed_field fit i is
  rw [place, Nat.pow_one, Nat.shiftRight_eq_div_pow] at bit
  rw [BitVec.getLsbD_ofNat, decide_eq_true low, Bool.true_and, Nat.testBit_eq_decide_div_mod_eq, bit]
  cases b <;> rfl

end

/-! ## The word of a descriptor (R53) -/

/-- The fields of R53's layout. -/
def bufFields (b : Buf) : List (Nat × Nat) :=
  [(3, b.state), (13, 0), (5, b.owner), (1, b.skew.toNat), (3, b.esize), (11, b.base), (11, b.size), (3, 0), (1, b.bv.toNat),
    (13, b.barrier)]

theorem ite_eq_toNat_mul (x : Bool) (n : Nat) : (if x then n else 0) = x.toNat * n := by
  cases x
  · exact (Nat.zero_mul n).symm
  · exact (Nat.one_mul n).symm

/-- The two fields of R53 without meaning add nothing. -/
theorem word_eq_packed (b : Buf) : b.word = BitVec.ofNat 64 (packed (bufFields b)) := by
  have flat : summed (bufFields b) 0 = 0 + b.barrier * 2 ^ 51 + b.bv.toNat * 2 ^ 50 + 0 * 2 ^ 47 + b.size * 2 ^ 36 + b.base * 2 ^ 25 + b.esize * 2 ^ 22
      + b.skew.toNat * 2 ^ 21 + b.owner * 2 ^ 16 + 0 * 2 ^ 3 + b.state * 2 ^ 0 := rfl
  rw [summed_eq, Nat.pow_zero, Nat.one_mul, Nat.zero_add, Nat.mul_one, Nat.zero_mul, Nat.zero_mul, Nat.add_zero, Nat.add_zero, ← ite_eq_toNat_mul, ← ite_eq_toNat_mul] at flat
  exact congrArg (BitVec.ofNat 64) flat.symm

/-- What `bstat` answers, field by field. -/
theorem word_fields (b : Buf) (state : b.state < 5) (owner : b.owner < 32) (base : b.base < 2 ^ 11) (size : b.size < 2 ^ 11)
    (esize : b.esize < 8) (barrier : b.barrier < 2 ^ 13) :
    bits b.word 63 51 = b.barrier ∧ b.word.getLsbD 50 = b.bv ∧ bits b.word 49 47 = 0 ∧ bits b.word 46 36 = b.size ∧
      bits b.word 35 25 = b.base ∧ bits b.word 24 22 = b.esize ∧ b.word.getLsbD 21 = b.skew ∧ bits b.word 20 16 = b.owner ∧
      bits b.word 15 3 = 0 ∧ bits b.word 2 0 = b.state := by
  have bit (x : Bool) : x.toNat < 2 ^ 1 := x.toNat_lt
  have fit : FieldsFit (bufFields b) := by
    refine fieldsFit_cons (state.trans (by decide)) (fieldsFit_cons (by decide) (fieldsFit_cons owner (fieldsFit_cons (bit _) ?_)))
    refine fieldsFit_cons esize (fieldsFit_cons base (fieldsFit_cons size (fieldsFit_cons (by decide) (fieldsFit_cons (bit _) ?_))))
    exact fieldsFit_cons barrier (List.forall_mem_nil _)
  have all : ((bufFields b).map Prod.fst).sum ≤ 64 := Nat.le_refl 64
  rw [word_eq_packed]
  exact ⟨bits_packed fit 9 all rfl rfl, getLsbD_packed fit 8 rfl rfl (by decide), bits_packed fit 7 all rfl rfl,
    bits_packed fit 6 all rfl rfl, bits_packed fit 5 all rfl rfl, bits_packed fit 4 all rfl rfl,
    getLsbD_packed fit 3 rfl rfl (by decide), bits_packed fit 2 all rfl rfl, bits_packed fit 1 all rfl rfl,
    bits_packed fit 0 all rfl rfl⟩

/-! ## Changing one buffer -/

section
variable {s t u : State} {h : Nat}

theorem onlyCoreOf_trans (one : OnlyCoreOf s t h) (two : OnlyCoreOf t u h) : OnlyCoreOf s u h := by
  exact ⟨two.1.trans (congrArg (fun x : State => { x with cores := u.cores }) one.1), fun h' ne => (two.2.1 h' ne).trans (one.2.1 h' ne),
    fun sp a => (two.2.2 sp a).trans (one.2.2 sp a)⟩

end

section
variable {s u : State} {h i : Nat} {b : Buf} {empty : Bool}

theorem bufOnly_of_core (only : OnlyCoreOf s u h)
    (is : u.core h = { (s.core h).setBuf i b with l1 := if empty = true then [] else (s.core h).l1 }) : BufOnly s u h i b empty := by
  refine ⟨only, ?_, fun j => ?_⟩
  · rw [is]; rfl
  · rw [is]; exact (get_put ..).trans (if_congr eq_comm rfl rfl)

variable (s h i b)

theorem core_setBuf : (s.modCore h (fun c => c.setBuf i b)).core h = (s.core h).setBuf i b :=
  core_modCore_same s h fun c => c.setBuf i b

theorem bufOnly_setBuf : BufOnly s (s.modCore h (fun c => c.setBuf i b)) h i b false :=
  bufOnly_of_core (onlyCoreOf_setCore ..) (core_setBuf s h i b)

theorem bufOnly_takeBuf : BufOnly s (s.takeBuf h i b) h i b (decide (((s.core h).buf i).state = 3) && b.byPhase) := by
  rw [State.takeBuf]
  split
  · next full =>
    have core := core_modCore_same (s.modCore h fun c => c.setBuf i b) h (fun c => { c with l1 := [] })
    rw [core_setBuf] at core
    rw [full.2, decide_eq_true full.1]
    exact bufOnly_of_core (onlyCoreOf_trans (onlyCoreOf_setCore ..) (onlyCoreOf_setCore ..)) core
  · next other =>
    have only := bufOnly_setBuf s h i b
    rwa [← decide_eq_false other, Bool.decide_and, Bool.decide_eq_true] at only

theorem bufOnly_takeBuf_of_full (full : ((s.core h).buf i).state = 3) : BufOnly s (s.takeBuf h i b) h i b b.byPhase := by
  have only := bufOnly_takeBuf s h i b
  rwa [decide_eq_true full, Bool.true_and] at only

theorem bufOnly_takeBuf_of_not_full (other : ((s.core h).buf i).state ≠ 3) : BufOnly s (s.takeBuf h i b) h i b false := by
  have only := bufOnly_takeBuf s h i b
  rwa [decide_eq_false other, Bool.false_and] at only

end

/-! ## The instructions -/

section
variable {s : State} {a : Reg} {f : Nat → Except Stop State}

theorem run_bufId_of_bad (bad : bits (s.g a) 63 5 ≠ 0) : s.run (s.bufId a >>= f) = .next (s.raise .illegal 0 11#64) := by
  rw [State.bufId, beq_false_of_ne bad]
  rfl

theorem run_bufId (good : bits (s.g a) 63 5 = 0) : s.run (s.bufId a >>= f) = s.run (f (s.g a).toNat) := by
  rw [State.bufId, beq_iff_eq.mpr good]
  rfl

end

/-- `declBad` is R292's refusal. -/
theorem declBad_iff (w : Word) : declBad w = true ↔ DeclBad w := by
  simp only [declBad, DeclBad, Bool.or_eq_true, Bool.and_eq_true, bne_iff_ne, Bool.not_eq_true', or_assoc]
  rfl

/-- A declared buffer lies clear of the bytes. -/
theorem overlaps_eq_false (b : Buf) (off n : Nat) :
    b.overlaps off n = false ↔ (b.state ≠ 0 → off + n ≤ b.base * 64 ∨ b.base * 64 + (b.size + 1) * 64 ≤ off) := by
  rw [Buf.overlaps, Buf.live, Bool.and_eq_false_iff, Bool.and_eq_false_iff, or_assoc, decide_eq_false_iff_not, decide_eq_false_iff_not,
    Nat.not_lt, Nat.not_lt, bne_eq_false_iff_eq, or_iff_not_imp_left, or_comm]
  rfl

theorem not_or_eq_true {a b : Bool} {p : Prop} (is : b = true ↔ p) : (!a || b) = true ↔ (a = true → p) := by
  rw [Bool.or_eq_true, Bool.not_eq_true', ← Bool.not_eq_true, ← imp_iff_not_or, is]

/-- Six checks and what they say. -/
theorem all_six {a b c d e f : Bool} {p q r t u v : Prop} (ha : a = true ↔ p) (hb : b = true ↔ q) (hc : c = true ↔ r) (hd : d = true ↔ t)
    (he : e = true ↔ u) (hf : f = true ↔ v) : (a && b && c && d && e && f) = true ↔ p ∧ q ∧ r ∧ t ∧ u ∧ v := by
  rw [Bool.and_eq_true, Bool.and_eq_true, Bool.and_eq_true, Bool.and_eq_true, Bool.and_eq_true, and_assoc, and_assoc, and_assoc, and_assoc]
  exact and_congr ha (and_congr hb (and_congr hc (and_congr hd (and_congr he hf))))

theorem both_beq {m n m' n' : Nat} : (m == m' && n == n') = true ↔ m = m' ∧ n = n' :=
  (Bool.and_eq_true _ _).to_iff.trans (and_congr beq_iff_eq beq_iff_eq)

/-- `declOk` is R292's condition on what is declared already. -/
theorem declOk_iff (s : State) (i : Nat) (w : Word) : s.me.declOk i s.now.k w = true ↔ DeclLegal s i w := by
  by_cases retracts : w.getLsbD 3 = true
  · exact (iff_of_eq (congrArg (· = true) (if_pos retracts))).trans (both_beq.trans (iff_of_eq (if_pos retracts).symm))
  · refine (iff_of_eq (congrArg (· = true) (if_neg retracts))).trans (Iff.trans ?_ (iff_of_eq (if_neg retracts).symm))
    refine all_six ((Bool.or_eq_true _ _).to_iff.trans (or_congr beq_iff_eq both_beq)) decide_eq_true_iff decide_eq_true_iff
      (not_or_eq_true both_beq) (List.all_eq_true.trans (forall_congr' fun j => imp_congr List.mem_range ?_)) ?_
    · exact (Bool.or_eq_true _ _).to_iff.trans (or_iff_not_imp_left.trans (imp_congr (not_congr beq_iff_eq)
        ((Bool.not_eq_true' _).to_iff.trans (overlaps_eq_false ..))))
    · rw [Bool.not_and, not_or_eq_true (Bool.not_eq_true' _).to_iff]
      exact imp_congr Iff.rfl ((overlaps_eq_false ..).trans (imp_iff_right one_ne_zero))

section
variable {o : LAB} {s : State}

theorem exec_bdecl : exec (.bdecl o) s = execBdecl o s := rfl

variable (good : bits (s.g o.a) 63 5 = 0)
include good

theorem exec_bdecl_of_bad (bad : DeclBad (s.g o.b)) : exec (.bdecl o) s = .next (s.raise .illegal 0 11#64) := by
  rw [exec_bdecl, execBdecl, run_bufId good, run_must, (declBad_iff _).mpr bad]
  rfl

variable (wellMade : ¬DeclBad (s.g o.b))
include wellMade

theorem exec_bdecl_of_illegal (illegal : ¬DeclLegal s (s.g o.a).toNat (s.g o.b)) : exec (.bdecl o) s =
    .next (s.raise .bufstate 0 (bufRefusal true (s.me.buf (s.g o.a).toNat) (s.g o.a).toNat)) := by
  rw [exec_bdecl, execBdecl, run_bufId good, run_must, Bool.eq_false_of_not_eq_true (mt (declBad_iff _).mp wellMade), run_must,
    Bool.eq_false_of_not_eq_true (mt (declOk_iff ..).mp illegal)]
  rfl

theorem exec_bdecl_of_legal (legal : DeclLegal s (s.g o.a).toNat (s.g o.b)) : exec (.bdecl o) s =
    .next ((s.modMe (fun c => c.setBuf (s.g o.a).toNat
      (if (s.g o.b).getLsbD 3 then {} else declBuf (s.g o.b) s.now.k))).endLong o.l []) := by
  rw [exec_bdecl, execBdecl, run_bufId good, run_must, Bool.eq_false_of_not_eq_true (mt (declBad_iff _).mp wellMade), run_must,
    (declOk_iff ..).mpr legal]
  rfl

end

section
variable {o : LA} {s : State}

theorem exec_bacq : exec (.bacq o) s = execBacq o s := rfl
theorem exec_brel : exec (.brel o) s = execBrel o s := rfl

variable (good : bits (s.g o.a) 63 5 = 0)
include good

theorem exec_brel_of_barred (barred : s.canRelease coreScope = false) : exec (.brel o) s = s.stop (.wait .retry) := by
  rw [exec_brel, execBrel, run_bufId good, run_afterRelease_of_barred _ _ barred]

section
variable (free : s.canRelease coreScope = true)
include free

theorem exec_brel_of_some {b : Buf} (is : (s.me.buf (s.g o.a).toNat).release s.now.k = some b) :
    exec (.brel o) s = .next ((s.modMe (fun c => c.setBuf (s.g o.a).toNat b)).endLong o.l []) := by
  rw [exec_brel, execBrel, run_bufId good, run_afterRelease_of_free _ _ free, is]
  rfl

theorem exec_brel_of_none (is : (s.me.buf (s.g o.a).toNat).release s.now.k = none) : exec (.brel o) s =
    .next (s.raise .bufstate 0 (bufRefusal true (s.me.buf (s.g o.a).toNat) (s.g o.a).toNat)) := by
  rw [exec_brel, execBrel, run_bufId good, run_afterRelease_of_free _ _ free, is]
  rfl

end

theorem exec_bacq_of_undeclared (undeclared : (s.me.buf (s.g o.a).toNat).state = 0) : exec (.bacq o) s =
    .next (s.raise .bufstate 0 (bufRefusal true (s.me.buf (s.g o.a).toNat) (s.g o.a).toNat)) := by
  rw [exec_bacq, execBacq, run_bufId good, run_must, undeclared]
  rfl

section
variable (declared : (s.me.buf (s.g o.a).toNat).state ≠ 0)
include declared

theorem exec_bacq_of_some {b : Buf} (is : (s.me.buf (s.g o.a).toNat).acquire s.now.k = some b) :
    exec (.bacq o) s = .next ((s.takeBuf s.now.h (s.g o.a).toNat b).endLong o.l []) := by
  rw [exec_bacq, execBacq, run_bufId good, run_must, bne_iff_ne.mpr declared, is]
  rfl

theorem exec_bacq_of_none (is : (s.me.buf (s.g o.a).toNat).acquire s.now.k = none) : exec (.bacq o) s =
    .next ((s.enqueue ⟨s.serial, 1#2, coreScope, s.ownLoc 0, .bacq, 0⟩).stay o.l [] (.bacq (s.g o.a).toNat)) := by
  rw [exec_bacq, execBacq, run_bufId good, run_must, bne_iff_ne.mpr declared, is]
  rfl

end

end

/-! ## The transitions of R57 -/

section
variable {b : Buf} {k : Nat}

theorem acquire_of_full (full : b.state = 3) : b.acquire k = some { b with state := 4, owner := k } := if_pos full

theorem acquire_of_free (is : b.state = 1) (free : b.owner = 0x1F) : b.acquire k = some { b with owner := k } := by
  rw [Buf.acquire, if_neg (by rw [is]; decide), if_pos ⟨is, free⟩]

theorem acquire_of_own (held : b.state = 1 ∨ b.state = 4) (mine : b.owner = k) (taken : b.owner ≠ 0x1F) : b.acquire k = some b := by
  rw [Buf.acquire, if_neg (by rcases held with is | is <;> rw [is] <;> decide), if_neg fun free => taken free.2, if_pos ⟨held, mine⟩]

theorem acquire_of_wait (waits : b.state = 2 ∨ (b.state = 1 ∨ b.state = 4) ∧ ¬b.owner = k ∧ (b.state = 1 → b.owner ≠ 0x1F)) :
    b.acquire k = none := by
  rcases waits with is | ⟨held, other, taken⟩
  · rw [Buf.acquire, is]; rfl
  · rw [Buf.acquire, if_neg (by rcases held with is | is <;> rw [is] <;> decide), if_neg fun free => taken free.1 free.2,
      if_neg fun own => other own.2]

theorem release_of_own (mine : b.owner = k) : b.release k =
    if b.state = 1 then some { b with state := 3, owner := 0x1F, byPhase := false }
    else if b.state = 4 then some { b with state := 1, owner := 0x1F } else none :=
  if_neg (not_not.mpr mine)

theorem release_of_refused (refused : b.owner ≠ k ∨ b.state ≠ 1 ∧ b.state ≠ 4) : b.release k = none := by
  by_cases mine : b.owner = k
  · obtain ⟨one, four⟩ := refused.resolve_left (not_not.mpr mine)
    rw [release_of_own mine, if_neg one, if_neg four]
  · exact if_pos mine

end

/-! ## The longest-waiting `bacq` -/

section
variable {s : State} {h k i : Nat} {o : Outst}

theorem mem_bacqWaiters (few : k ≤ 10) (listed : o ∈ (s.ctx h k).out) (waits : o.pend = .bacq i) : (o.id, k) ∈ s.bacqWaiters h i :=
  List.mem_flatMap.2 ⟨k, List.mem_range.2 (Nat.lt_succ_of_le few), List.mem_filterMap.2 ⟨o, listed, if_pos waits⟩⟩

theorem of_mem_bacqWaiters {w : Nat × Nat} (mem : w ∈ s.bacqWaiters h i) :
    ∃ k ≤ 10, ∃ o ∈ (s.ctx h k).out, o.pend = .bacq i ∧ (o.id, k) = w :=
  (List.mem_flatMap.1 mem).imp fun _k is => ⟨Nat.le_of_lt_succ (List.mem_range.1 is.1), (List.mem_filterMap.1 is.2).imp fun _o is =>
    ⟨is.1, (Option.ite_none_right_eq_some.1 is.2).imp_right Option.some.inj⟩⟩

variable (low : k ≤ 10) (listed : o ∈ (s.ctx h k).out) (waits : o.pend = .bacq i)
  (first : ∀ k' ≤ 10, ∀ o' ∈ (s.ctx h k').out, o'.pend = .bacq i → o.id < o'.id ∨ k' = k ∧ o' = o)
  (may : ((s.core h).buf i).state = 3 ∨ ((s.core h).buf i).state = 1 ∧ ((s.core h).buf i).owner = 0x1F)
include low listed waits first may

/-- Of the waiters the one of the smallest serial number is next. -/
theorem bacqNext_eq : s.bacqNext h i = some (o.id, k) := by
  have least : s.bacqNext h i = (s.bacqWaiters h i).argmin Prod.fst := (if_pos may).trans
    (congrArg (fun f => (s.bacqWaiters h i).foldl f none) (funext fun acc => funext fun w => by cases acc <;> rfl))
  have mem := mem_bacqWaiters low listed waits
  rw [least]
  cases found : (s.bacqWaiters h i).argmin Prod.fst with
  | none => exact absurd mem (List.argmin_eq_none.1 found ▸ List.not_mem_nil)
  | some w =>
    refine congrArg some ((of_mem_bacqWaiters (List.argmin_mem found)).elim fun k' is => is.2.elim fun o' is' => ?_)
    rcases first k' is.1 o' is'.1 is'.2.1 with after | same
    · exact absurd (List.le_of_mem_argmin mem found) (Nat.not_le.2 (is'.2.2 ▸ after))
    · exact is'.2.2.symm.trans (Prod.ext (congrArg Outst.id same.2) same.1)

/-- The buffer that a waiting `bacq` takes. -/
def grantedBuf (b : Buf) (k : Nat) : Buf := { b with state := if b.state = 3 then 4 else 1, owner := k }

/-- A waiting `bacq` that has its buffer. -/
def granted (id : Nat) (x : Ctx) : Ctx :=
  { x.modOut id (fun o => { o with pend := .ready }) with post := x.post.filter (fun e => e.id != id) }

theorem grant_eq : s.grant h i = (s.takeBuf h i (grantedBuf ((s.core h).buf i) k)).modCtx h k (granted o.id) := by
  have gets : ((s.core h).buf i).acquire k = some (grantedBuf ((s.core h).buf i) k) := by
    rcases may with full | is
    · exact (acquire_of_full full).trans (congrArg (fun n => some { (s.core h).buf i with state := n, owner := k }) (if_pos full).symm)
    · refine (acquire_of_free is.1 is.2).trans (congrArg (fun n => some { (s.core h).buf i with state := n, owner := k }) ?_)
      rw [is.1]
      rfl
  unfold State.grant
  rw [bacqNext_eq low listed waits first may]
  dsimp only
  rw [gets]
  rfl

end

/-- No barrier step of the core has anything to do. -/
theorem barriersStill_of {s : State} {h : Nat} (still : (s.core h).stepped = true ∨ (s.core h).barq = [] ∧ ∀ off ∈ (s.core h).due,
    bArrivals (barrierBits s h off) ≠ 0 ∨ bSectors (barrierBits s h off) ≠ 0 ∨ off ∈ (s.core h).stuck) : s.barriersStill h = true := by
  refine Bool.or_eq_true_iff.2 (still.imp_right fun is => Bool.and_eq_true_iff.2 ⟨beq_iff_eq.2 is.1, List.all_eq_true.2 fun off listed => ?_⟩)
  rw [Bool.not_eq_true', State.barrierOver, Barrier.over, Bool.and_eq_false_iff, Bool.and_eq_false_iff, beq_eq_false_iff_ne,
    beq_eq_false_iff_ne, Bool.not_eq_false', List.contains_iff_mem, or_assoc]
  exact is.2 off listed

theorem not_full_of_held {b : Buf} (held : b.state = 1 ∨ b.state = 4) : b.state ≠ 3 := by
  rcases held with is | is <;> rw [is] <;> decide

theorem declared_of_held {b : Buf} (held : b.state = 1 ∨ b.state = 4) : b.state ≠ 0 := by
  rcases held with is | is <;> rw [is] <;> decide

/-- Settles O31. -/
theorem declaredBuffers : Obligations.DeclaredBuffers := by
  refine ⟨?ids, ?bdecl, ?bacq, ?grant, ?brel, ?bstat⟩
  case ids =>
    intro o p q s bad pa qa
    exact ⟨traps_of_raise (show exec (.bdecl o) s = _ from run_bufId_of_bad bad),
      traps_of_raise (show exec (.bacq p) s = _ from run_bufId_of_bad (pa ▸ bad)),
      traps_of_raise (show exec (.brel p) s = _ from run_bufId_of_bad (pa ▸ bad)),
      traps_of_raise (show exec (.bstat q) s = _ from run_bufId_of_bad (qa ▸ bad))⟩
  case bdecl =>
    intro o s good i w
    exact ⟨fun bad => traps_of_raise (exec_bdecl_of_bad good bad),
      fun wellMade illegal => traps_of_raise (exec_bdecl_of_illegal good wellMade illegal),
      fun wellMade legal => ⟨_, leads_of_eq (exec_bdecl_of_legal good wellMade legal) (endLong_ended ..), bufOnly_setBuf ..⟩⟩
  case bacq =>
    intro o s good i b mine gets
    exact ⟨fun undeclared => traps_of_raise (exec_bacq_of_undeclared good undeclared),
      fun full => ⟨_, bufOnly_takeBuf_of_full s _ _ _ full,
        leads_of_eq (exec_bacq_of_some good (ne_of_eq_of_ne full (by decide)) (acquire_of_full full)) (endLong_ended ..)⟩,
      fun is free => ⟨_, bufOnly_takeBuf_of_not_full s _ _ _ (ne_of_eq_of_ne is (by decide)),
        leads_of_eq (exec_bacq_of_some good (ne_of_eq_of_ne is (by decide)) (acquire_of_free is free)) (endLong_ended ..)⟩,
      fun held own taken => ⟨_, bufOnly_takeBuf_of_not_full s _ _ _ (not_full_of_held held),
        leads_of_eq (exec_bacq_of_some good (declared_of_held held) (acquire_of_own held own taken)) (endLong_ended ..)⟩,
      fun waits => leads_of_eq (exec_bacq_of_none good
        (waits.elim (ne_of_eq_of_ne · (by decide)) fun is => declared_of_held is.1) (acquire_of_wait waits)) (enqueue_stay_queued ..)⟩
  case grant =>
    intro h k i s o low listed waits first b may core still
    refine leads_of_eq ((congrArg Host.Outcome.next (if_pos ⟨core, barriersStill_of still⟩)).trans
      (congrArg Host.Outcome.next (grant_eq low listed waits first may))) ⟨_, bufOnly_takeBuf .., onlyCtx_setCtx .., (ctx_modCtx_same ..).trans
        (congrArg (granted o.id) (ctx_of_onlyCoreOf (bufOnly_takeBuf ..).1 ..))⟩
  case brel =>
    intro o s good i b gives
    exact ⟨fun barred => leads_of_eq ((exec_brel_of_barred good barred).trans (stop_wait ..)) (waits_modCur ..), fun free =>
      ⟨fun own is => ⟨_, bufOnly_setBuf .., leads_of_eq (exec_brel_of_some good free ((release_of_own own).trans (if_pos is))) (endLong_ended ..)⟩,
      fun own is => ⟨_, bufOnly_setBuf .., leads_of_eq (exec_brel_of_some good free ((release_of_own own).trans
        ((if_neg (ne_of_eq_of_ne is (by decide))).trans (if_pos is)))) (endLong_ended ..)⟩,
      fun refused => traps_of_raise (exec_brel_of_none good free (release_of_refused refused))⟩⟩
  case bstat =>
    intro o s good b state owner base size esize barrier
    exact ⟨b.word, ends_of_endLong (show exec (.bstat o) s = _ from run_bufId good), word_fields b state owner base size esize barrier⟩

end Sys2Proof.Proofs
end

section
/-! A turn of a core runs the instruction that the words at its pc decode to (R68, R127, R172). -/

namespace Sys2Proof.Proofs

open Sys2Proof.Machine Sys2Proof.Safety Sys2Proof.Laws

/-! ## The words of an instruction, read one by one -/

section
variable {r r' : Raw} {p p' : Places} {n : Nat}

/-- Reading on is an error, or goes on with other fields and places, whatever words follow. -/
def Prefixed (n : Nat) (f : List IWord → Scan) : Prop :=
  (∃ e, f = fun _ws => .bad e) ∨ n ≠ 4 ∧ ∃ r p, f = scanFrom r p (n + 1)

theorem prefixed_ite {c : Prop} [Decidable c] {f g : List IWord → Scan} (yes : Prefixed n f) (no : ¬c → Prefixed n g) :
    Prefixed n (fun ws => if c then f ws else g ws) := by
  by_cases given : c
  · exact (congrArg (Prefixed n) (funext fun _ws => if_pos given)).mpr yes
  · exact (congrArg (Prefixed n) (funext fun _ws => if_neg given)).mpr (no given)

theorem prefixed_bad (e : DecodeErr) : Prefixed n (fun _ws => .bad e) := .inl ⟨e, rfl⟩

theorem prefixed_next (five : n ≠ 4) (r : Raw) (p : Places) : Prefixed n (fun ws => scanFrom r p (n + 1) ws) := .inr ⟨five, r, p, rfl⟩

/-- A prefix is an error, or adds to the fields read so far, whatever follows it. -/
theorem scanFrom_prefix {w : IWord} (isPre : isPrefix w = true) (r : Raw) (p : Places) (n : Nat) :
    Prefixed n (fun ws => scanFrom r p n (w :: ws)) := by
  have read := funext fun ws => show scanFrom r p n (w :: ws) = _ from if_pos isPre
  rw [read]
  refine prefixed_ite (prefixed_bad _) fun five => ?_
  generalize prefixKind w = kind
  rcases kind with _ | _ | _ | _
  · exact prefixed_next five ..
  · exact prefixed_ite (prefixed_bad _) fun _again => prefixed_next five ..
  · exact prefixed_ite (prefixed_bad _) fun _again => prefixed_ite (prefixed_bad _) fun _zero =>
      prefixed_ite (prefixed_bad _) fun _high => prefixed_next five ..
  · exact prefixed_ite (prefixed_bad _) fun _again => prefixed_next five ..

/-- Words that end with their base word: there are at most five, and of fewer of them the base word is still to come. -/
theorem scanFrom_take (ws : List IWord) (low : n ≤ 4) (done : scanFrom r p n ws = .done r' p') (all : p'.base + 1 = n + ws.length) :
    n + ws.length ≤ 5 ∧ ∀ m < ws.length, scanFrom r p n (ws.take m) = .more := by
  induction ws generalizing r p n with
  | nil => exact ⟨Nat.le_succ_of_le low, fun m lt => absurd lt (Nat.not_lt_zero m)⟩
  | cons w ws ih =>
    have shift : n + (w :: ws).length = n + 1 + ws.length := (Nat.succ_add_eq_add_succ ..).symm
    rw [shift] at all ⊢
    by_cases isPre : isPrefix w = true
    · rcases scanFrom_prefix isPre r p n with bad | next
      · exact bad.elim fun e is => Scan.noConfusion ((congrFun is ws).symm.trans done)
      · refine next.2.elim fun r1 next' => next'.elim fun p1 is => ?_
        have rest := ih (Nat.lt_of_le_of_ne low next.1) ((congrFun is ws).symm.trans done) all
        refine ⟨rest.1, fun m lt => ?_⟩
        cases m with
        | zero => rfl
        | succ m => exact (congrFun is _).trans (rest.2 m (Nat.lt_of_succ_lt_succ lt))
    · have last : Places.base p' = n := (congrArg Places.base (Scan.done.inj ((if_neg isPre).symm.trans done)).2).symm
      have none : ws.length = 0 := Nat.left_eq_add.1 ((congrArg (· + 1) last).symm.trans all)
      rw [none]
      refine ⟨Nat.succ_le_succ low, fun m lt => ?_⟩
      rw [Nat.lt_one_iff.1 (lt.trans_eq (congrArg (· + 1) none))]
      rfl

end

/-- What decodes has been read to its base word. -/
theorem scan_of_decode {ws : List IWord} {i : Instr} {n : Nat} (ok : decode ws = .ok i n) :
    ∃ r p, scan ws = .done r p ∧ p.base + 1 = n := by
  unfold decode at ok
  cases read : scan ws with
  | more => rw [read] at ok; exact Decoded.noConfusion ok
  | bad e => rw [read] at ok; exact Decoded.noConfusion ok
  | done r p =>
    refine ⟨r, p, rfl, ?_⟩
    cases raw : decodeRaw r p with
    | error e => rw [read] at ok; dsimp only at ok; rw [raw] at ok; exact Decoded.noConfusion ok
    | ok j => rw [read] at ok; dsimp only at ok; rw [raw] at ok; exact (Decoded.ok.inj ok).2

/-- What decodes as a whole has at most five words, and of fewer of them the base word is still to come. -/
theorem decode_take {ws : List IWord} {i : Instr} (whole : decode ws = .ok i ws.length) :
    ws.length ≤ 5 ∧ ∀ m < ws.length, decode (ws.take m) = .more := by
  obtain ⟨r, p, read, all⟩ := scan_of_decode whole
  obtain ⟨few, part⟩ := scanFrom_take ws (Nat.zero_le 4) read (all.trans (Nat.zero_add _).symm)
  rw [Nat.zero_add] at few
  exact ⟨few, fun m lt => by rw [decode, scan, part m lt]⟩

/-! ## Fetching them -/

theorem fetchFrom_of_word {s : State} {va : Nat} {w : IWord} (word : s.fetchWord va = some w) (ws : List IWord) (fuel : Nat) :
    s.fetchFrom va ws (fuel + 1) = match decode (ws ++ [w]) with
      | .more => s.fetchFrom (va + 2) (ws ++ [w]) fuel
      | .bad e => .bad (ws ++ [w]) e
      | .ok i _ => .instr (ws ++ [w]) i :=
  (congrArg (fun x : Option IWord => match x with
    | none => Fetched.refused va
    | some w => match decode (ws ++ [w]) with
      | .more => s.fetchFrom (va + 2) (ws ++ [w]) fuel
      | .bad e => .bad (ws ++ [w]) e
      | .ok i _ => .instr (ws ++ [w]) i) word : _)

/-- Words that may be fetched and that decode are what the fetch gives. -/
theorem fetchFrom_instr {s : State} {i : Instr} {ws : List IWord} (whole : decode ws = .ok i ws.length) (va : Nat)
    (words : ∀ (j : Nat) w, ws[j]? = some w → s.fetchWord (va + 2 * j) = some w) (fuel m : Nat) (lt : m < ws.length)
    (enough : ws.length ≤ m + fuel) : s.fetchFrom (va + 2 * m) (ws.take m) fuel = .instr ws i := by
  induction fuel generalizing m with
  | zero => exact absurd enough (Nat.not_le.mpr lt)
  | succ fuel ih =>
    rw [fetchFrom_of_word (words m ws[m] (List.getElem?_eq_getElem lt)), List.take_append_getElem lt]
    rcases Nat.lt_or_eq_of_le lt with more | last
    · rw [(decode_take whole).2 (m + 1) more]
      exact ih (m + 1) more (by rwa [Nat.succ_add_eq_add_succ])
    · rw [show m + 1 = ws.length from last, List.take_length, whole]

theorem fetch_instr {s : State} {i : Instr} {ws : List IWord} (whole : decode ws = .ok i ws.length)
    (words : ∀ (j : Nat) w, ws[j]? = some w → s.fetchWord (s.cur.pc.toNat + 2 * j) = some w) : s.fetch = .instr ws i := by
  have some : 0 < ws.length := by
    refine List.length_pos_iff.mpr fun none => ?_
    rw [none] at whole
    cases whole
  exact fetchFrom_instr whole _ words 6 0 some (((decode_take whole).1.trans (by decide)).trans (Nat.le_add_left ..))

/-! ## A turn -/

section
variable {s r : State} {h k : Nat} {defer : Bool} {ks : List Nat}

/-- A turn of a core that may issue, when a context is first in order. -/
theorem turn_issue (may : s.mayIssue h = true) (order : (s.openCycle h).ranked h = k :: ks) :
    s.turn (.issue h defer) = State.closeCycle h ((s.openCycle h).tryList h defer (k :: ks)) :=
  (if_pos may).trans (congrArg (fun l => State.closeCycle h ((s.openCycle h).tryList h defer l)) order)

/-- The first context's attempt, and what follows it. -/
theorem tryList_cons (s : State) (h k : Nat) (defer : Bool) (ks : List Nat) : s.tryList h defer (k :: ks) =
    match s.attempt h k defer with
    | .next t => if (t.ctx h k).state.stalled then t.tryList h defer ks else .next (t.noteIssue h k s.serial)
    | .fault f => .fault f
    | .refused r => .refused r := rfl

theorem tryList_issued (is : s.attempt h k defer = .next r) (goes : (r.ctx h k).state.stalled = false) :
    s.tryList h defer (k :: ks) = .next (r.noteIssue h k s.serial) := by
  rw [tryList_cons, is]
  exact if_neg (ne_true_of_eq_false goes)

theorem tryList_stalled (is : s.attempt h k defer = .next r) (stalls : (r.ctx h k).state.stalled = true) :
    s.tryList h defer (k :: ks) = r.tryList h defer ks := by
  rw [tryList_cons, is]
  exact if_pos stalls

end

/-- Settles O53: the first context's attempt fetches the instruction, and the turn ends with its outcome. -/
theorem stepRunsTheDecodedInstruction : Obligations.StepRunsTheDecodedInstruction := by
  intro s h defer rest k ks ws i turn s0 may t order a words whole b v after
  have fetched : a.fetch = .instr ws i := fetch_instr whole words
  have ends : ∀ o, t.attempt h k defer = o → after o := by
    intro o is
    have first : step s = s.conclude (State.closeCycle h (t.tryList h defer (k :: ks))) := by
      rw [← turn_issue may order, step, turn]
    refine ⟨fun r next goes => ?_, fun r next stalls => ?_, fun f fault => ?_, fun r refused => ?_⟩
    · rw [first, tryList_issued (is.trans next) goes]
      rfl
    · rw [first, tryList_stalled (is.trans next) stalls]
    · rw [first, tryList_cons, is, fault]
      rfl
    · rw [first, tryList_cons, is, refused]
      rfl
  have tries : t.attempt h k defer = match v.issueGate i with | .ok _ => exec i v | .error e => v.stop e := by
    rw [State.attempt, fetched] <;> rfl
  exact ⟨fun ok => ends _ (tries.trans (by rw [ok])), fun e stops => ends _ (tries.trans (by rw [stops]))⟩

end Sys2Proof.Proofs
end

section
/-! Before an instruction issues (R13, R14, R69, R70), and refused fetches (R175, R345, R351). -/

namespace Sys2Proof.Proofs

open Sys2Proof.Machine Sys2Proof.Safety Sys2Proof.Laws

/-! ## Hazards against open windows (R70) -/

theorem code_isSome_iff (c : RClass) : c.code.isSome = true ↔ c = .g ∨ c = .f ∨ c = .v := by
  cases c <;> decide

theorem code_isNone_iff (c : RClass) : c.code.isNone = true ↔ c = .t ∨ c = .m ∨ c = .x := by
  cases c <;> decide

theorem meets_iff (u x : RegUse) : u.meets x = true ↔ u.cls = x.cls ∧ u.n = x.n ∧ ¬(u.cls = .g ∧ u.n = 0) := by
  rw [RegUse.meets, Bool.and_eq_true, Bool.and_eq_true, beq_iff_eq, beq_iff_eq, Bool.not_eq_true', Bool.and_eq_false_iff,
    beq_eq_false_iff_ne, beq_eq_false_iff_ne, and_assoc, not_and_or]

theorem bars_iff (o : Outst) (u : RegUse) : o.bars u = true ↔ Conflicts o u := by
  rw [Outst.bars, Bool.and_eq_true, code_isSome_iff, List.any_eq_true]
  have each (x : RegUse) : (u.meets x && (u.wr || u.rd && x.wr)) = true ↔
      (u.cls = x.cls ∧ u.n = x.n ∧ ¬(u.cls = .g ∧ u.n = 0)) ∧ (u.wr = true ∨ u.rd = true ∧ x.wr = true) := by
    rw [Bool.and_eq_true, meets_iff, Bool.or_eq_true, Bool.and_eq_true]
  refine and_congr_right fun _code => ⟨fun found => found.elim fun x is => ?_, fun is => is.2.elim fun x both => ⟨x, both.1, ?_⟩⟩
  · have both := (each x).1 is.2
    exact ⟨both.1.2.2, x, is.1, both.1.1.symm, both.1.2.1.symm, both.2⟩
  · exact (each x).2 ⟨⟨both.2.1.symm, both.2.2.1.symm, is.1⟩, both.2.2.2⟩

theorem any_meets_iff (us : List RegUse) {u : RegUse} (real : ¬(u.cls = .g ∧ u.n = 0)) :
    us.any (fun x => x.meets u && x.wr) = true ↔ ∃ y ∈ us, y.cls = u.cls ∧ y.n = u.n ∧ y.wr = true :=
  List.any_eq_true.trans (exists_congr fun y => and_congr_right fun _mem => (Bool.and_eq_true _ _).to_iff.trans
    ((and_congr_left' (meets_iff y u)).trans ⟨fun is => ⟨is.1.1, is.1.2.1, is.2⟩,
      fun is => ⟨⟨is.1, is.2.1, is.1 ▸ is.2.1 ▸ real⟩, is.2.2⟩⟩))

theorem lookInfo_eq (us : List RegUse) (u : RegUse) : lookInfo us u = lookWord (us.any (fun x => x.meets u && x.wr)) u.cls u.n := by
  rw [lookInfo]
  cases u.cls <;> rfl

theorem hazard_of_conflict {out : List Outst} {us : List RegUse} {oa ob : List Outst} {o : Outst} {ua ub : List RegUse} {u : RegUse}
    (opens : out.filter (fun o => o.left != 0) = oa ++ o :: ob) (before : ∀ x ∈ oa, ∀ y ∈ us, ¬Conflicts x y)
    (bars : ∃ y ∈ us, Conflicts o y) (uses : us = ua ++ u :: ub)
    (earlier : ∀ y ∈ ua, ∀ x ∈ out.filter (fun o => o.left != 0), ¬Conflicts x y)
    (barred : ∃ x ∈ out.filter (fun o => o.left != 0), Conflicts x u) :
    hazard out us = some (.trap .lookahead o.pc (lookInfo us u)) := by
  have first : (out.filter (fun o => o.left != 0)).find? (fun o => us.any o.bars) = some o := by
    refine List.find?_eq_some_iff_append.mpr ⟨?_, oa, ob, opens, fun x mem => ?_⟩
    · exact List.any_eq_true.mpr (bars.imp fun y both => ⟨both.1, (bars_iff ..).mpr both.2⟩)
    · rw [Bool.not_eq_true', List.any_eq_false]
      exact fun y use => mt (bars_iff ..).mp (before x mem y use)
  have use : us.find? (fun u => (out.filter (fun o => o.left != 0)).any (fun o => o.bars u)) = some u := by
    refine List.find?_eq_some_iff_append.mpr ⟨?_, ua, ub, uses, fun y mem => ?_⟩
    · exact List.any_eq_true.mpr (barred.imp fun x both => ⟨both.1, (bars_iff ..).mpr both.2⟩)
    · rw [Bool.not_eq_true', List.any_eq_false]
      exact fun x open_ => mt (bars_iff ..).mp (earlier y mem x open_)
  rw [hazard, first, use]

theorem hazard_of_clear {out : List Outst} {us : List RegUse}
    (clear : ∀ x ∈ out.filter (fun o => o.left != 0), ∀ y ∈ us, ¬Conflicts x y) : hazard out us = none := by
  have none : (out.filter (fun o => o.left != 0)).find? (fun o => us.any o.bars) = none := by
    exact List.find?_eq_none.mpr fun x mem found => (List.any_eq_true.1 found).elim fun y both =>
      clear x mem y both.1 ((bars_iff ..).mp both.2)
  rw [hazard, none]

/-! ## The gate -/

section
variable {s : State} {i : Instr}

theorem clash_iff (u o : RegUse) : u.clash o = true ↔
    (u.cls = .t ∨ u.cls = .m ∨ u.cls = .x) ∧ u.cls = o.cls ∧ u.n = o.n ∧ (u.wr = true ∨ o.wr = true) := by
  rw [RegUse.clash, Bool.and_eq_true, Bool.and_eq_true, Bool.and_eq_true, code_isNone_iff, beq_iff_eq, beq_iff_eq, Bool.or_eq_true,
    and_assoc, and_assoc]

theorem not_interlocked_iff : (s.now.uses.all (fun u => (s.usesOn s.now.h).all (fun o => !u.clash o))) = true ↔ ¬Interlocked s := by
  simp only [List.all_eq_true, Bool.not_eq_true', ← Bool.not_eq_true, clash_iff, Interlocked, not_exists, not_and]

theorem unit_free_iff : (unitOf i).all (fun u => !(s.busyUnits s.now.h).contains u) = true ↔
    ∀ u, unitOf i = some u → u ∉ s.busyUnits s.now.h := by
  simp only [Option.all_eq_true, Bool.not_eq_true', ← Bool.not_eq_true, List.contains_iff_mem]

theorem few_iff : ((lookahead i).isNone || decide (s.cur.out.length < 4)) = true ↔ lookahead i = none ∨ s.cur.out.length < 4 := by
  rw [Bool.or_eq_true, Option.isNone_iff_eq_none, decide_eq_true_iff]

theorem open_windows (open_ : ∀ o ∈ s.cur.out, o.left ≠ 0) : s.cur.out.all (fun o => o.left != 0) = true :=
  List.all_eq_true.mpr fun o mem => bne_iff_ne.mpr (open_ o mem)

variable (s i)

/-- Nothing but a full window holds the instruction. -/
theorem gate_free_iff : (((lookahead i).isNone || decide (s.cur.out.length < 4)) &&
    s.now.uses.all (fun u => (s.usesOn s.now.h).all (fun o => !u.clash o)) &&
      (unitOf i).all (fun u => !(s.busyUnits s.now.h).contains u)) = true ↔
    (lookahead i = none ∨ s.cur.out.length < 4) ∧ ¬Interlocked s ∧ ∀ u, unitOf i = some u → u ∉ s.busyUnits s.now.h := by
  rw [Bool.and_eq_true, Bool.and_eq_true, few_iff, not_interlocked_iff, unit_free_iff, and_assoc]

variable {s i}

/-- Of checks that all wait the same way, the first that fails waits so. -/
theorem musts_eq (a b c : Bool) (e : Stop) :
    (must a e >>= fun _x => must b e >>= fun _x => must c e) = if (a && b && c) = true then .ok () else .error e := by
  cases a
  · rfl
  · cases b <;> rfl

variable (mode : privileged i = false ∨ s.cur.supervisor = true)
include mode

theorem not_gateless : ¬(privileged i && !s.cur.supervisor) = true := fun both => mode.elim (ne_false_of_eq_true (Bool.and_eq_true_iff.1 both).1)
  fun sup => Bool.false_ne_true ((congrArg not sup).symm.trans (Bool.and_eq_true_iff.1 both).2)

theorem issueGate_of_hazard {e : Stop} (is : hazard s.cur.out s.now.uses = some e) : s.issueGate i = .error e := by
  refine (if_neg (not_gateless mode)).trans ?_
  dsimp only
  rw [is]

variable (clear : ∀ x ∈ OpenWindows s, ∀ y ∈ s.now.uses, ¬Conflicts x y)
include clear

theorem issueGate_of_clear : s.issueGate i =
    (must (s.cur.out.all (fun o => o.left != 0)) (.wait .window) >>= fun _x =>
      if ((lookahead i).isNone || decide (s.cur.out.length < 4)) && s.now.uses.all (fun u => (s.usesOn s.now.h).all (fun o => !u.clash o)) &&
        (unitOf i).all (fun u => !(s.busyUnits s.now.h).contains u) then .ok () else .error (.wait .retry)) := by
  rw [← musts_eq]
  refine (if_neg (not_gateless mode)).trans ?_
  dsimp only
  rw [hazard_of_clear clear]

theorem issueGate_of_full (full : ∃ o ∈ s.cur.out, o.left = 0) : s.issueGate i = .error (.wait .window) := by
  have full : s.cur.out.all (fun o => o.left != 0) = false :=
    List.all_eq_false.2 (full.imp fun o is => ⟨is.1, fun some => bne_iff_ne.1 some is.2⟩)
  rw [issueGate_of_clear mode clear, full]
  rfl

variable (open_ : ∀ o ∈ s.cur.out, o.left ≠ 0)
include open_

theorem issueGate_of_open : s.issueGate i =
    if ((lookahead i).isNone || decide (s.cur.out.length < 4)) && s.now.uses.all (fun u => (s.usesOn s.now.h).all (fun o => !u.clash o)) &&
      (unitOf i).all (fun u => !(s.busyUnits s.now.h).contains u) then .ok () else .error (.wait .retry) := by
  rw [issueGate_of_clear mode clear, open_windows open_]
  rfl

end

/-! ## A word that is not fetched -/

section
variable {s : State} {va : Nat}

theorem exec_evFetchRefused_of_high (high : NW ≤ va) :
    exec (.evFetchRefused va) s = .next (s.raise .perm (BitVec.ofNat 64 va) (pageInfo 0 3 0 4)) := if_pos high

theorem exec_evFetchRefused_of_error {e : Stop} (low : va < NW) (is : s.global va { fetch := true } = .error e) :
    exec (.evFetchRefused va) s = s.stop e := by
  refine (if_neg (Nat.not_le.2 low)).trans ?_
  rw [is]

/-- A word that may be fetched is not refused. -/
theorem exec_evFetchRefused_of_word {w : IWord} (low : va < NW) (word : s.fetchWord va = some w) :
    exec (.evFetchRefused va) s = .next s := by
  refine (if_neg (Nat.not_le.2 low)).trans ?_
  replace word := (if_neg (Nat.not_le.2 low)).symm.trans word
  unfold State.fetchLoc at word
  cases found : s.global va { fetch := true } with
  | error e => rw [found] at word; exact absurd word.symm (Option.some_ne_none _)
  | ok loc =>
    rw [found] at word
    cases read : s.checkFetch va loc with
    | error e =>
      refine absurd (word.symm.trans ?_) (Option.some_ne_none w)
      rw [show (Except.ok loc >>= fun loc => s.checkFetch va loc >>= fun _x => Except.ok loc) = .error e from
        congrArg (· >>= fun _x => Except.ok loc) read]
    | ok u => exact congrArg (fun r : Except Stop Unit => s.run (r >>= fun _x => .ok s)) read

section
variable (now : s.now.defer = false ∨ s.tlbHit s.now.h va = true) {lvl : Nat} {e : Word}
include now

theorem global_of_translate (n : Need) : s.global va n =
    match s.translate s.now.h va with
    | .miss lvl => .error (.park (BitVec.ofNat 64 va) (pageInfo 0 0 lvl n.acc) va n.acc)
    | .fatal lvl e => .error (.trap .pageFatal (BitVec.ofNat 64 va) (pageInfo e 1 lvl n.acc))
    | .mchk pa => .error (.trap .mchk (BitVec.ofNat 64 pa) 6#64)
    | .hole pa => .error (.fault (.noSuchPhysical pa))
    | .leaf e lvl =>
      if permReason e n s.cur.supervisor ≠ 0 then
        .error (.trap .perm (BitVec.ofNat 64 va) (pageInfo e (permReason e n s.cur.supervisor) lvl n.acc))
      else if n.atomic && pteAp e == 3 && !pteRap e then .error (.trap .rap (BitVec.ofNat 64 va) (pageInfo e 1 lvl n.acc))
      else .ok ⟨leafSpace s.myDev e, leafKey e lvl va⟩ := by
  refine (if_neg fun defers => ?_).trans rfl
  obtain ⟨defer, miss⟩ := Bool.and_eq_true_iff.1 defers
  exact now.elim (ne_false_of_eq_true defer) fun hit => Bool.false_ne_true ((congrArg not hit).symm.trans miss)

theorem global_of_miss (n : Need) (is : s.translate s.now.h va = .miss lvl) :
    s.global va n = .error (.park (BitVec.ofNat 64 va) (pageInfo 0 0 lvl n.acc) va n.acc) := by
  rw [global_of_translate now, is]

theorem global_of_fatal (n : Need) (is : s.translate s.now.h va = .fatal lvl e) :
    s.global va n = .error (.trap .pageFatal (BitVec.ofNat 64 va) (pageInfo e 1 lvl n.acc)) := by
  rw [global_of_translate now, is]

theorem global_of_refused {n : Need} {r : Nat} (is : s.translate s.now.h va = .leaf e lvl)
    (reason : permReason e n s.cur.supervisor = r) (some : r ≠ 0) :
    s.global va n = .error (.trap .perm (BitVec.ofNat 64 va) (pageInfo e r lvl n.acc)) := by
  rw [global_of_translate now, is]
  exact reason ▸ if_pos (reason ▸ some)

end

/-- A page that holds no code permits no fetch (R351). -/
theorem permReason_fetch_of_noX {e : Word} {sup : Bool} (noX : pteX e = false) : permReason e { fetch := true } sup = 3 :=
  (if_neg Bool.false_ne_true).trans ((if_neg Bool.false_ne_true).trans (if_pos (by rw [noX]; rfl)))

/-- A supervisor's page permits no fetch in user mode (R351). -/
theorem permReason_fetch_of_noUser {e : Word} (x : pteX e = true) (noUser : pteUser e = false) :
    permReason e { fetch := true } false = 4 :=
  (if_neg Bool.false_ne_true).trans ((if_neg Bool.false_ne_true).trans ((if_neg (by rw [x]; exact Bool.false_ne_true)).trans
    (if_pos (by rw [noUser]; rfl))))

end

/-- A context parks on a missing page: its registers say where and why, and its die has one fault message more (R345). -/
theorem park_parks (s : State) (addr info : Word) (va acc : Nat) :
    let t := s.park addr info va acc
    t = { s with ctxs := t.ctxs, dies := t.dies } ∧ OthersSame s t ∧ SameBytes s t ∧
      t.cur = { s.cur with
        state := .parked, out := s.cur.out.map (fun x => { x with left := 0 }), cause := 5, fpc := s.cur.pc, faddr := addr
        finfo := info } ∧
      ∀ d, t.die d = if d = hdie s.now.h then
        { s.die d with faultIn := (s.die d).faultIn ++
          [⟨false, s.dctxOf s.now.h, va / 65536, acc, hx s.now.h, hy s.now.h, s.now.k⟩] } else s.die d := by
  let f : Ctx → Ctx := fun c => { c.shut with state := .parked, cause := 5#64, fpc := c.pc, faddr := addr, finfo := info }
  refine ⟨rfl, fun h k ne => ctx_modCur_other s f ne, fun _x _y => rfl, cur_modCur s f, fun d => ?_⟩
  by_cases own : d = hdie s.now.h
  · rw [if_pos own, own]
    exact die_modDie_same (s.modCur f) ..
  · rw [if_neg own]
    exact die_modDie_other (s.modCur f) _ (Ne.symm own)

/-- The trap's information on a missing page. -/
theorem pageInfo_zero (lvl acc : Nat) : pageInfo 0 0 lvl acc = BitVec.ofNat 64 (lvl * 256 + acc) :=
  congrArg (fun n => BitVec.ofNat 64 (n + acc)) (Nat.zero_add _)

/-- Settles O52. -/
theorem fetchingAndIssue : Obligations.FetchingAndIssue := by
  refine ⟨?gate, fun w index reason s => traps_of_raise (c := .illegal) rfl, ?fetch⟩
  case gate =>
    refine fun i s => ⟨fun priv user => if_pos (Bool.and_eq_true_iff.2 ⟨priv, congrArg not user⟩), fun mode =>
      ⟨fun oa o ob ua u ub opens before bars uses earlier barred => ⟨_, any_meets_iff _ (barred.elim fun x is => is.2.2.1),
        (issueGate_of_hazard mode (hazard_of_conflict opens before bars uses earlier barred)).trans
          (congrArg (fun w => Except.error (Stop.trap .lookahead o.pc w)) (lookInfo_eq ..))⟩, ?_⟩⟩
    intro clear free
    exact ⟨issueGate_of_full mode clear, fun open_ => ⟨fun is => (issueGate_of_open mode clear open_).trans (if_pos ((gate_free_iff s i).2 is)),
      fun held => (issueGate_of_open mode clear open_).trans (if_neg (mt (gate_free_iff s i).1 held))⟩⟩
  case fetch =>
    intro va s a
    exact ⟨fun high => traps_of_raise (exec_evFetchRefused_of_high high), fun low defer =>
      ⟨fun lvl miss => leads_of_eq ((exec_evFetchRefused_of_error low (global_of_miss (.inl defer) _ miss)).trans
        (congrArg (fun x => s.stop (.park (BitVec.ofNat 64 va) x va 4)) (pageInfo_zero lvl 4))) (park_parks ..),
      fun lvl e fatal => traps_of_raise (exec_evFetchRefused_of_error low (global_of_fatal (.inl defer) _ fatal)),
      fun e lvl leaf =>
      ⟨fun noX => traps_of_raise (exec_evFetchRefused_of_error low (global_of_refused (.inl defer) leaf (permReason_fetch_of_noX noX) (by decide))),
      fun x noUser user => traps_of_raise (exec_evFetchRefused_of_error low (global_of_refused (.inl defer) leaf
        (user ▸ permReason_fetch_of_noUser x noUser) (by decide))),
      fun _x _y w word => exec_evFetchRefused_of_word low word⟩⟩⟩

end Sys2Proof.Proofs
end

section
/-! The resync summary (R424), attestation (R427, R428), errors and the failure of a die (R425). -/

namespace Sys2Proof.Proofs

open Sys2Proof.Machine Sys2Proof.Safety Sys2Proof.Laws

/-! ## Words written at places of control space -/

/-- Control space after words are written at the places that `at_` gives their numbers. -/
def putWords (at_ : Nat → Nat) (ps : List (Word × Nat)) (m : SMap Word) : SMap Word :=
  ps.foldl (fun m p => SMap.put m (at_ p.2) p.1) m

theorem foldl_setCtl (at_ : Nat → Nat) (ps : List (Word × Nat)) (s : State) :
    ps.foldl (fun t p => t.setCtl (at_ p.2) p.1) s = { s with ctl := putWords at_ ps s.ctl } := by
  induction ps generalizing s with
  | nil => rfl
  | cons p ps ih => exact ih (s.setCtl (at_ p.2) p.1)

theorem get_putWords_other {at_ : Nat → Nat} {a : Nat} {d : Word} (ws : List Word) (n : Nat) (m : SMap Word)
    (far : ∀ j, n ≤ j → j < n + ws.length → at_ j ≠ a) : SMap.get (putWords at_ (ws.zipIdx n) m) d a = SMap.get m d a := by
  induction ws generalizing n m with
  | nil => rfl
  | cons w ws ih =>
    have here : at_ n ≠ a := far n (Nat.le_refl n) (Nat.lt_add_of_pos_right (Nat.succ_pos _))
    refine (ih (n + 1) _ fun j low high => far j (Nat.le_of_succ_le low) ?_).trans (get_put_other (m := m) _ _ here)
    rwa [List.length_cons, ← Nat.add_assoc, Nat.add_right_comm]

theorem get_putWords {at_ : Nat → Nat} (inj : ∀ i j, at_ i = at_ j → i = j) {d w : Word} (ws : List Word) (n i : Nat) (m : SMap Word)
    (is : ws[i]? = some w) : SMap.get (putWords at_ (ws.zipIdx n) m) d (at_ (n + i)) = w := by
  induction ws generalizing n m i with
  | nil => exact absurd is.symm (Option.some_ne_none _)
  | cons x ws ih =>
    cases i with
    | zero =>
      obtain rfl : x = w := Option.some.inj is
      refine (get_putWords_other ws (n + 1) _ fun j low _x eq => ?_).trans (get_put_same (m := m) _ _ _)
      exact absurd (inj _ _ eq) (Nat.ne_of_gt low)
    | succ i =>
      rw [← Nat.add_assoc, Nat.add_right_comm]
      exact ih (n + 1) i _ is

/-! ## Sums of one field per number -/

theorem packed_append (fs gs : List (Nat × Nat)) : packed (fs ++ gs) = packed fs + 2 ^ (fs.map Prod.fst).sum * packed gs := by
  induction fs with
  | nil => exact ((Nat.zero_add _).trans (Nat.one_mul _)).symm
  | cons f fs ih =>
    rw [List.cons_append, packed_cons, ih, packed_cons, List.map_cons, List.sum_cons, Nat.pow_add, Nat.mul_add, Nat.mul_assoc, Nat.add_assoc]

/-- A field of width w for each number below n. -/
def evenly (w n : Nat) (v : Nat → Nat) : List (Nat × Nat) := (List.range n).map fun i => (w, v i)

theorem evenly_widths (w n : Nat) (v : Nat → Nat) : (evenly w n v).map Prod.fst = List.replicate n w :=
  (List.map_map ..).trans ((List.map_const ..).trans (congrArg (List.replicate · w) List.length_range))

theorem evenly_take_sum {w n i : Nat} (v : Nat → Nat) (le : i ≤ n) : (((evenly w n v).take i).map Prod.fst).sum = i * w := by
  rw [List.map_take, evenly_widths, List.take_replicate, Nat.min_eq_left le, List.sum_replicate, smul_eq_mul]

theorem evenly_sum (w n : Nat) (v : Nat → Nat) : ((evenly w n v).map Prod.fst).sum = n * w := by
  rw [evenly_widths, List.sum_replicate, smul_eq_mul]

theorem evenly_get {w n i : Nat} (v : Nat → Nat) (lt : i < n) : (evenly w n v)[i]? = some (w, v i) := by
  rw [evenly, List.getElem?_map, List.getElem?_range lt]
  rfl

theorem evenly_fit {w n : Nat} {v : Nat → Nat} (fit : ∀ i, v i < 2 ^ w) : FieldsFit (evenly w n v) := by
  intro f mem
  obtain ⟨i, -, rfl⟩ := List.mem_map.1 mem
  exact fit i

theorem evenly_succ (w n : Nat) (v : Nat → Nat) : evenly w (n + 1) v = evenly w n v ++ [(w, v n)] := by
  rw [evenly, List.range_succ, List.map_append]
  rfl

theorem foldl_add_eq_packed {w : Nat} {f v : Nat → Nat} (eq : ∀ i, f i = 2 ^ (i * w) * v i) (n : Nat) :
    (List.range n).foldl (fun a i => a + f i) 0 = packed (evenly w n v) := by
  induction n with
  | zero => rfl
  | succ n ih =>
    rw [List.range_succ, List.foldl_append, ih, evenly_succ, packed_append, evenly_sum]
    exact congrArg (packed (evenly w n v) + ·) (eq n)

/-- The bits of the dies that are live, as a number (R424, R428). -/
theorem liveBits_eq (s : State) : (List.range 64).foldl (fun a d => a + if s.dieLive d then 2 ^ d else 0) 0 =
    packed (evenly 1 64 fun d => (s.dieLive d).toNat) := by
  refine foldl_add_eq_packed (fun d => ?_) 64
  rw [Nat.mul_one]
  cases s.dieLive d
  · rfl
  · exact (Nat.mul_one _).symm

theorem getLsbD_liveBits (s : State) {d : Nat} (lt : d < 64) :
    (BitVec.ofNat 64 (packed (evenly 1 64 fun d => (s.dieLive d).toNat))).getLsbD d = s.dieLive d :=
  getLsbD_packed (evenly_fit fun d => (s.dieLive d).toNat_lt) d (evenly_get _ lt) ((evenly_take_sum _ lt.le).trans (Nat.mul_one d)) lt

theorem widthCode_eq (x : Nat) : widthCode x = codeOfWidth x := by
  have low : ∀ x < 17, widthCode x = codeOfWidth x := by decide
  rcases Nat.lt_or_ge x 17 with lt | ge
  · exact low x lt
  · obtain ⟨n, rfl⟩ := Nat.exists_eq_add_of_le' ge
    rfl

theorem codeOfWidth_lt (x : Nat) : codeOfWidth x < 2 ^ 2 := by
  unfold codeOfWidth
  split_ifs <;> decide

/-- The codes of the widths of n links, as a number (R424). -/
theorem widthCodes_eq (x : Nat → Nat) (n : Nat) : (List.range n).foldl (fun a i => a + widthCode (x i) * 4 ^ i) 0 =
    packed (evenly 2 n fun i => codeOfWidth (x i)) :=
  foldl_add_eq_packed (fun i => by rw [widthCode_eq, Nat.mul_comm i, Nat.pow_mul, Nat.mul_comm]) n

theorem bits_widthCodes (x : Nat → Nat) {n i : Nat} (lt : i < n) (le : n ≤ 32) :
    bits (BitVec.ofNat 64 (packed (evenly 2 n fun i => codeOfWidth (x i)))) (2 * i + 1) (2 * i) = codeOfWidth (x i) := by
  refine bits_packed (evenly_fit fun i => codeOfWidth_lt _) i ?_ ?_ ((evenly_take_sum _ lt.le).trans (Nat.mul_comm ..))
  · rw [evenly_sum]
    exact Nat.mul_le_mul_right 2 le
  · rw [Nat.add_sub_cancel_left]
    exact evenly_get (fun i => codeOfWidth (x i)) lt

/-! ## The resync summary -/

theorem mgmt_inj (i j : Nat) (eq : mgmt (0x100 + 8 * i) = mgmt (0x100 + 8 * j)) : i = j :=
  Nat.eq_of_mul_eq_mul_left (by decide) (Nat.add_left_cancel (Nat.add_left_cancel eq))

/-- The place of a word of the summary (R424). -/
def summaryAt (i : Nat) : Nat := mgmt (0x100 + 8 * i)

/-- What a capture leaves (R424). -/
def captured (s : State) : State := { s with captures := s.captures + 1 }

theorem exec_evResync (link : Nat) (w : Word) (s : State) : exec (.evResync link w) s =
    .next (if w ≠ 1#64 then s.discard link (mgmt 0x28)
      else (captured s).summary.zipIdx.foldl (fun t p => t.setCtl (summaryAt p.2) p.1) (captured s)) := rfl

/-- The state after a capture (R424). -/
def resynced (s : State) : State := { captured s with ctl := putWords summaryAt (captured s).summary.zipIdx s.ctl }

theorem resynced_word {s : State} (i : Nat) {x : Word} (is : (captured s).summary[i]? = some x) : (resynced s).ctlReg (summaryAt i) = x := by
  conv_lhs => rw [← Nat.zero_add i]
  exact get_putWords mgmt_inj _ 0 i _ is

theorem resynced_other {s : State} {a : Nat} (far : a < mg 0x100 ∨ mg 0x150 ≤ a) : (resynced s).ctlReg a = s.ctlReg a := by
  refine get_putWords_other (captured s).summary 0 _ fun j _x lt eq => ?_
  have le : summaryAt j < mg 0x150 := Nat.add_lt_add_left (Nat.add_lt_add_left (Nat.mul_lt_mul_of_pos_left lt (by decide)) 0x100) _
  obtain low | high := far
  · exact absurd low (Nat.not_lt.2 (eq ▸ Nat.add_le_add_left (Nat.le_add_right ..) _))
  · exact absurd (eq ▸ le) (Nat.not_lt.2 high)

theorem exec_evResync_one (link : Nat) (s : State) : exec (.evResync link 1) s = .next (resynced s) :=
  (exec_evResync ..).trans (congrArg _ ((if_neg (not_not.2 rfl)).trans (foldl_setCtl ..)))

/-- The counts of errors, each at most 2^32 - 1 (R424). -/
def errorCounts (s : State) : List (Nat × Nat) := [(32, min s.errU (2 ^ 32 - 1)), (32, min s.errC (2 ^ 32 - 1))]

theorem errorCounts_fit (s : State) : FieldsFit (errorCounts s) :=
  have fits (n : Nat) : min n (2 ^ 32 - 1) < 2 ^ 32 := (Nat.min_le_right ..).trans_lt (by decide)
  List.forall_mem_cons.2 ⟨fits _, List.forall_mem_singleton.2 (fits _)⟩

theorem resynced_errors (s : State) : (resynced s).ctlReg (summaryAt 9) = BitVec.ofNat 64 (packed (errorCounts s)) :=
  (resynced_word 9 rfl).trans (congrArg _ ((Nat.add_comm ..).trans (congrArg _ (Nat.mul_comm ..))))

theorem resynced_dies (s : State) {d : Nat} (lt : d < 64) : ((resynced s).ctlReg (summaryAt 4)).getLsbD d = s.dieLive d := by
  rw [resynced_word 4 rfl]
  exact (congrArg (fun n => (BitVec.ofNat 64 n).getLsbD d) (liveBits_eq s)).trans (getLsbD_liveBits s lt)

theorem resynced_links (s : State) : (resynced s).ctlReg (summaryAt 5) = BitVec.ofNat 64 (packed (evenly 2 32 fun l => codeOfWidth (s.link l).lanes)) :=
  (resynced_word 5 rfl).trans (congrArg _ (widthCodes_eq ..))

theorem resynced_ports (s : State) : (resynced s).ctlReg (summaryAt 6) = BitVec.ofNat 64 (packed (evenly 2 8 fun p => codeOfWidth (SMap.get s.ports 0 p))) :=
  (resynced_word 6 rfl).trans (congrArg _ (widthCodes_eq ..))

theorem bits_above {x hi lo : Nat} (lt : x < 2 ^ lo) : bits (BitVec.ofNat 64 x) hi lo = 0 := by
  have low : x % 2 ^ 64 / 2 ^ lo = 0 := Nat.div_eq_of_lt ((Nat.mod_le ..).trans_lt lt)
  rw [bits, BitVec.toNat_ofNat, Nat.shiftRight_eq_div_pow, low]
  exact Nat.zero_mod _

/-! ## Attestation -/

/-- The place of a word of the nonce (R419). -/
def nonceAt (i : Nat) : Nat := mgmt (0x2_0000 + 8 * i)

theorem nonceAt_inj (i j : Nat) (eq : nonceAt i = nonceAt j) : i = j :=
  Nat.eq_of_mul_eq_mul_left (by decide) (Nat.add_left_cancel (Nat.add_left_cancel eq))

/-- The state after a request for a report (R427). -/
def requested (s : State) (nonce : List Word) : State :=
  { s with ctl := putWords nonceAt nonce.zipIdx s.ctl, attq := s.attq ++ [nonce] }

theorem exec_evAttestationRequest (s : State) {nonce : List Word} (eight : nonce.length = 8) :
    exec (.evAttestationRequest nonce) s = .next (requested s nonce) :=
  congrArg (Host.Outcome.next ·) ((if_pos eight).trans (congrArg (fun t : State => { t with attq := s.attq ++ [nonce] }) (foldl_setCtl nonceAt ..)))

theorem toNat_mod_bytes {n : Nat} (v : BitVec (8 * n)) : v.toNat % 256 ^ n = v.toNat :=
  Nat.mod_eq_of_lt (v.isLt.trans_eq (Nat.pow_mul 2 8 n))

theorem numAt_flatten {segs : List (List Byte)} {k n v i : Nat} (is : segs[k]? = some (leBytes n v))
    (place : ((segs.take k).map List.length).sum = i) (rest : List Byte) : numAt (segs.flatten ++ rest) i n = v % 256 ^ n := by
  have at_ : i = (segs.take k).flatten.length := by rw [List.length_flatten, place]
  have cut : segs.flatten ++ rest = (segs.take k).flatten ++ (leBytes n v ++ ((segs.drop (k + 1)).flatten ++ rest)) := by
    obtain ⟨lt, get⟩ := List.getElem?_eq_some_iff.1 is
    conv_lhs => rw [← List.take_append_drop k segs, List.drop_eq_getElem_cons lt, get]
    rw [List.flatten_append, List.flatten_cons, List.append_assoc, List.append_assoc]
  rw [numAt, cut, at_, List.drop_left, List.take_left' (leBytes_length n v)]
  exact leNat_leBytes n v

/-- The parts of a report, before its signature, in their order (R428). -/
def reportParts (s : State) (nonce : List Word) : List (List Byte) :=
  nonce.map (fun w => leBytes 8 w.toNat) ++ [leBytes 64 s.booted.sha.toNat, leBytes 64 s.bootedMc.sha.toNat, fused 0xC0 32,
    leBytes 8 s.booted.version, leBytes 8 ((List.range 64).foldl (fun a d => a + if s.dieLive d then 2 ^ d else 0) 0),
    leBytes 8 (s.ctlReg pmodeAddr).toNat, leBytes 8 s.ownerReg.toNat, fused 0x100 2592]

theorem foldl_append_eq (a : List Byte) (l : List (List Byte)) : l.foldl (· ++ ·) a = a ++ l.flatten := by
  induction l generalizing a with
  | nil => exact (List.append_nil a).symm
  | cons x l ih => exact (ih _).trans (List.append_assoc ..)

theorem reportBody_eq (s : State) (nonce : List Word) : s.reportBody nonce = (reportParts s nonce).flatten := by
  rw [reportParts, List.flatten_append, ← foldl_append_eq, ← List.flatMap_def]
  rfl

theorem reportParts_lengths (s : State) {nonce : List Word} (eight : nonce.length = 8) :
    (reportParts s nonce).map List.length = List.replicate 8 8 ++ [64, 64, 32, 8, 8, 8, 8, 2592] := by
  have nonces : (nonce.map (fun w => leBytes 8 w.toNat)).map List.length = List.replicate 8 8 :=
    (List.map_map ..).trans ((List.map_const ..).trans (congrArg (List.replicate · 8) eight))
  have fusedLength (a n : Nat) : (fused a n).length = n := (List.length_map _).trans List.length_range
  rw [reportParts, List.map_append, nonces]
  iterate 8 rw [List.map_cons]
  rw [fusedLength, fusedLength]
  rfl

section
variable {s : State} {nonce : List Word} (eight : nonce.length = 8)
include eight

theorem numAt_report (k : Nat) {n v i : Nat} (is : (reportParts s nonce)[k]? = some (leBytes n v))
    (place : ((List.replicate 8 8 ++ [64, 64, 32, 8, 8, 8, 8, 2592]).take k).sum = i) : numAt (s.report nonce) i n = v % 256 ^ n := by
  rw [State.report, reportBody_eq]
  refine numAt_flatten is ?_ _
  rw [List.map_take, reportParts_lengths s eight, place]

/-- A part after the nonce. -/
theorem numAt_report_fixed (k : Nat) {n v i : Nat} (is : (reportParts s [])[k]? = some (leBytes n v))
    (place : ((List.replicate 8 8 ++ [64, 64, 32, 8, 8, 8, 8, 2592]).take (8 + k)).sum = i) : numAt (s.report nonce) i n = v % 256 ^ n := by
  refine numAt_report eight (8 + k) ?_ place
  have long : (nonce.map (fun w => leBytes 8 w.toNat)).length = 8 := (List.length_map _).trans eight
  rw [reportParts, List.getElem?_append_right (by rw [long]; exact Nat.le_add_right ..), long, Nat.add_sub_cancel_left]
  exact is

theorem numAt_report_nonce {i : Nat} {w : Word} (is : nonce[i]? = some w) : numAt (s.report nonce) (8 * i) 8 = w.toNat := by
  have lt : i < 8 := eight ▸ (List.getElem?_eq_some_iff.1 is).1
  have place : ∀ i < 8, ((List.replicate 8 8 ++ [64, 64, 32, 8, 8, 8, 8, 2592]).take i).sum = 8 * i := by decide
  refine (numAt_report eight i ?_ (place i lt)).trans (Nat.mod_eq_of_lt w.isLt)
  rw [reportParts, List.getElem?_append_left (by rwa [List.length_map, eight]), List.getElem?_map, is]
  rfl

theorem reportBody_length : (s.reportBody nonce).length = 0x100 + 2592 := by
  rw [reportBody_eq, List.length_flatten, reportParts_lengths s eight]
  rfl

end

/-- The report that a request for one leaves (R427). -/
def reported (s : State) (nonce : List Word) (rest : List (List Word)) : State := { s with attq := rest, attrep := s.report nonce }

theorem exec_evAttestationReportReady_of_empty {s : State} (none : s.attq = []) : exec .evAttestationReportReady s = .next s := by
  rw [show exec .evAttestationReportReady s = execEvAttestationReportReady s from rfl, execEvAttestationReportReady, none]

theorem exec_evAttestationReportReady {s : State} {nonce : List Word} {rest : List (List Word)} (is : s.attq = nonce :: rest) :
    exec .evAttestationReportReady s = .next (reported s nonce rest) := by
  rw [show exec .evAttestationReportReady s = execEvAttestationReportReady s from rfl, execEvAttestationReportReady, is]
  rfl

theorem report_signature {s : State} {nonce : List Word} (eight : nonce.length = 8) {i : Nat} (lt : i < 4627) :
    (s.report nonce)[0x100 + 2592 + i]? = some (Config.sign ((s.report nonce).take (0x100 + 2592)) i) := by
  have long := reportBody_length (s := s) eight
  rw [State.report, List.take_left' long, List.getElem?_append_right (by rw [long]; exact Nat.le_add_right ..), long,
    Nat.add_sub_cancel_left, List.getElem?_map, List.getElem?_range lt]
  rfl

theorem report_length {s : State} {nonce : List Word} (eight : nonce.length = 8) : (s.report nonce).length = 0x100 + 2592 + 4627 := by
  rw [State.report, List.length_append, reportBody_length eight, List.length_map, List.length_range]

theorem report_dies {s : State} {nonce : List Word} (eight : nonce.length = 8) {d : Nat} (lt : d < 64) :
    (BitVec.ofNat 64 (numAt (s.report nonce) 0xE8 8)).getLsbD d = s.dieLive d := by
  have at_ : numAt (s.report nonce) 0xE8 8 = _ := numAt_report_fixed eight 4 rfl rfl
  rw [at_, liveBits_eq, Nat.mod_eq_of_lt]
  · exact getLsbD_liveBits s lt
  · refine (packed_lt (evenly_fit fun d => (s.dieLive d).toNat_lt)).trans_eq ?_
    rw [evenly_sum]
    rfl

/-! ## The failure of a die -/

theorem logEvent_logged_word (s : State) (type source : Nat) (a detail : Word) :
    Logged s (s.logEvent type source a detail) type source a.toNat detail := by
  have at_ := logEvent_logged s type source a.toNat detail
  rwa [BitVec.ofNat_toNat, BitVec.setWidth_eq] at at_

/-- A failed die or switch die serves the die (R425). -/
def Serves (x d : Nat) : Prop := d < 64 ∧ (d = x ∨ 64 ≤ x ∧ x < 80 ∧ leafOf d = x - 64 ∨ 80 ≤ x ∧ x < 84)

theorem mem_diesUnder {x d : Nat} : d ∈ diesUnder x ↔ d < 64 ∧ (d = x ∨ 64 ≤ x ∧ x < 80 ∧ leafOf d = x - 64) := by
  rcases Nat.lt_or_ge x 64 with die | above
  · rw [diesUnder, if_pos die, List.mem_singleton]
    exact ⟨fun eq => ⟨eq ▸ die, .inl eq⟩, fun h => h.2.resolve_right fun k => Nat.not_lt.2 k.1 die⟩
  · rw [diesUnder, if_neg (Nat.not_lt.2 above)]
    have no {d : Nat} (lt : d < 64) : d ≠ x := (lt.trans_le above).ne
    rcases Nat.lt_or_ge x 80 with leaf | beyond
    · rw [if_pos leaf, List.mem_filter, List.mem_range, beq_iff_eq]
      exact and_congr_right fun lt => ⟨fun eq => .inr ⟨above, leaf, (Nat.sub_eq_of_eq_add (eq ▸ Nat.add_comm ..)).symm⟩,
        fun h => (h.resolve_left (no lt)).2.2 ▸ Nat.add_sub_cancel' above⟩
    · rw [if_neg (Nat.not_lt.2 beyond)]
      exact ⟨fun mem => absurd mem List.not_mem_nil, fun h => (h.2.elim (no h.1) fun k => Nat.not_lt.2 beyond k.2.1).elim⟩

theorem mem_diesServed {x d : Nat} : d ∈ diesServed x ↔ Serves x d := by
  by_cases spine : 80 ≤ x ∧ x < 84
  · rw [diesServed, if_pos spine, List.mem_range]
    exact ⟨fun lt => ⟨lt, .inr (.inr spine)⟩, And.left⟩
  · rw [diesServed, if_neg spine, mem_diesUnder]
    exact and_congr_right fun _x => or_congr_right (or_iff_left spine).symm

/-- The launch has a core on a die that the failed one serves, or its device a home line there (R425). -/
def Hit (s : State) (x : Nat) (l : Launch) : Prop :=
  (∃ c ∈ l.chor, Serves x (c / 32)) ∨ ∃ j < 64, j < (s.diesOf l.dev).length ∧
    (Serves x (bits (s.ctlReg (hashBlock l.dev + 0x100 + 8 * j)) 5 0) ∨ (s.ctlReg (hashBlock l.dev + 0x100 + 8 * j)).getLsbD 16 = true ∧
      Serves x (bits (s.ctlReg (hashBlock l.dev + 0x100 + 8 * j)) 13 8))

theorem touches_iff {s : State} {l : Launch} {x : Nat} : s.touches l (diesServed x) = true ↔ Hit s x l := by
  have served {d : Nat} : (diesServed x).contains d = true ↔ Serves x d := List.contains_iff_mem.trans mem_diesServed
  unfold State.touches Hit
  simp only [Bool.or_eq_true, List.any_eq_true, served, Bool.and_eq_true, decide_eq_true_eq, List.mem_range]

/-- What a failure makes of a launch (R425). -/
def failedLaunch (s : State) (x : Nat) (l : Launch) : Launch :=
  if s.touches l (diesServed x) then { l with torn := true, stops := [] } else l

/-- The failure of a die, before its record. -/
def dieFailed (s : State) (x : Nat) : State := { s with failed := s.failed ++ [x], launches := s.launches.map (failedLaunch s x) }

theorem exec_evDieFailure (x : Nat) (s : State) : exec (.evDieFailure x) s =
    .next (if (84 ≤ x ∧ x < 96) ∨ 104 ≤ x then s else (dieFailed s x).logEvent 11 x 0 0) := rfl

theorem unknown_iff {x : Nat} : (84 ≤ x ∧ x < 96) ∨ 104 ≤ x ↔ ¬(x < 84 ∨ 96 ≤ x ∧ x < 104) := by
  rw [not_or, Nat.not_lt, not_and_or, Nat.not_le, Nat.not_lt, and_or_left, and_iff_right_of_imp (a := 84 ≤ x) (b := 104 ≤ x)]
  exact Nat.le_trans (by decide)

theorem uncorrectable_poison (s : State) (g k : Nat) : SMap.get (SMap.put s.poison g true) false k = if k = g then true else SMap.get s.poison false k :=
  (get_put (m := s.poison) ..).trans (if_congr eq_comm rfl rfl)

theorem failed_launch {s : State} {x i : Nat} {l : Launch} (is : s.launches[i]? = some l) :
    (dieFailed s x).launches[i]? = some (failedLaunch s x l) :=
  (List.getElem?_map ..).trans (congrArg (Option.map _) is)

/-- Settles O50: the words of a summary and the parts of a report read back where they were put, and a launch is torn down just when a
die that the failed one serves has a core of it or a home line of its device. -/
theorem summariesReportsAndErrors : Obligations.SummariesReportsAndErrors := by
  refine ⟨?summary, ?request, ?ready, fun source a s => leads_of_eq rfl ⟨_, rfl, logEvent_logged_word ..⟩,
    fun source loc s => leads_of_eq rfl ⟨_, rfl, uncorrectable_poison s (loc / 8), logEvent_logged ..⟩, ?failure⟩
  case summary =>
    exact fun link w s => ⟨fun no => leads_of_eq ((exec_evResync ..).trans (congrArg _ (if_pos no))) (logEvent_logged ..),
      fun one => leads_of_eq ((congrArg (fun w => exec (.evResync link w) s) one).trans (exec_evResync_one ..))
        ⟨rfl, fun a far => resynced_other far, resynced_word 0 rfl, resynced_word 1 rfl, resynced_word 2 rfl, resynced_word 3 rfl,
        fun d lt => resynced_dies s lt,
        fun l lt => (congrArg (bits · _ _) (resynced_links s)).trans (bits_widthCodes _ lt (Nat.le_refl 32)),
        fun p lt => (congrArg (bits · _ _) (resynced_ports s)).trans (bits_widthCodes _ lt (by decide)),
        (congrArg (bits · _ _) (resynced_ports s)).trans
          (bits_above ((packed_lt (evenly_fit fun i => codeOfWidth_lt _)).trans_eq (congrArg (2 ^ ·) (evenly_sum ..)))),
        resynced_word 7 rfl, resynced_word 8 rfl,
        (congrArg (bits · _ _) (resynced_errors s)).trans (bits_packed (errorCounts_fit s) 1 (Nat.le_refl 64) rfl rfl),
        (congrArg (bits · _ _) (resynced_errors s)).trans (bits_packed (errorCounts_fit s) 0 (Nat.le_refl 64) rfl rfl)⟩⟩
  case request =>
    exact fun nonce s eight => leads_of_eq (exec_evAttestationRequest s eight) ⟨rfl, fun i w is =>
      (congrArg (fun j => SMap.get (putWords nonceAt nonce.zipIdx s.ctl) _ (nonceAt j)) (Nat.zero_add i)).symm.trans
        (get_putWords nonceAt_inj nonce 0 i _ is)⟩
  case ready =>
    exact fun s => ⟨fun none => leads_of_eq (exec_evAttestationReportReady_of_empty none) rfl, fun nonce rest is eight =>
      leads_of_eq (exec_evAttestationReportReady is) ⟨rfl, report_length eight, fun i w is => numAt_report_nonce eight is,
      (numAt_report_fixed eight 0 rfl rfl).trans (toNat_mod_bytes (n := 64) _),
      (numAt_report_fixed eight 1 rfl rfl).trans (toNat_mod_bytes (n := 64) _), numAt_report_fixed eight 3 rfl rfl,
      fun d lt => report_dies eight lt, (numAt_report_fixed eight 5 rfl rfl).trans (toNat_mod_bytes (n := 8) _),
      (numAt_report_fixed eight 6 rfl rfl).trans (toNat_mod_bytes (n := 8) _), fun i lt => report_signature eight lt⟩⟩
  case failure =>
    exact fun x s => ⟨fun unknown => leads_of_eq ((exec_evDieFailure ..).trans (congrArg _ (if_pos (unknown_iff.2 unknown)))) rfl,
      fun known => leads_of_eq ((exec_evDieFailure ..).trans (congrArg _ (if_neg (mt unknown_iff.1 (not_not.2 known)))))
        ⟨dieFailed s x, logEvent_logged .., rfl, List.length_map _, fun i l is =>
        ⟨fun hit => (failed_launch is).trans (congrArg some (if_pos (touches_iff.2 hit))),
        fun miss => (failed_launch is).trans (congrArg some (if_neg (mt touches_iff.1 miss)))⟩⟩⟩

end Sys2Proof.Proofs
end

section
/-! Scalar integer operations (R196 .. R200), multiply-high, division and remainder (R206). -/

namespace Sys2Proof.Proofs

open Sys2Proof.Machine Sys2Proof.Safety Sys2Proof.Laws

/-! ## Values -/

section
variable (a b : Word)

theorem toNat_sub_add : ((a - b).toNat + b.toNat) % 2 ^ 64 = a.toNat :=
  (BitVec.toNat_add ..).symm.trans (congrArg BitVec.toNat (BitVec.sub_add_cancel a b))

theorem getLsbD_andn {j : Nat} (low : j < 64) : (a &&& ~~~b).getLsbD j = (a.getLsbD j && !b.getLsbD j) := by
  rw [BitVec.getLsbD_and, BitVec.getLsbD_not, decide_eq_true low, Bool.true_and]

theorem toNat_shiftLeft_eq (n : Nat) : (a <<< n).toNat = a.toNat * 2 ^ n % 2 ^ 64 := by
  rw [BitVec.toNat_shiftLeft, Nat.shiftLeft_eq]

theorem toNat_ushiftRight_eq (n : Nat) : (a >>> n).toNat = a.toNat / 2 ^ n := by
  rw [BitVec.toNat_ushiftRight, Nat.shiftRight_eq_div_pow]

theorem toInt_sra (n : Nat) : (a.sshiftRight n).toInt = a.toInt / 2 ^ n := by
  rw [BitVec.toInt_sshiftRight, Int.shiftRight_eq_div_pow]
  norm_cast

/-- Bit j goes to the place r further round. -/
theorem getLsbD_rotateLeft_add {r j : Nat} (hr : r < 64) (hj : j < 64) : (a.rotateLeft r).getLsbD ((j + r) % 64) = a.getLsbD j := by
  rw [BitVec.getLsbD_rotateLeft, Nat.mod_eq_of_lt hr]
  rcases Nat.lt_or_ge (j + r) 64 with stays | wraps
  · rw [Nat.mod_eq_of_lt stays, decide_eq_false (Nat.not_lt.2 (Nat.le_add_left r j)), cond_false, decide_eq_true stays, Nat.add_sub_cancel,
      Bool.true_and]
  · obtain ⟨m, sum⟩ := Nat.exists_eq_add_of_le wraps
    have low : m < r := Nat.lt_of_add_lt_add_left (sum ▸ Nat.add_lt_add_right hj r)
    have back : 64 - r + m = j := by
      rw [← Nat.sub_add_comm hr.le, ← sum, Nat.add_sub_cancel]
    rw [sum, Nat.add_mod_left, Nat.mod_eq_of_lt (low.trans hr), decide_eq_true low, cond_true, back]

theorem toInt_minS : (minS a b).toInt = Min.min a.toInt b.toInt := by
  by_cases lt : a.slt b = true
  · rw [minS, if_pos lt, min_eq_left (BitVec.slt_iff_toInt_lt.1 lt).le]
  · rw [minS, if_neg lt, min_eq_right (not_lt.1 (mt BitVec.slt_iff_toInt_lt.2 lt))]

theorem toInt_maxS : (maxS a b).toInt = Max.max a.toInt b.toInt := by
  by_cases lt : a.slt b = true
  · rw [maxS, if_pos lt, max_eq_right (BitVec.slt_iff_toInt_lt.1 lt).le]
  · rw [maxS, if_neg lt, max_eq_left (not_lt.1 (mt BitVec.slt_iff_toInt_lt.2 lt))]

theorem toNat_minU : (minU a b).toNat = Min.min a.toNat b.toNat := by
  by_cases lt : a.ult b = true
  · rw [minU, if_pos lt, min_eq_left (BitVec.ult_iff_toNat_lt.1 lt).le]
  · rw [minU, if_neg lt, min_eq_right (not_lt.1 (mt BitVec.ult_iff_toNat_lt.2 lt))]

theorem toNat_maxU : (maxU a b).toNat = Max.max a.toNat b.toNat := by
  by_cases lt : a.ult b = true
  · rw [maxU, if_pos lt, max_eq_right (BitVec.ult_iff_toNat_lt.1 lt).le]
  · rw [maxU, if_neg lt, max_eq_left (not_lt.1 (mt BitVec.ult_iff_toNat_lt.2 lt))]

theorem not_slt_iff : (!a.slt b) = true ↔ a.toInt ≥ b.toInt := by
  rw [Bool.not_eq_true', ← Bool.not_eq_true, BitVec.slt_iff_toInt_lt, not_lt]

theorem not_ult_iff : (!a.ult b) = true ↔ a.toNat ≥ b.toNat := by
  rw [Bool.not_eq_true', ← Bool.not_eq_true, BitVec.ult_iff_toNat_lt, not_lt]

theorem and_ne_zero_iff : ((a &&& b) != 0#64) = true ↔ ∃ j, a.getLsbD j = true ∧ b.getLsbD j = true := by
  have bit (j : Nat) : (a &&& b).getLsbD j = true ↔ a.getLsbD j = true ∧ b.getLsbD j = true := by
    rw [BitVec.getLsbD_and, Bool.and_eq_true]
  rw [bne_iff_ne]
  constructor
  · intro nonzero
    by_contra none
    refine nonzero (BitVec.eq_of_getLsbD_eq fun j _x => ?_)
    rw [BitVec.getLsbD_zero, ← Bool.not_eq_true, bit]
    exact fun both => none ⟨j, both⟩
  · rintro ⟨j, both⟩ zero
    have one := (bit j).2 both
    rw [zero, BitVec.getLsbD_zero] at one
    exact absurd one Bool.false_ne_true

/-! ## Counts and reversals (R198) -/

/-- The number below the leading zeros, and its bounds. -/
theorem leadingZeros_spec (n : Nat) (small : a.toNat < 2 ^ n) :
    ∃ m, leadingZeros a n + m = n ∧ a.toNat < 2 ^ m ∧ ∀ k, m = k + 1 → 2 ^ k ≤ a.toNat := by
  induction n with
  | zero => exact ⟨0, rfl, small, fun k is => absurd is (Nat.succ_ne_zero k).symm⟩
  | succ n ih =>
    by_cases bit : a.getLsbD n = true
    · exact ⟨n + 1, (congrArg (· + (n + 1)) (if_pos bit)).trans (Nat.zero_add _), small,
        fun k is => Nat.succ.inj is ▸ Nat.ge_two_pow_of_testBit bit⟩
    · have low : a.toNat < 2 ^ n := Nat.lt_pow_two_of_testBit _ fun i ge => ge.lt_or_eq.elim
        (fun above => Nat.testBit_lt_two_pow (small.trans_le (Nat.pow_le_pow_right Nat.two_pos above)))
        (fun eq => eq ▸ Bool.eq_false_of_not_eq_true bit)
      exact (ih low).imp fun m is => ⟨(congrArg (· + m) (if_neg bit)).trans
        ((Nat.add_assoc ..).trans ((congrArg (1 + ·) is.1).trans (Nat.add_comm ..))), is.2⟩

theorem trailingZeros_spec (n i : Nat) :
    trailingZeros a i n ≤ n ∧ (∀ j < trailingZeros a i n, a.getLsbD (i + j) = false) ∧
      (trailingZeros a i n < n → a.getLsbD (i + trailingZeros a i n) = true) := by
  induction n generalizing i with
  | zero => exact ⟨Nat.le_refl 0, fun j lt => absurd lt (Nat.not_lt_zero j), fun lt => absurd lt (Nat.lt_irrefl 0)⟩
  | succ n ih =>
    by_cases bit : a.getLsbD i = true
    · have zero : trailingZeros a i (n + 1) = 0 := if_pos bit
      rw [zero]
      exact ⟨Nat.zero_le _, fun j lt => absurd lt (Nat.not_lt_zero j), fun _lt => bit⟩
    · have next : trailingZeros a i (n + 1) = trailingZeros a (i + 1) n + 1 := (if_neg bit).trans (Nat.add_comm ..)
      rw [next]
      refine ⟨Nat.succ_le_succ (ih _).1, fun j lt => ?_, fun lt => (Nat.succ_add_eq_add_succ i _).symm ▸ (ih _).2.2 (Nat.lt_of_succ_lt_succ lt)⟩
      cases j with
      | zero => exact Bool.eq_false_of_not_eq_true bit
      | succ j => exact (Nat.succ_add_eq_add_succ i j).symm ▸ (ih _).2.1 j (Nat.lt_of_succ_lt_succ lt)

theorem onesBelow_eq (n : Nat) : onesBelow a n = ((List.range n).filter (fun j => a.getLsbD j)).length := by
  induction n with
  | zero => rfl
  | succ n ih =>
    rw [List.range_succ, List.filter_append, List.length_append, ← ih, List.filter_singleton]
    refine (Nat.add_comm ..).trans (congrArg (onesBelow a n + ·) ?_)
    cases a.getLsbD n <;> rfl

theorem onesBelow_le (n : Nat) : onesBelow a n ≤ n := by
  rw [onesBelow_eq]
  exact (List.length_filter_le ..).trans_eq List.length_range

theorem toNat_ofNat_of_le {n : Nat} (le : n ≤ 64) : (BitVec.ofNat 64 n).toNat = n :=
  (BitVec.toNat_ofNat ..).trans (Nat.mod_eq_of_lt (le.trans_lt (by decide)))

theorem getLsbD_sext {w j : Nat} (hw : 0 < w) (hj : j < 64) :
    ((a.setWidth w).signExtend 64).getLsbD j = a.getLsbD (if j < w then j else w - 1) := by
  rw [BitVec.getLsbD_signExtend, decide_eq_true hj, Bool.true_and, BitVec.msb_eq_getLsbD_last, BitVec.getLsbD_setWidth,
    BitVec.getLsbD_setWidth, decide_eq_true (Nat.sub_lt hw Nat.one_pos), Bool.true_and, apply_ite a.getLsbD]
  exact ite_congr rfl (fun lt => by rw [decide_eq_true lt, Bool.true_and]) fun _x => rfl

theorem toNat_zext {w : Nat} (hw : w ≤ 64) : ((a.setWidth w).setWidth 64).toNat = a.toNat % 2 ^ w := by
  rw [BitVec.toNat_setWidth, BitVec.toNat_setWidth]
  exact Nat.mod_eq_of_lt ((Nat.mod_lt _ (Nat.two_pow_pos w)).trans_le (Nat.pow_le_pow_right (by decide) hw))

theorem getLsbD_brev {j : Nat} (hj : j < 64) : (bitReverse a).getLsbD j = a.getLsbD (63 - j) := by
  rw [bitReverse, BitVec.getLsbD_reverse, BitVec.getMsbD_eq_getLsbD, decide_eq_true hj, Bool.true_and]

/-- A byte of the low part. -/
theorem extract_append_low {v w i : Nat} {x : BitVec v} {y : BitVec w} {z : BitVec 8} (le : i + 8 ≤ w) (is : y.extractLsb' i 8 = z) :
    (x ++ y).extractLsb' i 8 = z := (BitVec.extractLsb'_append_eq_of_add_le le).trans is

theorem extract_bswap : ∀ j < 8, (byteReverse a).extractLsb' (8 * j) 8 = a.extractLsb' (8 * (7 - j)) 8 := by
  iterate 8 refine Nat.forall_lt_succ_right.2 ⟨?_, ?_⟩
  · exact nofun
  · exact extract_append_low (by decide) (extract_append_low (by decide) (extract_append_low (by decide)
      (extract_append_low (by decide) (extract_append_low (by decide) (extract_append_low (by decide)
      (extract_append_low (by decide) BitVec.extractLsb'_eq_self))))))
  · exact extract_append_low (by decide) (extract_append_low (by decide) (extract_append_low (by decide)
      (extract_append_low (by decide) (extract_append_low (by decide) (extract_append_low (by decide) BitVec.extractLsb'_append_eq_left)))))
  · exact extract_append_low (by decide) (extract_append_low (by decide) (extract_append_low (by decide)
      (extract_append_low (by decide) (extract_append_low (by decide) BitVec.extractLsb'_append_eq_left))))
  · exact extract_append_low (by decide) (extract_append_low (by decide) (extract_append_low (by decide)
      (extract_append_low (by decide) BitVec.extractLsb'_append_eq_left)))
  · exact extract_append_low (by decide) (extract_append_low (by decide) (extract_append_low (by decide) BitVec.extractLsb'_append_eq_left))
  · exact extract_append_low (by decide) (extract_append_low (by decide) BitVec.extractLsb'_append_eq_left)
  · exact extract_append_low (by decide) BitVec.extractLsb'_append_eq_left
  · exact BitVec.extractLsb'_append_eq_left

/-! ## Products, quotients, remainders (R206) -/

theorem mulHighS_spec : ∃ lo : Nat, lo < 2 ^ 64 ∧ a.toInt * b.toInt = (mulHighS a b).toInt * 2 ^ 64 + lo := by
  have low : -2 ^ 62 ≤ a.toInt * b.toInt / 2 ^ 64 := Int.le_ediv_of_mul_le (by decide) BitVec.le_toInt_mul_toInt
  have high : a.toInt * b.toInt / 2 ^ 64 < 2 ^ 63 := Int.ediv_lt_of_lt_mul (by decide) (BitVec.toInt_mul_toInt_le.trans_lt (by decide))
  have rest : 0 ≤ a.toInt * b.toInt % 2 ^ 64 := Int.emod_nonneg _ (by decide)
  refine ⟨(a.toInt * b.toInt % 2 ^ 64).toNat, (Int.toNat_lt rest).2 (Int.emod_lt_of_pos _ (by decide)), ?_⟩
  rw [mulHighS, BitVec.toInt_ofInt, Int.bmod_eq_of_le (le_trans (by decide) low) (high.trans_le (by decide)), Int.toNat_of_nonneg rest]
  exact (Int.ediv_mul_add_emod ..).symm

theorem mulHighU_spec : ∃ lo : Nat, lo < 2 ^ 64 ∧ a.toNat * b.toNat = (mulHighU a b).toNat * 2 ^ 64 + lo := by
  have small : a.toNat * b.toNat / 2 ^ 64 < 2 ^ 64 :=
    Nat.div_lt_of_lt_mul (Nat.mul_lt_mul'' a.isLt b.isLt)
  refine ⟨a.toNat * b.toNat % 2 ^ 64, Nat.mod_lt _ (by decide), ?_⟩
  rw [mulHighU, BitVec.toNat_ofNat, Nat.mod_eq_of_lt small]
  exact (Nat.div_add_mod' ..).symm

theorem tmod_sign (m n : Int) : m.tmod n = 0 ∨ (m.tmod n < 0 ↔ m < 0) := by
  rcases lt_or_ge m 0 with neg | nonneg
  · have flipped := Int.tmod_nonneg n (Int.neg_nonneg_of_nonpos neg.le)
    rw [Int.neg_tmod] at flipped
    exact (Int.neg_nonneg.1 flipped).eq_or_lt.imp_right fun lt => ⟨fun _x => neg, fun _x => lt⟩
  · exact .inr ⟨fun lt => absurd lt (not_lt.2 (Int.tmod_nonneg n nonneg)), fun lt => absurd lt (not_lt.2 nonneg)⟩

section
variable {b} (nonzero : b ≠ 0#64)
include nonzero

theorem truncDiv_tdiv_tmod : TruncDiv a.toInt b.toInt (a.toInt.tdiv b.toInt) (a.toInt.tmod b.toInt) := by
  refine ⟨(Int.mul_tdiv_add_tmod ..).symm, ?_, tmod_sign ..⟩
  rw [Int.natAbs_tmod]
  exact Nat.mod_lt _ (Int.natAbs_pos.mpr fun zero => nonzero (BitVec.eq_of_toInt_eq zero))

theorem toNat_pos_of_ne_zero : 0 < b.toNat := Nat.pos_of_ne_zero fun zero => nonzero (BitVec.eq_of_toNat_eq zero)

theorem toInt_divS (inRange : ¬(a.toInt = -(2 ^ 63) ∧ b.toInt = -1)) : (divS a b).toInt = a.toInt.tdiv b.toInt := by
  rw [divS, if_neg nonzero, BitVec.toInt_ofInt, ← BitVec.toInt_sdiv]
  refine BitVec.toInt_sdiv_of_ne_or_ne _ _ (not_and_or.1 fun both => inRange ⟨?_, ?_⟩)
  · rw [both.1]
    rfl
  · rw [both.2]
    rfl

theorem toInt_remS : (remS a b).toInt = a.toInt.tmod b.toInt := by
  rw [remS, if_neg nonzero, ← BitVec.toInt_srem, BitVec.ofInt_toInt]

end

theorem divS_spec :
    (b = 0#64 → (divS a b).toNat = 2 ^ 64 - 1) ∧
    (b ≠ 0#64 → a.toInt = -(2 ^ 63) → b.toInt = -1 → (divS a b).toInt = -(2 ^ 63)) ∧
    (b ≠ 0#64 → ¬(a.toInt = -(2 ^ 63) ∧ b.toInt = -1) → ∃ r, TruncDiv a.toInt b.toInt (divS a b).toInt r) := by
  refine ⟨fun zero => ?_, fun nonzero low minus => ?_, fun nonzero inRange => ?_⟩
  · rw [divS, if_pos zero]
    rfl
  · rw [divS, if_neg nonzero, low, minus]
    rfl
  · rw [toInt_divS a nonzero inRange]
    exact ⟨_, truncDiv_tdiv_tmod a nonzero⟩

theorem divU_spec :
    (b = 0#64 → (divU a b).toNat = 2 ^ 64 - 1) ∧
    (b ≠ 0#64 → ∃ r, r < b.toNat ∧ a.toNat = b.toNat * (divU a b).toNat + r) := by
  refine ⟨fun zero => ?_, fun nonzero => ⟨a.toNat % b.toNat, Nat.mod_lt _ (toNat_pos_of_ne_zero nonzero), ?_⟩⟩
  · rw [divU, if_pos zero]
    rfl
  · rw [divU, if_neg nonzero, BitVec.toNat_ofNat, Nat.mod_eq_of_lt ((Nat.div_le_self ..).trans_lt a.isLt)]
    exact (Nat.div_add_mod ..).symm

theorem remS_spec :
    (b = 0#64 → remS a b = a) ∧ (b ≠ 0#64 → ∃ q, TruncDiv a.toInt b.toInt q (remS a b).toInt) := by
  refine ⟨fun zero => if_pos zero, fun nonzero => ⟨a.toInt.tdiv b.toInt, ?_⟩⟩
  rw [toInt_remS a nonzero]
  exact truncDiv_tdiv_tmod a nonzero

theorem remU_spec :
    (b = 0#64 → remU a b = a) ∧ (b ≠ 0#64 → (remU a b).toNat < b.toNat ∧ ∃ q, a.toNat = b.toNat * q + (remU a b).toNat) := by
  refine ⟨fun zero => if_pos zero, fun nonzero => ?_⟩
  have small := Nat.mod_lt a.toNat (toNat_pos_of_ne_zero nonzero)
  rw [remU, if_neg nonzero, BitVec.toNat_ofNat, Nat.mod_eq_of_lt (small.trans b.isLt)]
  exact ⟨small, _, (Nat.div_add_mod ..).symm⟩

end

/-! ## Instructions that write one register -/

/-- What a table says of an instruction: it writes one register with a value that the table allows, and nothing else. -/
def DeliversG (r : Option (Reg × (Word → Prop))) (i : Instr) (s : State) : Prop :=
  ∀ d p, r = some (d, p) → ∃ x, p x ∧ Leads (exec i s) (fun t => WritesG s t d x)

/-- The same of a long-latency instruction. -/
def DeliversLong (r : Option (BitVec 4 × Reg × (Word → Prop))) (i : Instr) (s : State) : Prop :=
  ∀ l d p, r = some (l, d, p) → ∃ x, p x ∧ Ends i s l [.g d x]

section
variable {i : Instr} {s : State}

theorem deliversG_none : DeliversG none i s := fun _d _p is => (Option.some_ne_none _ is.symm).elim

theorem deliversLong_none : DeliversLong none i s := fun _l _d _p is => (Option.some_ne_none _ is.symm).elim

theorem deliversG_some {d : Reg} {p : Word → Prop} {x : Word} (run : exec i s = .next (s.endBase [.g d x])) (allowed : p x) :
    DeliversG (some (d, p)) i s := by
  rintro _ _ ⟨⟩
  exact ⟨x, allowed, leads_of_eq run (endBase_writesG ..)⟩

theorem deliversLong_some {l : BitVec 4} {d : Reg} {p : Word → Prop} {x : Word} (run : exec i s = .next (s.endLong l [.g d x]))
    (allowed : p x) : DeliversLong (some (l, d, p)) i s := by
  rintro _ _ _ ⟨⟩
  exact ⟨x, allowed, ends_of_endLong run⟩

theorem deliversG_ite {c : Prop} [Decidable c] {r : Option (Reg × (Word → Prop))} (holds : c → DeliversG r i s) :
    DeliversG (if c then r else none) i s := by
  split
  · next given => exact holds given
  · exact deliversG_none

theorem clz_delivers (a : Word) : (BitVec.ofNat 64 (leadingZeros a 64)).toNat ≤ 64 ∧
    a.toNat < 2 ^ (64 - (BitVec.ofNat 64 (leadingZeros a 64)).toNat) ∧
    ((BitVec.ofNat 64 (leadingZeros a 64)).toNat < 64 → 2 ^ (63 - (BitVec.ofNat 64 (leadingZeros a 64)).toNat) ≤ a.toNat) := by
  obtain ⟨m, sum, small, large⟩ := leadingZeros_spec a 64 a.isLt
  have le : leadingZeros a 64 ≤ 64 := Nat.le.intro sum
  have below : 64 - leadingZeros a 64 = m := Nat.sub_eq_of_eq_add' sum.symm
  rw [toNat_ofNat_of_le le, below]
  exact ⟨le, small, fun lt => large _ (below.symm.trans (Nat.succ_sub (Nat.le_of_lt_succ lt)))⟩

theorem ctz_delivers (a : Word) : (BitVec.ofNat 64 (trailingZeros a 0 64)).toNat ≤ 64 ∧
    (∀ j < (BitVec.ofNat 64 (trailingZeros a 0 64)).toNat, a.getLsbD j = false) ∧
    ((BitVec.ofNat 64 (trailingZeros a 0 64)).toNat < 64 → a.getLsbD (BitVec.ofNat 64 (trailingZeros a 0 64)).toNat = true) := by
  obtain ⟨le, zeros, one⟩ := trailingZeros_spec a 64 0
  rw [toNat_ofNat_of_le le]
  exact ⟨le, fun j lt => Nat.zero_add j ▸ zeros j lt, fun lt => Nat.zero_add (trailingZeros a 0 64) ▸ one lt⟩

theorem extWidth_le : ∀ w : BitVec 3, w.toNat < 3 → 0 < extWidth w ∧ extWidth w ≤ 64 := by
  decide

/-- What the five tables say of an instruction. -/
def TablesHold (r c u m : Option (Reg × (Word → Prop))) (l : Option (BitVec 4 × Reg × (Word → Prop))) (i : Instr) (s : State) : Prop :=
  DeliversG r i s ∧ DeliversG c i s ∧ DeliversG u i s ∧ DeliversG m i s ∧ DeliversLong l i s

section
variable {r : Option (Reg × (Word → Prop))} (h : DeliversG r i s)
include h

theorem tables_register : TablesHold r none none none none i s := ⟨h, deliversG_none, deliversG_none, deliversG_none, deliversLong_none⟩

theorem tables_comparison : TablesHold none r none none none i s := ⟨deliversG_none, h, deliversG_none, deliversG_none, deliversLong_none⟩

theorem tables_unary : TablesHold none none r none none i s := ⟨deliversG_none, deliversG_none, h, deliversG_none, deliversLong_none⟩

theorem tables_immediate : TablesHold none none none r none i s := ⟨deliversG_none, deliversG_none, deliversG_none, h, deliversLong_none⟩

end

theorem tables_long {l : Option (BitVec 4 × Reg × (Word → Prop))} (h : DeliversLong l i s) : TablesHold none none none none l i s :=
  ⟨deliversG_none, deliversG_none, deliversG_none, deliversG_none, h⟩

theorem tables_none {α : Type} (f : α → Instr) (s : State) (o : α) : TablesHold none none none none none (f o) s := ⟨deliversG_none, deliversG_none, deliversG_none, deliversG_none, deliversLong_none⟩

end

/-- R196 .. R200 and R206. -/
theorem tablesHold (i : Instr) (s : State) : TablesHold (rrSpec i s) (cmpSpec i s) (unarySpec i s) (immSpec i s) (longSpec i s) i s := by
  apply Instr.casesOn (motive := fun i => TablesHold (rrSpec i s) (cmpSpec i s) (unarySpec i s) (immSpec i s) (longSpec i s) i s) i
  case add => exact fun o => tables_register (deliversG_some rfl (BitVec.toNat_add ..))
  case sub => exact fun o => tables_register (deliversG_some rfl (toNat_sub_add ..))
  case and => exact fun o => tables_register (deliversG_some rfl fun j _x => BitVec.getLsbD_and ..)
  case or => exact fun o => tables_register (deliversG_some rfl fun j _x => BitVec.getLsbD_or ..)
  case xor => exact fun o => tables_register (deliversG_some rfl fun j _x => BitVec.getLsbD_xor ..)
  case andn => exact fun o => tables_register (deliversG_some rfl fun j low => getLsbD_andn _ _ low)
  case sll => exact fun o => tables_register (deliversG_some rfl (toNat_shiftLeft_eq ..))
  case srl => exact fun o => tables_register (deliversG_some rfl (toNat_ushiftRight_eq ..))
  case sra => exact fun o => tables_register (deliversG_some rfl (toInt_sra ..))
  case rol => exact fun o => tables_register (deliversG_some rfl fun j low => getLsbD_rotateLeft_add _ (Nat.mod_lt _ (by decide)) low)
  case min => exact fun o => tables_register (deliversG_some rfl (toInt_minS ..))
  case max => exact fun o => tables_register (deliversG_some rfl (toInt_maxS ..))
  case minn => exact fun o => tables_register (deliversG_some rfl (toNat_minU ..))
  case maxn => exact fun o => tables_register (deliversG_some rfl (toNat_maxU ..))
  case mul => exact fun o => tables_register (deliversG_some rfl (BitVec.toNat_mul ..))
  case sel => exact fun o => tables_register (deliversG_some rfl ⟨fun nonzero => if_neg nonzero, fun zero => if_pos zero⟩)
  case cmpEq => exact fun o => tables_comparison (deliversG_some rfl (isFlag_ofBool64 beq_iff_eq))
  case cmpNe => exact fun o => tables_comparison (deliversG_some rfl (isFlag_ofBool64 bne_iff_ne))
  case cmpLt => exact fun o => tables_comparison (deliversG_some rfl (isFlag_ofBool64 BitVec.slt_iff_toInt_lt))
  case cmpGe => exact fun o => tables_comparison (deliversG_some rfl (isFlag_ofBool64 (not_slt_iff ..)))
  case cmpLtn => exact fun o => tables_comparison (deliversG_some rfl (isFlag_ofBool64 BitVec.ult_iff_toNat_lt))
  case cmpGen => exact fun o => tables_comparison (deliversG_some rfl (isFlag_ofBool64 (not_ult_iff ..)))
  case tst => exact fun o => tables_comparison (deliversG_some rfl (isFlag_ofBool64 (and_ne_zero_iff ..)))
  case mov => exact fun o => tables_comparison (deliversG_some rfl rfl)
  case clz => exact fun o => tables_unary (deliversG_some rfl (clz_delivers _))
  case ctz => exact fun o => tables_unary (deliversG_some rfl (ctz_delivers _))
  case popc => exact fun o => tables_unary (deliversG_some rfl ((toNat_ofNat_of_le (onesBelow_le ..)).trans (onesBelow_eq ..)))
  case sext => exact fun o => tables_unary (deliversG_ite fun code => deliversG_some rfl fun j low => getLsbD_sext _ (extWidth_le _ code).1 low)
  case zext => exact fun o => tables_unary (deliversG_ite fun code => deliversG_some rfl (toNat_zext _ (extWidth_le _ code).2))
  case brev => exact fun o => tables_unary (deliversG_some rfl fun j low => getLsbD_brev _ low)
  case bswap => exact fun o => tables_unary (deliversG_some rfl (extract_bswap _))
  case neg => exact fun o => tables_unary (deliversG_some rfl (toNat_sub_add ..))
  case addi => exact fun o => tables_immediate (deliversG_some rfl (BitVec.toNat_add ..))
  case andi => exact fun o => tables_immediate (deliversG_some rfl fun j _x => BitVec.getLsbD_and ..)
  case ori => exact fun o => tables_immediate (deliversG_some rfl fun j _x => BitVec.getLsbD_or ..)
  case xori => exact fun o => tables_immediate (deliversG_some rfl fun j _x => BitVec.getLsbD_xor ..)
  case slli => exact fun o => tables_immediate (deliversG_some rfl (toNat_shiftLeft_eq ..))
  case srli => exact fun o => tables_immediate (deliversG_some rfl (toNat_ushiftRight_eq ..))
  case srai => exact fun o => tables_immediate (deliversG_some rfl (toInt_sra ..))
  case li => exact fun o => tables_immediate (deliversG_some rfl rfl)
  case mulh => exact fun o => tables_long (deliversLong_some rfl (mulHighS_spec ..))
  case mulhn => exact fun o => tables_long (deliversLong_some rfl (mulHighU_spec ..))
  case div => exact fun o => tables_long (deliversLong_some rfl (divS_spec ..))
  case divn => exact fun o => tables_long (deliversLong_some rfl (divU_spec ..))
  case rem => exact fun o => tables_long (deliversLong_some rfl (remS_spec ..))
  case remn => exact fun o => tables_long (deliversLong_some rfl (remU_spec ..))
  any_goals exact tables_none _ s
  all_goals
    repeat intro k
    exact tables_none (Function.const Unit _) s ()

/-- Settles O1, by the four tables. -/
theorem scalarIntegerOperations : Obligations.ScalarIntegerOperations :=
  ⟨fun i s => (tablesHold i s).1, fun i s => (tablesHold i s).2.1, fun i s => (tablesHold i s).2.2.1, fun i s => (tablesHold i s).2.2.2.1⟩

/-- Settles O2, by its table. -/
theorem multiplyHighAndDivide : Obligations.MultiplyHighAndDivide := fun i s => (tablesHold i s).2.2.2.2

end Sys2Proof.Proofs
end

section
/-! Page table walks (R339 .. R341), and the checks of a load or store (R270, R345, R346, R351, R352). -/

namespace Sys2Proof.Proofs

open Sys2Proof.Machine Sys2Proof.Safety Sys2Proof.Laws

/-! ## Walks -/

section
variable {s : State} {dev va t lvl : Nat} {e : Word}

/-- What a walk makes of the entry of a level (R341). -/
def walkEntry (s : State) (dev va lvl fuel : Nat) (e : Word) : Walk :=
  if ¬pteV e then .miss lvl
  else if pteLeaf e then (if s.malformed dev e lvl then .fatal lvl e else .leaf e lvl)
  else if lvl = 3 ∨ bits e 15 2 ≠ 0 ∨ ptePeer e ≠ 0 then .fatal lvl 0#64
  else s.walkFrom dev va (pteFrame e * 65536) (lvl + 1) fuel

/-- The 8 bytes of a table that hold an entry, and may be read (R339, R346, R409). -/
def EntryAt (s : State) (dev a : Nat) (e : Word) : Prop :=
  s.physical a = true ∧ SMap.get s.poison false (a / 8) = false ∧ (a < 2 ^ 43 → s.homeLost dev (s.homeDie dev a) = false) ∧
    leNat (s.rawBytes a 8) = e.toNat

theorem walkFrom_of_entry (fuel : Nat) (is : EntryAt s dev (t + 8 * vaIndex va lvl) e) :
    s.walkFrom dev va t lvl (fuel + 1) = walkEntry s dev va lvl fuel e := by
  obtain ⟨physical, sound, reached, bytes⟩ := is
  refine (if_neg (not_not.2 physical)).trans ((if_neg ?_).trans (congrArg (walkEntry s dev va lvl fuel) ?_))
  · exact fun bad => bad.elim (ne_true_of_eq_false sound) fun far => ne_true_of_eq_false (reached far.1) far.2
  · rw [bytes, BitVec.ofNat_toNat, BitVec.setWidth_eq]

section
variable (fuel : Nat)

theorem walkEntry_invalid (v : e.getLsbD 0 = false) : walkEntry s dev va lvl fuel e = .miss lvl := if_pos (ne_true_of_eq_false v)

variable (v : e.getLsbD 0 = true)
include v

theorem walkEntry_leaf (leaf : e.getLsbD 1 = true) :
    walkEntry s dev va lvl fuel e = if s.malformed dev e lvl = true then .fatal lvl e else .leaf e lvl :=
  (if_neg (not_not.2 v)).trans (if_pos leaf)

variable (table : e.getLsbD 1 = false)
include table

theorem walkEntry_bad (bad : lvl = 3 ∨ bits e 15 2 ≠ 0 ∨ bits e 59 52 ≠ 0) : walkEntry s dev va lvl fuel e = .fatal lvl 0 :=
  (if_neg (not_not.2 v)).trans ((if_neg (ne_true_of_eq_false table)).trans (if_pos bad))

theorem walkEntry_table (upper : lvl ≠ 3) (low : bits e 15 2 = 0) (high : bits e 59 52 = 0) :
    walkEntry s dev va lvl fuel e = s.walkFrom dev va (pteFrame e * 65536) (lvl + 1) fuel :=
  (if_neg (not_not.2 v)).trans ((if_neg (ne_true_of_eq_false table)).trans
    (if_neg fun bad => bad.elim upper fun bad => bad.elim (· low) (· high)))

end

end

/-! ## The forms of loads and stores -/

/-- The sizes of an access: a power of two that divides 8. -/
def SizeOk (n : Nat) : Prop := n ∣ 8 ∧ lg n = Nat.log2 n

theorem sizeOk_1 : SizeOk 1 := ⟨by decide, by decide⟩
theorem sizeOk_2 : SizeOk 2 := ⟨by decide, by decide⟩
theorem sizeOk_4 : SizeOk 4 := ⟨by decide, by decide⟩
theorem sizeOk_8 : SizeOk 8 := ⟨by decide, by decide⟩

/-- An instruction that the table of loads names is a load of that size. -/
def IsLoad (i : Instr) (s : State) (r : Option (MemOps × Nat × Bool × Bool)) : Prop :=
  ∀ o n sg f, r = some (o, n, sg, f) → SizeOk n ∧ ∃ dest, exec i s = s.run (s.loadMI o n dest)

/-- An instruction that the table of stores names is a store of that size. -/
def IsStore (i : Instr) (s : State) (r : Option (MemOps × Nat × Nat)) : Prop :=
  ∀ o n x, r = some (o, n, x) → SizeOk n ∧ exec i s = s.run (s.storeMI o n x)

section
variable {i : Instr} {s : State} {o : MemOps} {n : Nat}

theorem isLoad_none : IsLoad i s none := fun _x _y _z _u is => (Option.some_ne_none _ is.symm).elim

theorem isStore_none : IsStore i s none := fun _x _y _z is => (Option.some_ne_none _ is.symm).elim

theorem forms_load {sg f : Bool} {dest : Dest} (size : SizeOk n) (run : exec i s = s.run (s.loadMI o n dest)) :
    IsLoad i s (some (o, n, sg, f)) ∧ IsStore i s none :=
  ⟨fun _x _y _z _u is => Eq.subst (motive := fun y : MemOps × Nat × Bool × Bool => SizeOk y.2.1 ∧ ∃ dest, exec i s = s.run (s.loadMI y.1 y.2.1 dest))
    (Option.some.inj is) ⟨size, dest, run⟩, isStore_none⟩

theorem forms_store {x : Nat} (size : SizeOk n) (run : exec i s = s.run (s.storeMI o n x)) :
    IsLoad i s none ∧ IsStore i s (some (o, n, x)) :=
  ⟨isLoad_none, fun _x _y _z is => Eq.subst (motive := fun y : MemOps × Nat × Nat => SizeOk y.2.1 ∧ exec i s = s.run (s.storeMI y.1 y.2.1 y.2.2))
    (Option.some.inj is) ⟨size, run⟩⟩

theorem forms_none {α : Type} (f : α → Instr) (s : State) (o : α) : IsLoad (f o) s none ∧ IsStore (f o) s none := ⟨isLoad_none, isStore_none⟩

end

theorem forms (i : Instr) (s : State) : IsLoad i s (loadForm i) ∧ IsStore i s (storeForm i s) := by
  apply Instr.casesOn (motive := fun i => IsLoad i s (loadForm i) ∧ IsStore i s (storeForm i s)) i
  case ldB => exact fun o => forms_load sizeOk_1 rfl
  case ldH => exact fun o => forms_load sizeOk_2 rfl
  case ldW => exact fun o => forms_load sizeOk_4 rfl
  case ldD => exact fun o => forms_load sizeOk_8 rfl
  case ldBs => exact fun o => forms_load sizeOk_1 rfl
  case ldHs => exact fun o => forms_load sizeOk_2 rfl
  case ldWs => exact fun o => forms_load sizeOk_4 rfl
  case fld => exact fun o => forms_load sizeOk_4 rfl
  case stB => exact fun o => forms_store sizeOk_1 rfl
  case stH => exact fun o => forms_store sizeOk_2 rfl
  case stW => exact fun o => forms_store sizeOk_4 rfl
  case stD => exact fun o => forms_store sizeOk_8 rfl
  case fst => exact fun o => forms_store sizeOk_4 rfl
  any_goals exact forms_none _ s
  all_goals
    repeat intro k
    exact forms_none (Function.const Unit _) s ()

/-! ## The checks -/

section
variable {s : State} {o : MemOps} {n : Nat}

theorem addrMI_eq (s : State) (o : MemOps) (n : Nat) (small : n < 2 ^ 64) : s.addrMI o.a o.imm n = miAddr s o n := by
  rw [State.addrMI, miAddr, BitVec.toNat_add, BitVec.toNat_mul, BitVec.toNat_ofNat, Nat.mod_eq_of_lt small,
    Nat.mod_mod_of_dvd _ (Nat.pow_dvd_pow 2 (by decide)), Nat.add_mod, Nat.mod_mod_of_dvd _ (Nat.pow_dvd_pow 2 (by decide)), ← Nat.add_mod]

theorem loadMI_of_error {e : Stop} {dest : Dest} (small : n < 2 ^ 64)
    (stops : s.access o.sem o.xs (miAddr s o n) n 0 { rd := true } = .error e) : s.loadMI o n dest = .error e := by
  rw [State.loadMI, addrMI_eq s o n small, stops]
  rfl

theorem storeMI_of_error {e : Stop} {x : Nat} (small : n < 2 ^ 64)
    (stops : s.access o.sem o.xs (miAddr s o n) n 1 { wr := true } = .error e) : s.storeMI o n x = .error e := by
  rw [State.storeMI, addrMI_eq s o n small, stops]
  rfl

section
variable {va acc : Nat} {need : Need}

theorem access_of_badScope (sem : o.sem ≠ 0#2) (bad : s.scopeOk s.myDev (s.scopeOf o.xs) = false) :
    s.access o.sem o.xs va n acc need = .error (scopeTrap (s.scopeOf o.xs)) := by
  rw [State.access, State.semScope, if_neg sem, State.checkScope, bad]
  rfl

section
variable (ok : o.sem = 0#2 ∨ s.scopeOk s.myDev (s.scopeOf o.xs) = true)
include ok

theorem semScope_ok : s.semScope o.sem o.xs = .ok () := by
  by_cases relaxed : o.sem = 0#2
  · exact if_pos relaxed
  · exact (if_neg relaxed).trans (if_pos (ok.resolve_left relaxed))

theorem access_of_misaligned (odd : va % n ≠ 0) : s.access o.sem o.xs va n acc need = .error (misalign (BitVec.ofNat 64 va) acc (lg n)) := by
  rw [State.access, semScope_ok ok, must, if_neg (mt beq_iff_eq.1 odd)]
  rfl

theorem access_of_aligned (even : va % n = 0) : s.access o.sem o.xs va n acc need = s.locate va n need := by
  rw [State.access, semScope_ok ok, must, if_pos (beq_iff_eq.2 even)]
  rfl

end

/-- An aligned access below the near window ends below it. -/
theorem locate_low (size : SizeOk n) (even : va % n = 0) (low : va < NW) : s.locate va n need = s.global va need := by
  obtain ⟨q, rfl⟩ := Nat.dvd_of_mod_eq_zero even
  obtain ⟨r, top⟩ := size.1.trans (show 8 ∣ NW by decide)
  have fits : n * q + n ≤ NW := by
    rw [top] at low ⊢
    exact Nat.mul_le_mul_left n (Nat.lt_of_mul_lt_mul_left low)
  exact (if_neg (Nat.not_le.2 low)).trans (if_neg (Nat.not_lt.2 fits))

end

end

theorem access_acc (wr : Bool) : Need.acc { rd := !wr, wr := wr } = if wr = true then 2 else 1 := by cases wr <;> rfl

section
variable {e : Word} {wr sup : Bool}

/-- The permission that an access of a kind needs of its page. -/
def grants (e : Word) (wr : Bool) : Bool := if wr = true then pteW e else pteR e

/-- The permissions that an access of a kind lacks (R351). -/
theorem permReason_access : permReason e { rd := !wr, wr := wr } sup =
    if grants e wr = false then wr.toNat + 1 else if (!sup && !pteUser e) = true then 4 else 0 := by
  cases wr
  · refine (ite_congr (?_ : _ = (grants e false = false)) (fun _h => rfl) fun _h => if_neg Bool.false_ne_true)
    exact Bool.not_eq_true' _
  · exact (if_neg Bool.false_ne_true).trans (ite_congr (Bool.not_eq_true' _) (fun _h => rfl) fun _h => rfl)

theorem permReason_of_lacks (lacks : grants e wr = false) : permReason e { rd := !wr, wr := wr } sup = wr.toNat + 1 :=
  permReason_access.trans (if_pos lacks)

variable (has : grants e wr = true)
include has

theorem permReason_of_user (noUser : pteUser e = false) (user : sup = false) : permReason e { rd := !wr, wr := wr } sup = 4 :=
  permReason_access.trans ((if_neg (ne_false_of_eq_true has)).trans (if_pos (by rw [user, noUser]; rfl)))

theorem permReason_of_granted (user : pteUser e = true ∨ sup = true) : permReason e { rd := !wr, wr := wr } sup = 0 :=
  permReason_access.trans ((if_neg (ne_false_of_eq_true has)).trans (if_neg fun both =>
    user.elim (fun user => Bool.false_ne_true ((congrArg not user).symm.trans (Bool.and_eq_true_iff.1 both).2))
      fun sup => Bool.false_ne_true ((congrArg not sup).symm.trans (Bool.and_eq_true_iff.1 both).1)))

end

/-! ## Accesses that count -/

section
variable {s : State} {h k va acc lvl : Nat} {e : Word}

/-- The counter of an address's entry in a die's TLB. -/
def useCount (d : Die) (dc va : Nat) : Nat :=
  match d.tlb.find? (fun y => y.covers dc va) with
  | some y => y.count
  | none => 0

/-- An access through the leaf reaches the threshold (R352). -/
def reaches (s : State) (h va : Nat) (e : Word) : Bool :=
  pteMode e == 3 && (SMap.get (s.die (hdie h)).mthr 0#64 (pteThr e)).toNat % 2 ^ 32 != 0 &&
    decide ((SMap.get (s.die (hdie h)).mthr 0#64 (pteThr e)).toNat % 2 ^ 32 ≤ useCount (s.die (hdie h)) (s.dctxOf h) va + 1)

/-- The entry of an access in its die's TLB (R343). -/
def usedEntry (s : State) (h va : Nat) (e : Word) (lvl : Nat) : TlbEntry :=
  { tlbEntry (s.dctxOf h) va e lvl with
    count := if pteMode e = 3 then (if reaches s h va e then 0 else useCount (s.die (hdie h)) (s.dctxOf h) va + 1) else 0 }

theorem noteUse_die (leaf : s.translate h va = .leaf e lvl) :
    ∃ old rest, (s.noteUse h k va acc).die (hdie h) = { s.die (hdie h) with
      old := old, tlb := usedEntry s h va e lvl :: rest
      faultIn := if reaches s h va e then (s.die (hdie h)).faultIn ++ [⟨true, s.dctxOf h, va / 65536, acc, hx h, hy h, k⟩]
        else (s.die (hdie h)).faultIn } := by
  rw [State.noteUse, leaf]
  exact ⟨_, _, die_modDie_same ..⟩

theorem covers_usedEntry : (usedEntry s h va e lvl).covers (s.dctxOf h) va = true :=
  Bool.and_eq_true_iff.2 ⟨beq_self_eq_true _, beq_self_eq_true _⟩

theorem useCounted_noteUse : UseCounted s (s.noteUse h k va acc) h k va acc := by
  intro e lvl leaf d d' dc count thr
  obtain ⟨old, rest, is⟩ := noteUse_die (k := k) (acc := acc) leaf
  have faults : d'.faultIn = if reaches s h va e then d.faultIn ++ [⟨true, dc, va / 65536, acc, hx h, hy h, k⟩] else d.faultIn :=
    congrArg Die.faultIn is
  have counts : count d' = (usedEntry s h va e lvl).count := by
    have first : d'.tlb.find? (fun y => y.covers dc va) = some (usedEntry s h va e lvl) := by
      rw [show d'.tlb = usedEntry s h va e lvl :: rest from congrArg Die.tlb is]
      exact List.find?_cons_of_pos covers_usedEntry
    show (match d'.tlb.find? (fun y => y.covers dc va) with | some y => y.count | none => 0) = _
    rw [first]
  have hit : reaches s h va e = true ↔ bits e 7 6 = 3 ∧ thr ≠ 0 ∧ thr ≤ count d + 1 := by
    rw [reaches, Bool.and_eq_true, Bool.and_eq_true, beq_iff_eq, bne_iff_ne, decide_eq_true_eq, and_assoc]
    rfl
  rw [faults, counts]
  refine ⟨fun other => ?_, fun mode some le => ?_, fun mode below => ?_⟩
  · exact if_neg (mt hit.1 fun all => other all.1)
  · have reached := hit.2 ⟨mode, some, le⟩
    exact ⟨(if_pos mode).trans (if_pos reached), if_pos reached⟩
  · have not : ¬reaches s h va e = true := mt hit.1 fun all => below.elim all.2.1 (Nat.not_lt.2 all.2.2)
    exact ⟨(if_pos mode).trans (if_neg not), if_neg not⟩

/-- What happens after the use leaves the dies as they are. -/
theorem useCounted_of_dies {u t : State} (used : UseCounted s u h k va acc) (same : t.dies = u.dies) : UseCounted s t h k va acc := by
  have die : t.die (hdie h) = u.die (hdie h) := congrArg (SMap.get · _ _) same
  intro e lvl leaf
  have holds := used e lvl leaf
  rw [← die] at holds
  exact holds

end

theorem foldl_dies {α : Type} {f : State → α → State} (keep : ∀ t x, (f t x).dies = t.dies) (l : List α) (s : State) :
    (l.foldl f s).dies = s.dies := by
  induction l generalizing s with
  | nil => rfl
  | cons x l ih => exact (ih _).trans (keep s x)

theorem endLong_dies (s : State) (l : BitVec 4) (ws : List RegWrite) : (s.endLong l ws).dies = s.dies := by
  have write : (s.complete s.now.h s.now.k ws).dies = s.dies := by
    unfold State.complete
    exact (apply_ite State.dies ..).trans (ite_self _)
  exact (apply_ite State.dies ..).trans ((ite_congr rfl (fun _x => rfl) fun _x => write).trans (ite_self _))

theorem takeCopy_dies (s : State) (sp : Space) (a : Nat) : (s.takeCopy sp a).dies = s.dies := by
  unfold State.takeCopy
  cases sp.copied with
  | none => rfl
  | some d => exact (apply_ite State.dies ..).trans (ite_self _)

theorem setPoc_dies (s : State) (sp : Space) (a : Nat) (b : Byte) : (s.setPoc sp a b).dies = s.dies := by
  unfold State.setPoc
  cases sp.copied <;> rfl

theorem setPocs_dies (s : State) (sp : Space) (a : Nat) (bs : List Byte) : (s.setPocs sp a bs).dies = s.dies := by
  induction bs generalizing s a with
  | nil => rfl
  | cons b bs ih => exact (ih _ _).trans (setPoc_dies ..)

theorem performOrRefuse_dies (s : State) (h k : Nat) (loc : Loc) (bs : List Byte) : (s.performOrRefuse h k loc bs).dies = s.dies := by
  have perform : (s.perform h loc bs).dies = s.dies :=
    (apply_ite State.dies ..).trans ((ite_congr rfl (fun _x => setPocs_dies ..) fun _x => setPocs_dies ..).trans (ite_self _))
  exact (apply_ite State.dies ..).trans ((ite_congr rfl (fun _x => rfl) fun _x => perform).trans (ite_self _))

theorem acquired_dies (s : State) (h : Nat) (v : Word) : (s.acquired h v).dies = s.dies := (apply_ite State.dies ..).trans (ite_self _)

theorem readParts_dies (s : State) (id : Nat) (ps : List (Loc × Nat)) : (s.readParts id ps).dies = s.dies :=
  foldl_dies (f := fun t (p : Loc × Nat) => (t.takeCopy p.1.space p.1.at_).hasRead s.now.h s.now.k id s.cur.post p.1 p.2)
    (fun t p => takeCopy_dies t p.1.space p.1.at_) ps s

theorem loadParts_dies (s : State) (l : BitVec 4) (sem : BitVec 2) (v : Word) (dest : Dest) (ps : List (Loc × Nat)) :
    (s.loadParts l sem v dest ps).dies = s.dies := by
  refine (apply_ite State.dies ..).trans ((ite_congr rfl (fun _x => ?_) fun _x => ?_).trans (ite_self _))
  · refine (endLong_dies ..).trans ((apply_ite State.dies ..).trans ?_)
    rw [acquired_dies, ite_self]
    exact readParts_dies ..
  · exact foldl_dies (f := fun t p => t.enqueue ⟨s.serial, sem, v, p.1, .load p.2 none, 0⟩) (fun _x _y => rfl) ps s

theorem storeParts_dies (s : State) (l : BitVec 4) (sem : BitVec 2) (v : Word) (ps : List (Loc × List Byte)) (ws : List RegWrite) :
    (s.storeParts l sem v ps ws).dies = s.dies := by
  refine (apply_ite State.dies ..).trans ((ite_congr rfl (fun _x => ?_) fun _x => ?_).trans (ite_self _))
  · exact (endLong_dies ..).trans (foldl_dies (fun t p => performOrRefuse_dies t s.now.h s.now.k p.1 p.2) ps s)
  · exact foldl_dies (f := fun t p => t.enqueue ⟨s.serial, sem, v, p.1, .store p.2, 0⟩) (fun _x _y => rfl) ps s

theorem useCounted_used {s : State} {va : Nat} {need : Need} (low : va < NW) :
    UseCounted s (s.used va need) s.now.h s.now.k va need.acc := by
  rw [State.used, if_neg (Nat.not_le.2 low)]
  exact useCounted_noteUse

/-! ## The obligation -/

theorem lt_of_sizeOk {n : Nat} (size : SizeOk n) : n < 2 ^ 64 := (Nat.le_of_dvd (by decide) size.1).trans_lt (by decide)

section
variable {i : Instr} {s : State} {o : MemOps} {n : Nat} {wr : Bool}
  (form : (∃ sg f, loadForm i = some (o, n, sg, f)) ∧ wr = false ∨ (∃ x, storeForm i s = some (o, n, x)) ∧ wr = true)
include form

theorem sizeOk_of_form : SizeOk n :=
  form.elim (fun form => form.1.elim fun _sg is => is.elim fun _f is => ((forms i s).1 _ _ _ _ is).1)
    fun form => form.1.elim fun _x is => ((forms i s).2 _ _ _ is).1

/-- A load or store stops where its access does. -/
theorem exec_of_access {e : Stop} (stops : s.access o.sem o.xs (miAddr s o n) n wr.toNat { rd := !wr, wr := wr } = .error e) :
    exec i s = s.stop e := by
  have small := lt_of_sizeOk (sizeOk_of_form form)
  rcases form with ⟨⟨sg, f, is⟩, rfl⟩ | ⟨⟨x, is⟩, rfl⟩
  · exact ((forms i s).1 _ _ _ _ is).2.elim fun dest run => run.trans (congrArg s.run (loadMI_of_error small stops))
  · exact ((forms i s).2 _ _ _ is).2.trans (congrArg s.run (storeMI_of_error small stops))

theorem traps_of_badScope (sem : o.sem ≠ 0#2) (bad : s.scopeOk s.myDev (s.scopeOf o.xs) = false) : Traps i s 16 0 (s.scopeOf o.xs) :=
  traps_of_raise (exec_of_access form (access_of_badScope sem bad))

section
variable (ok : o.sem = 0#2 ∨ s.scopeOk s.myDev (s.scopeOf o.xs) = true)
include ok

theorem traps_of_misaligned (odd : miAddr s o n % n ≠ 0) :
    Traps i s 4 (BitVec.ofNat 64 (miAddr s o n)) (BitVec.ofNat 64 ((if wr = true then 256 else 0) + Nat.log2 n)) := by
  have info : wr.toNat * 256 + lg n = (if wr = true then 256 else 0) + Nat.log2 n := by
    rw [(sizeOk_of_form form).2]
    cases wr <;> rfl
  exact info ▸ traps_of_raise (exec_of_access form (access_of_misaligned ok odd))

variable (even : miAddr s o n % n = 0) (low : miAddr s o n < NW) (seen : s.now.defer = false ∨ s.tlbHit s.now.h (miAddr s o n) = true)
include even low

theorem exec_of_global {e : Stop} (stops : s.global (miAddr s o n) { rd := !wr, wr := wr } = .error e) : exec i s = s.stop e :=
  exec_of_access form ((access_of_aligned ok even).trans ((locate_low (sizeOk_of_form form) even low).trans stops))

include seen

theorem exec_of_miss {lvl : Nat} (miss : s.translate s.now.h (miAddr s o n) = .miss lvl) : exec i s =
    .next (s.park (BitVec.ofNat 64 (miAddr s o n)) (BitVec.ofNat 64 (lvl * 256 + (if wr = true then 2 else 1))) (miAddr s o n)
      (if wr = true then 2 else 1)) :=
  (exec_of_global form ok even low (global_of_miss seen _ miss)).trans (by rw [access_acc]; exact congrArg s.stop (congrArg (fun info => Stop.park _ (BitVec.ofNat 64 (info + _)) _ _) (Nat.zero_add _)))

theorem traps_of_fatal {lvl : Nat} {e : Word} (fatal : s.translate s.now.h (miAddr s o n) = .fatal lvl e) :
    Traps i s 5 (BitVec.ofNat 64 (miAddr s o n))
      (BitVec.ofNat 64 (e.toNat % 65536 * 65536 + 1 * 4096 + lvl * 256 + (if wr = true then 2 else 1))) :=
  access_acc wr ▸ traps_of_raise (exec_of_global form ok even low (global_of_fatal seen _ fatal))

variable {e : Word} {lvl : Nat} (leaf : s.translate s.now.h (miAddr s o n) = .leaf e lvl)
include leaf

theorem traps_of_refused {r : Nat} (reason : permReason e { rd := !wr, wr := wr } s.cur.supervisor = r) (some : r ≠ 0) :
    Traps i s 6 (BitVec.ofNat 64 (miAddr s o n))
      (BitVec.ofNat 64 (e.toNat % 65536 * 65536 + r * 4096 + lvl * 256 + (if wr = true then 2 else 1))) :=
  access_acc wr ▸ traps_of_raise (exec_of_global form ok even low (global_of_refused seen leaf reason some))

omit ok in
theorem locate_of_leaf (none : permReason e { rd := !wr, wr := wr } s.cur.supervisor = 0) :
    s.locate (miAddr s o n) n { rd := !wr, wr := wr } = .ok ⟨leafSpace s.myDev e, leafKey e lvl (miAddr s o n)⟩ := by
  rw [locate_low (sizeOk_of_form form) even low, global_of_translate seen, leaf]
  exact (if_neg (not_not.2 none)).trans (if_neg Bool.false_ne_true)

end

end

theorem exec_load_of_ok {i : Instr} {s : State} {o : MemOps} {n : Nat} {dest : Dest} {loc : Loc} (size : SizeOk n)
    (run : exec i s = s.run (s.loadMI o n dest)) (at_ : s.access o.sem o.xs (miAddr s o n) n 0 { rd := true } = .ok loc)
    (data : s.checkData (miAddr s o n) loc n false = .ok ()) : exec i s =
      .next ((s.used (miAddr s o n) { rd := true }).loadParts o.l o.sem (s.scopeOf o.xs) dest [(loc, n)]) := by
  rw [run, State.loadMI, addrMI_eq s o n (lt_of_sizeOk size), at_]
  show s.run (s.checkData (miAddr s o n) loc n false >>= _) = _
  rw [data]
  rfl

theorem exec_store_of_ok {i : Instr} {s : State} {o : MemOps} {n x : Nat} {loc : Loc} (size : SizeOk n)
    (run : exec i s = s.run (s.storeMI o n x)) (at_ : s.access o.sem o.xs (miAddr s o n) n 1 { wr := true } = .ok loc)
    (home : s.lostByte s.myDev loc n = none) : exec i s =
      .next ((s.used (miAddr s o n) { wr := true }).storeParts o.l o.sem (s.scopeOf o.xs) [(loc, leBytes n x)] []) := by
  rw [run, State.storeMI, addrMI_eq s o n (lt_of_sizeOk size), at_]
  show s.run (s.checkHome (miAddr s o n) loc n >>= _) = _
  rw [State.checkHome, home]
  rfl

section
variable {s : State} {dev root va : Nat} {e1 e2 e3 : Word}

theorem walk_one (low : va < 2 ^ 52) (first : EntryAt s dev (root + 8 * (va / 2 ^ 40)) e1) :
    s.walk dev root va = walkEntry s dev va 1 2 e1 := by
  have index : vaIndex va 1 = va / 2 ^ 40 := Nat.mod_eq_of_lt (Nat.div_lt_of_lt_mul low)
  exact walkFrom_of_entry 2 (index ▸ first)

theorem walk_two (one : s.walk dev root va = walkEntry s dev va 1 2 e1) (v : e1.getLsbD 0 = true) (table : e1.getLsbD 1 = false)
    (low : bits e1 15 2 = 0) (high : bits e1 59 52 = 0) (second : EntryAt s dev (pteFrame e1 * 65536 + 8 * vaIndex va 2) e2) :
    s.walk dev root va = walkEntry s dev va 2 1 e2 :=
  one.trans ((walkEntry_table 2 v table (by decide) low high).trans (walkFrom_of_entry 1 second))

theorem walk_three (two : s.walk dev root va = walkEntry s dev va 2 1 e2) (v : e2.getLsbD 0 = true) (table : e2.getLsbD 1 = false)
    (low : bits e2 15 2 = 0) (high : bits e2 59 52 = 0) (third : EntryAt s dev (pteFrame e2 * 65536 + 8 * vaIndex va 3) e3) :
    s.walk dev root va = walkEntry s dev va 3 0 e3 :=
  two.trans ((walkEntry_table 1 v table (by decide) low high).trans (walkFrom_of_entry 0 third))

end

/-- Settles O16: a walk takes its entries one by one, and a load or store stops where its access does. -/
theorem walksAndAccessChecks : Obligations.WalksAndAccessChecks := by
  refine ⟨?walks, ?checks, ?loads, ?stores⟩
  case walks =>
    intro s dev root va e1 e2 e3 low i1 i2 i3 t2 t3 entry first
    exact ⟨fun v => (walk_one low first).trans (walkEntry_invalid 2 v), fun v leaf => (walk_one low first).trans (walkEntry_leaf 2 v leaf),
      fun v table bad => (walk_one low first).trans (walkEntry_bad 2 v table (.inr bad)), fun v table clear above second =>
      ⟨fun v' => (walk_two (walk_one low first) v table clear above second).trans (walkEntry_invalid 1 v'),
      fun v' leaf => (walk_two (walk_one low first) v table clear above second).trans (walkEntry_leaf 1 v' leaf),
      fun v' table' clear' above' third =>
      ⟨fun v'' => (walk_three (walk_two (walk_one low first) v table clear above second) v' table' clear' above' third).trans
        (walkEntry_invalid 0 v''),
      fun v'' leafless => (walk_three (walk_two (walk_one low first) v table clear above second) v' table' clear' above' third).trans
        (walkEntry_bad 0 v'' leafless (.inl rfl)),
      fun v'' leaf => (walk_three (walk_two (walk_one low first) v table clear above second) v' table' clear' above' third).trans
        (walkEntry_leaf 0 v'' leaf)⟩⟩⟩
  case checks =>
    intro i s o n wr form va v acc
    exact ⟨traps_of_badScope form, fun ok => ⟨traps_of_misaligned form ok, fun even low seen =>
      ⟨fun lvl is => leads_of_eq (exec_of_miss form ok even low seen is) (park_parks ..),
      fun lvl e => traps_of_fatal form ok even low seen, fun e lvl leaf =>
      ⟨fun read lacks => traps_of_refused form ok even low seen leaf
        ((permReason_of_lacks ((congrArg (grants e) read).trans lacks)).trans (congrArg (·.toNat + 1) read)) (by decide),
      fun write lacks => traps_of_refused form ok even low seen leaf
        ((permReason_of_lacks ((congrArg (grants e) write).trans lacks)).trans (congrArg (·.toNat + 1) write)) (by decide),
      fun has noUser user => traps_of_refused form ok even low seen leaf (permReason_of_user has noUser user) (by decide),
      fun has user => locate_of_leaf form even low seen leaf (permReason_of_granted has user)⟩⟩⟩⟩
  case loads =>
    intro i s o n sgn isF loc is va low at_ data
    exact ((forms i s).1 _ _ _ _ is).2.elim fun dest run =>
      leads_of_eq (exec_load_of_ok ((forms i s).1 _ _ _ _ is).1 run at_ data) (useCounted_of_dies (useCounted_used low) (loadParts_dies ..))
  case stores =>
    intro i s o n x loc is va low at_ home
    exact leads_of_eq (exec_store_of_ok ((forms i s).2 _ _ _ is).1 ((forms i s).2 _ _ _ is).2 at_ home)
        (useCounted_of_dies (useCounted_used low) (storeParts_dies ..))

end Sys2Proof.Proofs
end

section
/-! `lea`, `coord`, `rect` and `inrect` (R208 .. R211). -/

namespace Sys2Proof.Proofs

open Sys2Proof.Machine Sys2Proof.Safety Sys2Proof.Laws

/-! ## Words made of fields at their places -/

/-- Values placed above the second argument, the highest first. -/
def ored (fs : List (Nat × Nat)) : Nat → Word := fs.foldr (fun f g lo => g (lo + f.1) ||| at_ f.2 lo) fun _lo => 0#64

theorem ofNat_or (x y : Nat) : BitVec.ofNat 64 (x ||| y) = BitVec.ofNat 64 x ||| BitVec.ofNat 64 y := by
  refine BitVec.eq_of_toNat_eq ?_
  rw [BitVec.toNat_or, BitVec.toNat_ofNat, BitVec.toNat_ofNat, BitVec.toNat_ofNat, Nat.or_mod_two_pow]

/-- A value above a smaller one. -/
theorem ofNat_or_at {v lo : Nat} (n : Nat) (fits : v < 2 ^ lo) : BitVec.ofNat 64 v ||| at_ n lo = BitVec.ofNat 64 (v + n * 2 ^ lo) := by
  rw [at_, ← ofNat_or, Nat.lor_comm, Nat.mul_comm, ← Nat.two_pow_add_eq_or_of_lt fits, Nat.add_comm]

theorem ored_eq {fs : List (Nat × Nat)} (fit : FieldsFit fs) (lo : Nat) : ored fs lo = BitVec.ofNat 64 (2 ^ lo * packed fs) := by
  induction fs generalizing lo with
  | nil => rfl
  | cons f fs ih =>
    have below : f.2 * 2 ^ lo < 2 ^ (lo + f.1) := by
      rw [Nat.pow_add, Nat.mul_comm]
      exact Nat.mul_lt_mul_of_pos_left (fit f List.mem_cons_self) (Nat.two_pow_pos lo)
    refine (congrArg (· ||| at_ f.2 lo) (ih (fun g mem => fit g (List.mem_cons_of_mem f mem)) (lo + f.1))).trans ?_
    refine (ofNat_or ..).symm.trans (congrArg _ ((Nat.two_pow_add_eq_or_of_lt below _).symm.trans ?_))
    rw [packed_cons, Nat.pow_add, Nat.mul_add, Nat.mul_assoc, Nat.add_comm, Nat.mul_comm f.2]

theorem mul_add_lt {a b m k : Nat} (ha : a < m) (hb : b < k) : a * k + b < m * k :=
  (Nat.add_lt_add_left hb _).trans_le ((Nat.succ_mul a k).symm.trans_le (Nat.mul_le_mul_right _ ha))

/-- The bits above a place are zero when the number is small. -/
theorem bits_63_eq_zero_iff {w : Word} {lo : Nat} (low : lo ≤ 63) : bits w 63 lo = 0 ↔ w.toNat < 2 ^ lo := by
  have whole : 2 ^ lo * 2 ^ (63 - lo + 1) = 2 ^ 64 := by
    rw [← Nat.pow_add, ← Nat.add_assoc, Nat.add_sub_cancel' low]
  rw [bits, Nat.shiftRight_eq_div_pow, Nat.mod_eq_of_lt (Nat.div_lt_of_lt_mul (whole ▸ w.isLt)),
    Nat.div_eq_zero_iff_lt (Nat.two_pow_pos lo)]

theorem beq_63_iff {w : Word} {lo : Nat} (low : lo ≤ 63) : (bits w 63 lo == 0) = true ↔ w.toNat < 2 ^ lo :=
  beq_iff_eq.trans (bits_63_eq_zero_iff low)

/-! ## Coordinates -/

section
variable {a : Word} (coordinate : a.toNat < 2 ^ 16)
include coordinate

theorem bits_15_8 : bits a 15 8 = a.toNat / 256 :=
  (congrArg (· % 256) (Nat.shiftRight_eq_div_pow ..)).trans (Nat.mod_eq_of_lt (Nat.div_lt_of_lt_mul coordinate))

theorem coordHandle_eq : coordHandle a = a.toNat :=
  (congrArg (handleOf (a.toNat % 256)) (bits_15_8 coordinate)).trans (Nat.div_add_mod' ..)

theorem hx_coordHandle : hx (coordHandle a) = a.toNat % 256 := by
  rw [coordHandle_eq coordinate]
  exact congrArg (· % 256) (Nat.mod_eq_of_lt coordinate)

theorem hy_coordHandle : hy (coordHandle a) = a.toNat / 256 := by
  rw [coordHandle_eq coordinate]
  exact congrArg (· / 256) (Nat.mod_eq_of_lt coordinate)

theorem coordinate_y : a.toNat / 256 < 256 := Nat.div_lt_of_lt_mul coordinate

end

/-- The layout of a coordinate's groups (R209). -/
def coordFields (x y : Nat) (live : Bool) : List (Nat × Nat) :=
  [(8, x), (8, y), (5, x % 32), (3, 0), (4, y % 4 * 4 + x % 4), (4, 0), (6, y / 32 * 8 + x / 32), (2, 0), (8, x / 4 * 4), (8, y / 4 * 4),
    (7, 0), (1, live.toNat)]

theorem coordFields_fit {x y : Nat} (hx : x < 256) (hy : y < 256) (live : Bool) : FieldsFit (coordFields x y live) := by
  have four (n : Nat) : n % 4 < 4 := Nat.mod_lt _ (by decide)
  have row {n : Nat} (h : n < 256) : n / 32 < 8 := Nat.div_lt_of_lt_mul h
  refine fieldsFit_cons hx (fieldsFit_cons hy (fieldsFit_cons (Nat.mod_lt _ (by decide)) (fieldsFit_cons (by decide) ?_)))
  refine fieldsFit_cons (mul_add_lt (four _) (four _)) (fieldsFit_cons (by decide) (fieldsFit_cons (mul_add_lt (row hy) (row hx)) ?_))
  refine fieldsFit_cons (by decide) (fieldsFit_cons ((Nat.div_mul_le_self ..).trans_lt hx) ?_)
  refine fieldsFit_cons ((Nat.div_mul_le_self ..).trans_lt hy) (fieldsFit_cons (by decide) (fieldsFit_cons live.toNat_lt ?_))
  exact List.forall_mem_nil _

theorem or_zero_at (w : Word) (i : Nat) : w ||| at_ 0 i = w := by
  rw [at_, Nat.zero_mul]
  exact BitVec.or_zero

theorem coordWord_eq (s : State) {h x y : Nat} (isX : hx h = x) (isY : hy h = y) (bx : x < 256) (by_ : y < 256) :
    s.coordWord h = BitVec.ofNat 64 (packed (coordFields x y (s.liveFor s.me h))) := by
  refine Eq.trans ?_ ((ored_eq (coordFields_fit bx by_ _) 0).trans (congrArg _ (Nat.one_mul _)))
  have flat : ored (coordFields x y (s.liveFor s.me h)) 0 = 0#64 ||| at_ (s.liveFor s.me h).toNat 63 ||| at_ 0 56 ||| at_ (y / 4 * 4) 48 |||
      at_ (x / 4 * 4) 40 ||| at_ 0 38 ||| at_ (y / 32 * 8 + x / 32) 32 ||| at_ 0 28 ||| at_ (y % 4 * 4 + x % 4) 24 ||| at_ 0 21 |||
      at_ (x % 32) 16 ||| at_ y 8 ||| at_ x 0 := rfl
  rw [flat, or_zero_at, or_zero_at, or_zero_at, or_zero_at, BitVec.zero_or, State.coordWord, hdie, peerNo, dieAt, isX, isY]
  cases s.liveFor s.me h <;> rfl

/-! ## Rectangles -/

/-- The layout of a rectangle (R129, R210). -/
def rectFields (ax ay bx b_y : Nat) : List (Nat × Nat) := [(8, ax), (8, ay), (8, bx), (8, b_y)]

/-- The word of a rectangle as a sum (R129). -/
def rectSum (a b : Word) : Word := BitVec.ofNat 64 (a.toNat % 256 + a.toNat / 256 * 2 ^ 8 + b.toNat % 256 * 2 ^ 16 + b.toNat / 256 * 2 ^ 24)

theorem byte_lt (n : Nat) : n % 256 < 2 ^ 8 := Nat.mod_lt _ (by decide)

section
variable {a b : Word} (ha : a.toNat < 2 ^ 16) (hb : b.toNat < 2 ^ 16)
include ha hb

theorem rectWord_eq : rectWord a b = rectSum a b := by
  have two : a.toNat % 256 + a.toNat / 256 * 2 ^ 8 < 2 ^ 16 := by
    rw [Nat.add_comm]
    exact mul_add_lt (coordinate_y ha) (byte_lt _)
  have three : a.toNat % 256 + a.toNat / 256 * 2 ^ 8 + b.toNat % 256 * 2 ^ 16 < 2 ^ 24 := by
    rw [Nat.add_comm]
    exact mul_add_lt (byte_lt b.toNat) two
  rw [rectSum, ← ofNat_or_at _ three, ← ofNat_or_at _ two, ← ofNat_or_at _ (byte_lt _), rectWord, bits_15_8 ha, bits_15_8 hb]
  exact congrArg (fun x => BitVec.ofNat 64 x ||| _ ||| _ ||| _) (Nat.mul_one _)

theorem rectWord_packed : rectWord a b =
    BitVec.ofNat 64 (packed (rectFields (a.toNat % 256) (a.toNat / 256) (b.toNat % 256) (b.toNat / 256))) := by
  refine (rectWord_eq ha hb).trans (congrArg (BitVec.ofNat 64) (Eq.trans ?_ ((summed_eq _ 0).trans (Nat.one_mul _))))
  have flat : summed (rectFields (a.toNat % 256) (a.toNat / 256) (b.toNat % 256) (b.toNat / 256)) 0 =
      0 + b.toNat / 256 * 2 ^ 24 + b.toNat % 256 * 2 ^ 16 + a.toNat / 256 * 2 ^ 8 + a.toNat % 256 * 2 ^ 0 := rfl
  rw [flat, Nat.zero_add, Nat.pow_zero, Nat.mul_one]
  refine Eq.trans ?_ (Nat.add_comm ..)
  rw [Nat.add_assoc, Nat.add_assoc]
  exact congrArg (a.toNat % 256 + ·) ((Nat.add_comm ..).trans (congrArg (· + a.toNat / 256 * 2 ^ 8) (Nat.add_comm ..)))

theorem rectFields_fit : FieldsFit (rectFields (a.toNat % 256) (a.toNat / 256) (b.toNat % 256) (b.toNat / 256)) := by
  exact fieldsFit_cons (byte_lt _) (fieldsFit_cons (coordinate_y ha) (fieldsFit_cons (byte_lt _)
    (fieldsFit_cons (coordinate_y hb) (List.forall_mem_nil _))))

/-- The scope check of a rectangle: its corners are in order and on the partition device. -/
theorem scopeOk_rectWord (s : State) : s.scopeOk s.myDev (rectWord a b) = true ↔
    a.toNat % 256 ≤ b.toNat % 256 ∧ a.toNat / 256 ≤ b.toNat / 256 ∧ s.devOf (dieAt (a.toNat % 256) (a.toNat / 256)) = s.myDev ∧
      s.devOf (dieAt (b.toNat % 256) (b.toNat / 256)) = s.myDev := by
  have fit := rectFields_fit ha hb
  have small : packed (rectFields (a.toNat % 256) (a.toNat / 256) (b.toNat % 256) (b.toNat / 256)) < 2 ^ 32 := packed_lt fit
  have low : 32 ≤ 64 := by decide
  have word := rectWord_packed ha hb
  have high : bits (rectWord a b) 63 35 = 0 := word ▸ bits_above (small.trans (by decide))
  have kind : scopeKind (rectWord a b) = 0 := word ▸ bits_above small
  have ax : bits (rectWord a b) 7 0 = _ := (congrArg (bits · 7 0) word).trans (bits_packed fit 0 low rfl rfl)
  have ay : bits (rectWord a b) 15 8 = _ := (congrArg (bits · 15 8) word).trans (bits_packed fit 1 low rfl rfl)
  have bx : bits (rectWord a b) 23 16 = _ := (congrArg (bits · 23 16) word).trans (bits_packed fit 2 low rfl rfl)
  have b_y : bits (rectWord a b) 31 24 = _ := (congrArg (bits · 31 24) word).trans (bits_packed fit 3 low rfl rfl)
  have corners : scopeRect (rectWord a b) = (a.toNat % 256, a.toNat / 256, b.toNat % 256, b.toNat / 256) := by
    rw [scopeRect, ax, ay, bx, b_y]
  rw [State.scopeOk, high, kind, corners]
  show (decide _ && decide _ && (_ == _) && (_ == _)) = true ↔ _
  rw [Bool.and_eq_true, Bool.and_eq_true, Bool.and_eq_true, decide_eq_true_eq, decide_eq_true_eq, beq_iff_eq, beq_iff_eq, and_assoc, and_assoc]

end

/-! ## The cores of a scope -/

section
variable (s : State) {v a : Word} (coordinate : a.toNat < 2 ^ 16)
include coordinate

theorem scopeHas_rectangle (kind : scopeKind v = 0) : s.scopeHas v (coordHandle a) = true ↔
    s.liveFor s.me (a.toNat / 256 * 256 + a.toNat % 256) = true ∧ bits v 7 0 ≤ a.toNat % 256 ∧ a.toNat % 256 ≤ bits v 23 16 ∧
      bits v 15 8 ≤ a.toNat / 256 ∧ a.toNat / 256 ≤ bits v 31 24 := by
  rw [State.scopeHas, kind, hx_coordHandle coordinate, hy_coordHandle coordinate, Nat.div_add_mod', coordHandle_eq coordinate]
  exact Bool.and_eq_true_iff.trans (and_congr_right fun _x => decide_eq_true_iff)

theorem scopeHas_core (kind : scopeKind v = 1 ∨ scopeKind v = 2) : s.scopeHas v (coordHandle a) = true ↔
    a.toNat / 256 * 256 + a.toNat % 256 = s.now.h % 65536 := by
  rw [Nat.div_add_mod', coordHandle_eq coordinate, State.scopeHas]
  rcases kind with kind | kind <;> (rw [kind]; exact beq_iff_eq)

theorem scopeHas_launch (kind : scopeKind v = 3 ∨ scopeKind v = 4) : s.scopeHas v (coordHandle a) = true ↔
    s.liveFor s.me (a.toNat / 256 * 256 + a.toNat % 256) = true := by
  rw [Nat.div_add_mod', coordHandle_eq coordinate, State.scopeHas]
  rcases kind with kind | kind <;> (rw [kind]; exact Iff.rfl)

end

/-! ## The instructions -/

section
variable {s : State}

theorem exec_coord (o : L2) : exec (.coord o) s =
    if (bits (s.g o.a) 63 16 == 0) = true then .next (s.endLong o.l [.g o.d (s.coordWord (coordHandle (s.g o.a)))])
    else .next (s.raise .illegal 0 11#64) := run_must s ..

theorem exec_rect (o : L3) : exec (.rect o) s =
    if (bits (s.g o.a) 63 16 == 0 && bits (s.g o.b) 63 16 == 0) = true then
      if s.scopeOk s.myDev (rectWord (s.g o.a) (s.g o.b)) = true then .next (s.endLong o.l [.g o.d (rectWord (s.g o.a) (s.g o.b))])
      else .next (s.raise .scope 0 (rectWord (s.g o.a) (s.g o.b)))
    else .next (s.raise .illegal 0 11#64) :=
  (run_must s ..).trans (if_congr Iff.rfl (run_must s ..) rfl)

theorem exec_inrect (o : L3) : exec (.inrect o) s =
    if s.scopeOk s.myDev (s.scopeOf o.b) = true then
      if (bits (s.g o.a) 63 16 == 0) = true then
        .next (s.endLong o.l [.g o.d (ofBool64 (s.scopeHas (s.scopeOf o.b) (coordHandle (s.g o.a))))])
      else .next (s.raise .illegal 0 11#64)
    else .next (s.raise .scope 0 (s.scopeOf o.b)) :=
  (run_must s ..).trans (if_congr Iff.rfl (run_must s ..) rfl)

end

theorem lea_sum (a b c : Word) : (BitVec.ofNat 64 ((a + b + c).toNat % 2 ^ 52)).toNat = (a.toNat + b.toNat + c.toNat) % 2 ^ 52 := by
  have drop (n : Nat) : n % 2 ^ 64 % 2 ^ 52 = n % 2 ^ 52 := Nat.mod_mod_of_dvd n (Nat.pow_dvd_pow 2 (by decide))
  rw [BitVec.toNat_ofNat, Nat.mod_eq_of_lt ((Nat.mod_lt _ (by decide)).trans (by decide : 2 ^ 52 < 2 ^ 64)), BitVec.toNat_add, BitVec.toNat_add,
    drop, Nat.add_mod, drop, ← Nat.add_mod]

theorem narrow_iff {w : Word} : (bits w 63 16 == 0) = true ↔ w.toNat < 2 ^ 16 := beq_63_iff (by decide)

theorem not_narrow {w : Word} (wide : 2 ^ 16 ≤ w.toNat) : ¬(bits w 63 16 == 0) = true := fun zero => Nat.not_lt.2 wide (narrow_iff.1 zero)

theorem exec_coord_of_narrow {s : State} (o : L2) (coordinate : (s.g o.a).toNat < 2 ^ 16) : exec (.coord o) s =
    .next (s.endLong o.l [.g o.d (BitVec.ofNat 64 (packed (coordFields ((s.g o.a).toNat % 256) ((s.g o.a).toNat / 256)
      (s.liveFor s.me (coordHandle (s.g o.a))))))]) :=
  (exec_coord o).trans ((if_pos (narrow_iff.2 coordinate)).trans (congrArg (fun w => Host.Outcome.next (s.endLong o.l [.g o.d w]))
    (coordWord_eq s (hx_coordHandle coordinate) (hy_coordHandle coordinate) (byte_lt _) (coordinate_y coordinate))))

section
variable {a : Word} (coordinate : a.toNat < 2 ^ 16) (live : Bool) (i : Nat) {hi lo v : Nat}
include coordinate

theorem coordFields_fit_of_narrow : FieldsFit (coordFields (a.toNat % 256) (a.toNat / 256) live) :=
  coordFields_fit (byte_lt _) (coordinate_y coordinate) live

theorem bits_coord (is : (coordFields (a.toNat % 256) (a.toNat / 256) live)[i]? = some (hi - lo + 1, v))
    (place : (([8, 8, 5, 3, 4, 4, 6, 2, 8, 8, 7, 1] : List Nat).take i).sum = lo) :
    bits (BitVec.ofNat 64 (packed (coordFields (a.toNat % 256) (a.toNat / 256) live))) hi lo = v :=
  bits_packed (coordFields_fit_of_narrow coordinate live) i (Nat.le_refl 64) is (List.map_take ▸ place)

end

section
variable {s : State} (o : L3) (ha : (s.g o.a).toNat < 2 ^ 16) (hb : (s.g o.b).toNat < 2 ^ 16)
include ha hb

theorem exec_rect_of_narrow : exec (.rect o) s =
    if s.scopeOk s.myDev (rectSum (s.g o.a) (s.g o.b)) = true then .next (s.endLong o.l [.g o.d (rectSum (s.g o.a) (s.g o.b))])
    else .next (s.raise .scope 0 (rectSum (s.g o.a) (s.g o.b))) := by
  rw [← rectWord_eq ha hb]
  exact (exec_rect o).trans (if_pos (Bool.and_eq_true_iff.2 ⟨narrow_iff.2 ha, narrow_iff.2 hb⟩))

theorem scopeOk_rectSum : s.scopeOk s.myDev (rectSum (s.g o.a) (s.g o.b)) = true ↔
    (s.g o.a).toNat % 256 ≤ (s.g o.b).toNat % 256 ∧ (s.g o.a).toNat / 256 ≤ (s.g o.b).toNat / 256 ∧
      s.devOf (dieAt ((s.g o.a).toNat % 256) ((s.g o.a).toNat / 256)) = s.myDev ∧
      s.devOf (dieAt ((s.g o.b).toNat % 256) ((s.g o.b).toNat / 256)) = s.myDev :=
  rectWord_eq ha hb ▸ scopeOk_rectWord ha hb s

end

/-- Settles O6, by the checks of each instruction in their order (log entry 57 is the `finfo` of `rect`'s SCOPE trap). -/
theorem addressesAndCoordinates : Obligations.AddressesAndCoordinates := by
  refine ⟨?lea, ?coord, ?coordWide, ?rect, ?inrect⟩
  case lea => exact fun o s => ⟨_, ends_of_endLong rfl, (lea_sum ..).trans_lt (Nat.mod_lt _ (by decide)), lea_sum ..⟩
  case coord =>
    intro o s coordinate x y
    exact ⟨_, ends_of_endLong (exec_coord_of_narrow o coordinate),
      (getLsbD_packed (coordFields_fit_of_narrow coordinate _) 11 rfl rfl (Nat.lt_succ_self 63)).trans
        (congrArg _ ((coordHandle_eq coordinate).trans (Nat.div_add_mod' ..).symm)),
      bits_coord coordinate _ 10 rfl rfl, bits_coord coordinate _ 9 rfl rfl, bits_coord coordinate _ 8 rfl rfl, bits_coord coordinate _ 7 rfl rfl,
      bits_coord coordinate _ 6 rfl rfl, bits_coord coordinate _ 5 rfl rfl, bits_coord coordinate _ 4 rfl rfl, bits_coord coordinate _ 3 rfl rfl,
      bits_coord coordinate _ 2 rfl rfl, bits_coord coordinate _ 1 rfl rfl, bits_coord coordinate _ 0 rfl rfl⟩
  case coordWide => exact fun o s wide => traps_of_raise ((exec_coord o).trans (if_neg (not_narrow wide)))
  case rect =>
    intro o s ax ay bx b_y w inside
    exact ⟨fun far => traps_of_raise ((exec_rect o).trans (if_neg fun both =>
        far.elim (not_narrow · (Bool.and_eq_true_iff.1 both).1) (not_narrow · (Bool.and_eq_true_iff.1 both).2))), fun ha hb =>
      ⟨fun given => ⟨ends_of_endLong ((exec_rect_of_narrow o ha hb).trans (if_pos ((scopeOk_rectSum o ha hb).2 given))),
        (scopeOk_rectSum o ha hb).2 given⟩,
      fun outside => traps_of_raise ((exec_rect_of_narrow o ha hb).trans (if_neg (mt (scopeOk_rectSum o ha hb).1 outside)))⟩⟩
  case inrect =>
    intro o s v
    exact ⟨fun bad => traps_of_raise ((exec_inrect o).trans (if_neg (ne_true_of_eq_false bad))),
      fun ok far => traps_of_raise ((exec_inrect o).trans ((if_pos ok).trans (if_neg (not_narrow far)))),
      fun ok coordinate => ⟨_, ends_of_endLong ((exec_inrect o).trans ((if_pos ok).trans (if_pos (narrow_iff.2 coordinate)))),
        fun kind => isFlag_ofBool64 (scopeHas_rectangle s coordinate kind), fun kind => isFlag_ofBool64 (scopeHas_core s coordinate kind),
        fun kind => isFlag_ofBool64 (scopeHas_launch s coordinate kind)⟩⟩

end Sys2Proof.Proofs
end

section
/-! `csrrd` and `csrwr` (R215 .. R218). -/

namespace Sys2Proof.Proofs

open Sys2Proof.Machine Sys2Proof.Safety Sys2Proof.Laws

/-! ## Values -/

/-- Bits in place are those of a mask. -/
theorem keep_eq (v : Word) (hi lo : Nat) :
    keep v hi lo = v &&& BitVec.ofNat 64 ((2 ^ (hi - lo + 1) - 1) * 2 ^ lo) := by
  refine BitVec.eq_of_getLsbD_eq fun j hj => ?_
  rw [keep, bits, BitVec.getLsbD_and, BitVec.getLsbD_ofNat, BitVec.getLsbD_ofNat, decide_eq_true hj, Bool.true_and, Bool.true_and,
    Nat.testBit_mul_two_pow, Nat.testBit_mul_two_pow, Nat.testBit_mod_two_pow, Nat.testBit_shiftRight, Nat.testBit_two_pow_sub_one]
  by_cases above : lo ≤ j
  · rw [Nat.add_sub_cancel' above, BitVec.testBit_toNat, decide_eq_true above, Bool.true_and, Bool.true_and, Bool.and_comm]
  · rw [decide_eq_false above, Bool.false_and, Bool.false_and, Bool.and_false]

theorem and_allOnes_64 (v : Word) : v = v &&& BitVec.ofNat 64 (2 ^ 64 - 1) := BitVec.and_allOnes.symm

theorem and_mask_of_lt {v : Word} {n : Nat} (small : v.toNat < 2 ^ n) (low : n ≤ 64) : v = v &&& BitVec.ofNat 64 (2 ^ n - 1) := by
  refine BitVec.eq_of_toNat_eq ?_
  rw [BitVec.toNat_and, BitVec.toNat_ofNat, Nat.mod_eq_of_lt (show 2 ^ n - 1 < 2 ^ 64 from ?_), Nat.and_two_pow_sub_one_eq_mod,
    Nat.mod_eq_of_lt small]
  exact (Nat.sub_lt (Nat.two_pow_pos n) one_pos).trans_le (Nat.pow_le_pow_right (by decide) low)

/-! ## The CSRs of a context -/

/-- The CSRs that show what `fbsel` selects (R348). -/
def slotCsrs (d : Die) : List (Nat × Word) :=
  [(0x111, BitVec.ofNat 64 d.fbsel), (0x112, (d.slot d.fbsel).ent0), (0x113, (d.slot d.fbsel).ent1)]

/-- The other CSRs that hold a field, with their values. -/
def plainCsrs (h k : Nat) (c : Core) (d : Die) (x : Ctx) : List (Nat × Word) :=
  [(0x000, c.cycle), (0x001, ctxidWord h k), (0x002, c.launchid), (0x008, c.dscope), (0x010, x.cause), (0x011, x.fpc), (0x012, x.faddr),
    (0x013, x.finfo), (0x014, c.tvec), (0x015, x.tstat), (0x016, x.tscratch), (0x017, x.rpc), (0x020, x.fflags), (0x021, x.aflags),
    (0x022, x.satflags), (0x030, c.evbase), (0x031, c.fobase), (0x032, c.spillbase), (0x033, c.evcnt), (0x040, c.stackbase),
    (0x041, c.stacksize), (0x050, x.atomstat), (0x051, c.atomwd), (0x058, c.tileid), (0x060, c.deqstat), (0x070, c.inboxstat),
    (0x100, d.ptroot), (0x101, d.dctx), (0x110, d.fbstat), (0x114, 0#64), (0x115, d.fbsvc)]

/-- All of these. -/
def fieldCsrs (h k : Nat) (c : Core) (d : Die) (x : Ctx) : List (Nat × Word) := slotCsrs d ++ plainCsrs h k c d x

/-- Their numbers. -/
def fieldNumbers : List Nat :=
  [0x111, 0x112, 0x113, 0x000, 0x001, 0x002, 0x008, 0x010, 0x011, 0x012, 0x013, 0x014, 0x015, 0x016, 0x017, 0x020, 0x021, 0x022, 0x030, 0x031,
    0x032, 0x033, 0x040, 0x041, 0x050, 0x051, 0x058, 0x060, 0x070, 0x100, 0x101, 0x110, 0x114, 0x115]

theorem readCsr_field (s : State) (h k : Nat) : ∀ p ∈ fieldCsrs h k (s.core h) (s.die (hdie h)) (s.ctx h k), s.readCsr h k p.1 = p.2 := by
  iterate 34 refine forall_mem_cons_intro rfl ?_
  exact List.forall_mem_nil _

theorem readCsr_threshold (s : State) (h k : Nat) : ∀ i < 8, s.readCsr h k (0x118 + i) = SMap.get (s.die (hdie h)).mthr 0#64 i := by
  iterate 8 refine Nat.forall_lt_succ_right.2 ⟨?_, rfl⟩
  exact fun i lt => absurd lt (Nat.not_lt_zero i)

theorem csrNumbers_sub (h k : Nat) (c : Core) (d : Die) (x : Ctx) :
    ∀ n ∈ csrNumbers, n ∈ (fieldCsrs h k c d x).map Prod.fst ++ (List.range 8).map (0x118 + ·) := by
  have numbers : (fieldCsrs h k c d x).map Prod.fst = fieldNumbers := rfl
  rw [numbers]
  decide +kernel

/-- A selection changes no other CSR. -/
theorem fieldCsrs_fbsel (h k : Nat) (c : Core) (d : Die) (x : Ctx) (sel : Nat) :
    (fieldCsrs h k c { d with fbsel := sel } x).filter (fun p => !(Nat.ble 0x111 p.1 && Nat.ble p.1 0x113)) =
      (fieldCsrs h k c d x).filter (fun p => !(Nat.ble 0x111 p.1 && Nat.ble p.1 0x113)) := by
  rw [fieldCsrs, List.filter_append, fieldCsrs, List.filter_append]
  exact congrArg (List.filter _) (rfl : plainCsrs h k c { d with fbsel := sel } x = plainCsrs h k c d x)

/-- A threshold is no field. -/
theorem fieldCsrs_threshold (h k : Nat) (c : Core) (d : Die) (x : Ctx) (m : SMap Word) :
    fieldCsrs h k c { d with mthr := m } x = fieldCsrs h k c d x := rfl

/-- A number is that of a field, or of a threshold. -/
theorem csr_cases {n : Nat} (listed : n ∈ csrNumbers) (s : State) (h k : Nat) :
    (∃ v, (n, v) ∈ fieldCsrs h k (s.core h) (s.die (hdie h)) (s.ctx h k)) ∨ ∃ i < 8, n = 0x118 + i := by
  have found := csrNumbers_sub h k (s.core h) (s.die (hdie h)) (s.ctx h k) n listed
  rw [List.mem_append, List.mem_map, List.mem_map] at found
  refine found.imp (fun field => ?_) fun threshold => ?_
  · obtain ⟨p, mem, rfl⟩ := field
    exact ⟨p.2, mem⟩
  · obtain ⟨i, mem, rfl⟩ := threshold
    exact ⟨i, List.mem_range.1 mem, rfl⟩

/-- The CSRs but those that `skip` names read alike in states with the same fields but for those. -/
theorem readCsr_kept {s t : State} {h k : Nat} {c : Core} {d : Die} {x : Ctx} (skip : Nat → Bool)
    (core : t.core h = c) (die : t.die (hdie h) = d) (ctx : t.ctx h k = x)
    (fields : (fieldCsrs h k c d x).filter (fun p => !skip p.1) =
      (fieldCsrs h k (s.core h) (s.die (hdie h)) (s.ctx h k)).filter (fun p => !skip p.1))
    (limits : ∀ i < 8, skip (0x118 + i) = false → SMap.get d.mthr 0#64 i = SMap.get (s.die (hdie h)).mthr 0#64 i)
    {n : Nat} (listed : n ∈ csrNumbers) (kept : skip n = false) : t.readCsr h k n = s.readCsr h k n := by
  subst core die ctx
  rcases csr_cases listed s h k with ⟨v, mem⟩ | ⟨i, lt, rfl⟩
  · have same : (n, v) ∈ (fieldCsrs h k (t.core h) (t.die (hdie h)) (t.ctx h k)).filter (fun p => !skip p.1) :=
      fields ▸ List.mem_filter.2 ⟨mem, congrArg not kept⟩
    exact (readCsr_field t h k _ (List.mem_filter.1 same).1).trans (readCsr_field s h k _ mem).symm
  · rw [readCsr_threshold _ _ _ i lt, readCsr_threshold _ _ _ i lt, limits i lt kept]

/-! ## Writes of one CSR -/

/-- A CSR write (R215): the CSR reads as its bits of the value, no other CSR reads otherwise (but for the slot that `fbsel` selects), and
nothing but the CSRs differs. -/
def CsrWritten (s t : State) (h k n m : Nat) (v : Word) : Prop :=
  t.readCsr h k n = v &&& BitVec.ofNat 64 m ∧
  (∀ n' ∈ csrNumbers, n' ≠ n → ¬(n = 0x111 ∧ (n' = 0x112 ∨ n' = 0x113)) → t.readCsr h k n' = s.readCsr h k n') ∧
  t.now = s.now ∧ (t.ctx h k).pc = (s.ctx h k).pc ∧ (∀ r, (t.ctx h k).gr r = (s.ctx h k).gr r) ∧ SameBytes s t ∧
  ∀ h' k', ctxKey h' k' ≠ ctxKey h k → t.ctx h' k' = s.ctx h' k'

section
variable {s : State} {h k n m : Nat} {v : Word}

/-- A field of the core. -/
theorem csrWritten_core {f : Core → Core} (get : Core → Word) (reads : ∀ t : State, t.readCsr h k n = get (t.core h))
    (value : get (f (s.core h)) = v &&& BitVec.ofNat 64 m)
    (fields : ∀ c d x, (fieldCsrs h k (f c) d x).filter (fun p => !(p.1 == n)) = (fieldCsrs h k c d x).filter (fun p => !(p.1 == n))) :
    CsrWritten s (s.modCore h f) h k n m v := by
  have core := core_modCore_same s h f
  refine ⟨(reads _).trans ((congrArg get core).trans value), fun n' listed ne _x => ?_, rfl, rfl, fun _x => rfl, fun _x _y => rfl, fun _x _y _z => rfl⟩
  exact readCsr_kept (d := s.die (hdie h)) (x := s.ctx h k) (· == n) core rfl rfl (fields ..) (fun _x _y _z => rfl) listed (beq_false_of_ne ne)

/-- A field of the context. -/
theorem csrWritten_ctx {f : Ctx → Ctx} (get : Ctx → Word) (reads : ∀ t : State, t.readCsr h k n = get (t.ctx h k))
    (value : get (f (s.ctx h k)) = v &&& BitVec.ofNat 64 m)
    (fields : ∀ c d x, (fieldCsrs h k c d (f x)).filter (fun p => !(p.1 == n)) = (fieldCsrs h k c d x).filter (fun p => !(p.1 == n)))
    (pc : ∀ x, (f x).pc = x.pc) (g : ∀ x, (f x).g = x.g) : CsrWritten s (s.modCtx h k f) h k n m v := by
  have ctx := ctx_modCtx_same s h k f
  refine ⟨(reads _).trans ((congrArg get ctx).trans value), fun n' listed ne _x => ?_, rfl, (congrArg Ctx.pc ctx).trans (pc _), fun r => ?_,
    fun _x _y => rfl, fun h' k' ne => ctx_modCtx_other _ _ ne⟩
  · exact readCsr_kept (t := s.modCtx h k f) (c := s.core h) (d := s.die (hdie h)) (· == n) rfl rfl ctx (fields ..) (fun _x _y _z => rfl) listed (beq_false_of_ne ne)
  · rw [ctx, Ctx.gr, g]
    rfl

end

section
variable (s : State) (h k : Nat) {v : Word}

theorem csrWritten_fbsel : CsrWritten s (s.modDie (hdie h) (fun d => { d with fbsel := bits v 2 0 })) h k 0x111 7 v := by
  have die := die_modDie_same s (hdie h) (fun d => { d with fbsel := bits v 2 0 })
  refine ⟨(congrArg (fun d : Die => BitVec.ofNat 64 d.fbsel) die).trans ?_, fun n' listed ne other => ?_, rfl, rfl, fun _x => rfl, fun _x _y => rfl,
    fun _x _y _z => rfl⟩
  · exact (congrArg _ (Nat.mul_one _)).symm.trans (keep_eq v 2 0)
  · have kept : (Nat.ble 0x111 n' && Nat.ble n' 0x113) = false := by
      refine Bool.eq_false_of_not_eq_true fun both => ?_
      obtain ⟨low, high⟩ := Bool.and_eq_true_iff.1 both
      rcases (Nat.le_of_ble_eq_true low).eq_or_lt with eq | lt
      · exact ne eq.symm
      · rcases (Nat.le_of_ble_eq_true high).eq_or_lt with eq | lt'
        · exact other ⟨rfl, .inr eq⟩
        · exact other ⟨rfl, .inl (Nat.le_antisymm (Nat.le_of_lt_succ lt') lt)⟩
    exact readCsr_kept (t := s.modDie (hdie h) _) (c := s.core h) (x := s.ctx h k) (fun n => Nat.ble 0x111 n && Nat.ble n 0x113) rfl die rfl
      (fieldCsrs_fbsel ..) (fun _x _y _z => rfl) listed kept

theorem csrWritten_threshold {i : Nat} (lt : i < 8) :
    CsrWritten s (s.modDie (hdie h) (fun d => { d with mthr := SMap.put d.mthr i (keep v 31 0) })) h k (0x118 + i) (2 ^ 32 - 1) v := by
  have die := die_modDie_same s (hdie h) (fun d => { d with mthr := SMap.put d.mthr i (keep v 31 0) })
  refine ⟨?_, fun n' listed ne other => ?_, rfl, rfl, fun _x => rfl, fun _x _y => rfl, fun _x _y _z => rfl⟩
  · rw [readCsr_threshold _ _ _ i lt, die]
    exact (get_put_same ..).trans (keep_eq v 31 0)
  · refine readCsr_kept (t := s.modDie (hdie h) _) (c := s.core h) (x := s.ctx h k) (· == 0x118 + i) rfl die rfl (congrArg _ (fieldCsrs_threshold ..)) (fun j _x kept => ?_) listed (beq_false_of_ne ne)
    exact get_put_other (m := (s.die (hdie h)).mthr) _ _ fun eq => ne_of_beq_false kept (eq ▸ rfl)

/-- A `csrwr` of a CSR that holds bits gives them to it. -/
theorem writeCsr_written : ∀ p ∈ csrMasks, (p.1 = 8 → v.toNat < 2 ^ 35) → ∃ t, s.writeCsr h k p.1 v = .ok t ∧ CsrWritten s t h k p.1 p.2 v := by
  refine forall_mem_cons_intro (fun scope => ⟨_, if_neg (not_not.mpr ((bits_63_eq_zero_iff (by decide)).2 (scope rfl))), csrWritten_core (·.dscope) (fun _x => rfl) (and_mask_of_lt (scope rfl) (by decide)) fun _x _y _z => rfl⟩) ?_
  refine forall_mem_cons_intro (fun _x => ⟨_, rfl, csrWritten_ctx (·.cause) (fun _x => rfl) (keep_eq v 7 0) (fun _x _y _z => rfl) (fun _x => rfl) fun _x => rfl⟩) ?_
  refine forall_mem_cons_intro (fun _x => ⟨_, rfl, csrWritten_ctx (·.fpc) (fun _x => rfl) (and_allOnes_64 v) (fun _x _y _z => rfl) (fun _x => rfl) fun _x => rfl⟩) ?_
  refine forall_mem_cons_intro (fun _x => ⟨_, rfl, csrWritten_ctx (·.faddr) (fun _x => rfl) (and_allOnes_64 v) (fun _x _y _z => rfl) (fun _x => rfl) fun _x => rfl⟩) ?_
  refine forall_mem_cons_intro (fun _x => ⟨_, rfl, csrWritten_ctx (·.finfo) (fun _x => rfl) (and_allOnes_64 v) (fun _x _y _z => rfl) (fun _x => rfl) fun _x => rfl⟩) ?_
  refine forall_mem_cons_intro (fun _x => ⟨_, rfl, csrWritten_core (·.tvec) (fun _x => rfl) (keep_eq v 51 1) fun _x _y _z => rfl⟩) ?_
  refine forall_mem_cons_intro (fun _x => ⟨_, rfl, csrWritten_ctx (·.tstat) (fun _x => rfl) (keep_eq v 1 0) (fun _x _y _z => rfl) (fun _x => rfl) fun _x => rfl⟩) ?_
  refine forall_mem_cons_intro (fun _x => ⟨_, rfl, csrWritten_ctx (·.tscratch) (fun _x => rfl) (and_allOnes_64 v) (fun _x _y _z => rfl) (fun _x => rfl) fun _x => rfl⟩) ?_
  refine forall_mem_cons_intro (fun _x => ⟨_, rfl, csrWritten_ctx (·.rpc) (fun _x => rfl) (and_allOnes_64 v) (fun _x _y _z => rfl) (fun _x => rfl) fun _x => rfl⟩) ?_
  refine forall_mem_cons_intro (fun _x => ⟨_, rfl, csrWritten_ctx (·.fflags) (fun _x => rfl) (keep_eq v 4 0) (fun _x _y _z => rfl) (fun _x => rfl) fun _x => rfl⟩) ?_
  refine forall_mem_cons_intro (fun _x => ⟨_, rfl, csrWritten_ctx (·.aflags) (fun _x => rfl) (keep_eq v 3 0) (fun _x _y _z => rfl) (fun _x => rfl) fun _x => rfl⟩) ?_
  refine forall_mem_cons_intro (fun _x => ⟨_, rfl, csrWritten_ctx (·.satflags) (fun _x => rfl) (keep_eq v 1 0) (fun _x _y _z => rfl) (fun _x => rfl) fun _x => rfl⟩) ?_
  refine forall_mem_cons_intro (fun _x => ⟨_, rfl, csrWritten_core (·.evbase) (fun _x => rfl) (keep_eq v 51 1) fun _x _y _z => rfl⟩) ?_
  refine forall_mem_cons_intro (fun _x => ⟨_, rfl, csrWritten_core (·.fobase) (fun _x => rfl) (keep_eq v 16 6) fun _x _y _z => rfl⟩) ?_
  refine forall_mem_cons_intro (fun _x => ⟨_, rfl, csrWritten_core (·.stackbase) (fun _x => rfl) (keep_eq v 16 6) fun _x _y _z => rfl⟩) ?_
  refine forall_mem_cons_intro (fun _x => ⟨_, rfl, csrWritten_core (·.stacksize) (fun _x => rfl) (keep_eq v 16 6) fun _x _y _z => rfl⟩) ?_
  refine forall_mem_cons_intro (fun _x => ⟨_, rfl, csrWritten_ctx (·.atomstat) (fun _x => rfl) (keep_eq v 2 0) (fun _x _y _z => rfl) (fun _x => rfl) fun _x => rfl⟩) ?_
  refine forall_mem_cons_intro (fun _x => ⟨_, rfl, csrWritten_core (·.tileid) (fun _x => rfl) (and_allOnes_64 v) fun _x _y _z => rfl⟩) ?_
  refine forall_mem_cons_intro (fun _x => ⟨_, rfl, csrWritten_fbsel ..⟩) ?_
  refine forall_mem_cons_intro (fun _x => ⟨_, rfl, csrWritten_threshold s h k (i := 0) (by decide)⟩) ?_
  refine forall_mem_cons_intro (fun _x => ⟨_, rfl, csrWritten_threshold s h k (i := 1) (by decide)⟩) ?_
  refine forall_mem_cons_intro (fun _x => ⟨_, rfl, csrWritten_threshold s h k (i := 2) (by decide)⟩) ?_
  refine forall_mem_cons_intro (fun _x => ⟨_, rfl, csrWritten_threshold s h k (i := 3) (by decide)⟩) ?_
  refine forall_mem_cons_intro (fun _x => ⟨_, rfl, csrWritten_threshold s h k (i := 4) (by decide)⟩) ?_
  refine forall_mem_cons_intro (fun _x => ⟨_, rfl, csrWritten_threshold s h k (i := 5) (by decide)⟩) ?_
  refine forall_mem_cons_intro (fun _x => ⟨_, rfl, csrWritten_threshold s h k (i := 6) (by decide)⟩) ?_
  refine forall_mem_cons_intro (fun _x => ⟨_, rfl, csrWritten_threshold s h k (i := 7) (by decide)⟩) ?_
  exact List.forall_mem_nil _

end

/-- A CSR without a writable field refuses a write (R215). -/
theorem writeCsr_readOnly (s : State) (h k : Nat) (v : Word) :
    ∀ n ∈ [0x000, 0x001, 0x002, 0x033, 0x060, 0x100, 0x101, 0x110, 0x112, 0x113, 0x115], s.writeCsr h k n v = .error (illegal11 0) := by
  iterate 11 refine forall_mem_cons_intro rfl ?_
  exact List.forall_mem_nil _

/-! ## An instruction without results ends -/

/-- A context at an instruction, with these outstanding. -/
def Ctx.to (x : Ctx) (pc : Word) (out : List Outst) : Ctx := { x with pc := pc, out := out }

theorem readCsr_congr {s t : State} {h k : Nat} {pc : Word} {out : List Outst} (core : t.core h = s.core h)
    (die : t.die (hdie h) = s.die (hdie h)) (ctx : t.ctx h k = Ctx.to (s.ctx h k) pc out) (n : Nat) :
    t.readCsr h k n = s.readCsr h k n := by
  unfold State.readCsr
  rw [ctx, core, die]
  rfl

theorem die_of_dies {s t : State} (dies : t.dies = s.dies) (d : Nat) : t.die d = s.die d := congrArg (SMap.get · _ d) dies

/-- An instruction without results ends: its context steps on, and what is outstanding may grow. -/
theorem ended_nil {s t : State} {l : BitVec 4} (ended : Ended s t l []) :
    (∃ out, t.cur = Ctx.to s.cur (s.cur.pc + s.len) out) ∧ t.me = s.me ∧ t.now = s.now ∧ t.dies = s.dies ∧ SameBytes s t ∧ OthersSame s t := by
  suffices moved : (∃ out, t.cur = Ctx.to s.cur (s.cur.pc + s.len) out) ∧ t.me = s.me ∧ t.now = s.now ∧ t.dies = s.dies from
    ⟨moved.1, moved.2.1, moved.2.2.1, moved.2.2.2, ended.2.2.1, ended.1⟩
  by_cases outstanding : s.now.defer = true ∨ l ≠ 0#4
  · have last := (if_pos outstanding).mp ended.2.2.2
    exact ⟨⟨_, last.2⟩, (congrArg State.me last.1 :), (congrArg State.now last.1 :), (congrArg State.dies last.1 :)⟩
  · have last := (if_neg outstanding).mp ended.2.2.2
    exact ⟨⟨s.cur.out, last.2.1⟩, last.2.2, (congrArg State.now last.1 :), (congrArg State.dies last.1 :)⟩

/-- A CSR's write ends. -/
theorem csrWritten_ended {s t u : State} {n m : Nat} {v : Word} {l : BitVec 4} (wrote : CsrWritten s t s.now.h s.now.k n m v)
    (ended : Ended t u l []) :
    u.readCsr s.now.h s.now.k n = v &&& BitVec.ofNat 64 m ∧
      (∀ n' ∈ csrNumbers, n' ≠ n → ¬(n = 0x111 ∧ (n' = 0x112 ∨ n' = 0x113)) →
        u.readCsr s.now.h s.now.k n' = s.readCsr s.now.h s.now.k n') ∧
      u.cur.pc = s.cur.pc + s.len ∧ (∀ r, u.g r = s.g r) ∧ SameBytes s u ∧ OthersSame s u := by
  have now : t.now = s.now := wrote.2.2.1
  have after : u.now = s.now := (ended_nil ended).2.2.1.trans now
  obtain ⟨out, cur⟩ := (ended_nil ended).1
  have ctx : u.ctx s.now.h s.now.k = Ctx.to (t.ctx s.now.h s.now.k) (t.cur.pc + t.len) out := by
    have cur : u.ctx u.now.h u.now.k = Ctx.to (t.ctx t.now.h t.now.k) (t.cur.pc + t.len) out := cur
    rwa [after, now] at cur
  have core : u.core s.now.h = t.core s.now.h := by
    have me : u.core u.now.h = t.core t.now.h := (ended_nil ended).2.1
    rwa [after, now] at me
  have at_ : u.cur = u.ctx s.now.h s.now.k := congrArg (fun n : Now => u.ctx n.h n.k) after
  have read := readCsr_congr core (die_of_dies (ended_nil ended).2.2.2.1 _) ctx
  refine ⟨(read n).trans wrote.1, fun n' listed ne free => (read n').trans (wrote.2.1 n' listed ne free), ?_, fun r => ?_,
    fun sp a => ((ended_nil ended).2.2.2.2.1 sp a).trans (wrote.2.2.2.2.2.1 sp a),
    fun h k ne => ((ended_nil ended).2.2.2.2.2 h k (now ▸ ne)).trans (wrote.2.2.2.2.2.2 h k ne)⟩
  · have len : t.len = s.len := congrArg (fun n : Now => BitVec.ofNat 64 (2 * n.words.length)) now
    exact ((congrArg Ctx.pc (at_.trans ctx)).trans (congrArg (t.cur.pc + ·) len)).trans
      (congrArg (· + s.len) ((congrArg (fun n : Now => (t.ctx n.h n.k).pc) now).trans wrote.2.2.2.1))
  · exact (congrArg (Ctx.gr · r) (at_.trans ctx)).trans (wrote.2.2.2.2.1 r)

section
variable {o : CsrOps} {s : State}

theorem exec_csrrd_of_may (may : CsrMay s o.n.toNat false) :
    exec (.csrrd o) s = .next (s.endLong o.l [.g o.d (s.readCsr s.now.h s.now.k o.n.toNat)]) :=
  (run_must s ..).trans ((if_pos (Bool.or_eq_true_iff.2 (may.1.imp_right (congrArg not)))).trans ((run_must s ..).trans (if_pos (congrArg not may.2))))

theorem exec_csrwr_of_may (may : CsrMay s o.n.toNat true) :
    exec (.csrwr o) s = s.run (s.writeCsr s.now.h s.now.k o.n.toNat (s.g o.d) >>= fun t => .ok (t.endLong o.l [])) :=
  (run_must s ..).trans ((if_pos (Bool.or_eq_true_iff.2 (may.1.imp_right (congrArg not)))).trans ((run_must s ..).trans (if_pos (congrArg not may.2))))

theorem exec_csrwr_of_error {e : Stop} (may : CsrMay s o.n.toNat true) (stops : s.writeCsr s.now.h s.now.k o.n.toNat (s.g o.d) = .error e) :
    exec (.csrwr o) s = s.stop e :=
  (exec_csrwr_of_may may).trans (congrArg (fun r : Except Stop State => s.run (r >>= fun t => .ok (t.endLong o.l []))) stops)

/-- PRIV, with the number and the last word (R175, R220). -/
theorem priv_traps {i : Instr} {n : Nat} {w : IWord} (last : s.now.words.getLast? = some w) (run : exec i s = s.stop (s.privTrap true n)) :
    Traps i s 3 0 (BitVec.ofNat 64 (2 ^ 28 + n * 2 ^ 16 + w.toNat)) := by
  rw [State.privTrap, List.getLastD_eq_getLast?, last] at run
  exact traps_of_raise run

section
variable (user : s.cur.supervisor = false)
include user

theorem user_refused {p : Bool} (privileged : p = true) : ¬(s.cur.supervisor || !p) = true := by
  rw [user, privileged]
  exact Bool.false_ne_true

end

end

/-- Settles O8, by what each CSR's write does (log entry 14 names the bits that it stores). -/
theorem controlRegisters : Obligations.ControlRegisters := by
  refine ⟨⟨?read, ?write, ?scope, ?readOnly⟩, ?userRead, ?userWrite⟩
  case read => exact fun o s may => ends_of_endLong (exec_csrrd_of_may may)
  case write =>
    intro o s m listed may scope
    obtain ⟨t, written, wrote⟩ := writeCsr_written s s.now.h s.now.k (v := s.g o.d) _ listed scope
    exact leads_of_eq ((exec_csrwr_of_may may).trans (congrArg (fun r : Except Stop State => s.run (r >>= fun t => .ok (t.endLong o.l []))) written))
      (csrWritten_ended wrote (endLong_ended ..))
  case scope =>
    intro o s number may wide
    have stops : s.writeCsr s.now.h s.now.k o.n.toNat (s.g o.d) = .error (scopeTrap (s.g o.d)) := by
      rw [number]
      exact if_pos fun zero => Nat.not_lt.2 wide ((bits_63_eq_zero_iff (by decide)).1 zero)
    exact traps_of_raise (c := .scope) (exec_csrwr_of_error (number ▸ may) stops)
  case readOnly =>
    exact fun o s listed may => traps_of_raise (c := .illegal) (exec_csrwr_of_error may (writeCsr_readOnly _ _ _ _ _ listed))
  case userRead =>
    intro o s w user last number
    have privileged : csrPrivileged o.n.toNat false = true := by simp [csrPrivileged, number]
    exact priv_traps last ((run_must s ..).trans (if_neg (user_refused user privileged)))
  case userWrite =>
    intro o s w user last number
    have privileged : csrPrivileged o.n.toNat true = true := by simp [csrPrivileged, number]
    exact priv_traps last ((run_must s ..).trans (if_neg (user_refused user privileged)))

end Sys2Proof.Proofs
end

section
/-! A launch on a core whose local memory's keys an image is filed under. -/

namespace Sys2Proof.Proofs

open Sys2Proof.Machine Sys2Proof.Safety Sys2Proof.Laws

/-- Device 0 of 64 whose queue 0 holds one packet, of zeros, that has been checked; under the part that core 0's local memory begins
an image is filed, with a byte at offset 0x1000. -/
noncomputable def imagedLaunch : State :=
  { ((((State.reset.setCtl pmodeAddr 2).setCtl (mg 8) 1).setCtl (qAddr 0 0 + 8) 0x401).setCtl (qAddr 0 0 + 0x10) 1).setCtl (dctxRec 0 0 + 0x18) 1 with
    checked := [(0, 1)], images := [(localKey 0 0, { cells := [(0, 1)] })] }

/-- The byte of local memory that the image gives. -/
noncomputable def imagedByte (t : State) : Byte := t.pocByte (.local_ 0) (localKey 0 0x1000)

theorem imagedLaunch_keeps : nextValue imagedByte (exec (.evDispatcherSelect 0) imagedLaunch) ≠ some unwritten := by decide +kernel

theorem imagedLaunch_queue {q : Nat} (offered : Offers imagedLaunch 0 q) : q = 0 := by
  have enabled : ∀ q < 4, (qCtl imagedLaunch 0 q).getLsbD 0 = true → q = 0 := by decide +kernel
  exact enabled q offered.1 offered.2.1

theorem imagedLaunch_chosen : HeadChosen imagedLaunch 0 0 :=
  ⟨⟨by decide, by decide +kernel, by unfold qValid; decide +kernel, by decide +kernel, by decide +kernel, by decide +kernel⟩,
    fun _q offered other => absurd (imagedLaunch_queue offered) other, fun _l waiting => absurd waiting.1 List.not_mem_nil⟩

theorem imagedLaunch_free : FreeChoruses imagedLaunch 0 (List.range 32) := by
  refine ⟨List.pairwise_lt_range, fun c => List.mem_range.trans ⟨fun low => ?_, fun free => ?_⟩⟩
  · exact ⟨low.trans (by decide), Nat.div_eq_of_lt low, rfl, fun _l held => absurd held List.not_mem_nil⟩
  · exact Nat.div_eq_zero_iff_lt (by decide) |>.1 free.2.1

theorem imagedByte_handled {s u t : State} {dev : Nat} (handled : HandledTo s u t dev) : imagedByte t = imagedByte u := by
  by_cases same : u = s
  · exact congrArg imagedByte ((handled.1 same).trans same.symm)
  · exact (congrArg imagedByte (handled.2 same).1 :)

/-- Refutes O42: the launch that `imagedLaunch` dispatches does not empty the local memory of its core 0. -/
theorem not_queuesAndLaunches : ¬Obligations.QueuesAndLaunches := by
  refine fun h => Exists.elim ((h.2.2.2 0 0 imagedLaunch ⟨by decide +kernel, by decide +kernel, rfl⟩ imagedLaunch_chosen).2.2.2
    (.inl (by decide +kernel))) fun v taken => not_leads imagedByte imagedLaunch_keeps ((taken.2.2.2 (List.range 32)
      (fun late => late.2.1 (by decide +kernel)) imagedLaunch_free).1 (by decide +kernel)) fun t done => ?_
  refine done.elim fun u done => (imagedByte_handled done.1).trans (done.2.elim fun v' done => done.elim fun l done => ?_)
  exact (congrArg imagedByte done.1.1 :).trans
    (((done.2.2.2.1 0 ⟨by decide, rfl⟩ (by rw [done.2.1]; decide +kernel)).1.2.2.2.2 0x1000 (by decide)).1 :)

end Sys2Proof.Proofs
end

section
/-! Tagged operations and their waiting lists (R63, R64, R274, R275). -/

namespace Sys2Proof.Proofs

open Sys2Proof.Machine Sys2Proof.Safety Sys2Proof.Laws

/-! ## Writes to a word of local memory -/

/-- A state with this memory. -/
def withMem (s : State) (m : Memory) (p : SMap Bool) : State := { s with mem := m, poison := p }

theorem setPocs_local (h a : Nat) (bs : List Byte) (s : State) : s.setPocs (.local_ h) a bs = s.setRaws a bs :=
  List.rec (motive := fun bs => ∀ s : State, ∀ a, s.setPocs (.local_ h) a bs = s.setRaws a bs) (fun _s _a => rfl)
    (fun b _bs ih s a => ih (s.setRaw a b) (a + 1)) bs s a

theorem setRaws_eq (a : Nat) (bs : List Byte) (s : State) : s.setRaws a bs = withMem s (s.setRaws a bs).mem s.poison :=
  List.rec (motive := fun bs => ∀ s : State, ∀ a, s.setRaws a bs = withMem s (s.setRaws a bs).mem s.poison) (fun _s _a => rfl)
    (fun b _bs ih s a => ih (s.setRaw a b) (a + 1)) bs s a

theorem putPoc_local (s : State) (h a : Nat) (bs : List Byte) :
    ∃ m p, s.putPoc (.local_ h) a bs = withMem s m p ∧ ∀ c, (withMem s m p).rawByte c = (s.setRaws a bs).rawByte c :=
  ⟨(s.setRaws a bs).mem, (s.unpoison a bs.length).poison, congrArg (fun t => t.unpoison a bs.length) ((setPocs_local h a bs s).trans (setRaws_eq a bs s)),
    fun c => Eq.trans (b := (withMem s (s.setRaws a bs).mem s.poison).rawByte c) rfl (congrArg (State.rawByte · c) (setRaws_eq a bs s).symm)⟩

theorem pocByte_withMem {s : State} {m : Memory} {p : SMap Bool} (sp : Space) {a : Nat} (same : (withMem s m p).rawByte a = s.rawByte a) :
    (withMem s m p).pocByte sp a = s.pocByte sp a := by
  show (match s.devCopy sp a with | some l => lineByte l (a % 64) | none => (withMem s m p).rawByte a) = _
  rw [same]
  rfl

theorem storedAt_putPoc (s : State) (h a : Nat) (bs : List Byte) : StoredAt s (s.putPoc (.local_ h) a bs) ⟨.local_ h, a⟩ bs :=
  (putPoc_local s h a bs).elim fun _m found => found.elim fun _p is => is.1 ▸
    ⟨fun j _b listed => (is.2 (a + j)).trans ((rawByte_setRaws bs s a j (List.getElem?_eq_some_iff.1 listed).1).trans
      (List.getElem?_eq_some_iff.1 listed).2), fun sp c apart => pocByte_withMem sp ((is.2 c).trans (rawByte_setRaws_other bs s a c apart))⟩

/-! ## What changes beside the word -/

/-- A core with these lines in its L1 and these tags. -/
def retagged (c : Core) (l1 : SMap (BitVec 512)) (tags : SMap Bool) : Core := { c with l1 := l1, tags := tags }

/-- What `MemoryOnly` asks of a core. -/
def CoreKept (c d : Core) : Prop := d = { c with l1 := d.l1, tlb := d.tlb, tags := d.tags, seen := d.seen, newer := d.newer }

/-- A state with these cores. -/
def withCores (s : State) (cs : SMap Core) : State := { s with cores := cs }

theorem memoryOnly_retagged {s t : State} (only : MemoryOnly s t) (g : Nat) (f : Core → SMap (BitVec 512)) (q : Core → SMap Bool) :
    MemoryOnly s (t.modCore g fun c => retagged c (f c) (q c)) := by
  refine ⟨congrArg (withCores · (t.modCore g fun c => retagged c (f c) (q c)).cores) only.1, fun h => ?_, only.2.2⟩
  by_cases is : g = h
  · subst is
    exact Eq.subst (motive := CoreKept (s.core g)) (core_modCore_same t g _).symm
      (congrArg (fun c => retagged c (f (t.core g)) (q (t.core g))) (only.2.1 g))
  · exact Eq.subst (motive := CoreKept (s.core h)) (core_modCore_other t _ is).symm (only.2.1 h)

/-- A change of one core that leaves what `f` reads. -/
theorem core_modCore_keep {α : Type} {f : Core → α} {c : Core → Core} (keep : ∀ x, f (c x) = f x) (t : State) (g h : Nat) :
    f ((t.modCore g c).core h) = f (t.core h) := by
  by_cases is : g = h
  · exact is ▸ (congrArg f (core_modCore_same t g c)).trans (keep _)
  · exact congrArg f (core_modCore_other t c is)

theorem tagFull_setTag (c : Core) (w : Nat) (b : Bool) (j : Nat) : (c.setTag w b).tagFull j = if j = w then b else c.tagFull j := by
  have at_ : (c.setTag w b).tagFull j = if w = j then b else c.tagFull j := by
    cases b
    · exact get_del ..
    · exact get_put ..
  exact at_.trans (ite_congr (propext eq_comm) (fun _x => rfl) fun _x => rfl)

/-! ## The step of a tagged operation -/

/-- The state that the step of a tagged operation leaves. -/
def tagged (s : State) (h off : Nat) (op : TagOp) : State :=
  match op with
  | .ldf | .rd => s
  | .take | .clr => s.modCore h fun c => c.setTag (off / 8) false
  | .ste x | .stf x => (s.putPoc (.local_ h) (localKey h off) (leBytes 8 x.toNat)).modCore h fun c => c.setTag (off / 8) true

/-- The value with which a tagged operation answers. -/
def tagAnswer (s : State) (h off : Nat) (op : TagOp) : Word :=
  match op with
  | .ldf | .take => s.localWord h off
  | .rd => ofBool64 ((s.core h).tagFull (off / 8))
  | _ => 0#64

section
variable {s t : State} {h off : Nat} {op : TagOp}

theorem tagTry_of_may (may : ∀ b, tagNeeds op = some b → (s.core h).tagFull (off / 8) = b) :
    s.tagTry h off op = some (tagged s h off op, tagAnswer s h off op) := by
  cases op with
  | ldf => exact if_pos (may true rfl)
  | take => exact if_pos (may true rfl)
  | ste x => exact if_neg (ne_true_of_eq_false (may false rfl))
  | stf x => rfl
  | clr => rfl
  | rd => rfl

theorem tagTry_of_not {b : Bool} (needs : tagNeeds op = some b) (other : (s.core h).tagFull (off / 8) = !b) : s.tagTry h off op = none := by
  cases op with
  | ldf => exact if_neg (ne_true_of_eq_false (other.trans (congrArg not (Option.some.inj needs).symm)))
  | take => exact if_neg (ne_true_of_eq_false (other.trans (congrArg not (Option.some.inj needs).symm)))
  | ste x => exact if_pos (other.trans (congrArg not (Option.some.inj needs).symm))
  | stf x => exact (Option.some_ne_none _ needs.symm).elim
  | clr => exact (Option.some_ne_none _ needs.symm).elim
  | rd => exact (Option.some_ne_none _ needs.symm).elim

theorem storedAt_modCore {loc : Loc} {bs : List Byte} {f : Core → Core} (stored : StoredAt s t loc bs) : StoredAt s (t.modCore h f) loc bs := stored

theorem memoryOnly_refl (s : State) : MemoryOnly s s := ⟨rfl, fun _x => rfl, fun _x => rfl⟩

theorem memoryOnly_putPoc (s : State) (h a : Nat) (bs : List Byte) : MemoryOnly s (s.putPoc (.local_ h) a bs) :=
  (putPoc_local s h a bs).elim fun _m found => found.elim fun _p is => is.1 ▸ ⟨rfl, fun _x => rfl, fun _x => rfl⟩

theorem putPoc_cores (s : State) (h a : Nat) (bs : List Byte) : (s.putPoc (.local_ h) a bs).cores = s.cores :=
  (putPoc_local s h a bs).elim fun _m found => found.elim fun _p is => (congrArg State.cores is.1).trans rfl

/-- The tag of the word of a step is set after what the step stores. -/
theorem tagStep_setTag {b : Bool} {p : Prop} (only : MemoryOnly s t) (cores : t.cores = s.cores) (bytes : p) :
    MemoryOnly s (t.modCore h fun c => c.setTag (off / 8) b) ∧
      (∀ h', h' ≠ h → ((t.modCore h fun c => c.setTag (off / 8) b).core h').tags = (s.core h').tags) ∧
      (∀ j, ((t.modCore h fun c => c.setTag (off / 8) b).core h).tagFull j = if j = off / 8 then b else (s.core h).tagFull j) ∧ p := by
  have same (g : Nat) : t.core g = s.core g := congrArg (SMap.get · _ g) cores
  refine ⟨memoryOnly_retagged only h Core.l1 fun c => (c.setTag (off / 8) b).tags,
    fun h' ne => congrArg Core.tags ((core_modCore_other t _ ne.symm).trans (same h')), fun j => ?_, bytes⟩
  rw [core_modCore_same, tagFull_setTag, same]

theorem tag_same (f : Nat → Bool) (j w : Nat) : f j = if j = w then f w else f j := (ite_eq_right_iff.2 fun is => congrArg f is.symm).symm

theorem tagStep_tagged (s : State) (h off : Nat) (op : TagOp) : TagStep s (tagged s h off op) h off op := by
  cases op with
  | ldf => exact ⟨memoryOnly_refl s, fun _h _ne => rfl, fun j => tag_same _ j _, fun _x _y => rfl⟩
  | rd => exact ⟨memoryOnly_refl s, fun _h _ne => rfl, fun j => tag_same _ j _, fun _x _y => rfl⟩
  | take => exact tagStep_setTag (memoryOnly_refl s) rfl fun _x _y => rfl
  | clr => exact tagStep_setTag (memoryOnly_refl s) rfl fun _x _y => rfl
  | ste x => exact tagStep_setTag (memoryOnly_putPoc ..) (putPoc_cores ..) (storedAt_modCore (storedAt_putPoc ..))
  | stf x => exact tagStep_setTag (memoryOnly_putPoc ..) (putPoc_cores ..) (storedAt_modCore (storedAt_putPoc ..))

end

/-! ## What an acquire changes -/

theorem tags_dropL1 (s : State) (g h : Nat) : ((s.dropL1 g).core h).tags = (s.core h).tags := core_modCore_keep (f := Core.tags) (c := fun c => retagged c [] c.tags) (fun _x => rfl) s g h

theorem tagWait_dropL1 (s : State) (g h : Nat) : ((s.dropL1 g).core h).tagWait = (s.core h).tagWait :=
  core_modCore_keep (f := Core.tagWait) (c := fun c => retagged c [] c.tags) (fun _x => rfl) s g h

theorem tagStep_dropL1 {s u : State} {h off : Nat} {op : TagOp} (step : TagStep s u h off op) (g : Nat) : TagStep s (u.dropL1 g) h off op :=
  ⟨memoryOnly_retagged step.1 g (fun _c => []) Core.tags, fun h' ne => (tags_dropL1 u g h').trans (step.2.1 h' ne),
    fun j => (congrArg (SMap.get · false j) (tags_dropL1 u g h)).trans (step.2.2.1 j), step.2.2.2⟩

theorem tagStep_acquired {s u : State} {h off : Nat} {op : TagOp} (step : TagStep s u h off op) (acq : Bool) (g : Nat) (v : Word) :
    TagStep s (if acq = true then u.acquired g v else u) h off op := by
  by_cases takes : acq = true
  · rw [if_pos takes, State.acquired]
    by_cases far : beyondCore v = true
    · exact (if_pos far).symm ▸ tagStep_dropL1 step g
    · exact (if_neg far).symm ▸ step
  · exact (if_neg takes).symm ▸ step

/-! ## Issue -/

section
variable (s : State) (h off : Nat)

/-- A core's waiting requests without the first like this one. -/
def unlist (w : TagWaiter) (c : Core) : Core := { c with tagWait := c.tagWait.erase w }

/-- A core with one more waiting request. -/
def relist (w : TagWaiter) (c : Core) : Core := { c with tagWait := c.tagWait ++ [w] }

/-- What the head of a word's list does by its entry's kind. -/
def kindStep (w : TagWaiter) (k : PKind) : Option State :=
  match k with
  | .tagged op => (s.tagStep h off op w.h w.k w.id).map fun t => t.modCore h (unlist w)
  | _ => some (s.modCore h (unlist w))

/-- What the head of a word's list does by its entry. -/
def entryStep (w : TagWaiter) (e : Option PEntry) : Option State :=
  match e with
  | none => some (s.modCore h (unlist w))
  | some e => kindStep s h off w e.kind

/-- What a word's list does by its head. -/
def headStep (w : Option TagWaiter) : Option State :=
  match w with
  | none => none
  | some w => entryStep s h off w ((s.ctx w.h w.k).entry w.id)

theorem tagRetry_eq : s.tagRetry h off = headStep s h off ((s.core h).tagHead off) := rfl

/-- How a word's list goes on after a try of its head. -/
def drainStep (n : Nat) (r : Option State) : State :=
  match r with
  | none => s
  | some t => t.tagDrain h off n

theorem tagSettle_of_none {t : State} {h off : Nat} (none : (t.core h).tagHead off = none) : t.tagSettle h off = t :=
  congrArg (drainStep t h off _) (congrArg (headStep t h off) none)

end

/-- What a tagged form does when it issues. -/
def issueOf (s : State) (f : TagForm) : Except Stop State :=
  s.tagIssue f.l f.sem f.xs f.a f.imm f.acc f.need f.op (f.dest.elim .none fun d => .g d false)

/-- The writes of a tagged form. -/
def formWrites (s : State) (h off : Nat) (f : TagForm) : List RegWrite :=
  match f.dest with
  | some d => [.g d (tagValue s h off f.op)]
  | none => []

/-- An instruction that the table of tagged operations names issues that one. -/
def IsTagged (i : Instr) (s : State) (r : Option TagForm) : Prop :=
  (∀ f, r = some f → exec i s = s.run (issueOf s f)) ∧
    ∀ f, r = some f → ∀ h off, tagWrites (f.dest.elim .none fun d => .g d false) (tagAnswer s h off f.op) = formWrites s h off f

theorem isTagged_none {α : Type} (i : α → Instr) (s : State) (o : α) : IsTagged (i o) s none :=
  ⟨fun _f is => (Option.some_ne_none _ is.symm).elim, fun _f is => (Option.some_ne_none _ is.symm).elim⟩

theorem isTagged_some {i : Instr} {s : State} {f : TagForm} (run : exec i s = s.run (issueOf s f))
    (writes : ∀ h off, tagWrites (f.dest.elim .none fun d => .g d false) (tagAnswer s h off f.op) = formWrites s h off f) :
    IsTagged i s (some f) := ⟨fun _f is => Option.some.inj is ▸ run, fun _f is => Option.some.inj is ▸ writes⟩

theorem isTagged (i : Instr) (s : State) : IsTagged i s (tagForm i s) := by
  apply Instr.casesOn (motive := fun i => IsTagged i s (tagForm i s)) i
  case ldf => exact fun o => isTagged_some rfl fun _h _off => rfl
  case ldfTake => exact fun o => isTagged_some rfl fun _h _off => rfl
  case ste => exact fun o => isTagged_some rfl fun _h _off => rfl
  case stf => exact fun o => isTagged_some rfl fun _h _off => rfl
  case tagclr => exact fun o => isTagged_some rfl fun _h _off => rfl
  case tagrd => exact fun o => isTagged_some rfl fun _h _off => rfl
  any_goals exact isTagged_none _ s
  all_goals
    repeat intro k
    exact isTagged_none (Function.const Unit _) s ()

/-! ## Checks in order -/

section
variable {x y z : Except Stop Unit} {e : Stop} {f : Unit → Except Stop State} {r : Except Stop State}

theorem second_error (first : x = .ok ()) (stops : y = .error e) : (x >>= fun _x => y >>= f) = .error e := by
  rw [first, stops]
  rfl

theorem third_error (first : x = .ok ()) (second : y = .ok ()) (stops : z = .error e) : (x >>= fun _x => y >>= fun _x => z >>= f) = .error e := by
  rw [first, second, stops]
  rfl

theorem all_ok (first : x = .ok ()) (second : y = .ok ()) (third : z = .ok ()) : (x >>= fun _x => y >>= fun _x => z >>= fun _x => r) = r := by
  rw [first, second, third]
  rfl

theorem both_ok {β : Type} {r : Except Stop β} (first : x = .ok ()) (second : y = .ok ()) : (x >>= fun _x => y >>= fun _x => r) = r := by
  rw [first, second]
  rfl

theorem bind_ok {α β : Type} {w : Except Stop α} {a : α} {f : α → Except Stop β} (is : w = .ok a) : (w >>= f) = f a := congrArg (· >>= f) is

end

section
variable {i : Instr} {s : State} {f : TagForm} {h off : Nat}

/-- The state in which a tagged form waits in the post queue. -/
def tagPosted (s : State) (f : TagForm) (h off : Nat) : State :=
  (s.enqueue ⟨s.serial, f.sem, s.scopeOf f.xs, ⟨.local_ h, localKey h off⟩, .tagged f.op, 0⟩).stay f.l []
    (.tag (f.dest.elim .none fun d => .g d false))

/-- What a tagged form that may perform does with the step of its operation, if it can take one. -/
def tagRest (s : State) (f : TagForm) (h off : Nat) (r : Option (State × Word)) : Except Stop State :=
  match r with
  | some (t, x) => .ok (((if semAcq f.sem then t.acquired s.now.h (s.scopeOf f.xs) else t).tagSettle h off).endLong f.l
      (tagWrites (f.dest.elim .none fun d => .g d false) x))
  | none => .ok ((tagPosted s f h off).modCore h (relist ⟨off, s.now.h, s.now.k, s.serial⟩))

/-- What a tagged form at an address does when it issues. -/
def issueAt (s : State) (f : TagForm) (va : Nat) : Except Stop State := do
  s.semScope f.sem f.xs
  must (va % 8 == 0) (misalign (BitVec.ofNat 64 va) f.acc 3)
  must (decide (NW ≤ va)) (windowAt (BitVec.ofNat 64 va))
  let (h, off) ← s.nearLoc va 8
  s.checkBuf h off 8 va f.need.wr
  (if f.need.rd then s.checkData va ⟨.local_ h, localKey h off⟩ 8 true else .ok ())
  if s.now.defer || !s.canWrite ⟨.local_ h, localKey h off⟩ 8 f.sem (s.scopeOf f.xs) then .ok (tagPosted s f h off)
  else tagRest s f h off ((s.tagSettle h off).tagTry h off f.op)

/-- The address of a tagged form. -/
def tagVa (s : State) (f : TagForm) : Nat := ((s.g f.a).toNat + f.imm.toNat * 8) % 2 ^ 52

theorem addrMI_tag (s : State) (f : TagForm) : s.addrMI f.a f.imm 8 = tagVa s f := addrMI_eq s ⟨f.l, f.sem, f.xs, f.a, f.a, f.imm⟩ 8 (by decide)

section
variable (form : tagForm i s = some f)
include form

theorem exec_of_issue {r : Except Stop State} (is : issueAt s f (tagVa s f) = r) : exec i s = s.run r :=
  ((isTagged i s).1 f form).trans (congrArg s.run (Eq.trans (congrArg (issueAt s f) (addrMI_tag s f)) is))

variable (ok : f.sem = 0#2 ∨ s.scopeOk s.myDev (s.scopeOf f.xs) = true)
include ok

omit form in
theorem semScope_tag : s.semScope f.sem f.xs = .ok () := semScope_ok (o := ⟨f.l, f.sem, f.xs, f.a, f.a, f.imm⟩) ok

theorem exec_of_misaligned (odd : tagVa s f % 8 ≠ 0) : exec i s = s.run (.error (misalign (BitVec.ofNat 64 (tagVa s f)) f.acc 3)) :=
  exec_of_issue form (second_error (semScope_tag ok) (if_neg (mt beq_iff_eq.1 odd)))

variable (even : tagVa s f % 8 = 0)
include even

theorem exec_of_low (low : tagVa s f < NW) : exec i s = s.run (.error (windowAt (BitVec.ofNat 64 (tagVa s f)))) :=
  exec_of_issue form (third_error (semScope_tag ok) (if_pos (beq_iff_eq.2 even)) (if_neg (mt of_decide_eq_true (Nat.not_le.2 low))))

theorem exec_of_near (high : NW ≤ tagVa s f) (at_ : s.nearLoc (tagVa s f) 8 = .ok (h, off))
    (buf : s.checkBuf h off 8 (tagVa s f) f.need.wr = .ok ())
    (data : f.need.rd = true → s.checkData (tagVa s f) ⟨.local_ h, localKey h off⟩ 8 true = .ok ()) (now : s.now.defer = false)
    (free : s.canWrite ⟨.local_ h, localKey h off⟩ 8 f.sem (s.scopeOf f.xs) = true)
    (none : (s.core h).tagHead off = none) : exec i s = s.run (tagRest s f h off (s.tagTry h off f.op)) :=
  exec_of_issue form ((all_ok (semScope_tag ok) (if_pos (beq_iff_eq.2 even)) (if_pos (decide_eq_true high))).trans
    ((bind_ok at_).trans ((both_ok buf ((ite_congr rfl data fun _x => rfl).trans (ite_self _))).trans
      ((if_neg (ne_true_of_eq_false ((congrArg₂ (· || !·) now free).trans rfl))).trans
        (congrArg (fun t : State => tagRest s f h off (t.tagTry h off f.op)) (tagSettle_of_none none))))))

end

theorem tagWait_of_tagStep {s u : State} {op : TagOp} (step : TagStep s u h off op) : (u.core h).tagWait = (s.core h).tagWait :=
  (congrArg Core.tagWait (step.1.2.1 h)).trans rfl

theorem tagRest_performs (form : tagForm i s = some f) (none : (s.core h).tagHead off = none)
    (may : ∀ b, tagNeeds f.op = some b → (s.core h).tagFull (off / 8) = b) :
    ∃ u, TagStep s u h off f.op ∧ s.run (tagRest s f h off (s.tagTry h off f.op)) = .next (u.endLong f.l (formWrites s h off f)) :=
  ⟨_, tagStep_acquired (tagStep_tagged s h off f.op) (semAcq f.sem) s.now.h (s.scopeOf f.xs),
    (congrArg (fun r => s.run (tagRest s f h off r)) (tagTry_of_may may)).trans (congrArg₂ (fun (u : State) (ws : List RegWrite) => (.next (u.endLong f.l ws) : Out))
      (tagSettle_of_none ((congrArg (List.find? fun w : TagWaiter => w.off == off)
        (tagWait_of_tagStep (tagStep_acquired (tagStep_tagged s h off f.op) (semAcq f.sem) s.now.h (s.scopeOf f.xs)))).trans none))
      ((isTagged i s).2 f form h off))⟩

/-- What a waiting tagged form leaves (R64). -/
theorem tagPosted_waits (s : State) (f : TagForm) (h off : Nat) :
    let t := (tagPosted s f h off).modCore h (relist ⟨off, s.now.h, s.now.k, s.serial⟩)
    SameBytes s t ∧ OthersSame s t ∧ (∃ e, e.id = s.serial ∧ e.kind = .tagged f.op ∧ t.cur.post = s.cur.post ++ [e]) ∧
      t.cur.pc = s.cur.pc + s.len ∧ (t.core h).tagWait = (s.core h).tagWait ++ [⟨off, s.now.h, s.now.k, s.serial⟩] :=
  have queued := enqueue_stay_queued s ⟨s.serial, f.sem, s.scopeOf f.xs, ⟨.local_ h, localKey h off⟩, .tagged f.op, 0⟩ f.l []
    (.tag (f.dest.elim .none fun d => .g d false))
  ⟨fun _x _y => rfl, queued.2.1, ⟨_, rfl, rfl, congrArg Ctx.post queued.2.2.2⟩, congrArg Ctx.pc queued.2.2.2,
    congrArg Core.tagWait (core_modCore_same ..)⟩

end

/-! ## The head of a waiting list -/

/-- A state with these contexts. -/
def withCtxs (s : State) (cs : SMap Ctx) : State := { s with ctxs := cs }

theorem find_filter_ne {α : Type} (l : List α) (f : α → Nat) (n : Nat) : (l.filter fun x => f x != n).find? (fun x => f x == n) = none :=
  List.find?_eq_none.2 fun _x listed => (bne_iff_ne.1 (List.mem_filter.1 listed).2 ∘ beq_iff_eq.1)

theorem entry_of_filter {c : Ctx} {l : List PEntry} {id : Nat} (is : c.post = l.filter fun e => e.id != id) : c.entry id = none :=
  (congrArg (List.find? fun e : PEntry => e.id == id) is).trans (find_filter_ne l PEntry.id id)

/-- A context whose entry has taken its step, with these writes for its instruction. -/
def stepped (id : Nat) (ws : List RegWrite) (c : Ctx) : Ctx :=
  { c with
    post := c.post.filter (fun e => e.id != id)
    out := c.out.map (fun o => if o.id = id then { o with writes := o.writes ++ ws, pend := .ready } else o) }

theorem dropL1_or {p : Prop} [Decidable p] (u : State) (h : Nat) : (if p then u.dropL1 h else u) = u ∨ (if p then u.dropL1 h else u) = u.dropL1 h :=
  (em p).elim (fun is => .inr (if_pos is)) fun is => .inl (if_neg is)

/-- An entry that has taken its step has left its context's post queue, with one L1 empty at most. -/
def Left (s t : State) (h k id : Nat) : Prop :=
  ∃ C, ((withCtxs s C).ctx h k).entry id = none ∧ (t = withCtxs s C ∨ t = (withCtxs s C).dropL1 h)

section
variable {s : State} {h k id : Nat} {ws : List RegWrite}

theorem post_stepped : ((s.modCtx h k (stepped id ws)).ctx h k).post = (s.ctx h k).post.filter fun e => e.id != id :=
  congrArg Ctx.post (ctx_modCtx_same s h k (stepped id ws))

theorem post_complete (t : State) : ((t.modCtx h k (Ctx.writes · ws)).ctx h k).post = (t.ctx h k).post :=
  (congrArg Ctx.post (ctx_modCtx_same t h k (Ctx.writes · ws))).trans (writes_post ..)

theorem complete_quiet (t : State) (quiet : ws.any RegWrite.coreWide = false) : t.complete h k ws = t.modCtx h k (Ctx.writes · ws) :=
  if_neg (ne_true_of_eq_false quiet)

/-- How a step ends by whether its instruction has completed already. -/
def finishWith (s : State) (h k id : Nat) (ws : List RegWrite) (gone : Bool) : State :=
  if (match (s.ctx h k).entry id with | some e => semAcq e.sem && beyondCore e.scope | none => false) = true then
    (if gone then (s.modCtx h k (stepped id ws)).complete h k ws else s.modCtx h k (stepped id ws)).dropL1 h
  else if gone then (s.modCtx h k (stepped id ws)).complete h k ws else s.modCtx h k (stepped id ws)

theorem finishEntry_left (s : State) (h k id : Nat) (quiet : ws.any RegWrite.coreWide = false) : Left s (s.finishEntry h k id ws) h k id := by
  show Left s (finishWith s h k id ws ((s.ctx h k).outOf id).isNone) h k id
  cases ((s.ctx h k).outOf id).isNone
  · exact ⟨_, entry_of_filter post_stepped, dropL1_or _ h⟩
  · exact ⟨_, entry_of_filter ((post_complete (s.modCtx h k (stepped id ws))).trans post_stepped),
      Eq.subst (motive := fun t => finishWith s h k id ws true = t ∨ finishWith s h k id ws true = t.dropL1 h)
        (complete_quiet (s.modCtx h k (stepped id ws)) quiet) (dropL1_or _ h)⟩

end

theorem tagWrites_quiet (dest : Dest) (x : Word) : (tagWrites dest x).any RegWrite.coreWide = false :=
  Dest.rec (motive := fun dest => (tagWrites dest x).any RegWrite.coreWide = false) (fun _n _b => rfl) (fun _n => rfl) (fun _n => rfl)
    (fun _n _b => rfl) (fun _n _b => rfl) (fun _n _b => rfl) (fun _n _a _b _c _d => rfl) (fun _n _a _b _c _d _e => rfl) (fun _n _a _b => rfl) rfl dest

section
variable {s : State} {h off : Nat} {w : TagWaiter} {e : PEntry} {op : TagOp}

/-- A tagged operation reads its word. -/
def readsWord (op : TagOp) : Bool := match op with | .ldf | .take => true | _ => false

/-- What a tagged operation does with the step that it can take, if any. -/
def stepWith (s : State) (h off : Nat) (op : TagOp) (c k id : Nat) (r : Option (State × Word)) : Option State :=
  match r with
  | none => none
  | some (t, x) =>
    if readsWord op && SMap.get s.poison false (localKey h off / 8) then
      some (s.killOut c k id (BitVec.ofNat 64 (s.backVa c ⟨.local_ h, localKey h off⟩)) 1#64)
    else some (t.finishEntry c k id (tagWrites ((s.ctx c k).tagDest id) x))

theorem tagStep_eq {r : Option (State × Word)} (c k id : Nat) (is : s.tagTry h off op = r) :
    s.tagStep h off op c k id = stepWith s h off op c k id r := congrArg (stepWith s h off op c k id) is

theorem of_readsWord (reads : readsWord op = true) : op = .ldf ∨ op = .take := by
  cases op with
  | ldf => exact .inl rfl
  | take => exact .inr rfl
  | ste _x => exact absurd reads Bool.false_ne_true
  | stf _x => exact absurd reads Bool.false_ne_true
  | clr => exact absurd reads Bool.false_ne_true
  | rd => exact absurd reads Bool.false_ne_true

theorem stepWith_some {t : State} {x : Word} (sound : op = .ldf ∨ op = .take → SMap.get s.poison false (localKey h off / 8) = false)
    (c k id : Nat) : stepWith s h off op c k id (some (t, x)) = some (t.finishEntry c k id (tagWrites ((s.ctx c k).tagDest id) x)) :=
  if_neg fun bad => ne_true_of_eq_false (sound (of_readsWord (Bool.and_eq_true_iff.1 bad).1)) (Bool.and_eq_true_iff.1 bad).2

/-- What the obligation says of a head that has performed. -/
def Performed (s t : State) (h off : Nat) (op : TagOp) (w : TagWaiter) : Prop :=
  (t.core h).tagWait = (s.core h).tagWait.erase w ∧
    (∀ j, (t.core h).tagFull j = if j = off / 8 then tagLeaves op ((s.core h).tagFull (off / 8)) else (s.core h).tagFull j) ∧
    (match tagStores op with
      | some x => StoredAt s t ⟨.local_ h, localKey h off⟩ (leBytes 8 x.toNat)
      | none => SameBytes s t) ∧
    (t.ctx w.h w.k).entry w.id = none

theorem performed_of_tagStep {u : State} (step : TagStep s u h off op) (C : SMap Ctx) (left : ((withCtxs u C).ctx w.h w.k).entry w.id = none) :
    Performed s ((withCtxs u C).modCore h (unlist w)) h off op w :=
  have core := core_modCore_same (withCtxs u C) h (unlist w)
  ⟨(congrArg Core.tagWait core).trans (congrArg (List.erase · w) (tagWait_of_tagStep (u := u) step)),
    fun j => (congrArg (Core.tagFull · j) core).trans (step.2.2.1 j), step.2.2.2, left⟩

theorem performed_of_left {t : State} (left : Left (tagged s h off op) t w.h w.k w.id) : Performed s (t.modCore h (unlist w)) h off op w :=
  left.elim fun C left => left.2.elim (fun is => is ▸ performed_of_tagStep (tagStep_tagged s h off op) C left.1)
    fun is => is ▸ performed_of_tagStep (tagStep_dropL1 (tagStep_tagged s h off op) w.h) C left.1

variable (head : (s.core h).tagHead off = some w) (entry : (s.ctx w.h w.k).entry w.id = some e) (kind : e.kind = .tagged op)
include head entry kind

theorem exec_of_head {r : Option State} (is : s.tagStep h off op w.h w.k w.id = r) :
    exec (.evTagWaiterPerform h off) s = .next ((r.map fun t => t.modCore h (unlist w)).getD s) :=
  congrArg (fun r : Option State => (.next (r.getD s) : Out)) (Eq.trans (congrArg (headStep s h off) head) (Eq.trans (congrArg (entryStep s h off w) entry)
    (Eq.trans (congrArg (kindStep s h off w) kind) (congrArg (Option.map fun t : State => t.modCore h (unlist w)) is))))

theorem performs (may : ∀ b, tagNeeds op = some b → (s.core h).tagFull (off / 8) = b)
    (sound : op = .ldf ∨ op = .take → SMap.get s.poison false (localKey h off / 8) = false) :
    Leads (exec (.evTagWaiterPerform h off) s) fun t => Performed s t h off op w :=
  leads_of_eq (exec_of_head head entry kind ((tagStep_eq w.h w.k w.id (tagTry_of_may may)).trans (stepWith_some sound w.h w.k w.id)))
    (performed_of_left (finishEntry_left _ _ _ _ (tagWrites_quiet _ _)))

theorem waits_of_not {b : Bool} (needs : tagNeeds op = some b) (other : (s.core h).tagFull (off / 8) = !b) :
    exec (.evTagWaiterPerform h off) s = .next s :=
  exec_of_head head entry kind (tagStep_eq w.h w.k w.id (tagTry_of_not needs other))

end

/-- Settles O21. -/
theorem taggedAccesses : Obligations.TaggedAccesses := by
  refine ⟨?_, ?_⟩
  · intro i s f h off form va ok
    exact ⟨fun odd => traps_of_raise (exec_of_misaligned form ok odd), fun even low => traps_of_raise (exec_of_low form ok even low),
      fun even high at_ buf data now free none =>
      ⟨fun may => (tagRest_performs form none may).imp fun _u done =>
        ⟨done.1, leads_of_eq ((exec_of_near form ok even high at_ buf data now free none).trans done.2) (endLong_ended ..)⟩,
      fun _b needs other => leads_of_eq ((exec_of_near form ok even high at_ buf data now free none).trans
        (congrArg (fun r => s.run (tagRest s f h off r)) (tagTry_of_not needs other))) (tagPosted_waits s f h off)⟩⟩
  · intro h off s w e op head entry kind
    exact ⟨performs head entry kind, fun found => found.elim fun _b not => waits_of_not head entry kind not.1 not.2⟩

end Sys2Proof.Proofs
end

section
/-! Macro banks: `mcld` and `mctab` (R95 .. R97, R258, R259). -/

namespace Sys2Proof.Proofs

open Sys2Proof.Machine Sys2Proof.Safety Sys2Proof.Laws

/-! ## Digits of images -/

/-- The number whose base-`B` digits are these of the bytes, lowest first. -/
def digits (f : Byte → Nat) (B : Nat) (l : List Byte) : Nat := l.foldr (fun b a => f b + B * a) 0

theorem leNat_eq_digits (l : List Byte) : leNat l = digits BitVec.toNat 256 l :=
  List.rec rfl (fun b _l ih => congrArg (fun a => b.toNat + 256 * a) ih) l

theorem digit_eq {f : Byte → Nat} {B : Nat} (low : ∀ b, f b < B) (zero : f 0#8 = 0) (q : Nat) (l : List Byte) :
    digits f B l / B ^ q % B = f (l.getD q 0#8) := by
  induction l generalizing q with
  | nil => exact ((congrArg (· % B) (Nat.zero_div _)).trans (Nat.zero_mod B)).trans zero.symm
  | cons b l ih =>
    cases q with
    | zero => exact (congrArg (· % B) (Nat.div_one _)).trans ((Nat.add_mul_mod_self_left ..).trans (Nat.mod_eq_of_lt (low b)))
    | succ q =>
      have rest : digits f B (b :: l) / B = digits f B l :=
        (Nat.add_mul_div_left _ _ (Nat.zero_lt_of_lt (low b))).trans ((congrArg (· + _) (Nat.div_eq_of_lt (low b))).trans (Nat.zero_add _))
      rw [Nat.pow_succ', ← Nat.div_div_eq_div_mul, rest]
      exact ih q

theorem digits_lt {f : Byte → Nat} {B : Nat} (low : ∀ b, f b < B) (l : List Byte) : digits f B l < B ^ l.length := by
  induction l with
  | nil => exact Nat.one_pos
  | cons b l ih =>
    calc f b + B * digits f B l < B + B * digits f B l := Nat.add_lt_add_right (low b) _
      _ = B * (digits f B l + 1) := (Nat.add_comm ..).trans (Nat.mul_succ ..).symm
      _ ≤ B * B ^ l.length := Nat.mul_le_mul_left B ih
      _ = B ^ (l.length + 1) := (Nat.pow_succ' ..).symm

/-- The entry of a table. -/
theorem get_table {α : Type} {f : Nat → α} {d : α} {k a n : Nat} (from_ : a ≤ k) (below : k < a + n) :
    SMap.get ((List.range' a n).map fun i => (i, f i)) d k = f k := by
  induction n generalizing a with
  | zero => exact absurd below (Nat.not_lt.2 from_)
  | succ n ih =>
    by_cases is : a = k
    · exact (if_pos is).trans (congrArg f is)
    · exact (if_neg is).trans (ih (Nat.lt_of_le_of_ne from_ is) ((Nat.succ_add_eq_add_succ a n).symm ▸ below))

theorem get_range {α : Type} {f : Nat → α} {d : α} {k n : Nat} (below : k < n) :
    SMap.get ((List.range n).map fun i => (i, f i)) d k = f k := by
  rw [List.range_eq_range']
  exact get_table (Nat.zero_le k) ((Nat.zero_add n).symm ▸ below)

theorem getD_take_drop (l : List Byte) (a : Nat) {n q : Nat} (below : q < n) : ((l.drop a).take n).getD q 0#8 = l.getD (a + q) 0#8 := by
  rw [List.getD_eq_getElem?_getD, List.getElem?_take_of_lt below, List.getElem?_drop, ← List.getD_eq_getElem?_getD]

/-- A code of a row of 128 bits. -/
theorem code_of_row {x y : Nat} (n : Nat) (small : x < 2 ^ 128) (is : x / 16 ^ n % 16 = y) : (BitVec.ofNat 128 x).toNat / 16 ^ n % 16 = y := by
  rw [BitVec.toNat_ofNat, Nat.mod_eq_of_lt small]
  exact is

theorem half_digit (x n : Nat) : x / 16 ^ n % 16 = x / 256 ^ (n / 2) % 256 / 16 ^ (n % 2) % 16 := by
  have split : 16 ^ n = 256 ^ (n / 2) * 16 ^ (n % 2) := by
    rw [show 256 = 16 ^ 2 from rfl, ← Nat.pow_mul, ← Nat.pow_add, Nat.div_add_mod]
  rw [split, ← Nat.div_div_eq_div_mul]
  generalize x / 256 ^ (n / 2) = y
  rcases Nat.mod_two_eq_zero_or_one n with is | is
  · rw [is, Nat.pow_zero, Nat.div_one, Nat.div_one, Nat.mod_mod_of_dvd y (by decide)]
  · rw [is, Nat.pow_one, show 256 = 16 * 16 from rfl, Nat.mod_mul_right_div_self, Nat.mod_mod]

/-! ## Banks -/

section
variable (c : Core) (m : MReg)

theorem mreg_cases : m = 0#1 ∨ m = 1#1 := by revert m; decide

/-- The other bank of a pair of kind `i8` holds nothing once one of them is loaded alone. -/
def unpaired (b : Bank) : Bank := { b with kind := if b.kind = 3 then 0 else b.kind }

/-- A core whose bank is about to be loaded alone. -/
def unpair : Core := if (c.bankOf (~~~m)).kind = 3 then c.setBank (~~~m) { c.bankOf (~~~m) with kind := 0 } else c

theorem bankOf_setBank (b : Bank) : (c.setBank m b).bankOf m = b ∧ (c.setBank m b).bankOf (~~~m) = c.bankOf (~~~m) ∧
    (c.setBank (~~~m) b).bankOf m = c.bankOf m ∧ (c.setBank (~~~m) b).bankOf (~~~m) = b := by
  rcases mreg_cases m with rfl | rfl
  · exact ⟨rfl, rfl, rfl, rfl⟩
  · exact ⟨rfl, rfl, rfl, rfl⟩

theorem bankOf_unpair : (unpair c m).bankOf m = c.bankOf m ∧ (unpair c m).bankOf (~~~m) = unpaired (c.bankOf (~~~m)) := by
  by_cases pair : (c.bankOf (~~~m)).kind = 3
  · rw [unpair, unpaired, if_pos pair, if_pos pair]
    exact (bankOf_setBank c m _).2.2
  · rw [unpair, unpaired, if_neg pair, if_neg pair]
    exact ⟨rfl, rfl⟩

/-- A bank loaded alone. -/
theorem bankOf_loaded (f : Bank → Bank) : ((unpair c m).setBank m (f ((unpair c m).bankOf m))).bankOf m = f (c.bankOf m) ∧
    ((unpair c m).setBank m (f ((unpair c m).bankOf m))).bankOf (~~~m) = unpaired (c.bankOf (~~~m)) :=
  ⟨(bankOf_setBank ..).1.trans (congrArg f (bankOf_unpair c m).1), (bankOf_setBank ..).2.1.trans (bankOf_unpair c m).2⟩

end

section
variable {img : List Byte} {k n : Nat}

theorem toNat_lt_256 (b : Byte) : b.toNat < 256 := b.isLt

theorem chunk_lt {f : Byte → Nat} {B : Nat} (low : ∀ b, f b < B) (pos : 0 < B) (l : List Byte) (a n : Nat) : digits f B ((l.drop a).take n) < B ^ n :=
  (digits_lt low _).trans_le (Nat.pow_le_pow_right pos ((List.length_take ..).trans_le (Nat.min_le_left ..)))

/-- The codes of a bank of kind `c` or `x` (R96). -/
theorem code_imageRows (row : k < 128) (col : n < 32) :
    (SMap.get (imageRows img) 0#128 k).toNat / 16 ^ n % 16 = imageCode img k n := by
  rw [show SMap.get (imageRows img) 0#128 k = _ from get_range row, leNat_eq_digits]
  refine code_of_row n (chunk_lt toNat_lt_256 (by decide) img (16 * k) 16) ?_
  rw [half_digit, digit_eq toNat_lt_256 rfl, getD_take_drop _ _ (Nat.div_lt_of_lt_mul col)]
  rfl

/-- A nibble of a byte of an INT8 image. -/
def nibble (hi : Bool) (b : Byte) : Nat := if hi then b.toNat / 16 else b.toNat % 16

theorem nibble_lt (hi : Bool) (b : Byte) : nibble hi b < 16 := by
  cases hi
  · exact Nat.mod_lt _ (by decide)
  · exact Nat.div_lt_of_lt_mul b.isLt

theorem code_nibbleRows (hi : Bool) (row : k < 128) (col : n < 32) :
    (SMap.get (nibbleRows hi img) 0#128 k).toNat / 16 ^ n % 16 = nibble hi (img.getD (32 * k + n) 0#8) := by
  rw [show SMap.get (nibbleRows hi img) 0#128 k = BitVec.ofNat 128 (digits (nibble hi) 16 ((img.drop (32 * k)).take 32)) from get_range row]
  refine code_of_row n (chunk_lt (nibble_lt hi) (by decide) img (32 * k) 32) ?_
  rw [digit_eq (nibble_lt hi) (by cases hi <;> rfl), getD_take_drop _ _ col]

theorem scale_imageScales {base j : Nat} (col : n < 32) (block : j < 4) :
    (SMap.get (imageScales (img.drop base)) 0x100#16 (4 * n + j)).toNat % 512 = imageScale img base n j := by
  have below : 4 * n + j < 128 := (Nat.add_lt_add_left block (4 * n)).trans_le (Nat.mul_le_mul_left 4 col)
  rw [show SMap.get (imageScales (img.drop base)) 0x100#16 (4 * n + j) = _ from get_range below, BitVec.toNat_ofNat, List.drop_drop]
  rw [Nat.mod_mod_of_dvd _ (by decide), Nat.mod_mod]
  rfl

end

/-! ## Reads of own local memory -/

/-- A core with these reads. -/
def withReads (c : Core) (seen : List Seen) (newer : List (Nat × Nat)) : Core := { c with seen := seen, newer := newer }

/-- What is only read leaves all but what contexts have read. -/
def Reads (s t : State) : Prop := t = withCores s t.cores ∧ ∀ h, ∃ a b, t.core h = withReads (s.core h) a b

section
variable {s t : State}

theorem reads_refl (s : State) : Reads s s := ⟨rfl, fun _h => ⟨_, _, rfl⟩⟩

theorem reads_modCore (reads : Reads s t) (g : Nat) (f : Core → List Seen) (q : Core → List (Nat × Nat)) :
    Reads s (t.modCore g fun c => withReads c (f c) (q c)) := by
  refine ⟨(congrArg (withCores · (t.modCore g fun c => withReads c (f c) (q c)).cores) reads.1).trans rfl, fun h => ?_⟩
  by_cases is : g = h
  · exact is ▸ (reads.2 g).elim fun a found => found.elim fun b at_ =>
      ⟨_, _, (core_modCore_same t g _).trans ((congrArg (fun c => withReads c (f (t.core g)) (q (t.core g))) at_).trans rfl)⟩
  · exact (reads.2 h).imp fun _a found => found.imp fun _b at_ => (core_modCore_other t _ is).trans at_

theorem reads_readLocal (reads : Reads s t) (h k id : Nat) (es : List PEntry) (g : Nat) (p : Nat × Nat) :
    Reads s ((t.takeCopy (.local_ g) p.1).hasRead h k id es ⟨.local_ g, p.1⟩ p.2) :=
  reads_modCore (reads_modCore reads h (fun c => c.seen ++ (c.readsOf k es p.1 p.2).map fun w => (⟨k, id, w⟩ : Seen)) Core.newer) h Core.seen
    fun c => c.newer ++ []

theorem cachesOnly_withCores {cs : SMap Core} (kept : ∀ h, ∃ a b, (withCores s cs).core h = withReads (s.core h) a b) : CachesOnly s (withCores s cs) :=
  ⟨⟨rfl, fun h => (kept h).elim fun _a found => found.elim fun _b at_ => Eq.subst (motive := CoreKept (s.core h)) at_.symm rfl, fun _d => rfl⟩,
    rfl, fun _g _low => rfl, fun _sp _a => rfl⟩

theorem cachesOnly_of_reads (reads : Reads s t) : CachesOnly s t := reads.1.symm ▸ cachesOnly_withCores (cs := t.cores) reads.2

end

section
variable (s : State) (h : Nat) (es : List PEntry) (sp : Space)

theorem seeBytes_append (a m n : Nat) : s.seeBytes h es sp a (m + n) = s.seeBytes h es sp a m ++ s.seeBytes h es sp (a + m) n := by
  induction m generalizing a with
  | zero => exact congrArg (s.seeBytes h es sp a) (Nat.zero_add n)
  | succ m ih =>
    rw [Nat.succ_add]
    exact congrArg (s.seeByte h es sp a :: ·) ((ih (a + 1)).trans (congrArg (fun x => _ ++ s.seeBytes h es sp x n) (Nat.succ_add_eq_add_succ a m)))

theorem seeBytes_length (a n : Nat) : (s.seeBytes h es sp a n).length = n := by
  induction n generalizing a with
  | zero => rfl
  | succ n ih => exact congrArg (· + 1) (ih (a + 1))

theorem seeBytes_listed {a n j : Nat} {b : Byte} (listed : (s.seeBytes h es sp a n)[j]? = some b) : b = s.seeByte h es sp (a + j) := by
  induction n generalizing a j with
  | zero => exact absurd listed.symm (Option.some_ne_none b)
  | succ n ih =>
    cases j with
    | zero => exact (Option.some.inj listed).symm
    | succ j => exact (ih listed).trans (congrArg (s.seeByte h es sp) (Nat.succ_add_eq_add_succ a j))

end

theorem look_ownGranules (s : State) (off n : Nat) : ((List.range n).map fun i => (s.ownLoc (off + 8 * i), 8)).flatMap (fun p => s.look p.1 p.2) =
    s.seeBytes s.now.h s.cur.post (.local_ s.now.h) (localKey s.now.h off) (8 * n) := by
  induction n with
  | zero => rfl
  | succ n ih =>
    rw [List.range_succ, List.map_append, List.flatMap_append, ih, Nat.mul_succ, seeBytes_append]
    exact congrArg (_ ++ ·) ((List.append_nil _).trans (congrArg (s.seeBytes s.now.h s.cur.post (.local_ s.now.h) · 8) (Nat.add_assoc ..).symm))

theorem reads_ownGranules (s : State) (id off n : Nat) : Reads s (s.readParts id (s.ownGranules off n)) := by
  suffices all : ∀ (l : List Nat) (t : State), Reads s t → Reads s ((l.map fun i => (s.ownLoc (off + 8 * i), 8)).foldl
      (fun t p => (t.takeCopy p.1.space p.1.at_).hasRead s.now.h s.now.k id s.cur.post p.1 p.2) t) from all _ s (reads_refl s)
  intro l
  induction l with
  | nil => exact fun _t reads => reads
  | cons i l ih => exact fun _t reads => ih _ (reads_readLocal reads _ _ _ _ _ (localKey s.now.h (off + 8 * i), 8))

/-- A load of own local memory that may be satisfied at once (R253). -/
theorem loadParts_own {s : State} {off n : Nat} (l : BitVec 4) (dest : Dest) (now : s.now.defer = false)
    (free : ∀ j < n / 8, s.canLoad (ownAt s (off + 8 * j)) 8 = true) :
    ∃ u, CachesOnly s u ∧ s.loadParts l 0#2 0#64 dest (s.ownGranules off n) =
      u.endLong l (dest.build (s.seeBytes s.now.h s.cur.post (.local_ s.now.h) (localKey s.now.h off) (8 * (n / 8)))) := by
  refine ⟨_, cachesOnly_of_reads (reads_ownGranules s s.serial off n), (if_pos ?_).trans (congrArg (fun bs => State.endLong _ l (dest.build bs)) (look_ownGranules s off (n / 8)))⟩
  rw [now, State.ownGranules, List.all_map]
  exact List.all_eq_true.2 fun j listed => free j (List.mem_range.1 listed)

/-! ## `mcld` -/

section
variable {o : McldOps} {s : State} {off : Nat}

theorem imageBytes_eq (k : Nat) : imageBytes k = ([2048, 2304] : List Nat).getD k 4352 :=
  Nat.casesOn (motive := fun k => imageBytes k = ([2048, 2304] : List Nat).getD k 4352) k rfl fun k =>
    Nat.casesOn (motive := fun k => imageBytes (k + 1) = ([2048, 2304] : List Nat).getD (k + 1) 4352) k rfl fun _k => rfl

theorem imageBytes_granules (k : Nat) : 8 * (imageBytes k / 8) = imageBytes k :=
  Nat.casesOn (motive := fun k => 8 * (imageBytes k / 8) = imageBytes k) k rfl fun k =>
    Nat.casesOn (motive := fun k => 8 * (imageBytes (k + 1) / 8) = imageBytes (k + 1)) k rfl
      fun k => Eq.subst (motive := fun n => 8 * (n / 8) = n) (rfl : 4352 = imageBytes (k + 2)) rfl

theorem mcld_misaligned (odd : (s.g o.a).toNat % 128 ≠ 0) : Traps (.mcld o) s 4 (s.g o.a) 7 :=
  traps_of_raise (c := .misalign) ((run_must ..).trans ((if_neg (mt beq_iff_eq.1 odd)).trans
    (congrArg (fun a => Host.Outcome.next (s.raise .misalign a 7)) ((BitVec.ofNat_toNat ..).trans (BitVec.setWidth_eq _)))))

theorem ownRange_of_access {va n : Nat} (access : OwnAccess s va n off true false) : s.ownRange va n true false = .ok off :=
  (bind_ok ((bind_ok access.1).trans (bind_ok (if_pos (beq_self_eq_true _))))).trans (both_ok access.2.1 (access.2.2 rfl))

variable (even : (s.g o.a).toNat % 128 = 0)
include even

theorem mcld_badBank {w : IWord} (pair : o.kind = 2#2) (second : o.d ≠ 0#1) (base : s.now.words.getLast? = some w) :
    Traps (.mcld o) s 1 (s.cur.pc + BitVec.ofNat 64 (2 * (s.now.words.length - 1)))
      (BitVec.ofNat 64 (w.toNat * 2 ^ 16 + (s.now.words.length - 1) * 256 + 9)) := by
  have word : s.now.words.getLastD 0#16 = w := (List.getLastD_eq_getLast? ..).trans (congrArg (Option.getD · 0#16) base)
  exact word ▸ traps_of_raise (c := .illegal) ((run_must ..).trans ((if_pos (beq_iff_eq.2 even)).trans ((run_must ..).trans (if_neg fun good =>
    (Bool.or_eq_true_iff.1 good).elim (fun other => bne_iff_ne.1 other pair) fun first => second (beq_iff_eq.1 first)))))

theorem exec_mcld (first : o.kind = 2#2 → o.d = 0#1) (access : OwnAccess s (s.g o.a).toNat (imageBytes o.kind.toNat) off true false) :
    exec (.mcld o) s = .next (s.loadParts o.l 0#2 0#64 (.bank o.d o.kind.toNat) (s.ownGranules off (imageBytes o.kind.toNat))) :=
  (run_must ..).trans ((if_pos (beq_iff_eq.2 even)).trans ((run_must ..).trans ((if_pos (Bool.or_eq_true_iff.2 (or_iff_not_imp_left.2 fun pair =>
    beq_iff_eq.2 (first (not_not.1 (mt bne_iff_ne.2 pair)))))).trans (congrArg s.run (bind_ok (ownRange_of_access access))))))

theorem mcld_loads {n : Nat} (is : imageBytes o.kind.toNat = n) (first : o.kind = 2#2 → o.d = 0#1)
    (access : OwnAccess s (s.g o.a).toNat n off true false) (now : s.now.defer = false)
    (free : ∀ j < n / 8, s.canLoad (ownAt s (off + 8 * j)) 8 = true) :
    ∃ (u : State) (img : List Byte), CachesOnly s u ∧ img.length = n ∧ (∀ j b, img[j]? = some b → b = seesLocal s s.now.h (off + j)) ∧
      Leads (exec (.mcld o) s) (fun t => Ended u t o.l [.bank o.d o.kind.toNat img]) := by
  subst is
  exact (loadParts_own o.l (.bank o.d o.kind.toNat) now free).imp fun u loaded =>
    ⟨_, loaded.1, (seeBytes_length ..).trans (imageBytes_granules _),
      fun _j _b listed => (seeBytes_listed s _ _ _ listed).trans (congrArg (s.seeByte s.now.h s.cur.post (.local_ s.now.h)) (Nat.add_assoc ..)),
      leads_of_eq ((exec_mcld even first access).trans (congrArg Host.Outcome.next loaded.2)) (endLong_ended ..)⟩

end

/-! ## `mctab` -/

section
variable (c : Core) (m : MReg) (b : Bank)

theorem setBank_only : c.setBank m b = { c with bank0 := (c.setBank m b).bank0, bank1 := (c.setBank m b).bank1 } := by
  rcases mreg_cases m with rfl | rfl
  · rfl
  · rfl

theorem lane_of_table (v : Vec) {k : Nat} (lane : k < 16) : laneAt 16 ((v.setWidth 256).setWidth 1024) k = laneAt 16 v k := by
  have room : 16 ≤ 256 - 16 * k := Nat.le_sub_of_add_le' (Nat.mul_le_mul_left 16 lane)
  have inside : v.toNat % 2 ^ 256 / 2 ^ (16 * k) % 2 ^ 16 = v.toNat / 2 ^ (16 * k) % 2 ^ 16 := by
    rw [show 2 ^ 256 = 2 ^ (16 * k) * 2 ^ (256 - 16 * k) by rw [← Nat.pow_add, Nat.add_sub_cancel' (Nat.mul_le_mul_left 16 lane.le)], Nat.mod_mul_right_div_self,
      Nat.mod_mod_of_dvd _ (Nat.pow_dvd_pow 2 room)]
  rw [laneAt, BitVec.toNat_setWidth_of_le (by decide), BitVec.toNat_setWidth]
  exact inside

end

/-- A bank with this code table. -/
def retabled (b : Bank) (table : BitVec 256) : Bank := { b with table := table }

/-- A core whose bank takes the code table of a register. -/
def withTable (m : MReg) (v : Vec) (c : Core) : Core := c.setBank m (retabled (c.bankOf m) (v.setWidth 256))

theorem bankOf_withTable (m : MReg) (v : Vec) (c : Core) : (withTable m v c).bankOf m = retabled (c.bankOf m) (v.setWidth 256) := (bankOf_setBank ..).1

theorem mctab_only (s : State) (o : MctabOps) : (s.modMe (withTable o.d (s.v o.a))).me =
    { s.me with bank0 := (s.modMe (withTable o.d (s.v o.a))).me.bank0, bank1 := (s.modMe (withTable o.d (s.v o.a))).me.bank1 } := by
  rw [me_modMe]
  exact setBank_only ..

theorem mctab_bank (s : State) (o : MctabOps) : let u := s.modMe (withTable o.d (s.v o.a))
    u.me.bankOf (~~~o.d) = s.me.bankOf (~~~o.d) ∧ u.me.bankOf o.d = { s.me.bankOf o.d with table := (u.me.bankOf o.d).table } ∧
      ∀ k < 16, laneAt 16 ((u.me.bankOf o.d).table.setWidth 1024) k = laneAt 16 (s.v o.a) k := by
  dsimp only
  rw [me_modMe]
  have at_ := bankOf_withTable o.d (s.v o.a) s.me
  exact ⟨(bankOf_setBank ..).2.1, at_.trans (congrArg (retabled (s.me.bankOf o.d)) (congrArg Bank.table at_).symm), fun k lane =>
    (congrArg (fun b : Bank => laneAt 16 (b.table.setWidth 1024) k) at_).trans (lane_of_table _ lane)⟩

/-- Settles O28. -/
theorem macroBanks : Obligations.MacroBanks := by
  refine ⟨?load, ?code, ?scaled, ?pair, ?table⟩
  case load =>
    intro o s off _kind va n
    exact ⟨mcld_misaligned, fun w even pair second base => mcld_badBank even pair second base, fun even first access now free =>
      mcld_loads even (imageBytes_eq _) first access now free⟩
  case code =>
    intro c m img _len c'
    have loaded := bankOf_loaded c m fun b => { b with codes := imageRows img, kind := 1 }
    exact ⟨congrArg Bank.kind loaded.1, (congrArg Bank.scales loaded.1).trans rfl, (congrArg Bank.table loaded.1).trans rfl,
      fun k row n col => (congrArg (bankCode · k n) loaded.1).trans (code_imageRows row col), loaded.2⟩
  case scaled =>
    intro c m img _len c'
    have loaded := bankOf_loaded c m fun b => { b with codes := imageRows img, scales := imageScales (img.drop 2048), kind := 2 }
    exact ⟨congrArg Bank.kind loaded.1, (congrArg Bank.table loaded.1).trans rfl,
      fun k row n col => (congrArg (bankCode · k n) loaded.1).trans (code_imageRows row col),
      fun n col j block => (congrArg (bankScale · n j) loaded.1).trans (scale_imageScales col block), loaded.2⟩
  case pair =>
    intro c m img _len c'
    exact ⟨rfl, rfl, rfl, rfl, fun k row n col => ⟨code_nibbleRows false row col, code_nibbleRows true row col⟩,
      fun n col j block => ⟨scale_imageScales col block, scale_imageScales col block⟩⟩
  case table =>
    intro o s
    exact ⟨_, onlyCoreOf_setCore .., leads_of_eq rfl (endLong_ended ..), mctab_only s o, mctab_bank s o⟩

end Sys2Proof.Proofs
end
